-- ==== Sys2Proof/Word.lean ====
section
/-! DEFINITION. The byte type and the plainest helpers over fixed-length vectors.
Multi-byte formats, checks and bit fields are in Machine/Bits.lean. -/

namespace Sys2Proof

/-- One byte of a format of the tray (R5: every multi-byte field of the tray is little-endian). -/
abbrev Byte := BitVec 8

/-- The entry of `v` at `i`, or the default where `i` lies outside. -/
def vget {α : Type} [Inhabited α] {n : Nat} (v : Vector α n) (i : Nat) : α := (v[i]?).getD default

/-- `v` with the entry at `i` replaced; an index outside leaves `v` as it is. -/
def vset {α : Type} {n : Nat} (v : Vector α n) (i : Nat) (x : α) : Vector α n := v.setIfInBounds i x

/-- `v` with `f` applied to the entry at `i`. -/
def vmod {α : Type} [Inhabited α] {n : Nat} (v : Vector α n) (i : Nat) (f : α → α) : Vector α n :=
  vset v i (f (vget v i))

end Sys2Proof
end

