-- ==== Sys2Proof/Syntax.lean ====
section
/-! DEFINITION. The commands of the tray: one constructor per row of the opcode table (spec/opcode_table.json),
with the operands that the rules of the row name. A command is a happening at the tray's boundary (an SDO write, a
frame on a port, an edge on a pin) or a completion inside it (a round, a test, a timer). -/

namespace Sys2Proof

/-- The two field networks, numbered as R299 and OD 0x2021 number them: 0 EtherCAT, 1 CAN FD. -/
inductive Net where
  | ecat
  | can
deriving DecidableEq, Repr, Inhabited

/-- The number of a network in OD 0x2021, OD 0x2401:09 and the message of R299. -/
def Net.num : Net → Nat
  | .ecat => 0
  | .can => 1

/-- The other network. -/
def Net.other : Net → Net
  | .ecat => .can
  | .can => .ecat

/-- The level of an encoder input, and the time in 10 ns units for which it has lasted: its edge filter judges by that (R58). -/
structure Level where
  high : Bool
  held : Nat
deriving DecidableEq, Repr, Inhabited

/-- The three differential pairs of an encoder input (R56, R58). -/
inductive Pair where
  | a
  | b
  | z
deriving DecidableEq, Repr, Inhabited

/-- An angle event: event `e` of tenant `t` (R84), or the trigger of camera `k` (R121). -/
inductive EvRef where
  | tenant (t e : Nat)
  | camera (k : Nat)
deriving DecidableEq, Repr, Inhabited

/-- What the header ECC of a CSI-2 packet found (Table 3.6). -/
inductive Ecc where
  | ok
  | corrected
  | bad
deriving DecidableEq, Repr, Inhabited

/-- A reading of a temperature sensor in 0.1 °C (R538). -/
inductive Reading where
  | value (tenths : Int)
  | openWire
  | shorted
deriving DecidableEq, Repr, Inhabited

/-- A detected hardware error that a bank round or a descriptor meets (Table 12.1). -/
inductive Upset where
  /-- no error -/
  | none
  /-- 0x5101: Mill column residue (R152), with the fields of R156 and the tile -/
  | millResidue (tile column plane wplane : Nat)
  /-- 0x5102: accumulator residue (R153) at an entry -/
  | accResidue (entry : Nat)
  /-- 0x5103: the bank's epoch tag reads `epoch` (R280) -/
  | epochTag (epoch : Nat)
  /-- 0x5201: Commons entry residue (R170) in a table bank -/
  | commonsEntry (bank : Nat)
  /-- 0x5202: Commons slice residue (R170) in a table bank -/
  | commonsSlice (bank : Nat)
  /-- 0x5301: Smithy integer residue (R193) -/
  | smithyInt
  /-- 0x5302: Smithy significand residue (R193) -/
  | smithySig
deriving DecidableEq, Repr, Inhabited

/-- A unit of the tray that a targeted test may test (Table 12.2), named as Table 17.2 names it. -/
inductive UnitRef where
  | tile (chip cluster tile : Nat)
  | accBank (chip cluster bank : Nat)
  | commonsBank (chip cluster bank : Nat)
  | smithy (chip : Nat)
  | bellwether (chip : Nat)
  | granaryRow (chip bank row : Nat)
  | loftBank (chip bank : Nat)
  | byway (chip axis : Nat)
  | pcie (chip : Nat)
  | page (page : Nat)
  | reserve (page : Nat)
deriving DecidableEq, Repr, Inhabited

/-- How a targeted test ended: passed, or failed with the lanes found bad (Byway) or none. -/
inductive TestEnd where
  | pass
  | fail
  /-- a Byway link whose test found lane `l` bad and whose retraining then held (Example 12.1 case A) -/
  | badLane (l : Nat)
deriving DecidableEq, Repr, Inhabited

/-- The header fields of a received Moot frame that the receiver acts on (Table 11.2). -/
structure MootHdr where
  port : Nat
  src : Nat
  seq : Nat
  ack : Nat
  step : Nat
  unsequenced : Bool
  ackValid : Bool
  retrans : Bool
deriving DecidableEq, Repr, Inhabited

/-- The 16-byte payload prefix of PART, ROWS, SHADOW, RESTORE and CKPT (Table 11.3). -/
structure MootPre where
  layer : Nat
  shard : Nat
  replica : Nat
  content : Nat
  offset : Nat
  total : Nat
deriving DecidableEq, Repr, Inhabited

/-- A received datagram before it is judged (R377, R379): extension headers, UDP checksum, source address in network order,
destination port and payload. -/
structure Datagram where
  extHeader : Bool
  checksumOk : Bool
  source : List Byte
  dstPort : Nat
  bytes : List Byte
deriving DecidableEq, Repr, Inhabited

/-- A part of a fused reduction: the sum of squares as FP32 and the two counts with their origins (Table 11.3, FUSE). -/
structure FusePart where
  sigma : Nat
  overflow : Nat
  nonFinite : Nat
  overflowOrigin : Nat
  nonFiniteOrigin : Nat
deriving DecidableEq, Repr, Inhabited

/-- The payload of DECIDE (Table 11.3). -/
structure Decide where
  outcome : Nat
  sigma : Nat
  norm : Nat
  overflow : Nat
  nonFinite : Nat
  origin : Nat
deriving DecidableEq, Repr, Inhabited

/-- The commands: one constructor per row of the opcode table, in the table's order. -/
inductive Instr where
  -- power and start-up
  | supplyStart
  | railsRise
  | bootRomStart
  | firmwareImageVerify
  | firmwareStart
  | valuesLoaded
  | selfTestStart
  | storehouseInitComplete
  | chipRailsUp
  | linksTrained
  /-- `region`: none at start-up (every chip), or the chip and slot whose released region has been cleared -/
  | chipClearComplete (region : Option (Nat × Nat))
  | faultLogPlaced
  | selfTestEnd
  | trialBootTimeout
  -- tray commands
  | startWatching (net : Net)
  | stop (net : Net)
  | startLearning (net : Net)
  | stopLearning (net : Net)
  | pendingCommandEffect
  | enterService (net : Net)
  | leaveService (net : Net)
  | clearSafeHold (net : Net)
  | restart (net : Net)
  | trayCommandUnknown (net : Net) (code : Nat)
  | reeveWatchdog
  | lockstepMismatch
  -- spare chips and tiers
  | spareMapWrite (net : Net) (value : Nat)
  | tierBoundsWrite (net : Net) (sub value : Nat)
  | tierStepComplete (chip : Nat)
  | downwardTierStart (chip : Nat)
  | fallowReloadComplete (chip : Nat)
  | bellwetherCheckComplete (chip : Nat) (pass : Bool)
  -- field-network states
  | escRequestInit
  | escRequestPreop
  | escRequestSafeop
  | escRequestOp
  | escRequestBoot
  | nmtStartRemote
  | nmtStop
  | nmtEnterPreop
  | nmtResetNode
  | nmtResetCommunication
  -- shafts
  | shaftConfigWrite (net : Net) (shaft sub : Nat) (value : Int)
  /-- A and B after the edge, and Z as it stood before the edge (R553) -/
  | countedEdge (shaft : Nat) (a b z : Level)
  | noGoodReference (shaft : Nat)
  /-- A and B after they have changed together -/
  | illegalTransition (shaft : Nat) (a b : Level)
  | encoderPairFault (shaft : Nat) (pair : Pair)
  | encoderInputReturn (shaft : Nat) (pair : Pair)
  | inputLossExtrapolationEnd (shaft : Nat)
  | standstillTimeout (shaft : Nat)
  | eventHoldRelease (ev : EvRef)
  | timeSubstituteFire (ev : EvRef)
  | angleEventEnable (net : Net) (t e : Nat)
  | angleEventDisable (net : Net) (t e : Nat)
  | angleMessageSend (chip shaft : Nat)
  | angleMessageReceive (chip : Nat) (msg : List Byte)
  | mirrorStale (chip : Nat)
  | mirrorStaleFault (chip : Nat)
  -- sensors and cameras
  /-- one raw word per slot, and the length of the frame in bit clocks -/
  | tdmFrameReceive (port : Nat) (slots : List Nat) (bitClocks : Nat)
  | tdmClockLoss (port : Nat)
  /-- the sync rate measured over 1 024 TDM frames, in 0.01 Hz -/
  | tdmRateMeasurement (port rate : Nat)
  | resamplerFrameComplete (group : Nat)
  | stripTransferComplete (chip : Nat)
  | cameraResetRelease (cam : Nat)
  /-- the entry that was answered by a negative acknowledge, if any -/
  | cciSetupSend (cam : Nat) (nack : Option Nat)
  | triggerPulseEnd (cam : Nat)
  | csiFrameStart (cam vc : Nat)
  | csiLongPacket (cam vc dt : Nat) (ecc : Ecc) (crcOk : Bool) (payload : List Byte)
  | csiFrameEnd (cam vc : Nat)
  | captureTimeout (cam : Nat)
  -- jobs
  | jobEnable (net : Net) (t j : Nat)
  | jobDisable (net : Net) (t j : Nat)
  | pendingIssue (t : Nat)
  | speculativeIssue (t j : Nat)
  | descriptorIssue (chip issue : Nat)
  | bankRoundComplete (chip cluster bank : Nat) (upset : Upset)
  /-- `engine`: 1 Smithy, 2 Bellwether, 3 the move engine -/
  | descriptorComplete (chip engine : Nat) (upset : Upset)
  | handOffArrive (issue handOff : Nat)
  | wakeJobComplete (issue : Nat)
  | wakeHoldOverLapse (t j : Nat)
  | jobComplete (issue : Nat)
  | modelImageLoadComplete (chip slot : Nat)
  | weightPieceArrive (chip issue : Nat)
  -- tenants, sessions, slots
  | tenantCreate (net : Net) (t : Nat)
  | tenantSuspend (net : Net) (t : Nat)
  | tenantResume (net : Net) (t : Nat)
  | tenantDelete (net : Net) (t : Nat)
  | quotaWrite (net : Net) (t sub : Nat) (value : Nat)
  | publicKeyWrite (net : Net) (t : Nat) (key : List Byte)
  | challengeRead (net : Net) (t : Nat)
  | challengeExpiry (net : Net) (t : Nat)
  | authResponseWrite (net : Net) (t : Nat) (sig : List Byte)
  | authLockEnd (t : Nat)
  | endSession (net : Net) (t value : Nat)
  | sessionIdleTimeout (net : Net)
  | bundleKeyWrite (net : Net) (t : Nat) (wrapped : List Byte)
  | bundleDownloadComplete (slot : Nat)
  | slotAdmit (net : Net) (slot : Nat)
  | admissionComplete (slot : Nat)
  | slotEvict (net : Net) (slot : Nat)
  | slotMakeResident (net : Net) (slot : Nat)
  | slotMakeNonResident (net : Net) (slot : Nat)
  | slotDiscardStaged (net : Net) (slot : Nat)
  | sessionOpen (net : Net) (i : Nat)
  | sessionGenerate (net : Net) (i : Nat)
  | sessionStop (net : Net) (i : Nat)
  | sessionResetContext (net : Net) (i : Nat)
  | sessionClose (net : Net) (i : Nat)
  | tokenStepIssue (slot entry : Nat)
  | tokenStepComplete (issue : Nat)
  | labelWrite (net : Net) (sub : Nat) (data : List Byte)
  -- learning and the parish
  | gradientPartFold (layer shard : Nat)
  | parishEnable (net : Net)
  | helloSend
  | helloReceive (hdr : MootHdr) (digest role trayState : Nat)
  | heartbeatSend
  | heartbeatReceive (hdr : MootHdr) (trayState seat leader phase outcome checkpoint digest parishDigest : Nat)
  | peerHealthTimeout (peer : Nat)
  | leaderRecovery
  | seatFillTimeout
  | ferryLinkChange (port : Nat) (modulePresent blockLock duplicate : Bool)
  | mootFrameReject (port : Nat) (d : Datagram)
  | ackReceive (hdr : MootHdr) (map : Nat)
  | ackTimer (peer : Nat)
  | mootRetransmitTimer (peer seq : Nat)
  | bidReceive (hdr : MootHdr)
  | startReceive (hdr : MootHdr) (seatMap : List Nat) (q r : Nat)
  | partReceive (hdr : MootHdr) (pre : MootPre) (data : List Byte)
  | fuseReceive (hdr : MootHdr) (part : FusePart)
  | decideReceive (hdr : MootHdr) (d : Decide)
  | shadowReceive (hdr : MootHdr) (pre : MootPre) (data : List Byte)
  | readyReceive (hdr : MootHdr) (digest : Nat)
  | commitReceive (hdr : MootHdr)
  | rollbackReceive (hdr : MootHdr) (target : Nat) (seatMap : List Nat)
  | abortReceive (hdr : MootHdr) (code : Nat)
  | adoptReceive (hdr : MootHdr) (seat : Nat)
  | rowsReceive (hdr : MootHdr) (pre : MootPre) (data : List Byte)
  | restoreReceive (hdr : MootHdr) (pre : MootPre) (data : List Byte)
  | ckptReceive (hdr : MootHdr) (pre : MootPre) (data : List Byte)
  | ckptDoneReceive (hdr : MootHdr)
  | stepTimeout
  | replayStart (net : Net) (step : Nat)
  | replayReceive (hdr : MootHdr) (step ckpt kind result : Nat)
  /-- the first difference found (step, tray, chip, descriptor index), none where the replay matched -/
  | replayComplete (diff : Option (Nat × Nat × Nat × Nat))
  -- faults, tests, background
  | targetedTestComplete (u : UnitRef) (e : TestEnd)
  /-- the units that the test found faulty; none found is a pass -/
  | wholeChipTestComplete (chip : Nat) (bad : List UnitRef)
  | spareLoadComplete (chip : Nat)
  | granaryEccError (chip bank row : Nat) (uncorrectable : Bool) (issue : Option Nat)
  | loftEccError (chip bank word : Nat) (uncorrectable : Bool) (issue : Option Nat)
  | storehouseEccError (page : Nat) (uncorrectable : Bool) (issue : Option Nat)
  | storehouseErrorQuiet
  | bywayFlitError (chip axis : Nat) (issue : Option Nat)
  | pcieLinkError (chip : Nat) (issue : Option Nat)
  /-- `ceiling`: the ceiling fired and not the nominal count (R419) -/
  | bywayHandoffTimer (chip axis : Nat) (issue : Nat) (ceiling : Bool)
  | pcieDmaTimer (chip : Nat) (issue : Nat) (ceiling : Bool)
  | almanacRelock (chip : Nat)
  | marginTuningStart (chip cluster : Nat)
  | marginTuningForce (chip cluster : Nat)
  /-- the trim found in mV, none where no margin is found at +25 mV -/
  | marginTuningComplete (chip cluster : Nat) (trim : Option Int)
  | commonsSelfCheck (chip cluster bank : Nat) (matches_ : Bool)
  | telemetrySample (chip : Nat) (idleCycle : Bool)
  | faultLogClear (net : Net) (value : Nat)
  -- field network
  | controllingNetworkWrite (net : Net) (value : Nat)
  | odWrite (net : Net) (index sub : Nat) (data : List Byte)
  | completeAccessWrite (net : Net) (index : Nat) (parts : List (Nat × List Byte))
  | sdoInitiate (net : Net) (upload : Bool) (index sub size : Nat)
  | sdoSegment (net : Net) (toggle last : Bool) (data : List Byte)
  | sdoSegmentTimeout (net : Net)
  | foeBundleWrite (slot : Nat) (data : List Byte)
  | firmwareDownloadComplete (net : Net) (image : List Byte)
  | pdoMappingWrite (net : Net) (index sub value : Nat)
  | tpdoCommWrite (net : Net) (index sub value : Nat)
  | rxpdoReceive (net : Net) (mapping : Nat) (data : List Byte)
  | txpdoLatch (net : Net)
  | tpdoInhibitExpiry (i : Nat)
  | tpdoEventTimer (i : Nat)
  | canSyncReceive
  | sm2WatchdogExpiry
  | sync0Loss
  | ethercatLinkLoss
  | canHeartbeatProduce
  | heartbeatConsumerReceive (node : Nat)
  | heartbeatConsumerTimeout
  | canBusOff
  | canBusOffRecovery
  | storeParameters (net : Net) (sub value : Nat)
  | restoreDefaults (net : Net) (sub value : Nat)
  -- outputs, supplies, thermal, power
  | outputSetEnable (net : Net) (t o : Nat)
  | outputSetDisable (net : Net) (t o : Nat)
  | digitalOutputOverload (i : Nat)
  | digitalOutputRetry (i : Nat) (holds : Bool)
  | doSupplyLoss
  | doSupplyReturn
  | externalSupplyTrip (connector : Nat)
  | externalSupplyRetry (connector : Nat) (holds : Bool)
  | plateTemperatureSample (plate : Reading) (dies : List Reading) (reeve : Reading)
  | supplyOutOfRange (high : Bool)
  | supplyEpisodeEnd
  | overvoltageDisconnect
  | railFault (rail chip : Nat)
  | powerFailWarning
  | powerFailRecordWritten (valid : Bool)
  | debugChallengeRead
  | debugUnlock (sig : List Byte)
  /-- blows fuse item 5 (owner key), 6 (wrapping key), 7 (debug lock) or 8 (security counter bits) -/
  | fuseProvision (item : Nat) (data : List Byte)
  /-- `ticks` consecutive updates of 10 ns -/
  | interpolationUpdate (ticks : Nat)
  | downwardTierComplete (chip : Nat)
  | gleanerScrubAccess (chip : Nat) (loft : Bool) (bank : Nat) (singleBit : Option Nat)
  /-- `page` in the reserve or in the Storehouse, with what the read found -/
  | storehousePatrolScrub (reserve : Bool) (page : Nat) (error : Option Bool)
  | inputSwitchClose
  | chipRailCycleComplete (chip : Nat)
  | foeFirmwareWrite (net : Net)
  | canErrorStateChange (passive : Bool)
  | checkpointOfRecordWritten
  | neighborDiscoveryReceive (port : Nat) (peer : Nat) (duplicate : Bool)
deriving DecidableEq, Repr

end Sys2Proof
end

