-- ==== Sys2Proof/Decode.lean ====
section
/-! DEFINITION. The reading of a word as a command. The opcode table of this hardware gives no row any bits: its commands
are happenings at the block's boundary and not words of a program. -/

namespace Sys2Proof

/-- The command that a word spells by the table's bits: no row of the table gives bits, so no word spells one. -/
def decodeTableWord (_nbits _w : Nat) : Option Instr := none

end Sys2Proof
end

