-- ==== Sys2Proof/Config.lean ====
section
/-! DEFINITION. What an implementation fixes, and the values that the spec leaves open. Every `opaque` constant here is a
free value: it has no body, so no proof can rest on a number for it (log entries 1, 4, 10 to 16, 66 and 94). -/

namespace Sys2Proof.Config

/-- The 16 bytes that the tray's random generator draws for a challenge (R299, R507): draw number `n`. Free. -/
opaque challengeByte : Nat → Nat → Byte

/-- A measured quantity that no rule computes (supply voltage and current, chip power; Table 14.5): entry key and draw.
Free. -/
opaque measured : Nat → Nat → Nat

/-- The rounding of a reported quantity whose rounding the manual does not state: TRUE takes the next integer up.
Arguments: what is rounded, and the exact quotient's numerator and denominator. Free. -/
opaque roundsUp : Nat → Int → Int → Bool

/-- A byte of scratch memory that a squash leaves undefined (R271): draw and address. Free. -/
opaque scratchByte : Nat → Nat → Byte

/-- Which images a half-band decimator keeps (R108 fixes the taps and leaves the phase of the decimation open): stage and
frame start. Free. -/
opaque decimationPhase : Nat → Nat → Bool

/-- The byte of an int8 weight block (wmode 3) that holds the weight of an output channel at a fan-in position: output
channels, fan-in, channel, position. No rule lays such a block out, except for EMBED (R333). Free. -/
opaque int8Offset : Nat → Nat → Nat → Nat → Nat

/-- The Loft byte of element `c` of key `j` that ATTN_SCORE reads for a row (R190 names cached key codes and no field that
places them): words 8 and 10, key length, row, key, element. Free. -/
opaque keyAddress : Nat → Nat → Nat → Nat → Nat → Nat → Nat

/-- The Granary bank (modulo 64) and row (the quotient, modulo 16 384) that hold a byte address: no rule maps the Granary's
addresses to its banks. Free. -/
opaque granaryPlace : Nat → Nat

/-- The place (modulo 8 192) among the Loft words of a bank, those whose number is the bank's modulo 32 (R234), of the word that an
error report names: bank and reported word. No rule numbers the words within a bank. Free. -/
opaque loftPlace : Nat → Nat → Nat

/-- The code of a value that POOL, UPSAMPLE or CONCAT passes on to an output element too narrow to hold it: element width and
value. R219, R222 and R225 give the code its input's width, and no rule says what such an element then holds. Free. -/
opaque narrowedCode : Nat → Int → Nat

/-- The SYNC0 cycle in ns that the EtherCAT master has set in the slave controller at a time of the timebase (R443): the master writes
that register of the controller, and no command of the table carries it. Free. -/
opaque sync0Cycle : Nat → Nat

/-- The layer number that a happening of R352 names on a descriptor that no layer record names: partition and descriptor.
Free. -/
opaque layerOf : Nat → Nat → Nat

end Sys2Proof.Config
end

