-- ==== Sys2Proof/Machine/State.lean ====
section
/-! DEFINITION. The state of the tray as plain data, the machine right after reset, and the reasons for which a step
stops. Entries of the object dictionary live in `State.od`; what the spec gives the tray beyond its dictionary lives in
the other fields. -/

namespace Sys2Proof.Machine

/-- Raised by a meaning where an access leaves the address space that the spec lays out. -/
inductive Fault where
  /-- A descriptor names a Loft or Granary address beyond the 8 MiB or 32 MiB of R234 and Table 1.5. Raised by
  DESCRIPTOR_COMPLETE and BANK_ROUND_COMPLETE. Safe: admission (R228) shuts it out, and the machine stops. -/
  | absentAddress
deriving DecidableEq, Repr, Inhabited

/-- Raised by exec where a command has no meaning. -/
inductive Refusal where
  /-- The command named has no meaning in the model. Raised by exec alone. Safe: the machine stops. -/
  | notModelled (mnemonic : String)
deriving DecidableEq, Repr

/-! ### The object dictionary -/

/-- A value of an entry: a number (BOOLEAN, INTEGERn, UNSIGNEDn, REAL32 and bfloat16 patterns) or a byte string
(VISIBLE_STRING, OCTET_STRING, DOMAIN), R12. -/
inductive OdVal where
  | num (n : Int)
  | bytes (b : List Byte)
deriving DecidableEq, Repr, Inhabited

/-- The dictionary: pairs of key 256·index + sub-index and value, keys strictly rising, no entry at its default. -/
abbrev OdStore := List (Nat × OdVal)

/-! ### Records, refusals, messages -/

/-- An event record (Table 17.1). -/
structure Record where
  angle : Int
  code : Nat
  unit : Nat
  tenant : Nat
  verdict : Nat
  detail : Nat
deriving DecidableEq, Repr, Inhabited

/-- The latest refusal, OD 0x2401:01 to :09 (Table 14.7). -/
structure LastRefusal where
  code : Nat := 0
  record : Option Record := none
  index : Nat := 0
  sub : Nat := 0
  word : Nat := 0xFF
  bits : Nat := 0
  value : Nat := 0
  abort : Nat := 0
  net : Nat := 0xFF
deriving DecidableEq, Repr, Inhabited

/-- What the tray answered last on a network. -/
inductive Answer where
  | none
  | ok
  | data (b : List Byte)
  | abort (code : Nat)
  | foeError (code : Nat)
deriving DecidableEq, Repr, Inhabited

/-- An emergency message as sent (R459): error code, error register, fault code, unit, tenant. -/
structure Emergency where
  error : Nat
  register : Nat
  fault : Nat
  unit : Nat
  tenant : Nat
deriving DecidableEq, Repr, Inhabited

/-! ### Tray, power, boot -/

/-- The tray states of Table 1.8. -/
inductive TrayState where
  | off | boot | selfTest | ready | watching | learning | safeHold | service
deriving DecidableEq, Repr, Inhabited

/-- The power stage (chapters 15 and 16). -/
structure Power where
  /-- last step of Table 15.4 that has ended; 0 before step 1 -/
  step : Nat := 0
  inputClosed : Bool := false
  holdUp : Bool := false
  /-- how many of rails 1 to 7 are inside their window (Table 15.3) -/
  rails : Nat := 0
  /-- an overvoltage disconnect holds the input switch open (R493) -/
  overvoltage : Bool := false
  /-- the supply lies outside its recommended range (R470, R492): low or high -/
  band : Option Bool := none
  /-- the episode of R492 under way: low and high raised -/
  lowRaised : Bool := false
  highRaised : Bool := false
  /-- the power-fail sequence runs (R513), with the code that the next start writes -/
  failing : Option Nat := none
  /-- tray state at the warning (R515) -/
  failState : Nat := 0
  doSupplyMissing : Bool := false
  /-- external supplies by connector number 5–14 (Table 16.13): on, and off by trip (R532) -/
  extOn : Vector Bool 18 := Vector.replicate 18 false
  extTripped : Vector Bool 18 := Vector.replicate 18 false
  /-- running time in µs summed over earlier power cycles (R414) -/
  ranBefore : Nat := 0
deriving DecidableEq, Repr, Inhabited

/-- A firmware bank (R508). -/
inductive Bank where
  | empty
  | image (bytes : List Byte) (isPending : Bool)
deriving DecidableEq, Repr, Inhabited

/-- The fuses (Table 15.5). Item 4, the device identity key, is held inside the crypto engine. -/
structure Fuses where
  serial : Nat := 0
  revision : Nat := 0x20240611
  vendorKey : List Byte := List.replicate 64 0
  identityKey : List Byte := List.replicate 32 0
  ownerKey : List Byte := []
  wrapKey : List Byte := []
  debugLock : Bool := false
  security : Nat := 0
deriving DecidableEq, Repr, Inhabited

/-- Transient history of one unit: running times of its transient verdicts (R414). -/
structure History where
  unit : UnitRef
  times : List Nat
deriving DecidableEq, Repr, Inhabited

/-- A power-fail record in boot flash (R514). -/
structure PfRecord where
  code : Nat
  state : Nat
  stepNumber : Nat
  valid : Bool
  log : List Record
  hist : List History
  ran : Nat
  warnings : Nat
deriving DecidableEq, Repr, Inhabited

/-- Boot: banks, bank record, trial, debug port, records awaiting step 6. -/
structure Boot where
  fuses : Fuses := {}
  banks : Vector Bank 2 := Vector.replicate 2 .empty
  active : Nat := 0
  trial : Bool := false
  trialCount : Nat := 0
  /-- the bank chosen by the boot ROM for this start -/
  booted : Nat := 0
  /-- neither bank holds an image that passes (R512) -/
  stuck : Bool := false
  /-- the running image: security version -/
  security : Nat := 0
  /-- the other bank was restored at this start: 0x8402 is owed (R511) -/
  restored : Bool := false
  /-- the reset that led here, for step 6: 0x5F10 or 0x5F11 with the state before (R409) -/
  resetCause : Option (Nat × Nat) := none
  /-- the state before boot, for the record of R42 -/
  fromState : Nat := 0
  /-- the power-fail record of the last shutdown and the older one (R514) -/
  pf : Option PfRecord := none
  pfOlder : Option PfRecord := none
  /-- a power-fail record has been written that no start has loaded yet (R515) -/
  pfOwed : Bool := false
  /-- records held in Reeve before step 13 (R500) -/
  held : List Record := []
  debugUnlocked : Bool := false
  debugFailures : Nat := 0
  debugChallenge : Option (List Byte) := none
  /-- time of step 7, µs, from which the trial limit counts (R511) -/
  selfTestAt : Nat := 0
deriving DecidableEq, Repr, Inhabited

/-! ### Networks -/

/-- The EtherCAT states of Table 1.11. -/
inductive AlState where
  | init | preop | safeop | op | boot
deriving DecidableEq, Repr, Inhabited

/-- The CANopen NMT states of R52. -/
inductive NmtState where
  | initialisation | preop | operational | stopped
deriving DecidableEq, Repr, Inhabited

/-- The EtherCAT slave controller. -/
structure Ecat where
  al : AlState := .init
  status : Nat := 0
  error : Bool := false
  linkUp : Bool := true
  /-- a watchdog or SYNC0 loss of R445 is unresolved -/
  lossOpen : Bool := false
deriving DecidableEq, Repr, Inhabited

/-- The CAN FD node. -/
structure Can where
  nmt : NmtState := .initialisation
  /-- the configuration in force (R447): node ID, arbitration rate, data rate -/
  node : Nat := 0x20
  arbRate : Nat := 500
  dataRate : Nat := 2000
  errorPassive : Bool := false
  busOff : Bool := false
  /-- a heartbeat consumer has timed out and has not been heard since (R470) -/
  hbLost : Bool := false
  /-- the consumer timer runs from this time, µs (R448) -/
  hbHeard : Option Nat := none
  bootUps : Nat := 0
  heartbeats : Nat := 0
  /-- µs of the last heartbeat sent (R448), and of the last sending of each TPDO (R458) -/
  beatAt : Option Nat := none
  sentAt : Vector (Option Nat) 32 := Vector.replicate 32 none
  /-- SYNC messages received since each TPDO was last sent -/
  syncCount : Vector Nat 32 := Vector.replicate 32 0
  /-- a TPDO has an update not yet sent, and is inside its inhibit time -/
  updated : Vector Bool 32 := Vector.replicate 32 false
  inhibited : Vector Bool 32 := Vector.replicate 32 false
  /-- last TPDO sent: number and image -/
  sent : List (Nat × List Byte) := []
deriving DecidableEq, Repr, Inhabited

/-- An authenticated session of a network (R299, R301): tenant and µs of the last SDO access. -/
structure Session where
  tenant : Nat
  last : Nat
deriving DecidableEq, Repr, Inhabited

/-- An open SDO transfer of a network (R439): direction, entry, data, rights held at its start. -/
structure Xfer where
  upload : Bool
  index : Nat
  sub : Nat
  size : Nat
  data : List Byte
  /-- the last segment has come, and its answer waits for the bundle to be stored (R312) -/
  whole : Bool := false
  toggle : Bool
  /-- the session's tenant at the start (R435), none for any other session -/
  tenant : Option Nat
  /-- the network was the controlling one at the start (R435) -/
  controlling : Bool
  last : Nat
deriving DecidableEq, Repr, Inhabited

/-- One network's mailbox side. -/
structure Mail where
  session : Option Session := none
  xfer : Option Xfer := none
  /-- a transfer was abandoned: its later segments end with 0x0504 0001 (R439) -/
  abandoned : Bool := false
  /-- an open FoE transfer (R439): slot -/
  foe : Option Nat := none
  foeData : List Byte := []
  /-- the open FoE transfer writes firmware (R460) -/
  foeFirmware : Bool := false
  answer : Answer := .none
  emcy : List Emergency := []
  /-- µs of the last emergency sent (R459) -/
  emcyAt : Option Nat := none
  /-- the process image latched last (R457) -/
  image : List Byte := []
deriving DecidableEq, Repr, Inhabited

/-! ### Shaft angle -/

/-- A predicted trajectory (R91): angle in tf, time in ticks, speed tf per tick, acceleration tf per tick², as exact
quotients. -/
structure Trajectory where
  epoch : Nat
  angle : Int
  time : Nat
  speed : Int
  speedDen : Nat
  accel : Int
  accelDen : Nat
deriving DecidableEq, Repr, Inhabited

/-- The forward passage of a reference window under way (R73): its centre, and the edge count at which a reference was
taken in it. -/
structure Passage where
  centre : Int
  seen : Option Int
deriving DecidableEq, Repr, Inhabited

/-- One shaft as the master Almanac measures it (chapter 2). Angles in tf, times in ticks of 10 ns. -/
structure Shaft where
  a : Bool := false
  b : Bool := false
  z : Bool := false
  faultA : Bool := false
  faultB : Bool := false
  faultZ : Bool := false
  /-- index of the last counted edge within the revolution (R63), and the net edge count -/
  edge : Nat := 0
  edges : Int := 0
  /-- latest interpolated angle -/
  angle : Int := 0
  /-- angle and time of the last counted edge -/
  edgeAngle : Int := 0
  edgeTime : Nat := 0
  /-- the first counted edge since start or standstill has been met -/
  counted : Bool := false
  backward : Bool := false
  /-- the last counted-edge intervals, newest first: angle covered and ticks (R65) -/
  hist : List (Int × Nat) := []
  /-- ticks of the previous interval, for the gap (R71) -/
  prevInterval : Nat := 0
  speed : Int := 0
  speedDen : Nat := 1
  accel : Int := 0
  accelDen : Nat := 1
  /-- time of the last speed estimate, if one exists since standstill -/
  speedTime : Option Nat := none
  referenced : Bool := false
  standstill : Bool := false
  reverse : Bool := false
  uncertain : Bool := false
  /-- angle uncertain is set because of a reference fault (R74) -/
  refFault : Bool := false
  overspeed : Bool := false
  beyond : Bool := false
  /-- consecutive intervals back under the tracking limit (R70) -/
  backUnder : Nat := 0
  inputLoss : Bool := false
  /-- angle and time at which extrapolation began (R70, R93) -/
  lossFrom : Int := 0
  lossAt : Nat := 0
  /-- speed at which a shaft beyond tracking extrapolates: its last estimate before the limit was passed (R70) -/
  freeSpeed : Int := 0
  freeSpeedDen : Nat := 1
  /-- high-water and low-water marks (R80) -/
  hwm : Int := 0
  lwm : Int := 0
  anchor : Int := 0
  /-- the previous reference that arrived, good or unexpected (R74) -/
  lastRef : Option Int := none
  passage : Option Passage := none
  /-- angle of the last good reference and whether 0x2104 has been raised since (R75) -/
  goodRef : Int := 0
  noRefRaised : Bool := false
  /-- illegal transitions in the revolution that began at an edge count (R57) -/
  illegal : Nat := 0
  illegalFrom : Int := 0
  illegalRaised : Bool := false
  /-- angles of this shaft and of shaft 0 at the previous reference taken (R68) -/
  ratioFrom : Option (Int × Int) := none
  traj : Trajectory := ⟨0, 0, 0, 0, 1, 0, 1⟩
  /-- net edge count of the first forward edge met in the present active period of Z (R553) -/
  zTaken : Option Int := none
  /-- a counted edge has come since start, standstill or the return of the input, so the next closes an interval (R65) -/
  timed : Bool := false
  /-- a first reference has armed the events since start-up, a change of configuration or the return of the input (R72) -/
  armed : Bool := false
  /-- tracking has resumed and the first forward reference is to resynchronise (R70) -/
  trackingBack : Bool := false
deriving DecidableEq, Repr, Inhabited

/-- A crossing waiting to be released (R78, R88). -/
structure Crossing where
  k : Int
  angle : Int
  /-- bits 2, 3 and 5 of the flag byte of R87: time-substituted, held, coalesced -/
  flags : Nat
  /-- crossings merged into it, itself included -/
  count : Nat
deriving DecidableEq, Repr, Inhabited

/-- The running side of an angle event: its last fire, held crossings, substitution. -/
structure EvRun where
  /-- time of the last fire, ticks (R88) -/
  lastFire : Option Nat := none
  /-- crossing held by the 10 µs interval -/
  held : Option Crossing := none
  /-- crossing held over standstill (policy 0), and whether any was replaced -/
  still : Option Crossing := none
  stillReplaced : Bool := false
  /-- a single-angle event that has fired (R84) -/
  inert : Bool := false
  /-- µs at which the next substitution falls due (R78) -/
  substDue : Option Nat := none
deriving DecidableEq, Repr, Inhabited

/-- An angle message as a mirror holds it (Table 2.7). -/
structure MirrorShaft where
  valid : Bool := false
  seq : Nat := 0
  angle : Int := 0
  speed : Int := 0
  accel : Int := 0
  timebase : Nat := 0
  status : Nat := 0
  epoch : Nat := 0
deriving DecidableEq, Repr, Inhabited

/-- The mirror Almanac of a chip (R94 to R96). -/
structure Mirror where
  shafts : Vector MirrorShaft 4 := Vector.replicate 4 {}
  /-- sequence number that Reeve sends next, per shaft -/
  seqOut : Vector Nat 4 := Vector.replicate 4 0
  lastSent : Vector (List Byte) 4 := Vector.replicate 4 []
  lastValid : Nat := 0
  stale : Bool := false
  staleRaised : Bool := false
  /-- predicted angle gaps, at most 8: start and end, ticks (R96) -/
  gaps : List (Nat × Nat) := []
  /-- timebase copy last locked, µs (R424) -/
  lockedAt : Nat := 0
deriving DecidableEq, Repr, Inhabited

/-! ### Sensors and cameras -/

/-- A staged frame (R113): header of Table 3.3, data, flags of Table 3.4, and the jobs still to finish with it. -/
structure Frame where
  /-- frame number of the header, by which the ring knows it: k of R105, or the fire count of a camera -/
  number : Int
  /-- k of the trigger -/
  k : Int
  angle : Int
  flags : Nat
  header : List Byte
  data : List Byte
  waiting : List (Nat × Nat)
  /-- tenants that have issued a committed job on it, and whether it has left its place in the ring, held for their jobs alone
  (R287) -/
  served : List Nat := []
  evicted : Bool := false
deriving DecidableEq, Repr, Inhabited

/-- A resampled frame under way (R107). -/
structure FrameRun where
  k : Int
  d : Nat
  /-- speed magnitude at the start as tf per tick, exact: r0 and the cutoff follow -/
  speed : Int
  speedDen : Nat
  angle0 : Int
  time0 : Nat
  rpm0 : Int
  flags : Nat
  reverse : Bool
  /-- the shaft has passed the last grid position: angle, time, speed there -/
  last : Option (Int × Nat × Int)
  /-- strips sent so far (R265) -/
  strips : Nat
deriving DecidableEq, Repr, Inhabited

/-- A frame group (R103). -/
structure Group where
  /-- frames under way, oldest first: those whose last position is passed wait for their completion (R110) -/
  runs : List FrameRun := []
  ring : List Frame := []
  /-- an episode of not-analysed frames is under way (R114) -/
  notAnalysed : Bool := false
  /-- counted edges since the oldest frame under way: angle and time, newest first (R106) -/
  edges : List (Int × Nat) := []
  /-- header of the frame marked not analysed last, which no ring holds and no Loft receives (R113, R114) -/
  stopped : List Byte := []
deriving DecidableEq, Repr, Inhabited

/-- A sensor channel. -/
structure Channel where
  /-- input samples, newest first: time in 2^−16 ticks and Q0.31 value (R101, R108) -/
  samples : List (Nat × Int) := []
  lastCode : Option Int := none
  same : Nat := 0
  stuck : Bool := false
  /-- consecutive good TDM frames since the channel was stuck (R117) -/
  calm : Nat := 16
deriving DecidableEq, Repr, Inhabited

/-- A TDM port. -/
structure TdmPort where
  /-- time of the last frame sync, ticks, and the time from which one is awaited (R101, R116) -/
  sync : Option Nat := none
  awaited : Nat := 0
  bad : Nat := 0
  /-- consecutive good TDM frames since the port was lost (R117) -/
  good : Nat := 16
  clockLoss : Bool := false
  rateLoss : Bool := false
  slip : Bool := false
  bridged : Bool := false
deriving DecidableEq, Repr, Inhabited

/-- An open capture (R121). -/
structure Capture where
  k : Int
  /-- fire count (Table 3.3) -/
  number : Nat
  angle : Int
  flags : Nat
  /-- flag byte of the fire (R87) -/
  trigger : Nat
  /-- ticks at the fire -/
  opened : Nat
  rpm : Int
  started : Bool
  rows : Nat
  data : List Byte
deriving DecidableEq, Repr, Inhabited

/-- A step of a camera's setup list as sent (R119): the bytes of a write on the CCI bus after the device address, or a wait. -/
inductive CciStep where
  | write (bytes : List Byte)
  | wait (ms : Nat)
deriving DecidableEq, Repr, Inhabited

/-- A camera. -/
structure Camera where
  /-- CAM_12V, CAM_ENABLE and CAM_RESET_N (R528) -/
  power : Bool := false
  enabled : Bool := false
  resetN : Bool := false
  failed : Bool := false
  /-- the trigger switch is closed (R529), since these ticks -/
  pulse : Bool := false
  pulseAt : Nat := 0
  fires : Nat := 0
  capture : Option Capture := none
  ev : EvRun := {}
  ring : List Frame := []
  /-- failed-capture episodes of 0x3101, 0x3102, 0x3103 (R123) -/
  ep1 : Bool := false
  ep2 : Bool := false
  ep3 : Bool := false
  eccCorrected : Nat := 0
  otherVc : Nat := 0
  /-- the setup list as sent (R119) -/
  cci : List CciStep := []
deriving DecidableEq, Repr, Inhabited

/-! ### Jobs -/

/-- A trigger delivered to a job (R87, R264). -/
structure Trigger where
  job : Nat
  k : Int
  angle : Int
  flags : Nat
  shaft : Nat
  /-- frame ring (0–7 groups, 8–9 cameras) and frame number, for kinds 1 and 2 -/
  frame : Option (Nat × Int)
  /-- frame flags of Table 3.4 -/
  frameFlags : Nat
  /-- place among all triggers, in the order of their fires -/
  order : Nat
  gated : Bool
deriving DecidableEq, Repr, Inhabited

/-- The states of Table 8.4 that hold something on a chip. -/
inductive IssueState where
  | speculative | committedHeld | committed
deriving DecidableEq, Repr, Inhabited

/-- A descriptor of an issue, once issued to its engine (R230). -/
structure DescRun where
  idx : Nat
  engine : Nat
  /-- for engine 0: work units in all, taken by rounds, completed -/
  units : Nat
  taken : Nat
  fin : Nat
  started : Bool
  complete : Bool
  /-- on the Commons route: the clusters to which its channel groups are dealt, fixed at its first round, and the units that
  each has taken (R166) -/
  dealt : List Nat := []
  got : List Nat := []
deriving DecidableEq, Repr, Inhabited

/-- The chain of one partition of an issue (R309). -/
structure PartRun where
  part : Nat
  chip : Nat
  /-- index of the descriptor to issue next; none once the chain's last one has been issued -/
  next : Option Nat
  descs : List DescRun
  /-- scratch copy held (R310) -/
  copy : Option Nat
  /-- the descriptor to issue next has failed its check once and is fetched once more (R198) -/
  refetch : Bool := false
  /-- streamed pieces of tight fit that have arrived (R321) -/
  pieces : Nat
  /-- the slot's context has been loaded on the chip (R323), and its image is present (R324) -/
  loaded : Bool
  complete : Bool
  /-- the copies of the learnable layers that its chain reads (R364, R365) -/
  side : Bool := false
  /-- µs at which its chain ended and its hand-offs began (R309, R419) -/
  endedAt : Nat := 0
deriving DecidableEq, Repr, Inhabited

/-- A micro-batch of a learning step (R342): copy of the variant, index, backward pass or not. -/
structure Micro where
  replica : Nat
  index : Nat
  /-- 0 forward, 1 restore, 2 backward -/
  pass : Nat
deriving DecidableEq, Repr, Inhabited

/-- One issue of a job (R261). -/
structure Issue where
  id : Nat
  tenant : Nat
  /-- job number, 0xF for none -/
  job : Nat
  slot : Nat
  entry : Nat
  kind : Nat
  index : Nat
  st : IssueState
  /-- issued on a predicted angle (result flag [9]) -/
  ranAhead : Bool
  /-- the trigger has fired and no committed slot was free (R261) -/
  waitsSlot : Bool
  /-- place of its trigger among all triggers (R264, R273); 0 before the trigger -/
  order : Nat
  epoch : Nat
  traj : Trajectory
  k : Int
  angle : Int
  flags : Nat
  shaft : Nat
  frame : Option (Nat × Int)
  frameFlags : Nat
  gated : Bool
  parts : List PartRun
  /-- hand-offs that have arrived, by their number in the variant -/
  arrived : List Nat
  saturated : Nat
  /-- an entry or an element-wise result has saturated (R138, R224) -/
  satFlag : Bool
  /-- the frame of a committed issue, header and data, until it lies in each Loft (R266); the step table of a token step (R330) -/
  frameData : List Byte
  /-- strips of the frame under way that lie in a Loft: chip and strip (R265) -/
  stripsIn : List (Nat × Nat)
  /-- chains and hand-offs have all completed: results are held -/
  finished : Bool
  /-- rows of a token step: session numbers (R330) -/
  rows : List Nat
  micro : Option Micro
  /-- the final output of each partition: partition and first 16 bytes (R283) -/
  out : List (Nat × List Byte)
  /-- tokens that SELECT has chosen, by row (R334) -/
  tokens : List Nat := []
  /-- job records in which a token step counts: tenant and job (R331) -/
  tokenJobs : List (Nat × Nat) := []
deriving DecidableEq, Repr, Inhabited

/-- The running side of a job record. -/
structure JobRun where
  drops : Nat := 0
  /-- the last issue was on time (R275) -/
  onTime : Bool := false
  /-- the hold-over of R184: the angle at which it began, its revolutions, and the trigger's shaft -/
  holdOver : Option (Int × Nat × Nat) := none
  /-- the k of speculative issues squashed whose trigger has not fired since: they are not issued on a prediction again (R272) -/
  noSpec : List Int := []
deriving DecidableEq, Repr, Inhabited

/-- The pending queue of a tenant (R264, R286). -/
structure Pend where
  queue : List Trigger := []
  decimating : Bool := false
  count : Nat := 0
deriving DecidableEq, Repr, Inhabited

/-- The running side of an output set (R482): the last trigger angle and shaft, the alarm. -/
structure SetRun where
  published : Option (Int × Nat) := none
  valid : Bool := false
  alarm : Bool := false
deriving DecidableEq, Repr, Inhabited

/-! ### Chips -/

/-- A round that a cluster runs (R278). -/
structure Round where
  issue : Nat
  part : Nat
  /-- chain position of pass 0 of the group -/
  ord : Nat
  firstUnit : Nat
  units : Nat
  spec : Bool
  /-- looked up in the Commons (R165) -/
  commons : Bool
  /-- of how many clusters its descriptor is dealt to, and which of them it serves (R166): its units are those of every
  `lanes`-th channel group from group `lane` on; 0 and 1 on the Mill -/
  lane : Nat := 0
  lanes : Nat := 1
deriving DecidableEq, Repr, Inhabited

/-- An accumulator entry (chapter 4): 24-bit value, residue mod 3, saturation flag. -/
structure AccEntry where
  value : Int
  residue : Nat
  sat : Bool
deriving DecidableEq, Repr, Inhabited

/-- An accumulator bank. -/
structure AccBank where
  retired : Bool := false
  epoch : Nat := 0
  round : Option Round := none
  entries : List AccEntry := []
deriving DecidableEq, Repr, Inhabited

/-- A table entry of the Commons (R162, R167): a 24-bit signed value with its residue mod 3. -/
structure TableEntry where
  value : Int
  residue : Nat
deriving DecidableEq, Repr, Inhabited

/-- One fill of a table bank (R167): output position, group of input channels, and the segment of at most 1 024 groups of four. -/
structure TableFill where
  y : Nat
  x : Nat
  block : Nat
  segment : Nat
  /-- 16 entries for each group, and the corrections C_s of its slices (R162) -/
  groups : List (List TableEntry)
  corrections : List TableEntry
deriving DecidableEq, Repr, Inhabited

/-- A table bank of the Commons: whether it is in service, and its fill (R167, R171). -/
structure TableBank where
  live : Bool := true
  fill : Option TableFill := none
  /-- the start of the angle gap in which a group of it was checked last, in ticks (Table 12.6) -/
  checkedIn : Option Nat := none
deriving DecidableEq, Repr, Inhabited

/-- A cluster of a chip. -/
structure Cluster where
  banks : Vector AccBank 16 := Vector.replicate 16 {}
  /-- tiles retired, and whether the spare tile still stands ready -/
  tilesBad : List Nat := []
  spareLeft : Bool := true
  /-- the two table banks, and the one that the builders fill next -/
  commons : Vector TableBank 2 := Vector.replicate 2 {}
  nextBank : Nat := 0
  /-- voltage trim in mV, −25 to +25 (R425) -/
  trim : Int := 0
  /-- margin tuning: under way; due and waiting since µs; forced since µs -/
  tuning : Bool := false
  tuneDue : Option Nat := none
  tuneForced : Option Nat := none
  /-- µs at which the present tuning interval ends, once one has ended (R425, R430) -/
  tuneNext : Option Nat := none
deriving DecidableEq, Repr, Inhabited

/-- A targeted test running or queued (R410, R412): what found it. -/
structure Test where
  unit : UnitRef
  code : Nat
  tenant : Nat
  detail : Nat
  angle : Int
  time : Nat
  fold : Bool
  /-- the upper timer took part (R421): bits to set in the detail -/
  upper : Nat
  /-- the issue whose transfer met the fault, and the hand-offs of it that had arrived -/
  issue : Option Nat := none
  arrived : Nat := 0
deriving DecidableEq, Repr, Inhabited

/-- The record of a link fault whose verdict is known and whose operation has not ended (R421). -/
structure Owed where
  test : Test
  verdict : Nat
deriving DecidableEq, Repr, Inhabited

/-- A Byway link, named from the chip whose port 0 or port 2 it leaves. -/
structure Link where
  down : Bool := false
  lanesBad : List Nat := []
  /-- flit retries made of the flit now in retry (R406) -/
  retries : Nat := 0
  errors : Nat := 0
  /-- link tests that have ended within the last ceiling of the hand-off timer, from µs to µs: it paused for them (R419) -/
  tested : List (Nat × Nat) := []
deriving DecidableEq, Repr, Inhabited

/-- The progress of the Gleaner on one bank (R422): accesses in the window, next row. -/
structure Scrub where
  accesses : Nat := 0
  row : Nat := 0
deriving DecidableEq, Repr, Inhabited

/-- A region of a slot on a chip (R295): Granary base and size, Loft base and size, bytes. -/
structure Region where
  slot : Nat
  granBase : Nat
  granSize : Nat
  loftBase : Nat
  loftSize : Nat
  /-- released, and not yet cleared (R296) -/
  released : Bool
  /-- which of the two copies of its learnable layers' weight blocks issues read (R365): the second one, or the one in the image -/
  side : Bool := false
deriving DecidableEq, Repr, Inhabited

/-- Whom a strip transfer serves (R265): an issue, or a job that is issued only when its frame `k` is complete. -/
inductive StripFor where
  | issue (id : Nat)
  | job (t j : Nat) (k : Int)
deriving DecidableEq, Repr, Inhabited

/-- A Buhild chip. -/
structure Chip where
  failed : Bool := false
  tier : Nat := 0
  target : Nat := 0
  /-- an upward step; a downward transition that waits or runs, and the tier of the one that runs (R34, R35) -/
  rising : Bool := false
  falling : Bool := false
  dropTo : Option Nat := none
  railsOn : Bool := false
  /-- rises from Fallow and reloads its models (Table 1.7) -/
  reloading : Bool := false
  /-- the known-answer network on entry into Drowse has passed (R185) -/
  bellOk : Bool := false
  /-- the Bellwether has failed: the effective floor is Watch (R185) -/
  bellFailed : Bool := false
  granary : List Host.Cell := []
  loft : List Host.Cell := []
  regions : List Region := []
  /-- non-resident images in the pool, most recently used first: slots (R324) -/
  pool : List Nat := []
  /-- images on their way over PCIe -/
  loading : List Nat := []
  /-- µs at which the load of a slot began last (R419) -/
  loadFrom : List (Nat × Nat) := []
  /-- slot whose context was loaded last (R323) -/
  context : Option Nat := none
  clusters : Vector Cluster 8 := Vector.replicate 8 {}
  /-- issue queues: engine 0, Smithy, Bellwether, move engine: (issue, partition, chain position) -/
  queue0 : List (Nat × Nat × Nat) := []
  queue1 : List (Nat × Nat × Nat) := []
  queue2 : List (Nat × Nat × Nat) := []
  queue3 : List (Nat × Nat × Nat) := []
  run1 : Option (Nat × Nat × Nat) := none
  run2 : Option (Nat × Nat × Nat) := none
  run3 : Option (Nat × Nat × Nat) := none
  /-- strip transfers in order, at most 16 (Table 8.5), and those that wait in Reeve for credit: strips 0–7 (R265) -/
  strips : List (StripFor × Nat) := []
  stripsWait : List (StripFor × Nat) := []
  /-- result records sent and not yet taken by Reeve, at most 64 (Table 8.5, R283), and the one taken last -/
  results : List (List Byte) := []
  lastResult : List Byte := []
  /-- Loft word reads, Granary bytes read and non-resident model bytes loaded in the present window of OD 0x2420 (R289) -/
  loftReads : Nat := 0
  granReads : Nat := 0
  modelBytes : Nat := 0
  /-- rounds whose bank was retired under them, to be taken again (R155) -/
  redo : List Round := []
  /-- the descriptor on the Smithy is a rerun after an error (R412) -/
  smithyAgain : Bool := false
  test : Option Test := none
  tests : List Test := []
  whole : Option (List Test) := none
  wholePending : Bool := false
  /-- detections of the last second: unit and µs (R412) -/
  recent : List (UnitRef × Nat) := []
  links : Vector Link 2 := Vector.replicate 2 {}
  /-- link tests running: axis -/
  linkTest : Vector (Option Test) 2 := Vector.replicate 2 none
  pcieTest : Option Test := none
  owed : List Owed := []
  pcieRetries : Nat := 0
  pcieErrors : Nat := 0
  /-- link tests of the PCIe link that have ended within the last ceiling of the DMA timer, from µs to µs (R419) -/
  pcieTested : List (Nat × Nat) := []
  /-- Granary rows moved to the spare row of their group: bank and row -/
  rowsSpared : List (Nat × Nat) := []
  mirror : Mirror := {}
  scrubG : Vector Scrub 64 := Vector.replicate 64 {}
  scrubL : Vector Scrub 32 := Vector.replicate 32 {}
  /-- running time of the last rail fault (R498), and a cycle under way -/
  railFaultAt : Option Nat := none
  railCycle : Bool := false
  /-- loading as the replacement of a failed chip (R417) -/
  spareFor : Option Nat := none
  /-- die temperature in 0.1 °C, if valid -/
  die : Option Int := none
  /-- learning: partition copy held (replica, partition), counters and lowest layers of the step (R352) -/
  holds : List (Nat × Nat) := []
  overflow : Nat := 0
  overflowLayer : Nat := 0xFFFF
  nonFinite : Nat := 0
  nonFiniteLayer : Nat := 0xFFFF
  telemetry : Nat := 0
  /-- µs at which the present telemetry interval ends, once one has ended (R427, R430) -/
  telemetryNext : Option Nat := none
deriving DecidableEq, Repr, Inhabited

/-! ### Models -/

/-- A partition as placed (R318). -/
structure Placed where
  chip : Nat
  /-- Granary footprint and streamed bytes (R320) -/
  footprint : Nat
  streamed : Nat
deriving DecidableEq, Repr, Inhabited

/-- A partition record with its entries (Table 9.8) and its images. -/
structure Partition where
  gran : Nat
  ploft : Nat
  scratchBase : Nat
  scratchUnits : Nat
  copies : Nat
  descCount : Nat
  kvBase : Nat
  kvUnits : Nat
  image : List Byte
  loftImage : List Byte
  /-- route marks: descriptor indices marked Commons -/
  commons : List Nat
deriving DecidableEq, Repr, Inhabited

/-- One entry on one partition (Table 9.8). -/
structure Entry where
  first : Nat
  loftReads : Nat
  granBytes : Nat
  cycles : List Nat
deriving DecidableEq, Repr, Inhabited

/-- A hand-off record (Table 9.8). -/
structure HandOff where
  src : Nat
  dst : Nat
  entry : Nat
  srcHandle : Nat
  dstHandle : Nat
  units : Nat
deriving DecidableEq, Repr, Inhabited

/-- A layer record of a learning state section (Table 10.3). -/
structure LayerRec where
  layer : Nat
  fwd : Nat
  wgt : Nat
  wmode : Nat
  exp : Int
  rowSets : Nat
  delta : Nat
  gamma : Nat
  rate : Nat
  buffer : Nat
deriving DecidableEq, Repr, Inhabited

/-- A learning state section (Table 10.2). -/
structure LearnPart where
  part : Nat
  restore : Nat
  backward : Nat
  savedBase : Nat
  savedUnits : Nat
  copies : Nat
  lossHead : Bool
  lossDesc : Nat
  offload : Nat
  target : Nat
  targetLayout : Nat
  layers : List LayerRec
  latents : List (List Nat)
deriving DecidableEq, Repr, Inhabited

/-- A placement variant (Table 9.7). -/
structure Variant where
  number : Nat
  p : Nat
  chain : Bool
  kvBytes : Nat
  vocab : Nat
  batch : Nat
  stopToken : Nat
  parts : List Partition
  /-- entries, entry-major: each has one record per partition -/
  entries : List (List Entry)
  handOffs : List HandOff
  learn : List LearnPart
deriving DecidableEq, Repr, Inhabited

/-- A model that has passed the checks of R313 up to its placement. -/
structure Model where
  bundle : List Byte
  learnable : Bool
  variant : Variant
  placed : List Placed
deriving DecidableEq, Repr, Inhabited

/-- A model slot beyond its record OD 0x4000 + s. -/
structure Slot where
  staged : Option (List Byte) := none
  model : Option Model := none
  /-- a download into the slot is open: network (R439) -/
  download : Option Net := none
  /-- the model has lost its placement (Table 12.10), with the state it had -/
  unplaced : Bool := false
  /-- the last admission came from model flash at self-test (R315) -/
  fromFlash : Bool := false
deriving DecidableEq, Repr, Inhabited

/-- A tenant beyond its block. -/
structure Tenant where
  /-- the challenge of each network with its µs (R299) -/
  challenge : Vector (Option (List Byte × Nat)) 2 := Vector.replicate 2 none
  /-- µs of the failures of the last 60 s, and the lock (R300) -/
  failTimes : List Nat := []
  locked : Bool := false
  /-- the unwrapped bundle key (R306) -/
  bundleKey : List Byte := []
deriving DecidableEq, Repr, Inhabited

/-- A token session beyond its record OD 0x6100 + i. -/
structure Token where
  /-- tokens still to feed from the prompt -/
  prompt : List Nat := []
  feed : Nat := 0
  ready : Bool := false
  outstanding : Bool := false
  stopAsked : Bool := false
  closeAsked : Bool := false
  made : Nat := 0
  /-- chips on which the cache is allocated: chip, base handle, units (R328) -/
  cache : List (Nat × Nat × Nat) := []
deriving DecidableEq, Repr, Inhabited

/-! ### Learning and the parish -/

/-- A sample of the ring (R341). -/
structure Sample where
  number : Nat
  frame : List Byte
  label : Option (List Byte)
deriving DecidableEq, Repr, Inhabited

/-- A shard of a layer as its owner or buddy holds it: bfloat16 latents and momentum (R346). -/
structure Shard where
  layer : Nat
  shard : Nat
  chip : Nat
  /-- 0 owned, 1 kept for the owner as its buddy -/
  role : Nat
  lat : List Nat
  mom : List Nat
deriving DecidableEq, Repr, Inhabited

/-- A gradient buffer: layer on a chip, FP32 values (R351). -/
structure GradBuf where
  chip : Nat
  layer : Nat
  vals : List Nat
deriving DecidableEq, Repr, Inhabited

/-- A residual vector: layer on a chip, bfloat16 values (R358). -/
structure Residual where
  chip : Nat
  layer : Nat
  vals : List Nat
deriving DecidableEq, Repr, Inhabited

/-- A gradient part staged for its owner, bytes received so far (R384). -/
structure StagedPart where
  layer : Nat
  shard : Nat
  replica : Nat
  total : Nat
  chunks : List (Nat × List Byte)
  /-- decoded values, once whole -/
  decoded : List Nat
  whole : Bool
deriving DecidableEq, Repr, Inhabited

/-- The fold of one owned shard (R384): how many parts are in, and the FP32 sums. -/
structure Fold where
  layer : Nat
  shard : Nat
  next : Nat
  sum : List Nat
deriving DecidableEq, Repr, Inhabited

/-- A checkpoint of the journal (R399, R400). -/
structure Checkpoint where
  step : Nat
  k : Int
  clean : Nat
  q : Nat
  r : Nat
  seatMap : List Nat
  shards : List Shard
  residuals : List Residual
  /-- every shard has arrived in this journal, and the leader has marked it complete -/
  whole : Bool
  complete : Bool
deriving DecidableEq, Repr, Inhabited

/-- A record of the replay ring (R401). -/
structure ReplayRec where
  step : Nat
  outcome : Nat
  k : Int
  clean : Nat
  seatMap : List Nat
  r : Nat
  eligible : Nat
  samples : List Sample
  decide : Decide
  /-- tray digest, and each chip's: chip and digest -/
  digest : Nat
  chips : List (Nat × Nat)
  /-- residuals restarted under R395 -/
  restarted : Bool
  /-- chip, micro-batch, descriptor and CRC-64 of each output of a record-for-replay descriptor -/
  outputs : List (Nat × Nat × Nat × Nat)
deriving DecidableEq, Repr, Inhabited

/-- A chunk of a whole that arrives as ROWS, SHADOW, RESTORE or CKPT. -/
structure Chunk where
  type : Nat
  layer : Nat
  shard : Nat
  content : Nat
  offset : Nat
  bytes : List Byte
deriving DecidableEq, Repr, Inhabited

/-- Rows of a shard of a layer, written by UPDATE or received on a chip (R364). -/
structure ShardRows where
  chip : Nat
  layer : Nat
  shard : Nat
  bytes : List Byte
deriving DecidableEq, Repr, Inhabited

/-- Where a learning step stands: the phases of Table 11.4, 0 for none. -/
structure Learn where
  phase : Nat := 0
  /-- µs of the start of the step (OD 0x5002:08) -/
  startedAt : Nat := 0
  /-- step number of the step in progress -/
  step : Nat := 0
  /-- the fire of the step event that started it: k, angle, flags and shaft -/
  fireK : Int := 0
  fireAngle : Int := 0
  fireFlags : Nat := 0
  fireShaft : Nat := 0
  ring : List Sample := []
  eligible : Nat := 0
  drawn : List Sample := []
  /-- chips of each copy of the variant; copy 0 is the admitted placement (R337) -/
  copies : List (List Nat) := []
  bufs : List GradBuf := []
  /-- copies of the saved window held: chip, micro-batch, copy number (R355) -/
  saved : List (Nat × Nat × Nat) := []
  /-- off-load windows: 64·chip + micro-batch, and the bytes stored (R356) -/
  offload : List (Nat × List Host.Cell) := []
  residuals : List Residual := []
  newResiduals : List Residual := []
  staged : List StagedPart := []
  folds : List Fold := []
  committed : List Shard := []
  shadow : List Shard := []
  /-- UPDATE work that waits for its owner's Smithy: chip, layer, shard (R360) -/
  updates : List (Nat × Nat × Nat) := []
  /-- shards whose rows lie in the inactive copies, not yet switched to (R364): chip, layer, shard -/
  rowsIn : List (Nat × Nat × Nat) := []
  /-- new rows of the owned shards, as UPDATE wrote them -/
  newRows : List ShardRows := []
  /-- chunks of the wholes that arrive as ROWS, SHADOW, RESTORE and CKPT -/
  chunks : List Chunk := []
  /-- Q and r of the step (START) -/
  q : Nat := 0
  r : Nat := 0
  /-- layers whose reduction has started on a chip (R358): chip, layer -/
  reductions : List (Nat × Nat) := []
  /-- an UPDATE gave a non-finite value: ready is withheld (R363) -/
  withheld : Bool := false
  decided : Option Decide := none
  checkpoints : List Checkpoint := []
  /-- the model that the latents belong to: ID and version -/
  bound : Option (Nat × Nat) := none
  /-- checkpoint of record in model flash (R400) -/
  ofRecord : Option Checkpoint := none
  writingRecord : Bool := false
  replay : List ReplayRec := []
  /-- what the record of the step in progress takes (R401): residual restarts, and CRCs of recorded outputs -/
  restarted : Bool := false
  recorded : List (Nat × Nat × Nat × Nat) := []
  replaying : Option Nat := none
  /-- lost chips awaiting RESTORE: (layer, shard) -/
  restoring : List (Nat × Nat) := []
deriving DecidableEq, Repr, Inhabited

/-- A Moot frame queued or sent, with its payload in bytes (Table 11.2). -/
structure MootFrame where
  type : Nat
  dst : Nat
  seq : Nat
  ack : Nat
  step : Nat
  flags : Nat
  payload : List Byte
deriving DecidableEq, Repr, Inhabited

/-- A frame awaiting acknowledgement. -/
structure Unacked where
  frame : MootFrame
  resent : Nat
  port : Nat
  /-- µs of its last sending; none while it waits for the window of 256 frames (R380) -/
  out : Option Nat
deriving DecidableEq, Repr, Inhabited

/-- A tray of the parish as this tray sees it. -/
structure Peer where
  /-- µs of the last frame, per port and in all -/
  heard : Option Nat := none
  heardPort : Vector (Option Nat) 2 := Vector.replicate 2 none
  healthy : Bool := false
  lost : Bool := false
  digestOk : Bool := false
  digestRaised : Bool := false
  trayState : Nat := 0
  seat : Nat := 0xFF
  leader : Nat := 0xFF
  phase : Nat := 0
  /-- outcome applied and the step it belongs to -/
  outcome : Nat := 0
  outcomeStep : Nat := 0
  checkpoint : Nat := 0
  nextSend : Nat := 0
  nextExpect : Nat := 0
  /-- frames received above the next expected sequence, held for delivery in order (R380) -/
  held : List (Nat × Instr) := []
  unacked : List Unacked := []
  /-- an acknowledgement is owed, from a µs on (R380) -/
  ackOwed : Bool := false
  ackFrom : Nat := 0
  /-- data frames sent to it, by which its ports alternate (R378) -/
  nextPort : Nat := 0
deriving DecidableEq, Repr, Inhabited

/-- The parish as this tray sees it (chapter 11). -/
structure Parish where
  peers : Vector Peer 64 := Vector.replicate 64 {}
  /-- tray holding each seat, 0xFF none -/
  seatMap : Vector Nat 64 := Vector.replicate 64 0xFF
  /-- seats dropped from the map (R396) -/
  dropped : Nat := 0
  /-- seats whose holder has given them up, and that nobody has taken yet (R396) -/
  vacant : Nat := 0
  /-- 0 alone, 1 forming, 2 formed, 3 recovering, 4 stalled (Table 11.6) -/
  state : Nat := 0
  leader : Nat := 0xFF
  seat : Nat := 0xFF
  firstHello : Option Nat := none
  /-- µs of the last HELLO and of the last HEARTBEAT sent (R372, Table 11.5) -/
  helloAt : Option Nat := none
  beatAt : Option Nat := none
  /-- leader: trays and seats heard in the step -/
  bids : List Nat := []
  fuses : List (Nat × FusePart) := []
  readies : List (Nat × Nat) := []
  ckptDones : List Nat := []
  started : Bool := false
  committedSent : Bool := false
  /-- step timeout: started at µs; the µs that it has paused for live retransmissions, and the µs at which a pause began (R382,
  R419) -/
  timerFrom : Option Nat := none
  paused : Nat := 0
  pauseFrom : Option Nat := none
  /-- outcome this tray applied, and to which step (R393) -/
  applied : Nat := 0
  appliedStep : Nat := 0
  /-- time of the leader change that recovery waits for -/
  recoverFrom : Option Nat := none
  giveUp : Bool := false
  parishDigest : Nat := 0
  fuseSent : Bool := false
  readySent : Bool := false
  /-- the ports: module, block lock, duplicate -/
  module : Vector Bool 2 := Vector.replicate 2 false
  lock : Vector Bool 2 := Vector.replicate 2 false
  dup : Vector Bool 2 := Vector.replicate 2 false
  /-- frames handed to the ports: port and frame, newest first -/
  sent : List (Nat × MootFrame) := []
  /-- neighbours resolved: port and tray (R377) -/
  neighbours : List (Nat × Nat) := []
  /-- results of a replay that the leader has: tray and result code (R403) -/
  replies : List (Nat × Nat) := []
deriving DecidableEq, Repr, Inhabited

/-! ### Faults and background -/

/-- The fault side of the tray. -/
structure Faults where
  /-- the ring, oldest first (R428) -/
  log : List Record := []
  last : Option Record := none
  refusal : LastRefusal := {}
  hist : List History := []
  /-- units retired -/
  retired : List UnitRef := []
  /-- page tests under way -/
  pageTests : List Test := []
  /-- pages remapped: page and reserve page; reserve pages taken or bad (R416) -/
  remapped : List (Nat × Nat) := []
  reserveUsed : Nat := 0
  reserveBad : List Nat := []
  /-- µs of uncorrectable Storehouse errors of the last second, and of the last one of a burst (Table 12.10) -/
  storeErrors : List Nat := []
  burst : Option Nat := none
  reserveOut : Bool := false
  /-- plate above the warning temperature after passing the critical one -/
  plateCritical : Bool := false
  capped : Bool := false
  plateFailed : Bool := false
  noTemp : Bool := false
  plate : Int := 0
  hottest : Int := 0
  reeve : Option Int := none
deriving DecidableEq, Repr, Inhabited

/-- Storehouse and flash contents beyond the structures above. -/
structure Store where
  zeroed : Bool := false
  logPlaced : Bool := false
  /-- bundles in model flash: slot and bundle (R315) -/
  flash : List (Nat × List Byte) := []
  /-- stored entries of R472, and the marks for reset: communication, application -/
  stored : OdStore := []
  loadComm : Bool := false
  loadApp : Bool := false
  /-- bundles to admit again at step 14 -/
  readmit : List Nat := []
  patrol : Nat := 0
deriving DecidableEq, Repr, Inhabited

/-- The digital outputs (R485 to R488). -/
structure Outputs where
  overload : Vector Bool 4 := Vector.replicate 4 false
  /-- the level taken from the field master last (R436) -/
  master : Nat := 0
  /-- control has moved and no RxPDO has come from the new network (R436) -/
  holdMaster : Bool := false
deriving DecidableEq, Repr, Inhabited

/-- The whole machine. -/
structure State where
  /-- the commands that are waiting, first in, first out -/
  pending : List Instr := []
  /-- the Almanac timebase: ticks of 10 ns since step 3 of the start-up (R65, R98) -/
  timebase : Nat := 0
  /-- the model's own counter of free values drawn; no rule of the spec -/
  draws : Nat := 0
  od : OdStore := []
  tray : TrayState := .off
  /-- OD 0x2000:03 and :04 -/
  holdCause : Nat := 0
  command : Nat := 0
  power : Power := {}
  boot : Boot := {}
  ecat : Ecat := {}
  can : Can := {}
  mail : Vector Mail 2 := Vector.replicate 2 {}
  shafts : Vector Shaft 4 := Vector.replicate 4 {}
  events : Vector (Vector EvRun 16) 16 := Vector.replicate 16 (Vector.replicate 16 {})
  groups : Vector Group 8 := Vector.replicate 8 {}
  channels : Vector Channel 8 := Vector.replicate 8 {}
  ports : Vector TdmPort 2 := Vector.replicate 2 {}
  cams : Vector Camera 2 := Vector.replicate 2 {}
  jobs : Vector (Vector JobRun 15) 16 := Vector.replicate 16 (Vector.replicate 15 {})
  pend : Vector Pend 16 := Vector.replicate 16 {}
  sets : Vector (Vector SetRun 16) 16 := Vector.replicate 16 (Vector.replicate 16 {})
  issues : List Issue := []
  nextIssue : Nat := 0
  chips : Vector Chip 16 := Vector.replicate 16 {}
  slots : Vector Slot 256 := Vector.replicate 256 {}
  tenants : Vector Tenant 16 := Vector.replicate 16 {}
  tokens : Vector Token 8 := Vector.replicate 8 {}
  learn : Learn := {}
  parish : Parish := {}
  faults : Faults := {}
  store : Store := {}
  outputs : Outputs := {}
  /-- the window of OD 0x2420 (R289): its start in ticks, and the whole turns of shaft 0 then -/
  loadFrom : Nat × Int := (0, 0)
deriving DecidableEq, Repr, Inhabited

/-- The tray before its supply reaches the start threshold: off, with every entry at its default. -/
def State.reset : State := {}

end Sys2Proof.Machine
end

