-- ==== Sys2Proof/Machine/Bits.lean ====
section
/-! DEFINITION. Little-endian fields, bit fields, wrapping counters and the cyclic checks of the tray's formats. -/

namespace Sys2Proof.Machine

/-- `n` bytes of `v`, least significant first (R5). -/
def leBytes : Nat → Nat → List Byte
  | 0, _ => []
  | n + 1, v => BitVec.ofNat 8 v :: leBytes n (v / 256)

/-- The number that little-endian bytes spell (R5). -/
def leNat : List Byte → Nat
  | [] => 0
  | b :: r => b.toNat + 256 * leNat r

/-- The number that big-endian bytes spell (SEC 1, as R298 uses it). -/
def beNat (l : List Byte) : Nat := l.foldl (fun a b => a * 256 + b.toNat) 0

/-- `n` bytes of `v`, most significant first. -/
def beBytes (n v : Nat) : List Byte := (leBytes n v).reverse

/-- `x` modulo 2^bits as an unsigned field: two's complement for a negative `x` (R10). -/
def unsigned (bits : Nat) (x : Int) : Nat := (x % (2 ^ bits : Nat)).toNat

/-- The two's-complement reading of the low `bits` bits of `v`. -/
def signed (bits v : Nat) : Int :=
  let m := v % 2 ^ bits
  if 2 ^ (bits - 1) ≤ m ∧ 0 < bits then (m : Int) - 2 ^ bits else m

/-- `n` bytes of an integer, little-endian two's complement. -/
def leInt (n : Nat) (x : Int) : List Byte := leBytes n (unsigned (8 * n) x)

/-- The field [hi:lo] of `v` (R4). -/
def field (v hi lo : Nat) : Nat := v / 2 ^ lo % 2 ^ (hi + 1 - lo)

/-- Bit `n` of `v` (R4). -/
def bit (v n : Nat) : Bool := v.testBit n

/-- 1 for TRUE, 0 for FALSE. -/
def ofBool (b : Bool) : Nat := if b then 1 else 0

/-- `v` with bit `n` set or cleared. -/
def putBit (v n : Nat) (b : Bool) : Nat := if v.testBit n == b then v else if b then v + 2 ^ n else v - 2 ^ n

/-- The numbers below `n` that `p` holds of, as a bitmap. -/
def bitmap (n : Nat) (p : Nat → Bool) : Nat := (List.range n).foldl (fun a i => if p i then a + 2 ^ i else a) 0

/-- The set bits of `v` below `n`, ascending. -/
def bitsSet (n v : Nat) : List Nat := (List.range n).filter (fun i => v.testBit i)

/-- `x` saturated to `lo`…`hi`. -/
def clampInt (lo hi x : Int) : Int := max lo (min hi x)

/-- floor(n / d) for a positive denominator. -/
def floorDiv (n : Int) (d : Nat) : Int := n.fdiv d

/-- ceil(n / d) of naturals. -/
def ceilDiv (n d : Nat) : Nat := (n + d - 1) / d

/-- The byte at offset `i` of a format; a byte past the end reads 0. -/
def byteAt (b : List Byte) (i : Nat) : Nat := ((b[i]?).getD 0).toNat

/-- The `n` bytes at offset `i`. -/
def slice (b : List Byte) (i n : Nat) : List Byte := (b.drop i).take n

/-- The little-endian number of `n` bytes at offset `i`. -/
def leAt (b : List Byte) (i n : Nat) : Nat := leNat (slice b i n)

/-- `b` with the bytes at offset `i` replaced by `d`, for `d` inside `b`. -/
def putBytes (b : List Byte) (i : Nat) (d : List Byte) : List Byte := b.take i ++ d ++ b.drop (i + d.length)

/-- `b` cut or zero-filled to `n` bytes. -/
def padTo (n : Nat) (b : List Byte) : List Byte := (b ++ List.replicate (n - b.length) 0).take n

/-- The bytes of an ASCII string. -/
def ascii (s : String) : List Byte := s.toList.map (fun c => BitVec.ofNat 8 c.toNat)

/-- One byte into a CRC whose most significant bit leads: width, polynomial, remainder. -/
def crcUpByte (w poly r : Nat) (b : Byte) : Nat :=
  (List.range 8).foldl (fun r _ =>
    let r2 := (2 * r) % 2 ^ w
    if r.testBit (w - 1) then Nat.xor r2 poly else r2) (Nat.xor r (b.toNat * 2 ^ (w - 8)))

/-- One byte into a reflected CRC. -/
def crcDownByte (poly r : Nat) (b : Byte) : Nat :=
  (List.range 8).foldl (fun r _ => if r.testBit 0 then Nat.xor (r / 2) poly else r / 2) (Nat.xor r b.toNat)

/-- CRC-16/CCITT-FALSE: polynomial 0x1021, initial 0xFFFF, not reflected, no final inversion (R113, R195). -/
def crc16 (b : List Byte) : Nat := b.foldl (crcUpByte 16 0x1021) 0xFFFF

/-- The IEEE 802.3 CRC-32: reflected, initial and final inversion (R379). -/
def crc32 (b : List Byte) : Nat := Nat.xor (b.foldl (crcDownByte 0xEDB88320) 0xFFFFFFFF) 0xFFFFFFFF

/-- The CRC-64 of a step digest: polynomial 0x42F0 E1EB A9EA 3693, not reflected, initial value and final XOR all
ones (R387). -/
def crc64 (b : List Byte) : Nat :=
  Nat.xor (b.foldl (crcUpByte 64 0x42F0E1EBA9EA3693) 0xFFFFFFFFFFFFFFFF) 0xFFFFFFFFFFFFFFFF

/-- `x` put before the first entry that it does not come after. -/
def insertBy {α : Type} (le : α → α → Bool) (x : α) : List α → List α
  | [] => [x]
  | y :: r => if le x y then x :: y :: r else y :: insertBy le x r

/-- A list in an order; entries that come before each other keep their places. -/
def sortBy {α : Type} (le : α → α → Bool) (l : List α) : List α := l.foldr (insertBy le) []

/-- The range from `a` up to `e` lies wholly in the union of intervals (first place and length), at most `n` of them in turn. -/
def coveredUpTo (l : List (Nat × Nat)) (a e : Nat) : Nat → Bool
  | 0 => decide (e ≤ a)
  | n + 1 => decide (e ≤ a) || (match l.find? (fun p => decide (p.1 ≤ a ∧ a < p.1 + p.2)) with
    | some p => coveredUpTo l (p.1 + p.2) e n
    | none => false)

/-- `n` places from `a` on lie wholly in the union of intervals. -/
def covered (l : List (Nat × Nat)) (a n : Nat) : Bool := coveredUpTo l a (a + n) l.length

/-- Insertion of `x` under key `k` into a list with rising keys, replacing an entry of that key. -/
def insertKey {α : Type} (k : Nat) (x : α) : List (Nat × α) → List (Nat × α)
  | [] => [(k, x)]
  | (j, y) :: r => if k < j then (k, x) :: (j, y) :: r else if k = j then (k, x) :: r else (j, y) :: insertKey k x r

/-- Every entry of key `k` removed from a list of pairs. -/
def eraseKey {α : Type} (k : Nat) : List (Nat × α) → List (Nat × α)
  | [] => []
  | (j, y) :: r => if k = j then eraseKey k r else (j, y) :: eraseKey k r

/-- The value under key `k`. -/
def lookupKey {α : Type} (k : Nat) : List (Nat × α) → Option α
  | [] => none
  | (j, y) :: r => if k = j then some y else lookupKey k r

/-! ### Byte memories (Granary, Loft): canonical lists of cells, an unlisted address reading 0 (R296) -/

/-- The byte at an address. -/
def memRead (m : List Host.Cell) (a : Nat) : Byte := (lookupKey a m).getD 0

/-- One byte written: a zero removes the cell, so equal memories are equal lists. -/
def memWrite (m : List Host.Cell) (a : Nat) (b : Byte) : List Host.Cell :=
  if b = 0 then eraseKey a m else insertKey a b m

/-- `n` bytes from address `a`. -/
def memReadN (m : List Host.Cell) (a : Nat) : Nat → List Byte
  | 0 => []
  | n + 1 => memRead m a :: memReadN m (a + 1) n

/-- Bytes written from address `a` up. -/
def memWriteN (m : List Host.Cell) (a : Nat) : List Byte → List Host.Cell
  | [] => m
  | b :: r => memWriteN (memWrite m a b) (a + 1) r

/-- Every byte of `a` … `a + n - 1` set to 0 (R296). -/
def memClear (m : List Host.Cell) (a n : Nat) : List Host.Cell := m.filter (fun c => decide (c.1 < a ∨ a + n ≤ c.1))

/-- Keys strictly rising, at or above `lo`. -/
def sortedFrom {α : Type} : Nat → List (Nat × α) → Bool
  | _, [] => true
  | lo, (k, _) :: r => decide (lo ≤ k) && sortedFrom (k + 1) r

/-- The canonical form of a byte memory: addresses strictly rising, no entry equal to 0. -/
def Memory.wf (m : List Host.Cell) : Bool := sortedFrom 0 m && m.all (fun c => c.2 != 0)

end Sys2Proof.Machine
end

