-- ==== Sys2Proof/Machine/Crypto.lean ====
section
/-! DEFINITION. The generator Philox4x32-10 (R176), SHA-256, ECDSA on P-256 (R298, R299, R304, R504, R507) and
AES-256-GCM (R305, R306). -/

namespace Sys2Proof.Machine

/-! ### Philox4x32-10 -/

/-- One round: counter words and key. -/
def philoxRound (c : Nat × Nat × Nat × Nat) (k : Nat × Nat) : Nat × Nat × Nat × Nat :=
  let (c0, c1, c2, c3) := c
  let p0 := 0xD2511F53 * c0
  let p1 := 0xCD9E8D57 * c2
  (Nat.xor (Nat.xor (p1 / 2 ^ 32) c1) k.1, p1 % 2 ^ 32, Nat.xor (Nat.xor (p0 / 2 ^ 32) c3) k.2, p0 % 2 ^ 32)

/-- Output word 0 of ten rounds under a 64-bit seed, whose low half is key word 0 (R176). -/
def philox (seed c0 c1 c2 c3 : Nat) : Nat :=
  let start := (c0 % 2 ^ 32, c1 % 2 ^ 32, c2 % 2 ^ 32, c3 % 2 ^ 32)
  let key := (seed % 2 ^ 32, seed / 2 ^ 32 % 2 ^ 32)
  ((List.range 10).foldl (fun (s : (Nat × Nat × Nat × Nat) × (Nat × Nat)) _ =>
    (philoxRound s.1 s.2, ((s.2.1 + 0x9E3779B9) % 2 ^ 32, (s.2.2 + 0xBB67AE85) % 2 ^ 32))) (start, key)).1.1

/-! ### SHA-256 -/

/-- The primes below `n`, ascending. -/
def primesBelow (n : Nat) : List Nat :=
  (List.range n).filter (fun p => decide (2 ≤ p) && (List.range p).all (fun d => decide (d < 2) || decide (p % d ≠ 0)))

/-- The greatest number below 2^36 whose `e`-th power is at most `x`, found from its top bit down. -/
def rootOf (e x : Nat) : Nat :=
  (List.range 36).reverse.foldl (fun r i => if (r + 2 ^ i) ^ e ≤ x then r + 2 ^ i else r) 0

/-- The first 32 fraction bits of the `e`-th root of a prime, which is how the standard defines its constants. -/
def rootBits (e p : Nat) : Nat := rootOf e (p * 2 ^ (32 * e)) % 2 ^ 32

/-- The 64 round constants: cube roots of the primes below 312. -/
def shaK : List Nat := (primesBelow 312).map (rootBits 3)

/-- The first hash value: square roots of the first eight primes. -/
def shaInit : List Nat := (primesBelow 20).map (rootBits 2)

def rotr32 (x n : Nat) : Nat := x / 2 ^ n + x % 2 ^ n * 2 ^ (32 - n)

/-- The message schedule, newest word first. -/
def shaSchedule (block : List Nat) : List Nat :=
  ((List.range 48).foldl (fun w _ =>
    let a := (w[1]?).getD 0
    let b := (w[14]?).getD 0
    let s0 := Nat.xor (Nat.xor (rotr32 b 7) (rotr32 b 18)) (b / 2 ^ 3)
    let s1 := Nat.xor (Nat.xor (rotr32 a 17) (rotr32 a 19)) (a / 2 ^ 10)
    ((w[15]?).getD 0 + s0 + (w[6]?).getD 0 + s1) % 2 ^ 32 :: w) block.reverse).reverse

/-- The eight working words. -/
abbrev ShaState := Nat × Nat × Nat × Nat × Nat × Nat × Nat × Nat

def shaStep (s : ShaState) (kw : Nat × Nat) : ShaState :=
  let (a, b, c, d, e, f, g, h) := s
  let s1 := Nat.xor (Nat.xor (rotr32 e 6) (rotr32 e 11)) (rotr32 e 25)
  let ch := Nat.xor (Nat.land e f) (Nat.land (2 ^ 32 - 1 - e) g)
  let t1 := h + s1 + ch + kw.1 + kw.2
  let s0 := Nat.xor (Nat.xor (rotr32 a 2) (rotr32 a 13)) (rotr32 a 22)
  let maj := Nat.xor (Nat.xor (Nat.land a b) (Nat.land a c)) (Nat.land b c)
  ((t1 + s0 + maj) % 2 ^ 32, a, b, c, (d + t1) % 2 ^ 32, e, f, g)

def shaBlock (s : ShaState) (block : List Nat) : ShaState :=
  let (a, b, c, d, e, f, g, h) := s
  let (a', b', c', d', e', f', g', h') := (shaK.zip (shaSchedule block)).foldl shaStep s
  ((a + a') % 2 ^ 32, (b + b') % 2 ^ 32, (c + c') % 2 ^ 32, (d + d') % 2 ^ 32, (e + e') % 2 ^ 32,
   (f + f') % 2 ^ 32, (g + g') % 2 ^ 32, (h + h') % 2 ^ 32)

/-- The `n`-th group of `k` entries. -/
def groupAt {α : Type} (l : List α) (k n : Nat) : List α := (l.drop (k * n)).take k

/-- SHA-256 of a byte string, as 32 bytes. -/
def sha256 (msg : List Byte) : List Byte :=
  let zeros := (119 - msg.length % 64) % 64
  let padded := msg ++ [0x80] ++ List.replicate zeros 0 ++ beBytes 8 (8 * msg.length)
  let words (b : List Byte) : List Nat := (List.range 16).map (fun i => beNat (groupAt b 4 i))
  let h0 (i : Nat) : Nat := (shaInit[i]?).getD 0
  let init : ShaState := (h0 0, h0 1, h0 2, h0 3, h0 4, h0 5, h0 6, h0 7)
  let (a, b, c, d, e, f, g, h) := (List.range (padded.length / 64)).foldl
    (fun s i => shaBlock s (words (groupAt padded 64 i))) init
  [a, b, c, d, e, f, g, h].flatMap (beBytes 4)

/-! ### P-256 -/

def p256p : Nat := 0xffffffff00000001000000000000000000000000ffffffffffffffffffffffff
def p256n : Nat := 0xffffffff00000000ffffffffffffffffbce6faada7179e84f3b9cac2fc632551
def p256b : Nat := 0x5ac635d8aa3a93e7b3ebbd55769886bc651d06b0cc53b0f63bce3c3e27d2604b
def p256gx : Nat := 0x6b17d1f2e12c4247f8bce6e563a440f277037d812deb33a0f4a13945d898c296
def p256gy : Nat := 0x4fe342e2fe1a7f9b8ee7eb4a7c0f9e162bce33576b315ececbb6406837bf51f5

/-- Whether (x, y) lies on the curve (R298). -/
def onCurve (x y : Nat) : Bool :=
  decide (x < p256p) && decide (y < p256p) && decide ((y * y) % p256p = (x * x * x + (p256p - 3) * x + p256b) % p256p)

/-- b^e modulo m, over the low `bits` bits of `e`. -/
def powMod (b e m bits : Nat) : Nat :=
  (List.range bits).reverse.foldl (fun r i => let r2 := r * r % m; if e.testBit i then r2 * b % m else r2) 1

/-- A point in Jacobian coordinates; z = 0 is the point at infinity. -/
abbrev Jac := Nat × Nat × Nat

def jacDouble (q : Jac) : Jac :=
  let (x, y, z) := q
  let p := p256p
  let yy := y * y % p
  let s := 4 * x * yy % p
  let zz := z * z % p
  let m := 3 * (x + zz) * (x + p - zz) % p
  let x3 := (m * m + 2 * p - 2 * s) % p
  let y3 := (m * (s + p - x3) + 8 * (p - yy * yy % p)) % p
  (x3, y3, 2 * y * z % p)

def jacAdd (q r : Jac) : Jac :=
  let (x1, y1, z1) := q
  let (x2, y2, z2) := r
  let p := p256p
  if z1 = 0 then r
  else if z2 = 0 then q
  else
    let z1z1 := z1 * z1 % p
    let z2z2 := z2 * z2 % p
    let u1 := x1 * z2z2 % p
    let u2 := x2 * z1z1 % p
    let s1 := y1 * z2 * z2z2 % p
    let s2 := y2 * z1 * z1z1 % p
    if u1 = u2 then (if s1 = s2 then jacDouble q else (1, 1, 0))
    else
      let h := (u2 + p - u1) % p
      let w := (s2 + p - s1) % p
      let hh := h * h % p
      let hhh := h * hh % p
      let v := u1 * hh % p
      let x3 := (w * w + 3 * p - hhh - 2 * v) % p
      (x3, (w * (v + p - x3) + s1 * (p - hhh)) % p, h * z1 * z2 % p)

/-- k · q for a 256-bit k. -/
def jacMul (k : Nat) (q : Jac) : Jac :=
  (List.range 256).reverse.foldl (fun r i => let d := jacDouble r; if k.testBit i then jacAdd d q else d) (1, 1, 0)

/-- ECDSA verification of r ‖ s over a SHA-256 digest with the key X ‖ Y, all big-endian (SEC 1). -/
def ecdsaVerify (key digest sig : List Byte) : Bool :=
  let x := beNat (key.take 32)
  let y := beNat (key.drop 32)
  let r := beNat (sig.take 32)
  let s := beNat (sig.drop 32)
  if key.length ≠ 64 ∨ sig.length ≠ 64 ∨ r = 0 ∨ p256n ≤ r ∨ s = 0 ∨ p256n ≤ s then false
  else if !onCurve x y then false
  else
    let w := powMod s (p256n - 2) p256n 256
    let (px, _, pz) := jacAdd (jacMul (beNat digest * w % p256n) (p256gx, p256gy, 1)) (jacMul (r * w % p256n) (x, y, 1))
    -- x(P) = r modulo n, with x(P) = X / Z² below p < 2n
    pz ≠ 0 && (decide (px = r * (pz * pz % p256p) % p256p)
      || (decide (r + p256n < p256p) && decide (px = (r + p256n) * (pz * pz % p256p) % p256p)))

/-! ### AES-256-GCM -/

/-- Multiplication in the AES field. -/
def gmul8 (a b : Nat) : Nat :=
  ((List.range 8).foldl (fun (s : Nat × Nat) i =>
    let (r, a) := s
    ((if b.testBit i then Nat.xor r a else r), (if a.testBit 7 then Nat.xor (2 * a % 256) 0x1B else 2 * a))) (0, a)).1

/-- The S-box: the inverse x^254, then the affine map. -/
def sbox (x : Nat) : Nat :=
  let sq a := gmul8 a a
  let x2 := sq x
  let x3 := gmul8 x2 x
  let x6 := sq x3
  let x12 := sq x6
  let x14 := gmul8 x12 x2
  let x15 := gmul8 x12 x3
  let x240 := sq (sq (sq (sq x15)))
  let v := gmul8 x240 x14
  let rot n := v * 2 ^ n % 256 + v / 2 ^ (8 - n)
  Nat.xor (Nat.xor (Nat.xor (Nat.xor (Nat.xor v (rot 1)) (rot 2)) (rot 3)) (rot 4)) 0x63

/-- The 60 words of the AES-256 key schedule, each as four bytes, newest first. -/
def aesSchedule (key : List Nat) : List (List Nat) :=
  let start : List (List Nat) := ((List.range 8).map (fun i => groupAt key 4 i)).reverse
  ((List.range 52).foldl (fun (st : List (List Nat) × Nat) i =>
    let (w, rc) := st
    let t := (w[0]?).getD []
    let prev := (w[7]?).getD []
    let (t, rc) := if i % 8 = 0 then
        (((t.drop 1 ++ t.take 1).map sbox).zipWith (fun a b => Nat.xor a b) [rc, 0, 0, 0], gmul8 rc 2)
      else if i % 8 = 4 then (t.map sbox, rc) else (t, rc)
    (prev.zipWith (fun a b => Nat.xor a b) t :: w, rc)) (start, 1)).1.reverse

/-- The round keys, 15 of 16 bytes. -/
def aesKeys (key : List Nat) : List (List Nat) :=
  let w := aesSchedule key
  (List.range 15).map (fun i => (groupAt w 4 i).flatten)

def xorL (a b : List Nat) : List Nat := a.zipWith (fun x y => Nat.xor x y) b

def aesShift (s : List Nat) : List Nat := (List.range 16).map (fun i => (s[(i + 4 * (i % 4)) % 16]?).getD 0)

def aesMix (s : List Nat) : List Nat := (List.range 16).map (fun i =>
  let c := i / 4 * 4
  let at_ k := (s[c + (i + k) % 4]?).getD 0
  Nat.xor (Nat.xor (gmul8 (at_ 0) 2) (gmul8 (at_ 1) 3)) (Nat.xor (at_ 2) (at_ 3)))

/-- AES-256 of one block under its round keys. -/
def aesBlock (keys : List (List Nat)) (block : List Nat) : List Nat :=
  let k i := (keys[i]?).getD []
  let s := (List.range 13).foldl (fun s i => xorL (aesMix (aesShift (s.map sbox))) (k (i + 1))) (xorL block (k 0))
  xorL (aesShift (s.map sbox)) (k 14)

/-- Multiplication in the field of GCM; bit 127 of the number is the first bit. -/
def gmul128 (x y : Nat) : Nat :=
  ((List.range 128).foldl (fun (s : Nat × Nat) i =>
    let (z, v) := s
    ((if x.testBit (127 - i) then Nat.xor z v else z),
     (if v.testBit 0 then Nat.xor (v / 2) (0xE1 * 2 ^ 120) else v / 2))) (0, y)).1

def toNats (b : List Byte) : List Nat := b.map BitVec.toNat
def ofNats (l : List Nat) : List Byte := l.map (BitVec.ofNat 8)

/-- The hash over additional data and ciphertext. -/
def ghash (h : Nat) (aad ct : List Byte) : Nat :=
  let blocks (b : List Byte) : List Nat :=
    (List.range ((b.length + 15) / 16)).map (fun i => beNat (padTo 16 (groupAt b 16 i)))
  let y := (blocks aad ++ blocks ct).foldl (fun y b => gmul128 (Nat.xor y b) h) 0
  gmul128 (Nat.xor y (8 * aad.length * 2 ^ 64 + 8 * ct.length)) h

/-- AES-256-GCM opened: 12-byte nonce, additional data, ciphertext, 16-byte tag. None where the tag does not match. -/
def gcmOpen (key nonce aad ct tag : List Byte) : Option (List Byte) :=
  let keys := aesKeys (toNats key)
  let h := beNat (ofNats (aesBlock keys (List.replicate 16 0)))
  let ctr (i : Nat) : List Nat := aesBlock keys (toNats (nonce ++ beBytes 4 i))
  let t := Nat.xor (ghash h aad ct) (beNat (ofNats (ctr 1)))
  if key.length ≠ 32 ∨ nonce.length ≠ 12 ∨ tag.length ≠ 16 ∨ t ≠ beNat tag then none
  else some (ofNats ((List.range ((ct.length + 15) / 16)).flatMap (fun i =>
    xorL (toNats (groupAt ct 16 i)) (ctr (i + 2)))))

end Sys2Proof.Machine
end

