-- ==== Sys2Proof/Machine/Float.lean ====
section
/-! DEFINITION. FP32 and bfloat16 arithmetic as bit patterns (R9, R188, R189): exact results, one rounding to nearest with
ties to even, subnormals flushed, one quiet NaN. -/

namespace Sys2Proof.Machine

/-- A number as its exact value: NaN, an infinity, or (−1)^neg · m · 2^e. -/
inductive Fl where
  | nan
  | inf (neg : Bool)
  | fin (neg : Bool) (m : Nat) (e : Int)
deriving DecidableEq, Repr, Inhabited

/-- The quiet NaN of R188 in FP32 and in bfloat16. -/
def nan32 : Nat := 0x7FC00000
def nan16 : Nat := 0x7FC0

/-- An FP32 pattern read, a subnormal as a zero of its sign. -/
def Fl.of32 (w : Nat) : Fl :=
  let neg := w.testBit 31
  let ex := field w 30 23
  let fr := field w 22 0
  if ex = 255 then (if fr = 0 then .inf neg else .nan)
  else if ex = 0 then .fin neg 0 0
  else .fin neg (2 ^ 23 + fr) (ex - 150 : Int)

/-- A bfloat16 pattern as the FP32 pattern of the same value. -/
def widen (w : Nat) : Nat := w % 2 ^ 16 * 2 ^ 16

/-- A bfloat16 pattern read. -/
def Fl.of16 (w : Nat) : Fl := Fl.of32 (widen w)

/-- n · 2^k for a possibly negative k, as a quotient. -/
def scaleQ (n d : Nat) (k : Int) : Nat × Nat := if 0 ≤ k then (n * 2 ^ k.toNat, d) else (n, d * 2 ^ (-k).toNat)

/-- floor(n / d) rounded to nearest, ties to even. -/
def divRne (n d : Nat) : Nat :=
  let q := n / d
  let r := n % d
  if 2 * r < d then q else if d < 2 * r then q + 1 else if q % 2 = 0 then q else q + 1

/-- The exponent of the highest bit of n / d, for positive n and d. -/
def logQ (n d : Nat) : Int :=
  let k : Int := (Nat.log2 n : Int) - Nat.log2 d
  let (a, b) := scaleQ n d (-k)
  if a < b then k - 1 else k

/-- n / d rounded to `p` significant bits on the grid of an exponent range that begins at −126: mantissa and exponent. -/
def roundQ (p n d : Nat) : Nat × Int :=
  if n = 0 then (0, 0)
  else
    let e : Int := max (logQ n d - (p - 1 : Nat)) (-126 - (p - 1 : Nat))
    let (a, b) := scaleQ n d (-e)
    (divRne a b, e)

/-- A rounded mantissa of `p` bits as a pattern with `p - 1` fraction bits; a subnormal result becomes zero (R188), one
beyond the range infinity. -/
def packFl (p : Nat) (neg : Bool) (m : Nat) (e : Int) : Nat :=
  let (m, e) := if 2 ^ p ≤ m then (m / 2, e + 1) else (m, e)
  let sign := ofBool neg * 2 ^ (p + 7)
  if m < 2 ^ (p - 1) then sign
  else
    let ex : Int := e + (p - 1 : Nat) + 127
    if 255 ≤ ex then sign + 255 * 2 ^ (p - 1) else sign + ex.toNat * 2 ^ (p - 1) + (m - 2 ^ (p - 1))

/-- An exact quotient rounded to FP32. -/
def round32 (neg : Bool) (n d : Nat) : Nat := let (m, e) := roundQ 24 n d; packFl 24 neg m e

/-- An exact quotient rounded to bfloat16. -/
def round16 (neg : Bool) (n d : Nat) : Nat := let (m, e) := roundQ 8 n d; packFl 8 neg m e

/-- An exact value as an FP32 pattern. -/
def Fl.to32 : Fl → Nat
  | .nan => nan32
  | .inf neg => ofBool neg * 2 ^ 31 + 0x7F800000
  | .fin neg m e => let (n, d) := scaleQ m 1 e; round32 neg n d

/-- An exact value as a bfloat16 pattern, to nearest with ties to even (R9). -/
def Fl.to16 : Fl → Nat
  | .nan => nan16
  | .inf neg => ofBool neg * 2 ^ 15 + 0x7F80
  | .fin neg m e => let (n, d) := scaleQ m 1 e; round16 neg n d

/-- FP32 narrowed to bfloat16 (R9). -/
def narrow (w : Nat) : Nat := (Fl.of32 w).to16

/-- The exact product. -/
def Fl.mul : Fl → Fl → Fl
  | .nan, _ => .nan
  | _, .nan => .nan
  | .inf a, .inf b => .inf (a != b)
  | .inf a, .fin b m _ => if m = 0 then .nan else .inf (a != b)
  | .fin a m _, .inf b => if m = 0 then .nan else .inf (a != b)
  | .fin a m e, .fin b n f => .fin (a != b) (m * n) (e + f)

/-- The exact sum; an exact zero of unlike signs is +0. -/
def Fl.add : Fl → Fl → Fl
  | .nan, _ => .nan
  | _, .nan => .nan
  | .inf a, .inf b => if a = b then .inf a else .nan
  | .inf a, _ => .inf a
  | _, .inf b => .inf b
  | .fin a m e, .fin b n f =>
    let g := min e f
    let x : Int := (m * 2 ^ (e - g).toNat : Nat)
    let y : Int := (n * 2 ^ (f - g).toNat : Nat)
    let z := (if a then -x else x) + (if b then -y else y)
    if z = 0 then .fin (a && b) 0 0 else .fin (decide (z < 0)) z.natAbs g

/-- The sign changed. -/
def Fl.neg : Fl → Fl
  | .nan => .nan
  | .inf a => .inf (!a)
  | .fin a m e => .fin (!a) m e

/-- a × b + c with one rounding (R188). -/
def fma32 (a b c : Nat) : Nat := (((Fl.of32 a).mul (Fl.of32 b)).add (Fl.of32 c)).to32
def mul32 (a b : Nat) : Nat := ((Fl.of32 a).mul (Fl.of32 b)).to32
def add32 (a b : Nat) : Nat := ((Fl.of32 a).add (Fl.of32 b)).to32
def sub32 (a b : Nat) : Nat := ((Fl.of32 a).add (Fl.of32 b).neg).to32

/-- Whether a pattern is an infinity or NaN. -/
def nonFinite32 (w : Nat) : Bool := decide (field w 30 23 = 255)
def nonFinite16 (w : Nat) : Bool := decide (field w 14 7 = 255)

/-- An integer as FP32, rounded to nearest with ties to even. -/
def int32 (x : Int) : Nat := (Fl.fin (decide (x < 0)) x.natAbs 0).to32

/-- The quotient a / b in FP32 with one rounding. -/
def div32 (a b : Nat) : Nat := match Fl.of32 a, Fl.of32 b with
  | .nan, _ => nan32
  | _, .nan => nan32
  | .inf _, .inf _ => nan32
  | .inf s, .fin t _ _ => (Fl.inf (s != t)).to32
  | .fin s _ _, .inf t => (Fl.fin (s != t) 0 0).to32
  | .fin s m e, .fin t n f =>
    if n = 0 then (if m = 0 then nan32 else (Fl.inf (s != t)).to32)
    else let (x, y) := scaleQ m n (e - f); round32 (s != t) x y

/-- The order of two patterns as numbers; FALSE where either is NaN. -/
def Fl.lt : Fl → Fl → Bool
  | .nan, _ => false
  | _, .nan => false
  | .inf a, .inf b => a && !b
  | .inf a, _ => a
  | _, .inf b => !b
  | .fin a m e, .fin b n f =>
    let g := min e f
    let x : Int := (m * 2 ^ (e - g).toNat : Nat)
    let y : Int := (n * 2 ^ (f - g).toNat : Nat)
    decide ((if a then -x else x) < (if b then -y else y))

/-- The integer square root, bit by bit from 2^(bits − 1) down. -/
def isqrt (bits n : Nat) : Nat :=
  (List.range bits).reverse.foldl (fun r i => if (r + 2 ^ i) * (r + 2 ^ i) ≤ n then r + 2 ^ i else r) 0

/-- floor(ln 2 · 2^220). -/
def ln2Q220 : Nat := 1167950688773872517954935089893261764285717328480531383045641523573

/-- exp of a value 0 ≤ r / 2^220 < ln 2, scaled by 2^220: 60 terms of the series. -/
def expSeries (r : Nat) : Nat :=
  ((List.range 60).foldl (fun (acc : Nat × Nat) i =>
    let t := acc.2 * r / 2 ^ 220 / (i + 1)
    (acc.1 + t, t)) (2 ^ 220, 2 ^ 220)).1

/-- exp rounded to bfloat16 (R189). The 220-bit working precision decides every rounding (log entry 17). -/
def exp16 (x : Fl) : Nat := match x with
  | .nan => nan16
  | .inf neg => if neg then 0 else 0x7F80
  | .fin neg m e =>
    let (n, d) := scaleQ m 1 e
    if 128 * d ≤ n then (if neg then 0 else 0x7F80)
    else
      let q : Int := if neg then -((n * 2 ^ 220 / d : Nat) : Int) else ((n * 2 ^ 220 / d : Nat) : Int)
      let k := floorDiv q ln2Q220
      let r := (q - k * ln2Q220).toNat
      let (a, b) := scaleQ (expSeries r) (2 ^ 220) k
      round16 false a b

/-- Reciprocal rounded to bfloat16 (R189). -/
def recip16 (x : Fl) : Nat := match x with
  | .nan => nan16
  | .inf neg => ofBool neg * 2 ^ 15
  | .fin neg m e =>
    if m = 0 then ofBool neg * 2 ^ 15 + 0x7F80
    else
      let (n, d) := scaleQ 1 m (-e)
      let w := round16 neg n d
      if w = 2 ^ 15 then 0 else w

/-- Reciprocal square root rounded to bfloat16 (R189). No result lies half-way between two bfloat16 values, so the root's
remainder enters as one sticky bit. -/
def rsqrt16 (x : Fl) : Nat := match x with
  | .nan => nan16
  | .inf neg => if neg then nan16 else 0
  | .fin neg m e =>
    if m = 0 then ofBool neg * 2 ^ 15 + 0x7F80
    else if neg then nan16
    else
      -- 1 / (m·2^e) = 2^(2t) / (m·2^(e + 2t)); e + 2t even or odd is folded into m
      let m2 := if e % 2 = 0 then m else 2 * m
      let h := e.fdiv 2
      let q := 2 ^ 160 / m2
      let s := isqrt 81 q
      let sticky := if s * s * m2 = 2 ^ 160 then 0 else 1
      let (a, b) := scaleQ (2 * s + sticky) (2 ^ 81) (-h)
      round16 false a b

/-- The bfloat16 sum of a list of FP32 products accumulated in ascending order: FMA by FMA (R188). -/
def dot32 (ps : List (Nat × Nat)) : Nat := ps.foldl (fun acc p => fma32 p.1 p.2 acc) 0

/-- Stochastic narrowing of an FP32 pattern with the draw `u` (R362). -/
def narrowDraw (p u : Nat) : Nat :=
  if nonFinite32 p then narrow p
  else
    let sign := p / 2 ^ 31 % 2
    let sum := p % 2 ^ 31 + u % 2 ^ 16
    if 0x7F800000 ≤ sum then sign * 2 ^ 15 + 0x7F80
    else
      let r := sum / 2 ^ 16
      if r / 2 ^ 7 = 0 then sign * 2 ^ 15 else sign * 2 ^ 15 + r

end Sys2Proof.Machine
end

