-- ==== Sys2Proof/Machine/OdTable.lean ====
section
/-! DEFINITION. The object dictionary as tables: every entry's type, rights, range, default, PDO column and Saved column
(Table 14.2 and the tables it names). -/

namespace Sys2Proof.Machine

/-- One field of an Access entry (R13). -/
inductive Right where
  | rw | ro | wo | no
deriving DecidableEq, Repr, Inhabited

/-- The data types of R12. -/
inductive Ty where
  | bool | u8 | u16 | u32 | u64 | i8 | i16 | i32 | i64 | real
  /-- VISIBLE_STRING of at most `n` bytes -/
  | str (n : Nat)
  /-- OCTET_STRING of exactly `n` bytes -/
  | oct (n : Nat)
  /-- OCTET_STRING of at most `n` bytes -/
  | octUpTo (n : Nat)
  | domain
deriving DecidableEq, Repr, Inhabited

/-- The PDO column (R14). -/
inductive Pdo where
  | no | tx | rx
deriving DecidableEq, Repr, Inhabited

/-- The Saved column of Table 14.2. -/
inductive Saved where
  | no | kept | store
deriving DecidableEq, Repr, Inhabited

/-- A row of a table of the object dictionary. -/
structure Row where
  ty : Ty
  steward : Right
  owner : Right
  other : Right
  dflt : OdVal
  /-- accepted values as closed intervals; none listed accepts every value of the type -/
  range : List (Int × Int) := []
  pdo : Pdo := .no
  saved : Saved := .no
deriving DecidableEq, Repr, Inhabited

/-- An object: a variable whose sub-index 0x00 is its value, or a record or array with sub-indices to `count`. -/
structure Obj where
  isVar : Bool
  count : Nat
  row : Nat → Option Row

/-- The width of a type in bytes, where it is fixed. -/
def Ty.size : Ty → Option Nat
  | .bool | .u8 | .i8 => some 1
  | .u16 | .i16 => some 2
  | .u32 | .i32 | .real => some 4
  | .u64 | .i64 => some 8
  | .oct n => some n
  | .str _ | .octUpTo _ | .domain => none

/-- The most bytes a write of the type may carry. -/
def Ty.limit : Ty → Option Nat
  | .str n | .octUpTo n => some n
  | .domain => none
  | t => t.size

/-- Whether a type is held as a byte string. -/
def Ty.isBytes : Ty → Bool
  | .str _ | .oct _ | .octUpTo _ | .domain => true
  | _ => false

/-- Whether a type is read as a signed integer. -/
def Ty.isSigned : Ty → Bool
  | .i8 | .i16 | .i32 | .i64 => true
  | _ => false

/-- The length in bits that a mapping entry must give (R452). -/
def Ty.bits (t : Ty) : Nat := 8 * t.size.getD 0

/-- The value that `data` spells in type `t`. -/
def Ty.decode (t : Ty) (data : List Byte) : OdVal :=
  if t.isBytes then .bytes data
  else if t.isSigned then .num (signed (8 * data.length) (leNat data)) else .num (leNat data)

/-- The bytes of a value of type `t`. -/
def Ty.encode (t : Ty) : OdVal → List Byte
  | .bytes b => b
  | .num n => leInt (t.size.getD 0) n

/-- A number as a value. -/
def numV (n : Int) : OdVal := .num n

/-- Rows of the common shapes. Steward writes, all sessions read, stored. -/
def cfgRow (ty : Ty) (d : Int) (range : List (Int × Int) := []) : Row :=
  ⟨ty, .rw, .no, .ro, .num d, range, .no, .store⟩
/-- Read-only for every session. -/
def statRow (ty : Ty) (d : Int) (pdo : Pdo := .no) : Row := ⟨ty, .ro, .no, .ro, .num d, [], pdo, .no⟩
/-- Steward and owner write, no other session reads, stored. -/
def ownRow (ty : Ty) (d : Int) (range : List (Int × Int) := []) : Row :=
  ⟨ty, .rw, .rw, .no, .num d, range, .no, .store⟩
/-- Read-only for Steward and owner. -/
def ownStat (ty : Ty) (d : Int) (pdo : Pdo := .no) : Row := ⟨ty, .ro, .ro, .no, .num d, [], pdo, .no⟩
/-- Read-only for Steward, owner and every other session. -/
def openStat (ty : Ty) (d : Int) (pdo : Pdo := .no) : Row := ⟨ty, .ro, .ro, .ro, .num d, [], pdo, .no⟩

/-- A variable object. -/
def varObj (r : Row) : Obj := ⟨true, 0, fun i => if i = 0 then some r else none⟩

/-- The default transmission type of every PDO (R454 gives TPDOs 1 to 5; the others and the RPDOs: log entry 3). -/
def defaultPdoType : Int := 254

/-- The default COB-ID of a PDO that has not been written (R454): none stored is −1 and follows the node ID (R469). -/
def unwritten : Int := -1

/-- The default map of a mapping object (Table 13.6), each entry index [31:16], sub-index [15:8], bits [7:0]. -/
def defaultMap (index : Nat) : List Nat :=
  if index = 0x1600 then [0x62000108]
  else if index = 0x1A00 then [0x20000108, 0x20030108, 0x22100910, 0x22100140, 0x22100520, 0x24000220]
  else if 0x1A01 ≤ index ∧ index ≤ 0x1A04 then
    let n := index - 0x1A01
    [(0x6000 + n) * 65536 + 0x0210, (0x6000 + n) * 65536 + 0x0120, (0x6000 + n) * 65536 + 0x0340,
     (0x6000 + n) * 65536 + 0x0410]
  else []

/-- The rights of the transmit objects and the receive objects of Table 14.3. -/
def mapRow (tx : Bool) (ty : Ty) (d : Int) (range : List (Int × Int) := []) : Row :=
  ⟨ty, .rw, .no, if tx then .rw else .ro, .num d, range, .no, .store⟩

/-- The communication profile (Table 14.3). -/
def profileObj (index : Nat) : Option Obj :=
  if index = 0x1000 then some (varObj (statRow .u32 0))
  else if index = 0x1001 then some (varObj (statRow .u8 0 .tx))
  else if index = 0x1008 then some (varObj { statRow (.str 255) 0 with dflt := .bytes (ascii "Holmos HT16") })
  else if index = 0x1009 then some (varObj { statRow (.str 255) 0 with dflt := .bytes [] })
  else if index = 0x100A then some (varObj { statRow (.str 255) 0 with dflt := .bytes (ascii "1.0.0") })
  else if index = 0x1010 ∨ index = 0x1011 then
    some ⟨false, 3, fun i => if 1 ≤ i ∧ i ≤ 3 then some ⟨.u32, .rw, .no, .no, .num 1, [], .no, .no⟩ else none⟩
  else if index = 0x1015 then some (varObj (cfgRow .u16 100))
  else if index = 0x1016 then some ⟨false, 1, fun i => if i = 1 then some (cfgRow .u32 0) else none⟩
  else if index = 0x1017 then some (varObj ⟨.u16, .rw, .no, .rw, .num 100, [], .no, .store⟩)
  else if index = 0x1018 then some ⟨false, 4, fun i => match i with
    | 1 => some (statRow .u32 0x0A7E) | 2 => some (statRow .u32 0x48540016)
    | 3 => some (statRow .u32 0) | 4 => some (statRow .u32 0) | _ => none⟩
  else if index = 0x1029 then some ⟨false, 1, fun i => if i = 1 then some (statRow .u8 1) else none⟩
  else if 0x1400 ≤ index ∧ index ≤ 0x140F then some ⟨false, 2, fun i => match i with
    | 1 => some (mapRow false .u32 unwritten)
    | 2 => some (mapRow false .u8 defaultPdoType [(0, 240), (254, 255)]) | _ => none⟩
  else if (0x1600 ≤ index ∧ index ≤ 0x160F) ∨ (0x1A00 ≤ index ∧ index ≤ 0x1A1F) then
    let tx := decide (0x1A00 ≤ index)
    some ⟨false, 64, fun i =>
      if i = 0 then some (mapRow tx .u8 (defaultMap index).length [(0, 64)])
      else if i ≤ 64 then some (mapRow tx .u32 (((defaultMap index)[i - 1]?).getD 0)) else none⟩
  else if 0x1800 ≤ index ∧ index ≤ 0x181F then some ⟨false, 5, fun i => match i with
    | 1 => some (mapRow true .u32 unwritten)
    | 2 => some (mapRow true .u8 defaultPdoType [(0, 240), (254, 255)])
    | 3 => some (mapRow true .u16 0)
    | 5 => some (mapRow true .u16 (if index = 0x1800 then 100 else 0)) | _ => none⟩
  else if index = 0x1C00 then some ⟨false, 4, fun i => if 1 ≤ i ∧ i ≤ 4 then some (statRow .u8 i) else none⟩
  else if index = 0x1C12 then some ⟨false, 16, fun i =>
      if i = 0 then some (mapRow false .u8 1 [(0, 16)])
      else if i ≤ 16 then some (mapRow false .u16 (if i = 1 then 0x1600 else 0) [(0, 0), (0x1600, 0x160F)])
      else none⟩
  else if index = 0x1C13 then some ⟨false, 32, fun i =>
      if i = 0 then some (mapRow true .u8 5 [(0, 32)])
      else if i ≤ 32 then
        some (mapRow true .u16 (if i ≤ 5 then 0x1A00 + (i - 1 : Nat) else 0) [(0, 0), (0x1A00, 0x1A1F)])
      else none⟩
  else if index = 0x1C32 then some ⟨false, 5, fun i => match i with
    | 1 => some (cfgRow .u16 0 [(0, 2)]) | 5 => some (statRow .u32 250000) | _ => none⟩
  else if index = 0x1C33 then some ⟨false, 6, fun i => match i with
    | 1 => some (cfgRow .u16 0 [(0, 2)]) | 6 => some (statRow .u32 50000) | _ => none⟩
  else if index = 0x1F50 then
    some ⟨false, 1, fun i => if i = 1 then some ⟨.domain, .wo, .no, .no, .bytes [], [], .no, .no⟩ else none⟩
  else none

/-- A shaft (Table 2.2). The ratio of shaft 0 is fixed at 1 : 1. -/
def shaftRow (shaft i : Nat) : Option Row := match i with
  | 1 => some (cfgRow .u8 0 [(0, 4)])
  | 2 => some (cfgRow .u16 60 [(1, 65535)])
  | 3 => some (cfgRow .u8 0 [(0, 3)])
  | 4 => some (cfgRow .u8 0 [(0, 2)])
  | 5 => some (cfgRow .u32 0 [(0, 16777215)])
  | 6 => some (if shaft = 0 then cfgRow .u16 1 [(1, 1)] else cfgRow .u16 0)
  | 7 => some (if shaft = 0 then cfgRow .u16 1 [(1, 1)] else cfgRow .u16 1 [(1, 65535)])
  | 8 => some (cfgRow .bool 0)
  | 9 => some (cfgRow .u16 3000 [(1, 30000)])
  | 10 => some (cfgRow .u32 16384 [(1, 8388608)])
  | 11 => some (cfgRow .u32 16777216 [(1048576, 1073741824)])
  | 12 => some (cfgRow .u32 16384 [(1, 16777216)])
  | 13 => some (cfgRow .u8 4 [(1, 64)])
  | 14 => some (cfgRow .u8 10 [(0, 20)])
  | _ => none

/-- A sensor channel (Table 3.2). -/
def channelRow (c i : Nat) : Option Row := match i with
  | 1 => some (cfgRow .bool 0)
  | 2 => some (cfgRow .u8 0 [(0, 1)])
  | 3 => some (cfgRow .u8 0 [(0, 7)])
  | 4 => some (cfgRow .u8 24 [(16, 16), (24, 24), (32, 32)])
  | 5 => some (cfgRow .u8 32 [(16, 16), (24, 24), (32, 32)])
  | 6 => some (cfgRow .u8 8 [(2, 2), (4, 4), (8, 8)])
  | 7 => some (cfgRow .u32 48000 [(8000, 192000)])
  | 8 => some (cfgRow .u8 0 [(0, 1)])
  | 9 => some (cfgRow .u8 1 [(0, 2)])
  | 10 => some (cfgRow .u8 0 [(0, 3)])
  | 11 => some (cfgRow .u16 1024 [(64, 64), (128, 128), (256, 256), (512, 512), (1024, 1024), (2048, 2048),
      (4096, 4096), (8192, 8192), (16384, 16384)])
  | 12 => some (cfgRow .u8 1 [(1, 2), (4, 4), (8, 8)])
  | 13 => some (cfgRow .u32 0 [(0, 16777215)])
  | 14 => some (cfgRow .u8 c [(0, 7)])
  | 15 => some (cfgRow .u8 0 [(0, 1)])
  | 16 => some (cfgRow .u8 0 [(0, 24)])
  | 17 => some (cfgRow .u8 0 [(0, 1)])
  | 18 => some (statRow .u32 0 .tx)
  | 19 => some (statRow .u32 0 .tx)
  | 20 => some (statRow .u32 0)
  | 21 => some (statRow .u16 0 .tx)
  | 22 => some (statRow .u32 0)
  | _ => none

/-- A camera (Table 3.7). -/
def cameraRow (i : Nat) : Option Row := match i with
  | 1 => some (cfgRow .bool 0)
  | 2 => some (cfgRow .u8 0 [(0, 3)])
  | 3 => some (cfgRow .u16 1 [(1, 65535)])
  | 4 => some (cfgRow .u16 1 [(1, 65535)])
  | 5 => some (cfgRow .i64 0)
  | 6 => some (cfgRow .u8 2 [(0, 2)])
  | 7 => some (cfgRow .u32 1000000 [(1000, 60000000)])
  | 8 => some (cfgRow .u16 100 [(1, 10000)])
  | 9 => some (cfgRow .u32 50000 [(1000, 1000000)])
  | 10 => some (cfgRow .u8 0 [(0, 2)])
  | 11 => some (cfgRow .u16 1280 [(16, 1280)])
  | 12 => some (cfgRow .u16 1024 [(1, 1024)])
  | 13 => some (cfgRow .u16 1500 [(80, 1500)])
  | 14 => some (cfgRow .u16 0 [(0, 1279)])
  | 15 => some (cfgRow .u16 0 [(0, 1023)])
  | 16 => some (cfgRow .u16 1280 [(1, 1280)])
  | 17 => some (cfgRow .u16 1024 [(1, 1024)])
  | 18 => some (cfgRow .u8 0 [(0, 1)])
  | 19 => some (cfgRow .u8 0x10 [(0x08, 0x77)])
  | 20 => some { cfgRow .domain 0 with dflt := .bytes [] }
  | 21 => some (statRow .u32 0 .tx)
  | 22 => some (statRow .u32 0)
  | 23 => some (statRow .u32 0)
  | 24 => some (statRow .u16 0 .tx)
  | _ => none

/-- The objects of the tray itself (Tables 13.5, 14.5 to 14.7, 12.7 to 12.9, 8.10, 2.3). -/
def trayObj (index : Nat) : Option Obj :=
  if index = 0x2000 then some ⟨false, 4, fun i => match i with
    | 1 => some (statRow .u8 0 .tx) | 2 => some ⟨.bool, .rw, .no, .no, .num 1, [], .no, .store⟩
    | 3 => some (statRow .u16 0 .tx) | 4 => some (statRow .u8 0) | _ => none⟩
  else if index = 0x2001 then some (varObj ⟨.u8, .wo, .no, .no, .num 0, [], .no, .no⟩)
  else if index = 0x2002 then some ⟨false, 3, fun i => match i with
    | 1 => some (cfgRow .u8 4 [(0, 4)]) | 2 => some (cfgRow .u8 1 [(0, 4)]) | 3 => some (statRow .u8 0 .tx)
    | _ => none⟩
  else if index = 0x2003 then some ⟨false, 16, fun i => if 1 ≤ i ∧ i ≤ 16 then some (statRow .u8 0 .tx) else none⟩
  else if index = 0x2010 then some ⟨false, 16, fun i => if 1 ≤ i ∧ i ≤ 16 then some (statRow .u32 0 .tx) else none⟩
  else if index = 0x2011 then some ⟨false, 2, fun i => match i with
    | 1 => some { cfgRow .u16 0 with saved := .kept } | 2 => some (statRow .u8 0) | _ => none⟩
  else if index = 0x2020 then some ⟨false, 4, fun i => match i with
    | 1 => some (cfgRow .u8 0x20 [(1, 127)])
    | 2 => some (cfgRow .u16 500 [(125, 125), (250, 250), (500, 500), (1000, 1000)])
    | 3 => some (cfgRow .u16 2000 [(1000, 1000), (2000, 2000), (4000, 4000), (5000, 5000)])
    | 4 => some (statRow .u32 0) | _ => none⟩
  else if index = 0x2021 then some (varObj { cfgRow .u8 0 [(0, 1)] with saved := .kept })
  else if index = 0x2100 then some ⟨false, 0x24, fun i =>
      if i = 1 ∨ i = 2 then some (statRow .u16 0 .tx) else if i = 3 then some (statRow .u32 0 .tx)
      else if i = 4 then some (statRow .u32 0) else if 5 ≤ i ∧ i ≤ 0x14 then some (statRow .u16 0)
      else if 0x15 ≤ i ∧ i ≤ 0x24 then some { statRow (.oct 8) 0 with dflt := .bytes (List.replicate 8 0) }
      else none⟩
  else if index = 0x2110 then some ⟨false, 0x16, fun i =>
      if i = 1 ∨ i = 5 then some (statRow .i16 0 .tx) else if i = 4 then some (statRow .bool 0 .tx)
      else if 1 ≤ i ∧ i ≤ 0x16 then some (statRow .i16 0) else none⟩
  else if 0x2200 ≤ index ∧ index ≤ 0x2203 then some ⟨false, 14, shaftRow (index - 0x2200)⟩
  else if index = 0x2210 then some ⟨false, 0x11, fun i =>
      if 1 ≤ i ∧ i ≤ 4 then some (statRow .i64 0 .tx) else if 5 ≤ i ∧ i ≤ 8 then some (statRow .i32 0 .tx)
      else if 9 ≤ i ∧ i ≤ 12 then some (statRow .u16 0 .tx) else if i = 13 then some (statRow .u64 0 .tx)
      else if 14 ≤ i ∧ i ≤ 17 then some (statRow .u32 0) else none⟩
  else if 0x2300 ≤ index ∧ index ≤ 0x2307 then some ⟨false, 22, channelRow (index - 0x2300)⟩
  else if 0x2310 ≤ index ∧ index ≤ 0x2311 then some ⟨false, 24, cameraRow⟩
  else if index = 0x2400 then some ⟨false, 6, fun i => match i with
    | 1 => some (statRow .u16 0 .tx) | 2 => some (statRow .u32 0 .tx)
    | 3 => some { statRow .domain 0 with dflt := .bytes [] }
    | 4 => some ⟨.u8, .wo, .no, .no, .num 0, [(1, 1)], .no, .no⟩
    | 5 => some (statRow .u32 0) | 6 => some (statRow .u32 0) | _ => none⟩
  else if index = 0x2401 then some ⟨false, 10, fun i => match i with
    | 1 => some (statRow .u16 0 .tx)
    | 2 => some { statRow (.oct 16) 0 with dflt := .bytes (List.replicate 16 0) }
    | 3 => some (statRow .u16 0) | 4 => some (statRow .u8 0) | 5 => some (statRow .u8 0xFF)
    | 6 => some (statRow .u16 0) | 7 => some (statRow .u32 0) | 8 => some (statRow .u32 0)
    | 9 => some (statRow .u8 0xFF)
    | 10 => some { statRow (.oct 16) 0 with dflt := .bytes (List.replicate 16 0) } | _ => none⟩
  else if index = 0x2410 then some ⟨false, 12, fun i =>
      if i = 2 ∨ i = 3 ∨ i = 10 then some (statRow .u32 0 .tx) else if i = 12 then some (statRow .u16 128)
      else if 1 ≤ i ∧ i ≤ 11 then some (statRow .u32 0) else none⟩
  else if index = 0x2420 then some ⟨false, 6, fun i => match i with
    | 1 => some (statRow .u32 0 .tx) | 2 => some (statRow .u32 0 .tx) | 3 => some (statRow .u16 0 .tx)
    | 4 => some (statRow .u16 0 .tx) | 5 => some (statRow .u32 0) | 6 => some (statRow .u32 0) | _ => none⟩
  else if index = 0x2430 then some ⟨false, 9, fun i => match i with
    | 1 => some (cfgRow .u16 60 [(10, 3600)]) | 2 => some (cfgRow .bool 1) | 3 => some (cfgRow .bool 1)
    | 4 => some (cfgRow .u16 100 [(10, 10000)]) | 5 => some (cfgRow .u8 8 [(1, 72)])
    | 6 => some (statRow .u32 0) | 7 => some (statRow .u32 0) | 8 => some (statRow .u32 0)
    | 9 => some (statRow .u32 0) | _ => none⟩
  else none

/-- The parish objects (Tables 11.1, 11.6, 11.7). -/
def parishObj (index : Nat) : Option Obj :=
  if index = 0x2800 then some ⟨false, 13, fun i => match i with
    | 1 => some (cfgRow .bool 0) | 2 => some (cfgRow .u8 0 [(0, 63)]) | 3 => some (cfgRow .u8 0 [(0, 1)])
    | 4 => some (cfgRow .u16 1 [(1, 65535)]) | 5 => some (cfgRow .u64 1) | 6 => some (cfgRow .u64 0)
    | 7 => some (cfgRow .u8 0 [(0, 1)])
    | 8 => some { cfgRow (.oct 8) 0 with dflt := .bytes (List.replicate 8 0) }
    | 9 => some (cfgRow .u16 48613 [(1024, 65535)]) | 10 => some (cfgRow .u32 10000 [(100, 600000)])
    | 11 => some (cfgRow .u16 10 [(1, 1000)]) | 12 => some (cfgRow .u32 500 [(1, 1000000)])
    | 13 => some (cfgRow .u16 0 [(0, 4096)]) | _ => none⟩
  else if index = 0x2801 then some ⟨false, 11, fun i => match i with
    | 1 => some (statRow .u8 0 .tx) | 2 => some (statRow .u8 0xFF .tx) | 3 => some (statRow .u64 0)
    | 4 => some (statRow .u8 0xFF) | 5 => some (statRow .u16 0) | 6 => some (statRow .u64 0)
    | 7 => some (statRow .u32 0xFFFFFFFF) | 8 => some (statRow .u64 0) | 9 => some (statRow .u32 0)
    | 10 => some (statRow .u32 0) | 11 => some (statRow .u32 0) | _ => none⟩
  else if index = 0x2810 then some ⟨false, 12, fun i =>
      if i = 1 ∨ i = 7 then some (statRow .u8 0 .tx) else if i = 6 ∨ i = 12 then some (statRow .u64 0)
      else if 1 ≤ i ∧ i ≤ 12 then some (statRow .u32 0) else none⟩
  else none

/-- An angle event (Table 2.6). -/
def eventRow (i : Nat) : Option Row := match i with
  | 1 => some (ownRow .bool 0)
  | 2 => some (ownRow .u8 0 [(0, 3)])
  | 3 => some (ownRow .u16 1)
  | 4 => some (ownRow .u16 1 [(1, 65535)])
  | 5 => some (ownRow .i64 0)
  | 6 => some (ownRow .u8 0 [(0, 1)])
  | 7 => some (ownRow .u8 0 [(0, 2)])
  | 8 => some (ownRow .u32 100000 [(1000, 60000000)])
  | 9 => some (ownRow .u8 0 [(0, 1)])
  | 10 => some (ownStat .u32 0 .tx)
  | 11 => some (ownStat .i64 0 .tx)
  | 12 => some (ownStat .u32 0)
  | 13 => some (ownStat .u32 0)
  | _ => none

/-- A job record (Table 8.1). -/
def jobRow (i : Nat) : Option Row := match i with
  | 1 => some (ownRow .bool 0)
  | 2 => some { ownRow (.oct 32) 0 with dflt := .bytes (List.replicate 32 0) }
  | 3 => some (ownStat .u32 0 .tx)
  | 4 => some (ownStat .u32 0 .tx)
  | 5 => some (ownStat .u32 0)
  | 6 => some (ownStat .u32 0 .tx)
  | 7 => some (ownStat .u32 0 .tx)
  | 8 => some (ownStat .i64 0 .tx)
  | _ => none

/-- The job statistics of a tenant (Table 8.8). -/
def statsRow (i : Nat) : Option Row :=
  if i = 1 ∨ (7 ≤ i ∧ i ≤ 10) then some (ownStat .u32 0 .tx)
  else if 1 ≤ i ∧ i ≤ 11 then some (ownStat .u32 0) else none

/-- An output set (Table 14.10). -/
def setRow (i : Nat) : Option Row := match i with
  | 1 => some (ownRow .bool 0)
  | 2 => some (ownRow .u8 0xFF [(0, 15), (0xFF, 0xFF)])
  | 3 => some (ownRow .u8 0 [(0, 15)])
  | 4 => some (ownRow .u8 0 [(0, 15)])
  | 5 => some (ownRow .u8 4 [(0, 4)])
  | 6 => some (ownRow .u16 1)
  | 7 => some (ownRow .u32 0 [(0, 1073741824)])
  | 8 => some (ownRow .u8 0)
  | 9 => some (ownRow .i32 0x7FFFFFFF)
  | 10 => some (ownRow .i32 0x7FFFFFFF)
  | 11 => some (ownStat .u32 0)
  | 12 => some (ownStat .u32 0)
  | _ => none

/-- The tenant block (Table 14.8) of tenant `t` at offset `off`. -/
def tenantObj (t off : Nat) : Option Obj :=
  if off = 0 then some ⟨false, 4, fun i => match i with
    | 1 => some ⟨.str 16, .rw, .ro, .ro, .bytes [], [], .no, .kept⟩
    | 2 => some ⟨.u8, .ro, .ro, .ro, .num (if t = 0 then 1 else 0), [], .tx, .kept⟩
    | 3 => some ⟨.u8, .wo, .no, .no, .num 0, [], .no, .no⟩
    | 4 => some (openStat .u16 0) | _ => none⟩
  else if off = 1 then
    let q (ty : Ty) (d : Int) (range : List (Int × Int) := []) : Row := ⟨ty, .rw, .ro, .no, .num d, range, .no, .kept⟩
    let big : Int := if t = 0 then 0xFFFFFFFF else 0
    some ⟨false, 11, fun i => match i with
      | 1 => some (q .u16 0xFFFF) | 2 => some (q .u32 big) | 3 => some (q .u32 big) | 4 => some (q .u32 big)
      | 5 => some (q .u8 1 [(1, 16)]) | 6 => some (q .u8 (if t = 0 then 8 else 0) [(0, 8)]) | 7 => some (q .bool 1)
      | 8 => some (q .bool (if t = 0 then 1 else 0)) | 9 => some (ownStat .u32 0) | 10 => some (ownStat .u32 0)
      | 11 => some (ownStat .u32 0) | _ => none⟩
  else if off = 2 then some ⟨false, 8, fun i => match i with
    | 1 => some ⟨.oct 64, if t = 0 then .ro else .rw, .ro, .ro, .bytes [], [], .no, .kept⟩
    | 2 => some ⟨.oct 16, .ro, .ro, .ro, .bytes [], [], .no, .no⟩
    | 3 => some ⟨.oct 64, .wo, .wo, .wo, .bytes [], [], .no, .no⟩
    | 4 => some (openStat .u8 0)
    | 5 => some ⟨.u8, .wo, .wo, .no, .num 0, [(1, 1)], .no, .no⟩
    | 6 => some ⟨.u32, .rw, .ro, .no, .num 600, [(10, 86400)], .no, .kept⟩
    | 7 => some (ownStat .u32 0)
    | 8 => some ⟨.oct 60, .wo, .no, .no, .bytes [], [], .no, .kept⟩ | _ => none⟩
  else if 0x10 ≤ off ∧ off ≤ 0x1F then some ⟨false, 13, eventRow⟩
  else if 0x20 ≤ off ∧ off ≤ 0x2E then some ⟨false, 8, jobRow⟩
  else if off = 0x2F then some ⟨false, 11, statsRow⟩
  else if off = 0x30 then some ⟨false, 3, fun i =>
      if 1 ≤ i ∧ i ≤ 3 then some { ownStat (.oct 32) 0 with dflt := .bytes (List.replicate 32 0) } else none⟩
  else if 0x40 ≤ off ∧ off ≤ 0x4F then some ⟨false, 12, setRow⟩
  else if off = 0x50 then some ⟨false, 2, fun i => match i with
    | 1 => some (ownRow .u8 1 [(0, 2)]) | 2 => some (ownRow .u8 2 [(2, 16)]) | _ => none⟩
  else none

/-- A model slot (Table 9.9). -/
def slotRow (i : Nat) : Option Row := match i with
  | 1 => some ⟨.u8, .rw, .ro, .ro, .num 0xFF, [(0, 15), (0xFF, 0xFF)], .no, .kept⟩
  | 2 => some ⟨.domain, .wo, .wo, .no, .bytes [], [], .no, .no⟩
  | 3 => some ⟨.u8, .wo, .wo, .no, .num 0, [], .no, .no⟩
  | 4 => some (openStat .u8 0 .tx)
  | 5 => some ⟨.bool, .rw, .rw, .no, .num 1, [], .no, .kept⟩
  | 6 => some (ownStat .u16 0)
  | 7 => some (ownStat .u8 0)
  | 8 => some (ownStat .u8 0)
  | 9 => some (ownStat .u32 0)
  | 10 => some (ownStat .u16 1000)
  | 11 => some (ownStat .u32 0)
  | 12 => some (openStat .u64 0)
  | 13 => some (openStat .u32 0)
  | 14 => some ⟨.u16, .rw, .rw, .no, .num 0, [], .no, .kept⟩
  | 15 => some (ownStat .u16 0)
  | _ => none

/-- The learning objects (Tables 10.1, 10.7, 10.10). REAL32 and bfloat16 ranges are stated on the bit patterns. -/
def learnObj (index : Nat) : Option Obj :=
  let own (ty : Ty) (d : Int) (range : List (Int × Int) := []) : Option Row := some (ownRow ty d range)
  if index = 0x5000 then some ⟨false, 0x16, fun i => match i with
    | 1 => some ⟨.u8, .rw, .ro, .ro, .num 0xFF, [(0, 15), (0xFF, 0xFF)], .no, .store⟩
    | 2 => own .u8 0 | 3 => own .u8 0 [(0, 14)] | 4 => own .u8 0 [(0, 15)] | 5 => own .u16 30000 [(0, 30000)]
    | 6 => own .u8 8 [(1, 64)] | 7 => own .u8 1 [(0, 1)] | 8 => own .u8 2 [(0, 8)] | 9 => own .u8 0 [(0, 2)]
    | 10 => own .u16 10 [(1, 500)] | 11 => own .real 0x3A83126F [(1, 0x7F7FFFFF)]
    | 12 => own .real 0x3F666666 [(0, 0x3F7FFFFF), (0x80000000, 0x80000000)]
    | 13 => own .real 0 [(0, 0x3F7FFFFF), (0x80000000, 0x80000000)]
    | 14 => own .u16 0x3F80 [(1, 0x7F7F)]
    | 15 => own .real 0 [(0, 0x7F7FFFFF), (0x80000000, 0x80000000)]
    | 16 => own .u64 0 | 17 => own .u8 0 [(0, 14)] | 18 => own .u16 1024 [(16, 65535)] | 19 => own .u8 0 [(0, 1)]
    | 20 => own .u8 1 [(1, 16)] | 21 => own .bool 1 | 22 => some (ownStat .u32 0) | _ => none⟩
  else if index = 0x5001 then some ⟨false, 4, fun i => match i with
    | 1 => some (ownStat .i8 12 .tx) | 2 => own .i8 12 [(-16, 24)] | 3 => own .u16 2000 [(1, 65535)]
    | 4 => some (ownStat .u16 0) | _ => none⟩
  else if index = 0x5002 then some ⟨false, 9, fun i => match i with
    | 1 => some (ownStat .u64 0 .tx) | 2 => some (ownStat .u32 0 .tx) | 3 => some (ownStat .u32 0 .tx)
    | 4 => some (ownStat .u32 0) | 5 => some (ownStat .u8 0 .tx) | 6 => some (ownStat .real 0)
    | 7 => some (ownStat .u16 0) | 8 => some (ownStat .u32 0) | 9 => some (ownStat .u32 0) | _ => none⟩
  else if index = 0x5003 then some ⟨false, 2, fun i => match i with
    | 1 => some ⟨.u32, .wo, .wo, .no, .num 0, [], .no, .no⟩
    | 2 => some ⟨.octUpTo 64, .wo, .wo, .no, .bytes [], [], .no, .no⟩ | _ => none⟩
  else none

/-- A condition output (Table 14.11). -/
def conditionRow (i : Nat) : Option Row := match i with
  | 1 => some (openStat .i32 0 .tx)
  | 2 => some (openStat .u16 0 .tx)
  | 3 => some (openStat .i64 0 .tx)
  | 4 => some (openStat .u16 0 .tx)
  | 5 => some (openStat .u8 0xFF)
  | 6 => some (openStat .u8 0xFF)
  | 7 => some (openStat .u8 0xFF)
  | 8 => some (openStat .u32 0 .tx)
  | 9 => some (openStat .u16 0 .tx)
  | 10 => some (openStat .bool 0 .tx)
  | _ => none

/-- A token session (Table 9.10). The stop token not yet written follows the variant's default. -/
def tokenRow (i : Nat) : Option Row :=
  let own (ty : Ty) (d : Int) (range : List (Int × Int) := []) : Option Row :=
    some ⟨ty, .rw, .rw, .no, .num d, range, .no, .no⟩
  match i with
  | 1 => some ⟨.u8, .wo, .wo, .wo, .num 0, [], .no, .no⟩
  | 2 => some (openStat .u8 0xFF)
  | 3 => some (openStat .u8 0 .tx)
  | 4 => own .u8 0
  | 5 => own .u8 0
  | 6 => own .u64 0
  | 7 => own .u16 0x3F80 [(0, 0x7F7F), (0x8000, 0x8000)]
  | 8 => own .u16 1
  | 9 => own .u16 64 [(1, 1024)]
  | 10 => own .u16 unwritten
  | 11 => some ⟨.domain, .wo, .wo, .no, .bytes [], [], .no, .no⟩
  | 12 => some { ownStat .domain 0 with dflt := .bytes [] }
  | 13 => some (ownStat .u16 0 .tx)
  | 14 => some (ownStat .u16 0 .tx)
  | 15 => some (ownStat .u32 0 .tx)
  | 16 => some (ownStat .u8 0)
  | _ => none

/-- The digital outputs (Table 14.12). -/
def outputRow (i : Nat) : Option Row :=
  if i = 1 then some ⟨.u8, .rw, .no, .no, .num 0, [], .rx, .store⟩
  else if 2 ≤ i ∧ i ≤ 5 then some (cfgRow .u8 0 [(0, 2)])
  else if i = 6 then some (cfgRow .u8 0)
  else if i = 7 then some (statRow .u8 0 .tx)
  else if 8 ≤ i ∧ i ≤ 11 then some (cfgRow .u16 1)
  else if i = 12 then some (statRow .u32 0) else none

/-- Replay and trace (Table 11.5). -/
def replayObj (index : Nat) : Option Obj :=
  if index = 0x7000 then some ⟨false, 5, fun i => match i with
    | 1 => some (statRow .u8 0) | 2 => some ⟨.u64, .wo, .no, .no, .num 0, [], .no, .no⟩
    | 3 => some (statRow .u64 0) | 4 => some (statRow .u32 0) | 5 => some (statRow .u64 0) | _ => none⟩
  else if index = 0x7001 then
    some ⟨false, 4, fun i => if 1 ≤ i ∧ i ≤ 4 then some ⟨.u16, .rw, .no, .no, .num 0, [], .no, .no⟩ else none⟩
  else if index = 0x7002 then some (varObj ⟨.domain, .ro, .no, .no, .bytes [], [], .no, .no⟩)
  else none

/-- The object at an index, or none where the index is absent (R464, R468). -/
def odObj (index : Nat) : Option Obj :=
  if index < 0x2000 then profileObj index
  else if index < 0x2800 then trayObj index
  else if index < 0x3000 then parishObj index
  else if index < 0x4000 then tenantObj ((index - 0x3000) / 0x100) (index % 0x100)
  else if index < 0x4100 then some ⟨false, 15, slotRow⟩
  else if index < 0x5000 then none
  else if index < 0x5100 then learnObj index
  else if index < 0x6000 then none
  else if index < 0x6010 then some ⟨false, 10, conditionRow⟩
  else if 0x6100 ≤ index ∧ index < 0x6108 then some ⟨false, 16, tokenRow⟩
  else if index = 0x6200 then some ⟨false, 12, outputRow⟩
  else if 0x7000 ≤ index then replayObj index
  else none

/-- Whether the object carries an entry count of its own at sub-index 0x00 (R11). -/
def isMapping (index : Nat) : Bool :=
  decide ((0x1600 ≤ index ∧ index ≤ 0x160F) ∨ (0x1A00 ≤ index ∧ index ≤ 0x1A1F) ∨ index = 0x1C12 ∨ index = 0x1C13)

/-- The row of an entry, where the entry exists. Sub-index 0x00 of a record is its count, read-only (R11). -/
def odRow (index sub : Nat) : Option Row := (odObj index).bind (fun o => o.row sub)

/-- The default of an entry. -/
def odDefault (index sub : Nat) : OdVal := match odRow index sub with
  | some r => r.dflt
  | none => .num 0

/-- The key of an entry in the store. -/
def odKey (index sub : Nat) : Nat := 256 * index + sub

/-- The default of the entry with key `k`. -/
def odKeyDefault (k : Nat) : OdVal := odDefault (k / 256) (k % 256)

/-- The entry as stored, or its default. -/
def OdStore.get (m : OdStore) (index sub : Nat) : OdVal := (lookupKey (odKey index sub) m).getD (odKeyDefault (odKey index sub))

/-- An entry written: a default removes it, so equal dictionaries are equal lists. -/
def OdStore.set (m : OdStore) (index sub : Nat) (v : OdVal) : OdStore :=
  if v = odKeyDefault (odKey index sub) then eraseKey (odKey index sub) m else insertKey (odKey index sub) v m

/-- The canonical form of the dictionary: keys strictly rising, no entry at its default. -/
def OdStore.wf (m : OdStore) : Bool := sortedFrom 0 m && m.all (fun c => c.2 != odKeyDefault c.1)

end Sys2Proof.Machine
end

