-- ==== Sys2Proof/Machine/Ops.lean ====
section
/-! DEFINITION. The named operations that the meanings share: entries of the dictionary, event records and emergencies,
answers and refusals, rights, levels of the digital outputs, and the change of the tray state. -/

namespace Sys2Proof.Machine

/-! ### Entries -/

/-- The value stored in an entry, or its default. -/
def State.get (s : State) (index sub : Nat) : OdVal := s.od.get index sub

/-- The number stored in an entry. -/
def State.num (s : State) (index sub : Nat) : Int := match s.get index sub with
  | .num n => n
  | .bytes _ => 0

/-- The number stored in an unsigned entry. -/
def State.nat (s : State) (index sub : Nat) : Nat := (s.num index sub).toNat

/-- A BOOLEAN entry. -/
def State.flag (s : State) (index sub : Nat) : Bool := decide (s.num index sub ≠ 0)

/-- The bytes stored in an entry. -/
def State.bytes (s : State) (index sub : Nat) : List Byte := match s.get index sub with
  | .bytes b => b
  | .num _ => []

/-- An entry set. -/
def State.set (s : State) (index sub : Nat) (v : OdVal) : State := { s with od := s.od.set index sub v }

/-- An entry set to a number. -/
def State.setNum (s : State) (index sub : Nat) (n : Int) : State := s.set index sub (.num n)

/-- An entry set to bytes. -/
def State.setBytes (s : State) (index sub : Nat) (b : List Byte) : State := s.set index sub (.bytes b)

/-- A counter raised by `n`, wrapping at the width of its type. -/
def State.add (s : State) (index sub n : Nat) : State :=
  let w := match odRow index sub with
    | some r => r.ty.bits
    | none => 32
  s.setNum index sub (((s.nat index sub + n) % 2 ^ w : Nat) : Int)

/-- A counter raised by 1. -/
def State.bump (s : State) (index sub : Nat) : State := s.add index sub 1

/-- Every entry of an object back at its default. -/
def State.clearObject (s : State) (index : Nat) : State :=
  { s with od := s.od.filter (fun c => decide (c.1 / 256 ≠ index)) }

/-- The index of the tenant block of `t` at offset `off` (R477). -/
def blk (t off : Nat) : Nat := 0x3000 + 0x100 * t + off

/-- The microsecond counter (OD 0x2210:0D, R98): 100 timebase ticks of 10 ns each. -/
def State.micros (s : State) : Nat := s.timebase / 100

/-- Running time in µs, summed across power cycles (R414). -/
def State.running (s : State) : Nat := s.power.ranBefore + s.micros

/-- A free value drawn: its number, and the state after the draw. -/
def State.draw (s : State) : Nat × State := (s.draws, { s with draws := s.draws + 1 })

/-! ### Parts of the state -/

def State.shaft (s : State) (i : Nat) : Shaft := vget s.shafts i
def State.setShaft (s : State) (i : Nat) (x : Shaft) : State := { s with shafts := vset s.shafts i x }
def State.chip (s : State) (c : Nat) : Chip := vget s.chips c
def State.setChip (s : State) (c : Nat) (x : Chip) : State := { s with chips := vset s.chips c x }
def State.modChip (s : State) (c : Nat) (f : Chip → Chip) : State := { s with chips := vmod s.chips c f }
def State.slot (s : State) (n : Nat) : Slot := vget s.slots n
def State.modSlot (s : State) (n : Nat) (f : Slot → Slot) : State := { s with slots := vmod s.slots n f }
def State.tenant (s : State) (t : Nat) : Tenant := vget s.tenants t
def State.modTenant (s : State) (t : Nat) (f : Tenant → Tenant) : State := { s with tenants := vmod s.tenants t f }
def State.job (s : State) (t j : Nat) : JobRun := vget (vget s.jobs t) j
def State.modJob (s : State) (t j : Nat) (f : JobRun → JobRun) : State :=
  { s with jobs := vmod s.jobs t (fun v => vmod v j f) }
def State.ev (s : State) (t e : Nat) : EvRun := vget (vget s.events t) e
def State.modEv (s : State) (t e : Nat) (f : EvRun → EvRun) : State :=
  { s with events := vmod s.events t (fun v => vmod v e f) }
def State.outSet (s : State) (t o : Nat) : SetRun := vget (vget s.sets t) o
def State.modOutSet (s : State) (t o : Nat) (f : SetRun → SetRun) : State :=
  { s with sets := vmod s.sets t (fun v => vmod v o f) }
def State.box (s : State) (n : Net) : Mail := vget s.mail n.num
def State.modBox (s : State) (n : Net) (f : Mail → Mail) : State := { s with mail := vmod s.mail n.num f }
def State.cam (s : State) (k : Nat) : Camera := vget s.cams k
def State.modCam (s : State) (k : Nat) (f : Camera → Camera) : State := { s with cams := vmod s.cams k f }
def State.group (s : State) (g : Nat) : Group := vget s.groups g
def State.modGroup (s : State) (g : Nat) (f : Group → Group) : State := { s with groups := vmod s.groups g f }
def State.token (s : State) (i : Nat) : Token := vget s.tokens i
def State.modToken (s : State) (i : Nat) (f : Token → Token) : State := { s with tokens := vmod s.tokens i f }
def State.pendOf (s : State) (t : Nat) : Pend := vget s.pend t
def State.modPend (s : State) (t : Nat) (f : Pend → Pend) : State := { s with pend := vmod s.pend t f }

/-- A function applied for each number below `n`, in ascending order. -/
def forEach (n : Nat) (s : State) (f : State → Nat → State) : State := (List.range n).foldl f s

/-! ### Tray state -/

/-- The codes of Table 1.8. -/
def TrayState.code : TrayState → Nat
  | .off => 0 | .boot => 1 | .selfTest => 2 | .ready => 3 | .watching => 4 | .learning => 5 | .safeHold => 6
  | .service => 7

/-- Watching jobs are issued (Table 1.8); none once the power-fail sequence has begun (Table 15.7). -/
def State.runs (s : State) : Bool := (s.tray = .watching || s.tray = .learning) && s.power.failing.isNone

/-- The tray is alive: from self-test on (Table 1.10). -/
def State.alive (s : State) : Bool := !(s.tray = .off || s.tray = .boot)

/-! ### Event records -/

/-- The no-angle value of R544. -/
def noAngle : Int := -(2 ^ 63 : Nat)

/-- The angle stamp of a record detected now (R544). -/
def State.stamp (s : State) : Int :=
  if s.alive && decide (s.nat 0x2200 1 ≠ 0) then (s.shaft 0).angle else noAngle

/-- The 16 bytes of a record (Table 17.1). -/
def Record.encode (r : Record) : List Byte :=
  leInt 8 r.angle ++ leBytes 2 r.code ++ leBytes 2 r.unit ++ leBytes 1 r.tenant ++ leBytes 1 r.verdict
    ++ leBytes 2 r.detail

/-- A record of a 16-byte string. -/
def Record.ofBytes (b : List Byte) : Record :=
  ⟨signed 64 (leAt b 0 8), leAt b 8 2, leAt b 10 2, byteAt b 12, byteAt b 13, leAt b 14 2⟩

/-- The tenant field of a record that no tenant concerns. -/
def noTenant : Nat := 0xFF

/-- A record put into the ring of 4 096 (R428). -/
def State.pushLog (s : State) (r : Record) : State :=
  let full := decide (4096 ≤ s.faults.log.length)
  let s := if full then s.bump 0x2400 5 else s
  let old := if full then s.faults.log.drop 1 else s.faults.log
  { s with faults := { s.faults with log := old ++ [r], last := some r } }.bump 0x2400 2

/-- The records written since `old`, which one happening led to without a link among them, by ascending code (R552). -/
def State.orderRecords (s old : State) : State :=
  let le (a b : Record) : Bool := decide (a.code ≤ b.code)
  let n := ((s.nat 0x2400 2 + 2 ^ 32 - old.nat 0x2400 2) % 2 ^ 32)
  let log := s.faults.log.take (s.faults.log.length - n) ++ sortBy le (s.faults.log.drop (s.faults.log.length - n))
  let held := s.boot.held.take old.boot.held.length ++ sortBy le (s.boot.held.drop old.boot.held.length)
  { s with
    faults := { s.faults with log := log, last := if n = 0 then s.faults.last else log.getLast? },
    boot := { s.boot with held := held } }

/-- A record written: into the ring, or held in Reeve before step 13, at most 256 (R500). -/
def State.writeRecord (s : State) (r : Record) : State :=
  if s.store.logPlaced then s.pushLog r
  else if s.boot.held.length < 256 then { s with boot := { s.boot with held := s.boot.held ++ [r] } }
  else s.bump 0x2400 5

/-! ### The error register, the output levels, emergencies -/

/-- A bit of the error register is set by each listed condition (R470). -/
def State.errorRegister (s : State) : Nat :=
  let current := (List.range 4).any (fun i => vget s.outputs.overload i) || s.power.extTripped.toList.any id
  let voltage := s.power.failing.isSome || s.power.band.isSome || s.power.doSupplyMissing
  let temperature := s.faults.capped
  let comm := s.can.hbLost || s.can.errorPassive || s.can.busOff || s.ecat.lossOpen
  let maker := s.chips.toList.any Chip.failed || s.slots.toList.any Slot.unplaced || decide (s.parish.state = 4)
    || s.faults.plateFailed
  let generic := current || voltage || temperature || comm || maker || decide (s.tray = .safeHold)
  ofBool generic + 2 * ofBool current + 4 * ofBool voltage + 8 * ofBool temperature + 16 * ofBool comm
    + 128 * ofBool maker

/-- The controlling network (R433). -/
def State.controlling (s : State) : Net := if s.nat 0x2021 0 = 1 then .can else .ecat

/-- A network in OP or operational. -/
def State.operational (s : State) : Net → Bool
  | .ecat => decide (s.ecat.al = .op)
  | .can => decide (s.can.nmt = .operational)

/-- The OR of the alarms of the enabled output sets that drive output `i` (R486, case 4). -/
def State.alarmLevel (s : State) (i : Nat) : Bool :=
  (List.range 16).any fun t => (List.range 16).any fun o =>
    s.flag (blk t (0x40 + o)) 1 && bit (s.nat (blk t (0x40 + o)) 8) i && (s.outSet t o).alarm

/-- The level of digital output `i` (R486); during the power-fail sequence every level is 0 (Table 15.7). -/
def State.level (s : State) (i : Nat) : Bool :=
  if !s.alive || s.tray = .selfTest || s.tray = .service || s.power.failing.isSome then false
  else if s.tray = .safeHold then bit (s.nat 0x6200 6) i
  else match s.nat 0x6200 (2 + i) with
    | 0 => bit s.outputs.master i
    | 1 => s.alarmLevel i
    | _ => s.runs && !bit s.errorRegister 0

/-- The levels of the field master taken anew: while the controlling network is in OP or operational, and no move of
control holds them (R436, R486 case 3). -/
def State.takeMaster (s : State) : State :=
  if s.operational s.controlling && !s.outputs.holdMaster then
    { s with outputs := { s.outputs with master := s.nat 0x6200 1 } }
  else s

/-- The error code of an emergency for a fault code (Table 13.8). -/
def emergencyCode (code : Nat) : Nat :=
  if code = 0x1101 ∨ code = 0x1102 ∨ code = 0x1104 then 0x4000
  else if code = 0x8301 then 0x8130
  else if code = 0x8302 then 0x8140
  else if code = 0x1201 ∨ code = 0x1203 then 0x2300
  else if code / 0x1000 = 1 then 0x3000
  else if code / 0x1000 = 4 then 0x6200
  else if code / 0x1000 = 5 then 0x5000
  else if code / 0x1000 = 6 ∨ code / 0x1000 = 8 then 0x8100
  else 0xFF00 + code / 0x1000

/-- A network that can carry an emergency (R459): EtherCAT in PREOP and above, CAN FD in pre-operational and
operational. -/
def State.carriesEmergency (s : State) : Net → Bool
  | .ecat => s.ecat.al = .preop || s.ecat.al = .safeop || s.ecat.al = .op
  | .can => (s.can.nmt = .preop || s.can.nmt = .operational) && !s.can.busOff

/-- One emergency on one network, subject to the inhibit time of that network (R459). -/
def State.emergencyOn (s : State) (n : Net) (e : Emergency) : State :=
  let ready := match (s.box n).emcyAt with
    | none => true
    | some t => decide (t + 100 * s.nat 0x1015 0 ≤ s.micros)
  if s.carriesEmergency n && ready then
    s.modBox n (fun b => { b with emcy := e :: b.emcy, emcyAt := some s.micros })
  else s

/-- An emergency on both networks (R459). -/
def State.emergency (s : State) (error fault unit tenant : Nat) : State :=
  let e : Emergency := ⟨error, s.errorRegister, fault, unit, tenant⟩
  (s.emergencyOn .ecat e).emergencyOn .can e

/-- A record that is sent as an emergency (R459): verdict 2 or 3, class 0x1 or class 0x8. -/
def Record.urgent (r : Record) : Bool :=
  r.verdict = 2 || r.verdict = 3 || decide (r.code / 0x1000 = 1) || decide (r.code / 0x1000 = 8)

/-- A record written, and sent where it qualifies. -/
def State.post (s : State) (r : Record) : State :=
  let s := s.writeRecord r
  if r.urgent then s.emergency (emergencyCode r.code) r.code r.unit r.tenant else s

/-- A record of something detected now. -/
def State.raise (s : State) (code unit tenant detail : Nat) : State := s.post ⟨s.stamp, code, unit, tenant, 0, detail⟩

/-- The tray state changes, with the record of R42. -/
def State.enter (s : State) (dest : TrayState) : State :=
  { s with tray := dest }.post ⟨s.stamp, 0x4000, 0, noTenant, 0, s.tray.code * 256 + dest.code⟩

/-- The bytes of a number for an entry; a number that does not fit takes one byte more than the entry holds. -/
def numBytes (index sub v : Nat) : List Byte :=
  let size := ((odRow index sub).bind (fun r => r.ty.size)).getD 1
  if v < 2 ^ (8 * size) then leBytes size v else leBytes (size + 1) v

/-! ### Answers and refusals -/

/-- Why a request is refused: the abort, and what OD 0x2401 shows (Table 14.7). -/
structure Deny where
  abort : Nat
  index : Nat
  sub : Nat
  code : Nat := 0
  record : Option Record := none
  word : Nat := 0xFF
  bits : Nat := 0
  value : Nat := 0
deriving DecidableEq, Repr, Inhabited

/-- A request answered. -/
def State.answer (s : State) (n : Net) (a : Answer) : State := s.modBox n (fun b => { b with answer := a })

/-- OD 0x2401:01 to :09 written together (R476). -/
def State.showRefusal (s : State) (d : Deny) (n : Nat) : State :=
  { s with faults := { s.faults with refusal :=
      ⟨d.code, d.record, d.index, d.sub, d.word, d.bits, d.value % 2 ^ 32, d.abort, n⟩ } }

/-- A request on `n` refused with an SDO abort; a refusal that names a fault writes its record. -/
def State.refuse (s : State) (n : Net) (d : Deny) : State :=
  let s := match d.record with
    | some r => s.post r
    | none => s
  (s.showRefusal d n.num).answer n (.abort d.abort)

/-- A refusal of something whose request has ended: abort 0, network internal (Table 14.7). -/
def State.refuseLate (s : State) (d : Deny) : State := s.showRefusal { d with abort := 0 } 0xFF

/-- A refusal that raises a fault detected now. -/
def Deny.raising (d : Deny) (s : State) (code unit tenant detail : Nat) : Deny :=
  { d with code := code, record := some ⟨s.stamp, code, unit, tenant, 0, detail⟩ }

/-- The abort codes of Table 13.2 that the model names. -/
def abState : Nat := 0x08000022
def abValue : Nat := 0x06090030
def abRights : Nat := 0x06010000
def abReadOnly : Nat := 0x06010002
def abWriteOnly : Nat := 0x06010001
def abControl : Nat := 0x08000021
def abStore : Nat := 0x08000020
def abLength : Nat := 0x06070010
def abTooLong : Nat := 0x06070012
def abMemory : Nat := 0x05040005

/-- A refusal of an entry for the present state (last row of Table 14.1). -/
def notNow (index sub : Nat) (value : Nat := 0) : Deny := { abort := abState, index, sub, value }

/-- A refusal of a value (Table 14.1). -/
def badValue (index sub : Nat) : Deny := { abort := abValue, index, sub }

/-! ### Rights -/

/-- Whose rights a session has on an entry (R13). -/
inductive Role where
  | steward | owner | other
deriving DecidableEq, Repr, Inhabited

/-- The tenant of a network's session. -/
def State.session (s : State) (n : Net) : Option Nat := (s.box n).session.map Session.tenant

/-- The tenant that owns an object, if any. -/
def State.ownerOf (s : State) (index : Nat) : Option Nat :=
  let named (v : Nat) : Option Nat := if v < 16 then some v else none
  if 0x3000 ≤ index ∧ index < 0x4000 then some ((index - 0x3000) / 0x100)
  else if 0x4000 ≤ index ∧ index < 0x4100 then named (s.nat index 1)
  else if 0x5000 ≤ index ∧ index < 0x5100 then named (s.nat 0x5000 1)
  else if 0x6000 ≤ index ∧ index < 0x6010 then named (s.nat index 5)
  else if 0x6100 ≤ index ∧ index < 0x6108 then named (s.nat index 2)
  else none

/-- The role of a session on an object. -/
def State.roleOf (s : State) (who : Option Nat) (index : Nat) : Role :=
  if who = some 0 then .steward else if who.isSome && who == s.ownerOf index then .owner else .other

/-- The entry of the Access column for a role. -/
def Row.right (r : Row) : Role → Right
  | .steward => r.steward
  | .owner => r.owner
  | .other => r.other

/-- The state of tenant `t` (Table 9.1): 0 free, 1 active, 2 suspended. -/
def State.tenantState (s : State) (t : Nat) : Nat := s.nat (blk t 0) 2

/-- An object of a free tenant, which only the Steward reaches (R554). -/
def State.ofFree (s : State) (index : Nat) : Bool :=
  decide (0x3000 ≤ index ∧ index < 0x4000) && decide (s.tenantState ((index - 0x3000) / 0x100) = 0)

/-- The right of a session on an existing entry; sub-index 0x00 of a record is read-only where the role holds a right on
another sub-index (R11). -/
def State.rightOn (s : State) (who : Option Nat) (index sub : Nat) : Right :=
  let role := s.roleOf who index
  if s.ofFree index && role != .steward then .no
  else match odObj index with
    | none => .no
    | some o => match o.row sub with
      | some r => r.right role
      | none => if (List.range (o.count + 1)).any (fun i => match o.row i with
            | some r => decide (i ≠ 0) && r.right role != .no
            | none => false) then .ro else .no

/-- The object and the sub-index exist (R463, R464). -/
def existsDeny (index sub : Nat) : Option Deny := match odObj index with
  | none => some { abort := 0x06020000, index, sub }
  | some o => if (o.row sub).isSome || (sub = 0 && !o.isVar) then none else some { abort := 0x06090011, index, sub }

/-- The service objects of Table 13.1, writable on the non-controlling network. -/
def serviceObject (n : Net) (index sub : Nat) : Bool :=
  (decide (0x3000 ≤ index ∧ index < 0x4000) && decide (index % 0x100 = 2) && (sub = 3 || sub = 5))
  || (decide (0x4000 ≤ index ∧ index < 0x4100) && sub = 2)
  || decide (0x1A00 ≤ index ∧ index ≤ 0x1A1F) || decide (index = 0x1C13)
  || (n = .can && (decide (0x1800 ≤ index ∧ index ≤ 0x181F) || decide (index = 0x1016) || decide (index = 0x1017)))
  || decide (index = 0x2021)

/-- The session that a network carries is one of a suspended tenant (R554). -/
def State.suspendedSession (s : State) (who : Option Nat) : Bool := match who with
  | some t => decide (s.tenantState t = 2)
  | none => false

/-- Rights of a write, rows 1 to 6 of Table 14.1. -/
def State.rightsDeny (s : State) (n : Net) (index sub : Nat) : Option Deny :=
  match existsDeny index sub with
  | some d => some d
  | none => match s.rightOn (s.session n) index sub with
    | .no => some { abort := abRights, index, sub }
    | .ro => some { abort := abReadOnly, index, sub }
    | _ => if n = s.controlling || serviceObject n index sub then none
        else some { abort := abControl, index, sub }

/-- Length and range of a write, rows 7 and 9 of Table 14.1. -/
def valueDeny (index sub : Nat) (data : List Byte) : Option Deny := match odRow index sub with
  | none => some { abort := abReadOnly, index, sub }
  | some r =>
    let long := match r.ty.limit with
      | some m => decide (m < data.length)
      | none => false
    let wrong := match r.ty.size with
      | some m => decide (data.length ≠ m)
      | none => false
    if long then some { abort := abTooLong, index, sub }
    else if wrong then some { abort := abLength, index, sub }
    else match r.ty.decode data with
      | .bytes _ => none
      | .num v =>
        if (r.ty = .bool && decide (1 < v)) || (!r.range.isEmpty && !r.range.any (fun p => decide (p.1 ≤ v ∧ v ≤ p.2)))
        then some (badValue index sub) else none

/-- The state rules that hold for every write (last row of Table 14.1): self-test (R41) and suspension (R554), with the
authentication response and the end of a session excepted. -/
def State.stateDeny (s : State) (n : Net) (index sub : Nat) : Option Deny :=
  let auth := decide (0x3000 ≤ index ∧ index < 0x4000) && decide (index % 0x100 = 2) && (sub = 3 || sub = 5)
  if auth then none
  else if s.tray = .selfTest && !(index = 0x2001) then some (notNow index sub)
  else if s.suspendedSession (s.session n) then some (notNow index sub)
  else none

/-- The mailbox of a network serves SDO requests (Table 1.11, R450): EtherCAT in PREOP, SAFEOP and OP, CAN FD in
pre-operational and operational. -/
def State.serves (s : State) (n : Net) : Bool := s.alive && s.power.failing.isNone && s.carriesEmergency n

/-- An open segmented transfer is abandoned by an initiate (R439). -/
def State.abandonXfer (s : State) (n : Net) : State := match (s.box n).xfer with
  | none => s
  | some x =>
    let s := s.modBox n (fun b => { b with xfer := none, abandoned := true })
    if 0x4000 ≤ x.index ∧ x.index < 0x4100 ∧ x.upload = false then
      s.modSlot (x.index - 0x4000) (fun l => { l with download := none })
    else s

/-- An SDO access reaches a network: the idle limit of its session starts anew (R301). -/
def State.touch (s : State) (n : Net) : State :=
  s.modBox n (fun b => { b with session := b.session.map (fun x => { x with last := s.micros }) })

/-- A request served: nothing happens where the network carries none. -/
def State.serve (s : State) (n : Net) (f : State → State) : State :=
  if s.serves n then f ((s.touch n).abandonXfer n) else s

/-- Why a write is refused, in the order of Table 14.1: rights, length and range, a bad value that the entry's own check finds, the
state rules of every entry, and what else the entry's check finds. -/
def State.writeDeny (s : State) (n : Net) (index sub : Nat) (data : List Byte) (check : Option Deny) : Option Deny :=
  let early := check.filter (fun d => d.record.isNone && (decide (d.abort = abValue) || decide (d.abort = abStore)))
  (s.rightsDeny n index sub) <|> (valueDeny index sub data) <|> early <|> (s.stateDeny n index sub) <|> check

/-- A write of one entry: refused, or given its effect. -/
def State.write (s : State) (n : Net) (index sub : Nat) (data : List Byte) (check : State → Option Deny)
    (act : State → State) : State :=
  s.serve n fun s => match s.writeDeny n index sub data (check s) with
    | some d => s.refuse n d
    | none => (act s).answer n .ok

/-! ### Mappings -/

/-- The entries of a mapping object, as many as its count says: index [31:16], sub-index [15:8], bits [7:0] (R452). -/
def State.mapEntries (s : State) (index : Nat) : List Nat := (List.range (s.nat index 0)).map (fun i => s.nat index (i + 1))

/-- The TPDOs whose mapping names an entry of an object have an update to send (R458). -/
def State.markUpdated (s : State) (index : Nat) : State :=
  let hit (i : Nat) : Bool := (s.mapEntries (0x1A00 + i)).any (fun e => decide (e / 65536 = index))
  { s with can := { s.can with updated := Vector.ofFn (fun i : Fin 32 => vget s.can.updated i || hit i) } }

/-! ### Condition outputs -/

/-- The condition output that a set names, if any. -/
def State.conditionOf (s : State) (t o : Nat) : Option Nat :=
  let n := s.nat (blk t (0x40 + o)) 2
  if n < 16 then some (0x6000 + n) else none

/-- The valid bit and the alarm of a set clear (R482, R483). -/
def State.clearSet (s : State) (t o : Nat) : State :=
  let s := s.modOutSet t o (fun r => { r with valid := false, alarm := false })
  match s.conditionOf t o with
  | some c => if s.flag (blk t (0x40 + o)) 1 then
      (s.setNum c 2 ((s.nat c 2 / 2 * 2 : Nat) : Int)).setNum c 10 0 else s
  | none => s

/-- Every valid bit and alarm clear, as on leaving watching and learning (R482). -/
def State.clearSets (s : State) : State := forEach 16 s fun s t => forEach 16 s fun s o => s.clearSet t o

end Sys2Proof.Machine
end

