-- ==== Sys2Proof/Machine/Operands.lean ====
section
/-! DEFINITION. The operand forms of the engines: the fields of a layer descriptor (Table 6.1), the job descriptor
(Table 8.2), the geometry of windows (R202 to R212), and feature maps as the Loft holds them (chapter 7). -/

namespace Sys2Proof.Machine

/-! ### Layer descriptors -/

/-- A layer descriptor: 64 bytes (R194). -/
structure Desc where
  raw : List Byte
deriving DecidableEq, Repr, Inhabited

/-- Word `i`, little-endian. -/
def Desc.w (d : Desc) (i : Nat) : Nat := leAt d.raw (4 * i) 4
/-- A field of word `i`. -/
def Desc.f (d : Desc) (i hi lo : Nat) : Nat := field (d.w i) hi lo

def Desc.op (d : Desc) : Nat := d.f 0 31 26
def Desc.engine (d : Desc) : Nat := d.f 0 25 24
def Desc.wmode (d : Desc) : Nat := d.f 0 23 22
def Desc.abits (d : Desc) : Nat := d.f 0 21 19 + 1
def Desc.obits (d : Desc) : Nat := d.f 0 18 16 + 1
def Desc.pass (d : Desc) : Nat := d.f 0 15 12
def Desc.passes (d : Desc) : Nat := d.f 0 11 8 + 1
def Desc.epoch (d : Desc) : Nat := d.f 0 7 0
def Desc.inH (d : Desc) : Nat := d.f 1 15 0
def Desc.inW (d : Desc) : Nat := d.f 1 31 16
def Desc.inC (d : Desc) : Nat := d.f 2 15 0
def Desc.outC (d : Desc) : Nat := d.f 2 31 16
def Desc.kh (d : Desc) : Nat := d.f 3 3 0
def Desc.kw (d : Desc) : Nat := d.f 3 7 4
def Desc.strideH (d : Desc) : Nat := d.f 3 11 8 + 1
def Desc.strideW (d : Desc) : Nat := d.f 3 15 12 + 1
def Desc.dilH (d : Desc) : Nat := d.f 3 19 16 + 1
def Desc.dilW (d : Desc) : Nat := d.f 3 23 20 + 1
def Desc.padTop (d : Desc) : Nat := d.f 4 7 0
def Desc.padBottom (d : Desc) : Nat := d.f 4 15 8
def Desc.padLeft (d : Desc) : Nat := d.f 4 23 16
def Desc.padRight (d : Desc) : Nat := d.f 4 31 24
def Desc.rowOff (d : Desc) : Nat := d.f 5 7 0
def Desc.colOff (d : Desc) : Nat := d.f 5 15 8
def Desc.padMode (d : Desc) : Nat := d.f 5 31 30
def Desc.padConst (d : Desc) : Nat := d.f 6 15 0
def Desc.groups (d : Desc) : Nat := d.f 6 31 16
def Desc.inLayout (d : Desc) : Nat := d.f 7 3 0
def Desc.outLayout (d : Desc) : Nat := d.f 7 7 4
def Desc.inCodec (d : Desc) : Nat := d.f 7 11 8
def Desc.outCodec (d : Desc) : Nat := d.f 7 15 12
def Desc.codecParam (d : Desc) : Nat := d.f 7 23 16
def Desc.early (d : Desc) : Bool := bit (d.w 7) 24
def Desc.diag (d : Desc) : Bool := bit (d.w 7) 25
def Desc.accumulate (d : Desc) : Bool := bit (d.w 7) 26
def Desc.transposed (d : Desc) : Bool := bit (d.w 7) 27
def Desc.speculable (d : Desc) : Bool := bit (d.w 7) 28
def Desc.replay (d : Desc) : Bool := bit (d.w 7) 29
def Desc.stoch (d : Desc) : Bool := bit (d.w 7) 30
def Desc.last (d : Desc) : Bool := bit (d.w 7) 31
def Desc.weightBase (d : Desc) : Nat := d.w 8
def Desc.tableBase (d : Desc) : Nat := d.w 9
def Desc.inHandle (d : Desc) : Nat := d.w 10
def Desc.outHandle (d : Desc) : Nat := d.w 11
def Desc.opArg (d : Desc) : Nat := d.f 12 15 0
def Desc.resample (d : Desc) : Nat := d.f 12 17 16
def Desc.factor (d : Desc) : Nat := d.f 12 20 18 + 1
def Desc.divisor (d : Desc) : Bool := bit (d.w 12) 21
def Desc.codeSigned (d : Desc) : Bool := bit (d.w 12) 22
def Desc.globalPool (d : Desc) : Bool := bit (d.w 12) 23
def Desc.poolH (d : Desc) : Nat := d.f 12 27 24 + 1
def Desc.poolW (d : Desc) : Nat := d.f 12 31 28 + 1
def Desc.next (d : Desc) : Nat := d.f 13 15 0
def Desc.barrier (d : Desc) : Nat := d.f 13 31 16
def Desc.tenantTag (d : Desc) : Nat := d.f 15 3 0
def Desc.slotTag (d : Desc) : Nat := d.f 15 15 8
def Desc.check (d : Desc) : Nat := d.f 15 31 16
/-- The check field agrees with bytes 0 to 61 (R196). -/
def Desc.checkOk (d : Desc) : Bool := crc16 (d.raw.take 62) = d.check

/-- The op codes of Table 6.4. -/
def opConv : Nat := 0x01
def opDwconv : Nat := 0x02
def opGconv : Nat := 0x03
def opFc : Nat := 0x04
def opPoolMax : Nat := 0x05
def opPoolAvg : Nat := 0x06
def opUpsample : Nat := 0x07
def opAdd : Nat := 0x08
def opConcat : Nat := 0x09
def opRequant : Nat := 0x0A
def opAttn : Nat := 0x0B
def opSoftmax : Nat := 0x0C
def opEmbed : Nat := 0x0D
def opSelect : Nat := 0x0E
def opStream : Nat := 0x10
def opBwdData : Nat := 0x20
def opBwdWeight : Nat := 0x21
def opOffload : Nat := 0x22
def opPrefetch : Nat := 0x23
def opUpdate : Nat := 0x24

/-- The codes of Table 6.4. -/
def opCodes : List Nat := [1, 2, 3, 4, 5, 6, 7, 8, 9, 10, 11, 12, 13, 14, 16, 32, 33, 34, 35, 36]

/-- A backward descriptor serves a forward descriptor of the row class (Table 6.5): its words 1 to 6 are those of an FC. -/
def Desc.rowServed (d : Desc) : Bool :=
  (d.op = opBwdData || d.op = opBwdWeight) && decide (d.kh = 1 ∧ d.kw = 1 ∧ d.inW = 1 ∧ d.groups = 1)
    && decide (d.w 3 = 0x11 ∧ d.w 4 = 0 ∧ d.w 5 = 0 ∧ d.padConst = 0)

/-- The row class of Table 6.5; BWD_DATA and BWD_WEIGHT take the class of the forward descriptor they serve. -/
def Desc.rowClass (d : Desc) : Bool :=
  d.op = opFc || d.op = opAttn || d.op = opSoftmax || d.op = opEmbed || d.op = opSelect || d.rowServed

def Desc.poolClass (d : Desc) : Bool := d.op = opPoolMax || d.op = opPoolAvg

/-- An op whose output is a rewriting of codes, element by element. -/
def Desc.elementClass (d : Desc) : Bool := d.op = opAdd || d.op = opConcat || d.op = opRequant

/-- The move class of Table 6.5. -/
def Desc.moveClass (d : Desc) : Bool := d.op = opOffload || d.op = opPrefetch || d.op = opUpdate

/-! ### Windows -/

/-- The kernel of a pass group: its extent in rows and columns (R202), the pool window for the pool class. -/
structure Kernel where
  rows : Nat
  cols : Nat
deriving DecidableEq, Repr, Inhabited

/-- The extent over the passes of a group (R202). -/
def kernelOf (group : List Desc) : Kernel :=
  ⟨group.foldl (fun a d => max a (d.rowOff + d.kh)) 0, group.foldl (fun a d => max a (d.colOff + d.kw)) 0⟩

/-- One dimension of the output (R202); 0 stands for the empty output of R203. -/
def outDim (n lo hi dil k stride : Nat) : Nat :=
  let ext := dil * (k - 1) + 1
  if n + lo + hi < ext then 0 else (n + lo + hi - ext) / stride + 1

/-- The output height and width for a window (R202). -/
def Desc.outSize (d : Desc) (k : Kernel) : Nat × Nat :=
  (outDim d.inH d.padTop d.padBottom d.dilH k.rows d.strideH, outDim d.inW d.padLeft d.padRight d.dilW k.cols d.strideW)

/-- The mirrored index (R207). -/
def mirror (i : Int) (n : Nat) : Nat :=
  if n ≤ 1 then 0
  else
    let j := (i % (2 * n - 2 : Nat)).toNat
    if j < n then j else 2 * n - 2 - j

/-- Where a tap of one dimension reads: an image index, or none outside the image under pad modes zero and constant
(Table 6.6). -/
def padIndex (mode : Nat) (i : Int) (n : Nat) : Option Nat :=
  if 0 ≤ i ∧ i < n then some i.toNat
  else if mode = 2 then some (mirror i n)
  else if mode = 3 then some (if i < 0 then 0 else n - 1)
  else none

/-- What a tap reads. -/
inductive Tap where
  | image (y x : Nat)
  /-- outside the image under pad mode zero -/
  | masked
  /-- outside the image under pad mode constant -/
  | const
deriving DecidableEq, Repr

/-- The input of tap (ky, kx) of a pass at output position (oy, ox) (R204, R206). -/
def Desc.tap (d : Desc) (oy ox ky kx : Nat) : Tap :=
  let iy : Int := (oy * d.strideH + d.dilH * (d.rowOff + ky) : Nat) - (d.padTop : Int)
  let ix : Int := (ox * d.strideW + d.dilW * (d.colOff + kx) : Nat) - (d.padLeft : Int)
  match padIndex d.padMode iy d.inH, padIndex d.padMode ix d.inW with
  | some y, some x => .image y x
  | _, _ => if d.padMode = 1 then .const else .masked

/-- Groups as the geometry uses them: 1 for FC and for a field of 0. -/
def Desc.groupCount (d : Desc) : Nat := if d.op = opFc then 1 else max 1 d.groups

/-- Input and output channels per group (R209). -/
def Desc.inCg (d : Desc) : Nat := d.inC / d.groupCount
def Desc.outCg (d : Desc) : Nat := d.outC / d.groupCount

/-- The fan-in of a pass (R209). -/
def Desc.fanIn (d : Desc) : Nat := if d.op = opFc then d.inC else d.kh * d.kw * d.inCg

/-- The largest power of two not above `n`, for n ≥ 1. -/
def pow2Below (n : Nat) : Nat := 2 ^ Nat.log2 n

/-- Groups per work unit under block-diagonal packing (R212). -/
def Desc.packed (d : Desc) : Nat := pow2Below (min (16 / max 1 d.outCg) (256 / max 1 d.fanIn))

/-- Work units per output position (R126, R212). -/
def Desc.unitsPer (d : Desc) : Nat := if d.diag then ceilDiv d.groupCount d.packed else ceilDiv d.outC 16

/-! ### Feature maps -/

/-- A feature map in the Loft: layout and codec (Table 6.3), shape and code width. -/
structure FMap where
  layout : Nat
  codec : Nat
  h : Nat
  w : Nat
  c : Nat
  b : Nat
deriving DecidableEq, Repr, Inhabited

/-- Bytes of an element; 1 for CB32, which has none. -/
def layoutBytes (layout : Nat) : Nat := if layout = 2 ∨ layout = 4 ∨ layout = 5 then 2 else if layout = 6 then 4 else 1

/-- The channel-outer layouts. -/
def FMap.planar (m : FMap) : Bool := m.layout = 3 || m.layout = 4

/-- The code width: that of the descriptor for CB32 and 8-bit elements, else that of the element (R200). -/
def codeWidth (layout bits : Nat) : Nat := if layout = 0 ∨ layout = 1 ∨ layout = 3 then bits else 8 * layoutBytes layout

/-- Rows and values per row (R242). -/
def FMap.rows (m : FMap) : Nat := if m.planar then m.c * m.h else m.h
def FMap.rowLen (m : FMap) : Nat := if m.planar then m.w else m.w * m.c

/-- The element offset of (y, x, c) (R239). -/
def FMap.elem (m : FMap) (y x c : Nat) : Nat :=
  if m.planar then (c * m.h + y) * m.w + x else (y * m.w + x) * m.c + c

/-- The row and the place in it of (y, x, c). -/
def FMap.place (m : FMap) (y x c : Nat) : Nat × Nat := if m.planar then (c * m.h + y, x) else (y, x * m.c + c)

/-- Bytes of a block of a fixed-rate codec, and its code width (R246, R247). -/
def frBytes (codec : Nat) : Nat := if codec = 2 then 8 else 6
def frBits (codec : Nat) : Nat := if codec = 2 then 3 else 2

/-- `n` rounded up to a multiple of 64. -/
def up64 (n : Nat) : Nat := ceilDiv n 64 * 64

/-- The start of row 0 of a ZB buffer (R243). -/
def FMap.zbStart (m : FMap) : Nat := up64 (4 * (m.rows + 1))

/-- The extent in bytes (Table 7.1, R244, R246). -/
def FMap.extent (m : FMap) : Nat :=
  if m.codec = 1 then m.zbStart + m.rows * ceilDiv m.rowLen 32 * (4 + 32 * layoutBytes m.layout)
  else if m.codec = 2 ∨ m.codec = 3 then m.rows * ceilDiv m.rowLen 16 * frBytes m.codec
  else if m.layout = 0 then 4 * m.h * m.w * m.b * ceilDiv m.c 32
  else layoutBytes m.layout * m.h * m.w * m.c

/-- The byte offset of the word that holds plane `p` of channel `c` in CB32 (R237). -/
def FMap.cbWord (m : FMap) (y x c p : Nat) : Nat :=
  4 * (((y * m.w + x) * m.b + (m.b - 1 - p)) * ceilDiv m.c 32 + c / 32)

/-- The code of a CB32 map (R237). -/
def FMap.cbCode (m : FMap) (mem : Nat → Byte) (y x c : Nat) : Nat :=
  (List.range m.b).foldl (fun a p =>
    if bit (mem (m.cbWord y x c p + c % 32 / 8)).toNat (c % 8) then a + 2 ^ p else a) 0

/-- A little-endian number of `n` bytes read through a byte function. -/
def leRead (mem : Nat → Byte) (a : Nat) : Nat → Nat
  | 0 => 0
  | n + 1 => (mem a).toNat + 256 * leRead mem (a + 1) n

/-- The blocks of a ZB row from byte `a`: the values, and the byte after the last block (R242). -/
def zbBlocks (mem : Nat → Byte) (e : Nat) : Nat → Nat → List Nat × Nat
  | a, 0 => ([], a)
  | a, n + 1 =>
    let mask := leRead mem a 4
    let (vals, used) := (List.range 32).foldl (fun (acc : List Nat × Nat) i =>
      if bit mask i then (acc.1 ++ [leRead mem (a + 4 + e * acc.2) e], acc.2 + 1) else (acc.1 ++ [0], acc.2)) ([], 0)
    let (rest, fin) := zbBlocks mem e (a + (4 + e * used + 3) / 4 * 4) n
    (vals ++ rest, fin)

/-- A ZB row decoded (R242, R243). -/
def FMap.zbRow (m : FMap) (mem : Nat → Byte) (r : Nat) : List Nat × Nat :=
  zbBlocks mem (layoutBytes m.layout) (leRead mem (4 * r) 4) (ceilDiv m.rowLen 32)

/-- A ZB row breaks R245: entries decrease or leave the extent, the row does not end at the next entry, or a mask bit at
or beyond V is set. -/
def FMap.zbRowBad (m : FMap) (mem : Nat → Byte) (r : Nat) : Bool :=
  let a := leRead mem (4 * r) 4
  let z := leRead mem (4 * r + 4) 4
  let e := layoutBytes m.layout
  let n := ceilDiv m.rowLen 32
  let tail := if n = 0 then 0 else
    let lastAt := (zbBlocks mem e a (n - 1)).2
    leRead mem lastAt 4 / 2 ^ (m.rowLen - 32 * (n - 1))
  decide (z < a) || decide (m.extent < a) || decide (m.extent < z) || (m.zbRow mem r).2 != z || tail != 0

/-- The first row of a ZB map that breaks R245, of those that a reader decodes. -/
def FMap.zbFaultIn (m : FMap) (decoded : Nat → Bool) (mem : Nat → Byte) : Option Nat :=
  if m.codec = 1 then (List.range m.rows).find? (fun r => decoded r && m.zbRowBad mem r) else none

/-- The first row of a ZB map, read whole, that breaks R245. -/
def FMap.zbFault (m : FMap) (mem : Nat → Byte) : Option Nat := m.zbFaultIn (fun _ => true) mem

/-- The image row that a row of a map holds values of. -/
def FMap.rowY (m : FMap) (r : Nat) : Nat := if m.planar then r % max 1 m.h else r

/-- A value of a fixed-rate map (R249). -/
def FMap.frValue (m : FMap) (mem : Nat → Byte) (r i : Nat) : Nat :=
  let n := frBytes m.codec
  let q := frBits m.codec
  let block := leRead mem ((r * ceilDiv m.rowLen 16 + i / 16) * n) n
  let s := field block 10 8
  let code := block / 2 ^ (16 + q * (i % 16)) % 2 ^ q
  min 255 (field block 7 0 + code * 2 ^ s + (if 0 < s then 2 ^ (s - 1) else 0))

/-- The code at (y, x, c) of a map whose first byte is `mem 0` (R237 to R250). -/
def FMap.code (m : FMap) (mem : Nat → Byte) (y x c : Nat) : Nat :=
  if m.layout = 0 then m.cbCode mem y x c
  else
    let e := layoutBytes m.layout
    let (r, i) := m.place y x c
    if m.codec = 1 then (((m.zbRow mem r).1[i]?).getD 0) % 2 ^ m.b
    else if m.codec = 2 ∨ m.codec = 3 then m.frValue mem r i
    else leRead mem (e * m.elem y x c) e % 2 ^ m.b

/-- The value of a code of `b` bits (Table 4.2). -/
def codeValue (b : Nat) (isSigned : Bool) (code : Nat) : Int :=
  if b = 1 then (if code % 2 = 1 then 1 else -1) else if isSigned then signed b code else (code % 2 ^ b : Nat)

/-- The code of a value of `b` bits. -/
def valueCode (b : Nat) (v : Int) : Nat := if b = 1 then (if 0 < v then 1 else 0) else unsigned b v

/-- The bytes of one element: a code right-justified, extended by its sign (R238). -/
def elemBytes (layout b : Nat) (isSigned : Bool) (code : Nat) : List Byte :=
  let n := layoutBytes layout
  leInt n (if isSigned ∧ 1 < b then signed b code else (code % 2 ^ b : Nat))

/-- A ZB block of up to 32 values (R242). -/
def zbBlock (layout b : Nat) (isSigned : Bool) (vals : List Nat) : List Byte :=
  let mask := bitmap 32 (fun i => (vals[i]?).getD 0 != 0)
  let body := (vals.filter (· != 0)).flatMap (elemBytes layout b isSigned)
  let raw := leBytes 4 mask ++ body
  padTo (ceilDiv raw.length 4 * 4) raw

/-- The smallest shift of R248, from `s` up to 7. -/
def frShift (range lim : Nat) : Nat → Nat
  | 0 => 7
  | n + 1 => if range / 2 ^ (7 - n) ≤ lim then 7 - n else frShift range lim n

/-- A fixed-rate block of 16 values (R248). -/
def frBlock (codec smin : Nat) (vals : List Nat) : List Byte :=
  let q := frBits codec
  let lo := vals.foldl min 255
  let hi := vals.foldl max 0
  let s := max smin (frShift (hi - lo) (2 ^ q - 1) 8)
  let codes := vals.map (fun v => (v - lo) / 2 ^ s)
  leBytes (frBytes codec) (lo % 256 + s * 256 + leNatBits q codes * 2 ^ 16)
where
  /-- Codes of `q` bits packed from bit 0 up. -/
  leNatBits (q : Nat) : List Nat → Nat
    | [] => 0
    | c :: r => c % 2 ^ q + 2 ^ q * leNatBits q r

/-- A row's values, from the values at each place. -/
def FMap.rowVals (m : FMap) (vals : Nat → Nat → Nat → Nat) (r : Nat) : List Nat :=
  (List.range m.rowLen).map (fun i =>
    if m.planar then vals (r % max 1 m.h) i (r / max 1 m.h) else vals r (i / max 1 m.c) (i % max 1 m.c))

/-- A whole map as bytes, padded with zeros to a whole unit of 64 bytes (R235, R237 to R248). -/
def FMap.encode (m : FMap) (isSigned : Bool) (smin : Nat) (vals : Nat → Nat → Nat → Nat) : List Byte :=
  let body :=
    if m.layout = 0 then
      (List.range (m.h * m.w)).flatMap fun pos => (List.range m.b).flatMap fun q =>
        (List.range (ceilDiv m.c 32)).flatMap fun k =>
          leBytes 4 (bitmap 32 fun i => decide (32 * k + i < m.c)
            && bit (vals (pos / m.w) (pos % m.w) (32 * k + i)) (m.b - 1 - q))
    else if m.codec = 1 then
      let rows := (List.range m.rows).map fun r =>
        let v := m.rowVals vals r
        (List.range (ceilDiv m.rowLen 32)).flatMap fun j => zbBlock m.layout m.b isSigned ((v.drop (32 * j)).take 32)
      let index := rows.foldl (fun (acc : List Nat × Nat) row => (acc.1 ++ [acc.2 + row.length], acc.2 + row.length))
        ([m.zbStart], m.zbStart)
      padTo m.zbStart (index.1.flatMap (leBytes 4)) ++ rows.flatten
    else if m.codec = 2 ∨ m.codec = 3 then
      (List.range m.rows).flatMap fun r =>
        let v := m.rowVals vals r
        (List.range (ceilDiv m.rowLen 16)).flatMap fun j =>
          let b := (v.drop (16 * j)).take 16
          frBlock m.codec smin (b ++ List.replicate (16 - b.length) (b.getLastD 0))
    else (List.range m.rows).flatMap fun r => (m.rowVals vals r).flatMap (elemBytes m.layout m.b isSigned)
  padTo (up64 m.extent) body

/-- One code written in place into a map without codec, as address and byte pairs relative to the map's first byte. -/
def FMap.put (m : FMap) (isSigned : Bool) (mem : Nat → Byte) (y x c code : Nat) : List (Nat × Byte) :=
  if m.layout = 0 then
    (List.range m.b).map fun p =>
      let a := m.cbWord y x c p + c % 32 / 8
      (a, BitVec.ofNat 8 (putBit (mem a).toNat (c % 8) (bit code p)))
  else
    let e := layoutBytes m.layout
    (List.range e).map fun i => (e * m.elem y x c + i, ((elemBytes m.layout m.b isSigned code)[i]?).getD 0)

/-- The input map of a descriptor. -/
def Desc.inMap (d : Desc) : FMap := ⟨d.inLayout, d.inCodec, d.inH, d.inW, d.inC, codeWidth d.inLayout d.abits⟩

/-- The output map of a descriptor, of the given height and width. -/
def Desc.outMap (d : Desc) (h w : Nat) : FMap := ⟨d.outLayout, d.outCodec, h, w, d.outC, codeWidth d.outLayout d.obits⟩

/-! ### Job descriptors -/

/-- A job descriptor: 32 bytes (Table 8.2). -/
structure JobDesc where
  raw : List Byte
deriving DecidableEq, Repr, Inhabited

def JobDesc.w (d : JobDesc) (i : Nat) : Nat := leAt d.raw (4 * i) 4
def JobDesc.slot (d : JobDesc) : Nat := field (d.w 0) 7 0
def JobDesc.kind (d : JobDesc) : Nat := field (d.w 0) 10 8
def JobDesc.index (d : JobDesc) : Nat := field (d.w 0) 15 12
def JobDesc.speculate (d : JobDesc) : Bool := bit (d.w 0) 16
def JobDesc.gated (d : JobDesc) : Bool := bit (d.w 0) 17
def JobDesc.gateJob (d : JobDesc) : Nat := field (d.w 0) 21 18
def JobDesc.gateOutput (d : JobDesc) : Nat := field (d.w 0) 25 22
def JobDesc.entry (d : JobDesc) : Nat := field (d.w 1) 15 0
def JobDesc.deadline (d : JobDesc) : Nat := d.w 2
def JobDesc.lead (d : JobDesc) : Nat := d.w 3
def JobDesc.handle (d : JobDesc) : Nat := field (d.w 4) 16 0
def JobDesc.outputSet (d : JobDesc) : Nat := field (d.w 5) 3 0
def JobDesc.publish (d : JobDesc) : Bool := bit (d.w 5) 4
/-- The check over bytes 0 to 29. -/
def JobDesc.checkOk (d : JobDesc) : Bool := crc16 (d.raw.take 30) = field (d.w 7) 31 16

/-- The descriptor that a job record holds. -/
def State.jobDesc (s : State) (t j : Nat) : JobDesc := ⟨s.bytes (blk t (0x20 + j)) 2⟩

/-- A job that is enabled. -/
def State.jobOn (s : State) (t j : Nat) : Bool := s.flag (blk t (0x20 + j)) 1

end Sys2Proof.Machine
end

