-- ==== Sys2Proof/Machine/Mill.lean ====
section
/-! DEFINITION. Counting arithmetic: weight rows, tap values, slice sums, saturating accumulators, threshold and scale
tables, early settle and residues (chapter 4), with the Commons' subset sums (chapter 5). -/

namespace Sys2Proof.Machine

/-- Rows per weight: 1 for binary, 2 for ternary and two-bit (R128). -/
def weightRows (wmode : Nat) : Nat := if wmode = 0 then 1 else 2

/-- The value of a weight from its two row bits (Table 4.1). -/
def weightValue (wmode : Nat) (first second : Bool) : Int :=
  if wmode = 0 then (if first then 1 else -1)
  else if wmode = 1 then (if second then (if first then 1 else -1) else 0)
  else 2 * (if first then 1 else -1) + (if second then 1 else -1)

/-- A row bit of a weight block: group or unit index, slices per group, slice, plane, column, lane within the slice (R128,
R213). -/
def weightBit (gran : Nat → Byte) (base wmode unitIdx slices slice plane col lane : Nat) : Bool :=
  bit (gran (base + (((unitIdx * slices + slice) * weightRows wmode + plane) * 16 + col) * 32 + lane / 8)).toNat (lane % 8)

/-- The weight that a block holds for an output column of a group and a lane. -/
def weightAt (gran : Nat → Byte) (base wmode unitIdx slices slice col lane : Nat) : Int :=
  let row (plane : Nat) := weightBit gran base wmode unitIdx slices slice plane col lane
  weightValue wmode (row 0) (if weightRows wmode = 2 then row 1 else false)

/-- The weight of output channel `o` at fan-in position `i` of a pass (R128, R209, R212, R149). Under the transposed read of
an FC the lanes are the forward output channels and the columns the forward fan-in positions; BWD_DATA carries the fields of
its forward descriptor (R350), whose indices it names. -/
def Desc.weight (d : Desc) (gran : Nat → Byte) (o i : Nat) : Int :=
  let base := 32 * d.weightBase
  if d.diag then
    let p := d.packed
    let g := o / max 1 d.outCg
    let b := g % p
    weightAt gran base d.wmode (g / p) 1 0 (b * d.outCg + o % max 1 d.outCg) (b * d.fanIn + i)
  else if d.transposed ∧ d.op = opFc then weightAt gran base d.wmode (i / 16) (ceilDiv d.outC 256) (o / 256) (i % 16) (o % 256)
  else weightAt gran base d.wmode (o / 16) (ceilDiv d.fanIn 256) (i / 256) (o % 16) (i % 256)

/-- The weight block of a descriptor in bytes (R128, R213, R149; R333 for EMBED, and one byte for each int8 weight). -/
def Desc.weightBytes (d : Desc) : Nat :=
  let k := weightRows d.wmode
  if d.engine = 0 then
    if d.diag then d.unitsPer * k * 512
    else if d.transposed ∧ d.op = opFc then ceilDiv d.inC 16 * ceilDiv d.outC 256 * k * 512
    else ceilDiv d.outC 16 * ceilDiv d.fanIn 256 * k * 512
  else if d.op ≤ opFc then d.outC * d.fanIn
  else if d.op = opEmbed then d.inC * d.outC else 0

/-- The value of a tap outside the image under pad mode constant, as a signed 16-bit number (R208). -/
def Desc.padValue (d : Desc) : Int := signed 16 d.padConst

/-- The activation of output channel `o` at output position (oy, ox) and fan-in position `i`: none where the lane is masked
(R131, R132, R209). `img` reads a value of the image. -/
def Desc.lane (d : Desc) (img : Nat → Nat → Nat → Int) (oy ox o i : Nat) : Option Int :=
  if d.op = opFc then some (img oy 0 i)
  else
    let cg := max 1 d.inCg
    let c := o / max 1 d.outCg * cg + i % cg
    let tap := i / cg
    match d.tap oy ox (tap / max 1 d.kw) (tap % max 1 d.kw) with
    | .image y x => some (img y x c)
    | .masked => none
    | .const => some d.padValue

/-- The contribution of one slice to an output (R134, R135): the exact sum over its lanes. -/
def Desc.sliceSum (d : Desc) (gran : Nat → Byte) (img : Nat → Nat → Nat → Int) (oy ox o slice : Nat) : Int :=
  (List.range (min 256 (d.fanIn - 256 * slice))).foldl (fun a j =>
    let i := 256 * slice + j
    match d.lane img oy ox o i with
    | some v => a + d.weight gran o i * v
    | none => a) 0

/-- The limits of a 24-bit accumulator (R137). -/
def accMax : Int := 2 ^ 23 - 1
def accMin : Int := -2 ^ 23

/-- x modulo 3, from 0 to 2 (R152, R153). -/
def res3 (x : Int) : Nat := (x % 3).toNat

/-- One contribution added to an entry (R137, R153): saturation sticks, and the residue follows the value. -/
def accAdd (e : AccEntry) (x : Int) : AccEntry :=
  if e.sat then e
  else
    let v := e.value + x
    if accMax < v then ⟨accMax, res3 accMax, true⟩
    else if v < accMin then ⟨accMin, res3 accMin, true⟩
    else ⟨v, (e.residue + res3 x) % 3, false⟩

/-- An entry opened at 0 (R136). -/
def accZero : AccEntry := ⟨0, 0, false⟩

/-- Terms of one output in slices of 256, one contribution each (R126, R136). -/
def accTerms (e : AccEntry) (l : List Int) : AccEntry :=
  (List.range (ceilDiv l.length 256)).foldl (fun e s => accAdd e ((l.drop (256 * s)).take 256).sum) e

/-- The entry of an output after every pass of its group, slice by slice (R136). -/
def accumulate (group : List Desc) (gran : Nat → Byte) (img : Nat → Nat → Nat → Int) (oy ox o : Nat) : AccEntry :=
  group.foldl (fun e d =>
    (List.range (ceilDiv d.fanIn 256)).foldl (fun e s => accAdd e (d.sliceSum gran img oy ox o s)) e) accZero

/-! ### Threshold and scale tables -/

/-- A word of a table: header words are entry 0 (R139). -/
def tableWord (gran : Nat → Byte) (base off : Nat) : Nat := leRead gran (32 * base + off) 4

def tableMode (gran : Nat → Byte) (base : Nat) : Nat := field (tableWord gran base 0) 1 0
def tableInSigned (gran : Nat → Byte) (base : Nat) : Bool := bit (tableWord gran base 0) 2
def tableOutSigned (gran : Nat → Byte) (base : Nat) : Bool := bit (tableWord gran base 0) 3

/-- Bytes of an entry (Table 4.5). -/
def entryBytes (mode : Nat) : Nat := if mode = 1 then 64 else 16

/-- Word `i` of the entry of channel `c`. -/
def entryWord (gran : Nat → Byte) (base mode c i : Nat) : Nat := tableWord gran base (32 + c * entryBytes mode + 4 * i)

/-- x / 2^sh rounded half to even (R143). -/
def rhe (x : Int) (sh : Nat) : Int :=
  if sh = 0 then x
  else
    let q := x / (2 ^ sh : Nat)
    let r := x - q * (2 ^ sh : Nat)
    let h : Int := (2 ^ (sh - 1) : Nat)
    if h < r ∨ (r = h ∧ q % 2 = 1) then q + 1 else q

/-- n / d rounded half to even, for d > 0 (R221). -/
def divHe (n : Int) (d : Nat) : Int :=
  let q := n / (d : Int)
  let r := n - q * d
  if (d : Int) < 2 * r ∨ (2 * r = d ∧ q % 2 = 1) then q + 1 else q

/-- A byte field of an entry as an output code (R143). -/
def codeField (isSigned : Bool) (v : Nat) : Int := if isSigned then signed 8 v else (v % 256 : Nat)

/-- The output code of a value `s` (R141 to R143), of `obits` bits. -/
def requant (gran : Nat → Byte) (base obits c : Nat) (s : Int) : Nat :=
  let mode := tableMode gran base
  let w (i : Nat) := entryWord gran base mode c i
  if mode = 0 then
    let above := decide (signed 24 (w 0) ≤ s)
    ofBool (above != bit (w 0) 24)
  else if mode = 1 then
    let n := 2 ^ obits - 1
    let q := ((List.range n).filter (fun j => decide (signed 24 (w (j + 1)) ≤ s))).length
    let q := if bit (w 0) 0 then n - q else q
    if tableOutSigned gran base then unsigned obits ((q : Int) - 2 ^ (obits - 1)) else q
  else
    let os := tableOutSigned gran base
    let y := rhe ((s + signed 24 (w 1)) * signed 16 (w 0)) (field (w 0) 20 16) + codeField os (field (w 2) 7 0)
    unsigned obits (clampInt (codeField os (field (w 2) 15 8)) (codeField os (field (w 2) 23 16)) y)

/-- A mode-2 code before its limits, with the scale exponent of the loss head (R143, R349): rhe((s + β)·m, sh − k) + z. -/
def scaled (gran : Nat → Byte) (base c : Nat) (k s : Int) : Int :=
  let w (i : Nat) := entryWord gran base 2 c i
  let v := (s + signed 24 (w 1)) * signed 16 (w 0)
  let sh := (field (w 0) 20 16 : Int) - k
  (if 0 ≤ sh then rhe v sh.toNat else v * (2 ^ (-sh).toNat : Nat))
    + codeField (tableOutSigned gran base) (field (w 2) 7 0)

/-- The limits of a mode-2 entry. -/
def scaleLimits (gran : Nat → Byte) (base c : Nat) : Int × Int :=
  let w := entryWord gran base 2 c 2
  (codeField (tableOutSigned gran base) (field w 15 8), codeField (tableOutSigned gran base) (field w 23 16))

/-- A mode-2 code is clipped. -/
def scaleClips (gran : Nat → Byte) (base c : Nat) (k s : Int) : Bool :=
  let (lo, hi) := scaleLimits gran base c
  decide (scaled gran base c k s < lo) || decide (hi < scaled gran base c k s)

/-! ### Early settle -/

/-- The sums M+ and M− of an output channel over its fan-in (R144, R148). -/
def Desc.settleSums (d : Desc) (gran : Nat → Byte) (o : Nat) : Nat × Nat :=
  (List.range d.fanIn).foldl (fun (acc : Nat × Nat) i =>
    let v := d.weight gran o i
    if 0 < v then (acc.1 + v.toNat, acc.2) else (acc.1, acc.2 + (-v).toNat)) (0, 0)

/-- The interval of the final result after planes b − 1 down to p, with the running value `acc` (R144). -/
def settleRange (acc : Int) (p mPos mNeg : Nat) : Int × Int :=
  (2 ^ p * acc - (2 ^ p - 1) * (mNeg : Int), 2 ^ p * acc + (2 ^ p - 1) * (mPos : Int))

/-- Whether an output has settled against a threshold, and the bit it settles to before the inversion (R144). -/
def settled (tau acc : Int) (p mPos mNeg : Nat) : Option Bool :=
  let (lo, hi) := settleRange acc p mPos mNeg
  if tau ≤ lo then some true else if hi < tau then some false else none

/-- The plane sum of plane `p` over lanes of weight and code (R134). -/
def planeSum (b p : Nat) (lanes : List (Int × Nat)) : Int :=
  lanes.foldl (fun a l => if b = 1 then a + l.1 * codeValue 1 false l.2 else if bit l.2 p then a + l.1 else a) 0

/-- The running value after planes b − 1 down to `p` (R135). -/
def runningPlanes (b : Nat) (isSigned : Bool) (sums : Nat → Int) (p : Nat) : Int :=
  (List.range (b - p)).foldl (fun acc i =>
    if isSigned ∧ i = 0 then 2 * acc - sums (b - 1) else 2 * acc + sums (b - 1 - i)) 0

/-- The planes combined, most significant first (R135). -/
def combinePlanes (b : Nat) (isSigned : Bool) (sums : Nat → Int) : Int :=
  if b = 1 then sums 0 else runningPlanes b isSigned sums 0

/-- The lanes of an output that are not masked, as weight and activation code (R131). -/
def Desc.lanes (d : Desc) (gran : Nat → Byte) (img : Nat → Nat → Nat → Int) (oy ox o : Nat) : List (Int × Nat) :=
  (List.range d.fanIn).filterMap (fun i => (d.lane img oy ox o i).map (fun v => (d.weight gran o i, valueCode d.abits v)))

/-- Plane `p` of an output's column is gated: the output of an early-settle descriptor has settled after a higher plane, each
tested over all its slices (R144 to R146). -/
def Desc.gated (d : Desc) (gran : Nat → Byte) (img : Nat → Nat → Nat → Int) (oy ox o p : Nat) : Bool :=
  let b := d.abits
  let lanes := d.lanes gran img oy ox o
  let tau := signed 24 (entryWord gran d.tableBase 0 o 0)
  let (mPos, mNeg) := d.settleSums gran o
  d.early && decide (1 < b) && (List.range b).any (fun q => decide (p < q)
    && (settled tau (runningPlanes b (tableInSigned gran d.tableBase) (fun n => planeSum b n lanes) q) q mPos mNeg).isSome)

/-- The residue of a plane sum along the separate path (R152). -/
def planeResidue (b p : Nat) (lanes : List (Int × Nat)) : Nat :=
  lanes.foldl (fun a l =>
    if b = 1 then (a + res3 (l.1 * codeValue 1 false l.2)) % 3 else if bit l.2 p then (a + res3 l.1) % 3 else a) 0

/-! ### Commons -/

/-- Entry `j` of a group of four values: the sum of those that `j` selects (R162). -/
def subsetSum (x : List Int) (j : Nat) : Int :=
  (List.range 4).foldl (fun a i => if bit j i then a + (x[i]?).getD 0 else a) 0

/-- The residue of an entry, from the values along the separate path (R170). -/
def subsetResidue (x : List Int) (j : Nat) : Nat :=
  (List.range 4).foldl (fun a i => if bit j i then (a + res3 ((x[i]?).getD 0)) % 3 else a) 0

/-- The sixteen entries that a builder writes for a group of four values (R162, R170). -/
def buildGroup (x : List Int) : List TableEntry := (List.range 16).map (fun j => ⟨subsetSum x j, subsetResidue x j⟩)

/-- An entry agrees with its stored residue (R170). -/
def TableEntry.good (e : TableEntry) : Bool := res3 e.value == e.residue

/-- An entry or a contribution whose value an upset has changed. -/
def TableEntry.upset (e : TableEntry) : TableEntry := { e with value := e.value + 1 }

/-- A value with its residue added. -/
def TableEntry.plus (a b : TableEntry) : TableEntry := ⟨a.value + b.value, (a.residue + b.residue) % 3⟩

/-- The sum of entries, values and residues each along its path. -/
def entrySum (l : List TableEntry) : TableEntry := l.foldl TableEntry.plus ⟨0, 0⟩

/-- An entry times a number. -/
def TableEntry.times (n : Int) (a : TableEntry) : TableEntry := ⟨n * a.value, res3 (n * a.residue)⟩

/-- The table indices that a group's nibbles look up, one list per sum of Table 5.2. -/
def nibbleLookups (wmode first second : Nat) : Nat × Nat :=
  if wmode = 0 then (first, 15)
  else if wmode = 1 then (Nat.land first second, Nat.land (15 - first % 16) second)
  else (first, second)

/-- Table 5.2: the contribution from the two sums of lookups and the correction of the slice. -/
def sliceForm (wmode : Nat) (a b c : TableEntry) : TableEntry :=
  if wmode = 0 then (a.times 2).plus (c.times (-1))
  else if wmode = 1 then a.plus (b.times (-1))
  else ((a.times 4).plus (b.times 2)).plus (c.times (-3))

/-- The contribution of one group of four to a row (Table 5.2), from the two nibbles of the row. -/
def commonsGroup (wmode : Nat) (x : List Int) (first second : Nat) : Int :=
  let e (j : Nat) : TableEntry := ⟨subsetSum x j, subsetResidue x j⟩
  let (a, b) := nibbleLookups wmode first second
  (sliceForm wmode (e a) (e b) (e 15)).value

/-- The four values of group `n` of a pass at an output position: 0 for a masked tap and beyond the fan-in (R162). The output
channel names its group of input channels. -/
def Desc.groupValues (d : Desc) (img : Nat → Nat → Nat → Int) (oy ox o n : Nat) : List Int :=
  (List.range 4).map (fun i => if 4 * n + i < d.fanIn then (d.lane img oy ox o (4 * n + i)).getD 0 else 0)

/-- The fill of one output position and one segment (R162, R167). -/
def Desc.tableFill (d : Desc) (img : Nat → Nat → Nat → Int) (oy ox o seg : Nat) : TableFill :=
  let n := min 1024 (ceilDiv d.fanIn 4 - 1024 * seg)
  let groups := (List.range n).map (fun g => buildGroup (d.groupValues img oy ox o (1024 * seg + g)))
  { y := oy, x := ox, block := o / max 1 d.outCg, segment := seg, groups := groups,
    corrections := (List.range (ceilDiv n 64)).map (fun s =>
      entrySum (((groups.drop (64 * s)).take 64).map (fun t => (t[15]?).getD ⟨0, 0⟩))) }

/-- The nibble of a slice row that belongs to group `g` of the slice (R162). -/
def Desc.nibble (d : Desc) (gran : Nat → Byte) (o slice plane g : Nat) : Nat :=
  bitmap 4 (fun i => weightBit gran (32 * d.weightBase) d.wmode (o / 16) (ceilDiv d.fanIn 256) slice plane (o % 16) (4 * g + i))

/-- The contribution of slice `s` of a fill to an output channel (R163), with the residue that the slice adder forms (R170). -/
def Desc.lookupSlice (d : Desc) (gran : Nat → Byte) (f : TableFill) (o s : Nat) : TableEntry :=
  let tables := (f.groups.drop (64 * s)).take 64
  let found (pick : Nat × Nat → Nat) : TableEntry := entrySum ((tables.zip (List.range tables.length)).map fun (t, g) =>
    let slice := 16 * f.segment + s
    (t[pick (nibbleLookups d.wmode (d.nibble gran o slice 0 g) (d.nibble gran o slice 1 g))]?).getD ⟨0, 0⟩)
  sliceForm d.wmode (found Prod.fst) (found Prod.snd) ((f.corrections[s]?).getD ⟨0, 0⟩)

/-- The contributions of a fill to an output channel, added slice by slice (R164). -/
def Desc.lookupFill (d : Desc) (gran : Nat → Byte) (f : TableFill) (o : Nat) (e : AccEntry) : AccEntry :=
  (List.range f.corrections.length).foldl (fun e s => accAdd e (d.lookupSlice gran f o s).value) e

/-- Segments of a pass (R167). -/
def Desc.segments (d : Desc) : Nat := ceilDiv (ceilDiv d.fanIn 4) 1024

/-- The entry of an output on the Commons route after every pass (R163, R164). -/
def lookUp (group : List Desc) (gran : Nat → Byte) (img : Nat → Nat → Nat → Int) (oy ox o : Nat) : AccEntry :=
  group.foldl (fun e d => (List.range d.segments).foldl (fun e seg => d.lookupFill gran (d.tableFill img oy ox o seg) o e) e) accZero

end Sys2Proof.Machine
end

