-- ==== Sys2Proof/Machine/LearnMath.lean ====
section
/-! DEFINITION. The arithmetic of a learning step (chapter 10 and R384 to R387): shards, gradient compression, stochastic
narrowing, the fold of the parts, the sum of squares, UPDATE and the rows of the latents. Values are FP32 or bfloat16
patterns. -/

namespace Sys2Proof.Machine

/-- The first and the last-plus-one latent of shard `j` of a layer of `g` row sets among `q` replicas (R357). -/
def shardSpan (g q j : Nat) : Nat × Nat := (256 * (j * g / max 1 q), 256 * ((j + 1) * g / max 1 q))

/-- The part of a layer's values that a shard covers. -/
def shardOf (g q j : Nat) (l : List Nat) : List Nat :=
  let (a, b) := shardSpan g q j
  (l.drop a).take (b - a)

/-- The whole part of a square root below 2^80, bit by bit. -/
def wholeRoot (n : Nat) : Nat := (List.range 80).foldr (fun b r => if (r + 2 ^ b) * (r + 2 ^ b) ≤ n then r + 2 ^ b else r) 0

/-- The square root of an FP32 value, correctly rounded. -/
def sqrt32 (w : Nat) : Nat := match Fl.of32 w with
  | .nan => nan32
  | .inf neg => if neg then nan32 else 0x7F800000
  | .fin neg m e =>
    if m = 0 then w
    else if neg then nan32
    else
      let even : Bool := decide (e % 2 = 0)
      let m1 := if even then m * 2 ^ 120 else m * 2 ^ 121
      let e1 : Int := if even then e - 120 else e - 121
      let r := wholeRoot m1
      Fl.to32 (.fin false (2 * r + (if r * r = m1 then 0 else 1)) (e1 / 2 - 1))

/-- 2^n as FP32, and `w` · 2^n rounded once. -/
def scale32 (w : Nat) (n : Int) : Nat := match Fl.of32 w with
  | .fin neg m e => Fl.to32 (.fin neg m (e + n))
  | _ => w

/-- The magnitude pattern of an FP32 value. -/
def abs32 (w : Nat) : Nat := w % 2 ^ 31

/-- The indices that top-k sends: the largest magnitudes, ties to the lower index, ascending (Table 10.8). -/
def topIndices (k : Nat) (u : List Nat) : List Nat :=
  let all := (u.map abs32).zip (List.range u.length)
  (all.filter (fun p => decide ((all.filter (fun q =>
    decide (p.1 < q.1) || (decide (p.1 = q.1) && decide (q.2 < p.2)))).length < k))).map Prod.snd

/-- The latents that top-k sends of `n` (Table 10.8). -/
def topCount (share n : Nat) : Nat := ceilDiv (share * n) 1000

/-- One shard part encoded (Table 10.8): bytes, decoded values, new residual as FP32. -/
def encodePart (mode share : Nat) (g e : List Nat) : List Byte × List Nat × List Nat :=
  if mode = 0 then (g.flatMap (leBytes 4), g, [])
  else
    let u := (g.zip e).map (fun p => add32 p.1 (widen p.2))
    let n := u.length
    if mode = 1 then
      let pick := topIndices (topCount share n) u
      let at_ (i : Nat) := (u[i]?).getD 0
      (pick.flatMap (fun i => leBytes 4 i ++ leBytes 4 (at_ i)),
       (List.range n).map (fun i => if pick.contains i then at_ i else 0),
       (List.range n).map (fun i => if pick.contains i then 0 else at_ i))
    else
      let a := mul32 (u.foldl (fun s v => add32 s (abs32 v)) 0) (div32 (int32 1) (int32 n))
      let pos (v : Nat) : Bool := decide (v / 2 ^ 31 % 2 = 0) || decide (abs32 v = 0)
      let dec := u.map (fun v => if pos v then a else Nat.xor a (2 ^ 31))
      ((List.range (ceilDiv n 8)).map (fun b => BitVec.ofNat 8 (bitmap 8 (fun i =>
          match u[8 * b + i]? with
          | some v => pos v
          | none => false))) ++ leBytes 4 a,
       dec, (u.zip dec).map (fun p => sub32 p.1 p.2))

/-- A shard part of `n` latents decoded (Table 10.8). -/
def decodePart (mode n : Nat) (b : List Byte) : List Nat :=
  if mode = 0 then (List.range n).map (fun i => leAt b (4 * i) 4)
  else if mode = 1 then
    let pairs := (List.range (b.length / 8)).map (fun i => (leAt b (8 * i) 4, leAt b (8 * i + 4) 4))
    (List.range n).map (fun i => ((pairs.find? (fun p => decide (p.1 = i))).map Prod.snd).getD 0)
  else
    let a := leAt b (ceilDiv n 8) 4
    (List.range n).map (fun i => if bit (byteAt b (i / 8)) (i % 8) then a else Nat.xor a (2 ^ 31))

/-- s_l = 2^−(k + e_l) × γ_l, rounded once (R385). -/
def gradScale (k e : Int) (gamma : Nat) : Nat := scale32 gamma (-(k + e))

/-- The sum of squares of a shard folded on, with the non-finite happenings counted (R385). -/
def squares (s : Nat) (acc : Nat × Nat) (g : List Nat) : Nat × Nat :=
  g.foldl (fun (a : Nat × Nat) v =>
    let x := mul32 v s
    let sum := add32 a.1 (mul32 x x)
    let bad := nonFinite32 v || nonFinite32 x || (nonFinite32 sum && !nonFinite32 a.1)
    (sum, a.2 + ofBool bad)) acc

/-- A bfloat16 value read exactly, subnormals too (R345). -/
def Fl.exact16 (w : Nat) : Fl :=
  if field w 14 7 = 0 then .fin (w.testBit 15) (field w 6 0) (-133) else Fl.of16 w

/-- Twice a value, exactly. -/
def Fl.twice : Fl → Fl
  | .fin neg m e => .fin neg m (e + 1)
  | x => x

/-- The row bits of a latent (Table 10.4): the first and the second plane. The comparisons are exact (R345). -/
def rowBits (wmode delta w : Nat) : Bool × Bool :=
  let x := Fl.exact16 w
  let d := Fl.exact16 delta
  let zero := Fl.fin false 0 0
  let d2 := d.twice
  if wmode = 0 then (!Fl.lt x zero, false)
  else if wmode = 1 then (Fl.lt zero x, Fl.lt d (Fl.exact16 (w % 2 ^ 15)))
  else (!Fl.lt x zero, !Fl.lt x d2 || (!Fl.lt x d2.neg && Fl.lt x zero))

/-- The rows of whole row sets of latents, planes in the order of R128 (R344, R360). -/
def rowsOf (wmode delta : Nat) (lat : List Nat) : List Byte :=
  (List.range (lat.length / 256)).flatMap fun j =>
    let bits := (lat.drop (256 * j)).take 256 |>.map (rowBits wmode delta)
    let plane (f : Bool × Bool → Bool) : List Byte := (List.range 32).map (fun b =>
      BitVec.ofNat 8 (bitmap 8 (fun i => match bits[8 * b + i]? with
        | some p => f p
        | none => false)))
    plane Prod.fst ++ (if wmode = 0 then [] else plane Prod.snd)

/-- The fields of an update region header (Table 10.9). -/
structure UpdateHdr where
  eta : Nat
  beta : Nat
  lambda : Nat
  clip : Nat
  scale : Nat
  first : Nat
  layer : Nat
  step : Nat
  seed : Nat
  stochastic : Bool
deriving DecidableEq, Repr

/-- `x` limited to ±c; a NaN stays. -/
def clip32 (x c : Nat) : Nat :=
  if Fl.of32 x = .nan then x
  else if Fl.lt (Fl.of32 x) (Fl.of32 (Nat.xor c (2 ^ 31))) then Nat.xor c (2 ^ 31)
  else if Fl.lt (Fl.of32 c) (Fl.of32 x) then c else x

/-- One element of UPDATE (R361): the new latent and the new momentum. -/
def updateElem (h : UpdateHdr) (i w m g : Nat) : Nat × Nat :=
  let g := mul32 g h.scale
  let m1 := fma32 h.beta (widen m) g
  let t := fma32 h.lambda (widen w) m1
  let w1 := clip32 (fma32 (Nat.xor h.eta (2 ^ 31)) t (widen w)) h.clip
  let x0 := philox h.seed (h.first + i) h.layer (3 * 256) (h.step % 2 ^ 32)
  if h.stochastic then (narrowDraw w1 x0, narrowDraw m1 (x0 / 2 ^ 16)) else (narrow w1, narrow m1)

/-- UPDATE over a shard (R361). -/
def updateShard (h : UpdateHdr) (lat mom grad : List Nat) : List (Nat × Nat) :=
  (List.range lat.length).map (fun i =>
    updateElem h i ((lat[i]?).getD 0) ((mom[i]?).getD 0) ((grad[i]?).getD 0))

/-- The micro-batch order of a stage (R354): pass 0 forward, 2 backward, with the micro-batch. -/
def stageOrder (sched m p s : Nat) : List (Nat × Nat) :=
  if sched = 0 then (List.range m).map (fun i => (0, i)) ++ (List.range m).map (fun i => (2, i))
  else
    let w := min (p - 1 - s) m
    (List.range w).map (fun i => (0, i)) ++
      (List.range m).flatMap (fun i => (if w + i < m then [(0, w + i)] else []) ++ [(2, i)])

end Sys2Proof.Machine
end

