-- ==== Sys2Proof/Machine/Bundle.lean ====
section
/-! DEFINITION. The Randan bundle (chapter 9): header, section table, signature, digests, decryption, placement variants,
and learning state sections (Tables 9.5 to 9.8, 10.2 and 10.3). -/

namespace Sys2Proof.Machine

/-- A refusal of an admission: code, detail, descriptor word and bits that failed, the value OD 0x2401:07 shows, the chip
named in the unit ID, and the shortfall of OD 0x4000:0B. -/
structure AdmFault where
  code : Nat
  detail : Nat := 0
  word : Nat := 0xFF
  bits : Nat := 0
  value : Nat := 0
  chip : Option Nat := none
  short : Nat := 0
deriving DecidableEq, Repr, Inhabited

/-- A section entry (Table 9.6). -/
structure Section where
  type : Nat
  part : Nat
  variant : Nat
  flags : Nat
  reserved : Nat
  offset : Nat
  length : Nat
  digest : List Byte
deriving DecidableEq, Repr, Inhabited

/-- Section entry `i` of a bundle. -/
def sectionAt (b : List Byte) (i : Nat) : Section :=
  let e := slice b (64 + 48 * i) 48
  ⟨leAt e 0 4, byteAt e 4, byteAt e 5, byteAt e 6, byteAt e 7, leAt e 8 4, leAt e 12 4, slice e 16 32⟩

def sectionCount (b : List Byte) : Nat := leAt b 6 2
def sections (b : List Byte) : List Section := (List.range (sectionCount b)).map (sectionAt b)
def Section.data (x : Section) (b : List Byte) : List Byte := slice b x.offset x.length
def Section.encrypted (x : Section) : Bool := bit x.flags 0

/-- The end of the section table. -/
def tableEnd (b : List Byte) : Nat := 64 + 48 * sectionCount b

def bundleSigner (b : List Byte) : Nat := byteAt b 12
def bundleModelId (b : List Byte) : Nat := leAt b 16 8
def bundleVersion (b : List Byte) : Nat := leAt b 24 4
def bundleMinRevision (b : List Byte) : Nat := leAt b 28 4
def bundleLearnable (b : List Byte) : Bool := bit (byteAt b 13) 1

/-- Every byte is 0. -/
def allZero (b : List Byte) : Bool := b.all (fun x => x == 0)

/-- The longest bundle (R302). -/
def bundleMax : Nat := 1073741824

/-- Header, section table, section bounds and reserved fields (R302, R303, R305). -/
def bundleFormed (b : List Byte) : Bool :=
  let n := b.length
  let l := sections b
  decide (128 ≤ n ∧ n % 64 = 0 ∧ n ≤ bundleMax) && slice b 0 4 == [0x48, 0x4F, 0x4C, 0x42]
    && decide (leAt b 4 2 = 1 ∧ 2 ≤ sectionCount b ∧ sectionCount b ≤ 64 ∧ leAt b 8 4 = n ∧ bundleSigner b < 16)
    && decide (byteAt b 13 < 4) && allZero (slice b 14 2) && allZero (slice b 40 24) && decide (tableEnd b ≤ n - 64)
    && l.all (fun x => decide (1 ≤ x.type ∧ x.type ≤ 4 ∧ x.variant < 16 ∧ x.flags < 2 ∧ x.reserved = 0 ∧ x.offset % 64 = 0
        ∧ tableEnd b ≤ x.offset ∧ x.offset + x.length ≤ n - 64)
      && decide (if x.type = 1 then x.part = 0xFF ∧ x.flags = 0 else x.part < 16))
    && decide (l.Pairwise (fun x y => x.offset + x.length ≤ y.offset ∨ y.offset + y.length ≤ x.offset
        ∨ x.length = 0 ∨ y.length = 0))
    && (List.range (n - 64 - tableEnd b)).all (fun i =>
        let a := tableEnd b + i
        decide (byteAt b a = 0) || l.any (fun x => decide (x.offset ≤ a ∧ a < x.offset + x.length)))
    && (bit (byteAt b 13) 0 == l.any Section.encrypted)

/-- The first section whose digest differs (R303). -/
def badDigest (b : List Byte) : Option Nat :=
  ((List.range (sectionCount b)).find? (fun i => sha256 ((sectionAt b i).data b) != (sectionAt b i).digest))

/-- A section as plain bytes: decrypted under R305 where it is encrypted, none where its tag fails. -/
def plainSection (key : List Byte) (b : List Byte) (i : Nat) : Option (List Byte) :=
  let x := sectionAt b i
  let d := x.data b
  if x.encrypted then
    gcmOpen key (slice b 32 8 ++ leBytes 4 i) (b.take 64) (d.take (d.length - 16)) (d.drop (d.length - 16))
  else some d

/-! ### Placement variants -/

/-- The padded length of a partition's route marks (R308). -/
def routeBytes (d : Nat) : Nat := ceilDiv (ceilDiv d 8) 32 * 32

/-- A partition record at byte `o`, without its images and route marks. -/
def partitionAt (b : List Byte) (o : Nat) : Partition where
  gran := leAt b o 4
  ploft := leAt b (o + 4) 4
  scratchBase := leAt b (o + 8) 4
  scratchUnits := leAt b (o + 12) 4
  copies := byteAt b (o + 16)
  descCount := leAt b (o + 18) 2
  kvBase := leAt b (o + 20) 4
  kvUnits := leAt b (o + 24) 4
  image := []
  loftImage := []
  commons := []

def entryAt (b : List Byte) (o : Nat) : Entry :=
  ⟨leAt b o 2, leAt b (o + 2) 4, leAt b (o + 6) 4, (List.range 4).map (fun i => leAt b (o + 10 + 4 * i) 4)⟩

def handOffAt (b : List Byte) (o : Nat) : HandOff :=
  ⟨byteAt b o, byteAt b (o + 1), byteAt b (o + 2), leAt b (o + 4) 4, leAt b (o + 8) 4, leAt b (o + 12) 4⟩

/-- A placement variant section read under R308, with the partition of its first breach. -/
def variantOf (number : Nat) (b : List Byte) : Except Nat Variant :=
  let p := byteAt b 0
  let e := byteAt b 1
  let h := byteAt b 2
  let vocab := leAt b 8 2
  let batch := byteAt b 10
  let stop := leAt b 12 2
  let kv := leAt b 4 4
  let head := decide (64 ≤ b.length ∧ 1 ≤ p ∧ p ≤ 16 ∧ 1 ≤ e ∧ e ≤ 16 ∧ h ≤ 64 ∧ byteAt b 3 ≤ 1 ∧ byteAt b 11 = 0)
    && allZero (slice b 14 50)
    && (if vocab = 0 then decide (batch = 0 ∧ stop = 0 ∧ kv = 0) else decide (2 ≤ vocab ∧ 1 ≤ batch ∧ batch ≤ 8 ∧ stop < vocab))
  let raw := (List.range p).map (fun q => partitionAt b (64 + 32 * q))
  let e0 := 64 + 32 * p
  let h0 := e0 + 32 * e * p
  let r0 := h0 + 16 * h
  let at_ (q : Nat) : Nat := r0 + ((raw.take q).map (fun x => routeBytes x.descCount)).sum
  if !head || decide (b.length ≠ at_ p) then .error 0
  else
    let okPart (q : Nat) : Bool :=
      let x := (raw[q]?).getD default
      let o := 64 + 32 * q
      decide (x.gran % 32 = 0 ∧ x.ploft % 64 = 0 ∧ 1 ≤ x.copies ∧ x.copies ≤ 6 ∧ byteAt b (o + 17) = 0 ∧ 1 ≤ x.descCount
        ∧ x.descCount ≤ 4096 ∧ 64 * x.descCount ≤ x.gran) && allZero (slice b (o + 28) 4)
        && (vocab ≠ 0 || decide (x.kvBase = 0 ∧ x.kvUnits = 0))
        && (List.range e).all (fun k =>
          let y := entryAt b (e0 + 32 * (k * p + q))
          (decide (y.first = 0xFFFF) || decide (y.first < x.descCount)) && allZero (slice b (e0 + 32 * (k * p + q) + 26) 6))
        && (List.range (8 * routeBytes x.descCount)).all (fun i =>
          decide (i < x.descCount) || !bit (byteAt b (at_ q + i / 8)) (i % 8))
    match (List.range p).find? (fun q => !okPart q) with
    | some q => .error q
    | none =>
      let entries := (List.range e).map (fun k => (List.range p).map (fun q => entryAt b (e0 + 32 * (k * p + q))))
      let goes (k q : Nat) : Bool := decide (((((entries[k]?).getD [])[q]?).getD ⟨0xFFFF, 0, 0, []⟩).first ≠ 0xFFFF)
      let hands := (List.range h).map (fun i => handOffAt b (h0 + 16 * i))
      match (List.range h).find? (fun i =>
          let x := handOffAt b (h0 + 16 * i)
          decide (byteAt b (h0 + 16 * i + 3) ≠ 0 ∨ p ≤ x.src ∨ p ≤ x.dst ∨ x.src = x.dst ∨ e ≤ x.entry)
            || !goes x.entry x.src || !goes x.entry x.dst) with
      | some i => .error (handOffAt b (h0 + 16 * i)).src
      | none =>
        if !(List.range e).all (fun k => (List.range p).any (goes k)) then .error 0
        else .ok {
          number := number, p := p, chain := decide (byteAt b 3 = 1), kvBytes := kv, vocab := vocab, batch := batch,
          stopToken := stop, entries := entries, handOffs := hands, learn := [],
          parts := (List.range p).map (fun q =>
            let x := (raw[q]?).getD default
            { x with commons := (List.range x.descCount).filter (fun i => bit (byteAt b (at_ q + i / 8)) (i % 8)) }) }

/-! ### Learning state -/

/-- A layer record at byte `o` (Table 10.3). -/
def layerRecAt (b : List Byte) (o : Nat) : LayerRec where
  layer := leAt b o 2
  fwd := leAt b (o + 2) 2
  wgt := leAt b (o + 4) 2
  wmode := byteAt b (o + 6)
  exp := signed 8 (byteAt b (o + 7))
  rowSets := leAt b (o + 8) 4
  delta := leAt b (o + 12) 2
  gamma := leAt b (o + 16) 4
  rate := leAt b (o + 20) 4
  buffer := leAt b (o + 24) 4

/-- A finite, positive FP32 pattern; and one that is finite and not negative. -/
def posFinite32 (w : Nat) : Bool := decide (0 < w ∧ w < 0x7F800000)
def nonNegFinite32 (w : Nat) : Bool := decide (w < 0x7F800000) || decide (w = 0x80000000)

/-- A layer record keeps Table 10.3 against its partition. -/
def layerRecOk (x : Partition) (r : LayerRec) (b : List Byte) (o : Nat) : Bool :=
  let desc (i : Nat) : Desc := ⟨slice x.image (64 * i) 64⟩
  let fwd := desc r.fwd
  decide (r.layer < 1024 ∧ r.fwd < x.descCount ∧ r.wgt < x.descCount ∧ r.wmode < 3 ∧ leAt b (o + 14) 2 = 0)
    && allZero (slice b (o + 28) 4) && posFinite32 r.gamma && nonNegFinite32 r.rate
    && decide (fwd.wmode = r.wmode ∧ fwd.pass = 0 ∧ (desc r.wgt).op = opBwdWeight)
    && decide (fwd.weightBytes = 32 * weightRows r.wmode * r.rowSets)
    && (if r.wmode = 0 then decide (r.delta = 0) else if r.wmode = 1 then decide (r.delta < 0x7F80 ∨ r.delta = 0x8000)
        else decide (0 < r.delta ∧ r.delta < 0x7F80))

/-- Bytes of a layer's latents, padded. -/
def latentBytes (r : LayerRec) : Nat := up64 (512 * r.rowSets)

/-- A learning state section (R343): none where it breaks its tables. -/
def learnPartOf (part e : Nat) (x : Partition) (b : List Byte) : Option LearnPart :=
  let n := leAt b 0 2
  let recs := (List.range n).map (fun i => layerRecAt b (64 + 32 * i))
  let start := 64 + 32 * n
  let lat (i : Nat) : Nat := start + ((recs.take i).map latentBytes).sum
  let ok := decide (n ≤ 256 ∧ (byteAt b 2 < e ∨ byteAt b 2 = 0xFF) ∧ byteAt b 3 < e ∧ 1 ≤ byteAt b 12 ∧ byteAt b 12 ≤ 16
      ∧ byteAt b 13 ≤ 1 ∧ leAt b 16 4 % 64 = 0 ∧ (byteAt b 24 = 1 ∨ byteAt b 24 = 2)
      ∧ (byteAt b 13 = 0 ∨ (leAt b 14 2 < x.descCount
        ∧ (⟨slice x.image (64 * leAt b 14 2) 64⟩ : Desc).op = opRequant)))
    && allZero (slice b 25 39) && decide (b.length = lat n)
    && (List.range n).all (fun i => layerRecOk x ((recs[i]?).getD default) b (64 + 32 * i))
  if ok then some {
    part := part, restore := byteAt b 2, backward := byteAt b 3, savedBase := leAt b 4 4, savedUnits := leAt b 8 4,
    copies := byteAt b 12, lossHead := decide (byteAt b 13 = 1), lossDesc := leAt b 14 2, offload := leAt b 16 4,
    target := leAt b 20 4, targetLayout := byteAt b 24, layers := recs,
    latents := (List.range n).map (fun i => (List.range (256 * ((recs[i]?).getD default).rowSets)).map (fun j =>
      leAt b (lat i + 2 * j) 2)) }
  else none

/-! ### Weight blocks -/

/-- The partition record. -/
def Variant.part (v : Variant) (p : Nat) : Partition := (v.parts[p]?).getD default

/-- Descriptor `i` of a partition's image. -/
def Partition.desc (x : Partition) (i : Nat) : Desc := ⟨slice x.image (64 * i) 64⟩

/-- A weight block of an image: its bytes, the lowest descriptor that names it, and where it begins. -/
structure WeightBlock where
  size : Nat
  index : Nat
  start : Nat
deriving DecidableEq, Repr, Inhabited

/-- The weight blocks of a partition's engine-0 and engine-1 descriptors, in descending size, ties to the lower index (R320). A
block that several descriptors name stands once. -/
def Partition.blocks (x : Partition) : List WeightBlock :=
  let all := (List.range x.descCount).filterMap fun i =>
    let d := x.desc i
    if (d.engine = 0 ∨ d.engine = 1) ∧ 0 < d.weightBytes then some (⟨d.weightBytes, i, 32 * d.weightBase⟩ : WeightBlock) else none
  sortBy (fun a b => decide (b.size < a.size ∨ (a.size = b.size ∧ a.index ≤ b.index)))
    (all.filter (fun b => !all.any (fun o => decide (o.start = b.start ∧ o.size = b.size ∧ o.index < b.index))))

/-- The blocks that a tight fit streams: the largest, up to the streamed bytes (R320). -/
def Partition.streamedBlocks (x : Partition) (streamed : Nat) : List WeightBlock :=
  (x.blocks.foldl (fun (a : List WeightBlock × Nat) b =>
    if a.2 + b.size ≤ streamed then (a.1 ++ [b], a.2 + b.size) else a) ([], 0)).1

/-- Blocks as disjoint rising intervals of the image. -/
def spansOf (l : List WeightBlock) : List (Nat × Nat) :=
  ((sortBy (fun a b => decide (a.start ≤ b.start)) l).foldl (fun (a : List (Nat × Nat) × Nat) b =>
    let lo := max a.2 b.start
    let hi := b.start + b.size
    if lo < hi then (a.1 ++ [(lo, hi)], hi) else a) ([], 0)).1

def inSpans (l : List (Nat × Nat)) (a : Nat) : Bool := l.any (fun q => decide (q.1 ≤ a ∧ a < q.2))

/-- How many bytes of the intervals lie below an image offset. -/
def spanBelow (l : List (Nat × Nat)) (a : Nat) : Nat := (l.map (fun q => min a q.2 - min a q.1)).sum

/-- The bytes of an image outside the intervals, in order: what the Granary keeps of it (R320). -/
def packed (l : List (Nat × Nat)) (image : List Byte) : List Byte :=
  if l.isEmpty then image
  else ((image.zip (List.range image.length)).filter (fun q => !inSpans l q.2)).map Prod.fst

/-- The intervals of a partition's image that are streamed on a chip. -/
def Model.spansOn (m : Model) (c q : Nat) : List (Nat × Nat) := match m.placed[q]? with
  | some p => if p.chip = c ∧ 0 < p.streamed then spansOf ((m.variant.part q).streamedBlocks p.streamed) else []
  | none => []

/-- The learnable layers of a partition in record order. -/
def Variant.layersOn (v : Variant) (q : Nat) : List LayerRec :=
  (v.learn.filter (fun l => decide (l.part = q))).flatMap LearnPart.layers

/-- Bytes of a learnable layer's weight block (R344), and where it begins in the image. -/
def LayerRec.blockBytes (r : LayerRec) : Nat := 32 * weightRows r.wmode * r.rowSets
def Variant.blockAt (v : Variant) (q : Nat) (r : LayerRec) : Nat := 32 * ((v.part q).desc r.fwd).weightBase

/-- The second copies of the weight blocks of learnable layers (R365). -/
def Variant.second (v : Variant) (q : Nat) : Nat := ((v.layersOn q).map LayerRec.blockBytes).sum

/-- Where an image byte of a learnable layer lies among the second copies, which follow each other in record order. -/
def Variant.secondAt (v : Variant) (q a : Nat) : Option Nat :=
  let l := v.layersOn q
  (List.range l.length).findSome? fun n => (l[n]?).bind fun r =>
    let b := v.blockAt q r
    if b ≤ a ∧ a < b + r.blockBytes then some (((l.take n).map LayerRec.blockBytes).sum + (a - b)) else none

/-- Where an image byte of a partition lies in its region on a chip: in the packed image, or behind it in the second copy of its
layer; none where it is streamed (R320, R365). -/
def Model.granPlace (m : Model) (c q : Nat) (side : Bool) (a : Nat) : Option Nat :=
  let l := m.spansOn c q
  match (if side then m.variant.secondAt q a else none) with
  | some n => some ((m.variant.part q).gran - spanBelow l (m.variant.part q).gran + n)
  | none => if inSpans l a then none else some (a - spanBelow l a)

/-! ### The variants of a bundle with their images -/

/-- A variant with the images and learning states of its partitions from the plain sections, or the partition that breaks
R304. -/
def attach (secs : List (Section × List Byte)) (v : Variant) : Except Nat Variant :=
  let mine := secs.filter (fun s => decide (s.1.variant = v.number ∧ s.1.type ≠ 1))
  let of (ty q : Nat) : List (List Byte) :=
    (mine.filter (fun s => decide (s.1.type = ty ∧ s.1.part = q))).map Prod.snd
  match mine.find? (fun s => decide (v.p ≤ s.1.part)) with
  | some s => .error s.1.part
  | none =>
    let img (q : Nat) : Partition :=
      let x := v.part q
      { x with image := ((of 2 q)[0]?).getD [], loftImage := ((of 3 q)[0]?).getD [] }
    let bad (q : Nat) : Bool :=
      let x := v.part q
      decide ((of 2 q).length ≠ 1) || decide ((img q).image.length ≠ x.gran) || decide (1 < (of 3 q).length)
        || decide (x.ploft < (img q).loftImage.length) || decide (1 < (of 4 q).length)
        || (match of 4 q with
          | [b] => (learnPartOf q v.entries.length (img q) b).isNone
          | _ => false)
    match (List.range v.p).find? bad with
    | some q => .error q
    | none =>
      let learn : List LearnPart := (List.range v.p).filterMap (fun q => match of 4 q with
        | [b] => learnPartOf q v.entries.length (img q) b
        | _ => none)
      let nums : List Nat := learn.flatMap (fun l => l.layers.map LayerRec.layer)
      if nums.Nodup then .ok { v with parts := (List.range v.p).map img, learn := learn } else .error 0

/-- Every placement variant of a bundle in ascending p, or the refusal 0x4B02 (R313, R314). -/
def variantsOf (secs : List (Section × List Byte)) : Except AdmFault (List Variant) :=
  let bad (v q : Nat) : AdmFault := { code := 0x4B02, detail := v * 256 + q }
  let heads := secs.filter (fun s => decide (s.1.type = 1))
  let numbers := heads.map (fun s => s.1.variant)
  if heads.isEmpty ∨ ¬numbers.Nodup then .error (bad (numbers.headD 0) 0)
  else match secs.find? (fun s => !numbers.contains s.1.variant) with
    | some s => .error (bad s.1.variant s.1.part)
    | none =>
      let build (acc : Except AdmFault (List Variant)) (s : Section × List Byte) : Except AdmFault (List Variant) :=
        match acc with
        | .error f => .error f
        | .ok l => match variantOf s.1.variant s.2 with
          | .error q => .error (bad s.1.variant q)
          | .ok v => match attach secs v with
            | .error q => .error (bad s.1.variant q)
            | .ok v => if l.any (fun u => decide (u.p = v.p)) then .error (bad v.number 0) else .ok (l ++ [v])
      match heads.foldl build (.ok []) with
      | .error f => .error f
      | .ok l => .ok (sortBy (fun a b => decide (a.p ≤ b.p)) l)

end Sys2Proof.Machine
end

