-- ==== Sys2Proof/Machine/Smithy.lean ====
section
/-! DEFINITION. What the Smithy and the Bellwether compute (chapters 5 and 6; R333, R334). -/

namespace Sys2Proof.Machine

/-- What an engine reads: the Granary and the Loft of the slot's regions, the event index of the trigger, and for a token
step the valid keys and the sampling operands of a row: seed, temperature, top-k, position, session; the draw of an output
element for stochastic narrowing (R362), and the loss scale exponent where the descriptor is the loss head (R349). -/
structure EngineCtx where
  gran : Nat → Byte
  loft : Nat → Byte
  k : Nat
  valid : Nat → Option Nat
  sample : Nat → Option (Nat × Nat × Nat × Nat × Nat)
  noise : Nat → Nat
  lossK : Option Int

/-- What a descriptor leaves: bytes relative to its output handle, whether an element-wise result saturated, the tokens
that SELECT chose, the row of a ZB fault (R245), and what Table 10.6 counts: clipped codes of the loss head and results that
are not finite. -/
structure EngineOut where
  writes : List (Nat × Byte) := []
  sat : Bool := false
  tokens : List Nat := []
  zb : Option Nat := none
  clips : Nat := 0
  bad : Nat := 0
deriving DecidableEq, Repr, Inhabited

/-- Bytes at rising offsets from `a`. -/
def atOffsets (a : Nat) : List Byte → List (Nat × Byte)
  | [] => []
  | b :: r => (a, b) :: atOffsets (a + 1) r

/-- The bytes of the buffer at a Loft handle. -/
def EngineCtx.buf (x : EngineCtx) (handle : Nat) : Nat → Byte := fun a => x.loft (64 * handle + a)

/-- Whether the codes of a descriptor are read as signed: by its table for the convolution ops and REQUANT, else by word 12
(R130, R238). -/
def Desc.inSigned (d : Desc) (gran : Nat → Byte) : Bool :=
  if d.op ≤ opFc ∨ d.op = opRequant then tableInSigned gran d.tableBase
  else if d.op = opBwdData ∨ d.op = opBwdWeight then true else d.codeSigned

def Desc.outSigned (d : Desc) (gran : Nat → Byte) : Bool :=
  if d.op ≤ opFc ∨ d.op = opRequant ∨ d.op = opBwdData then tableOutSigned gran d.tableBase else d.codeSigned

/-- The value of the input at (y, x, c). -/
def Desc.image (d : Desc) (x : EngineCtx) (y xx c : Nat) : Int :=
  codeValue d.inMap.b (d.inSigned x.gran) (d.inMap.code (x.buf d.inHandle) y xx c)

/-- A whole output map as bytes at the output handle. -/
def Desc.emit (d : Desc) (x : EngineCtx) (h w : Nat) (vals : Nat → Nat → Nat → Nat) : List (Nat × Byte) :=
  atOffsets 0 ((d.outMap h w).encode (d.outSigned x.gran) (d.codecParam % 8) vals)

/-- The int8 weight of an output channel at a fan-in position. -/
def Desc.int8 (d : Desc) (x : EngineCtx) (o i : Nat) : Int :=
  signed 8 (x.gran (32 * d.weightBase + Config.int8Offset d.outC d.fanIn o i)).toNat

/-- The exact integer sum of an output over the passes of its group (R187, R136). -/
def smithySum (group : List Desc) (x : EngineCtx) (oy ox o : Nat) : Int :=
  group.foldl (fun a d => (List.range d.fanIn).foldl (fun a i =>
    match d.lane (d.image x) oy ox o i with
    | some v => a + d.int8 x o i * v
    | none => a) a) 0

/-- A code of the table's width as the output element holds it (R238). -/
def Desc.outCode (d : Desc) (x : EngineCtx) (code : Nat) : Nat :=
  let b := (d.outMap 0 0).b
  if b = d.obits then code else unsigned b (codeValue d.obits (d.outSigned x.gran) code)

/-- CONV, DWCONV, GCONV and FC on engine 1: one pass group, written at its final pass. -/
def smithyConv (group : List Desc) (d : Desc) (x : EngineCtx) : EngineOut :=
  let (h, w) := if d.op = opFc then (d.inH, 1) else d.outSize (kernelOf group)
  { writes := d.emit x h w fun oy ox o =>
      d.outCode x (requant x.gran d.tableBase d.obits o (smithySum group x oy ox o)) }

/-- The range of codes of `b` bits (Table 4.2). -/
def codeRange (b : Nat) (isSigned : Bool) : Int × Int :=
  if b = 1 then (-1, 1) else if isSigned then (-(2 ^ (b - 1) : Nat), (2 ^ (b - 1) : Nat) - 1) else (0, (2 ^ b : Nat) - 1)

/-- A value of the input's code width as the output element holds it: extended by its sign (R219, R222, R225, R238). What an
element too narrow for it holds is free. -/
def Desc.passCode (d : Desc) (v : Int) : Nat :=
  let b := (d.outMap 0 0).b
  let (lo, hi) := codeRange b d.codeSigned
  if lo ≤ v ∧ v ≤ hi then valueCode b v else Config.narrowedCode b v % 2 ^ b

/-- Zeros from the end of a buffer's data to the end of its last unit (R235). -/
def unitRest (n : Nat) : List (Nat × Byte) := atOffsets n (List.replicate (up64 n - n) 0)

/-! ### Pooling and up-sampling -/

/-- The pool window as a kernel; the whole image for the global kind (R219). -/
def Desc.poolKernel (d : Desc) : Kernel := if d.globalPool then ⟨d.inH, d.inW⟩ else ⟨d.poolH, d.poolW⟩

/-- The taps of a pool window: in-image values, and how many taps lie outside (R220, R221). Mapped taps and pad constants
count as values; taps outside under pad mode zero do not. -/
def Desc.poolTaps (d : Desc) (x : EngineCtx) (oy ox c : Nat) : List Int :=
  let k := d.poolKernel
  (List.range (k.rows * k.cols)).filterMap fun i =>
    match d.tap oy ox (i / k.cols) (i % k.cols) with
    | .image y xx => some (d.image x y xx c)
    | .masked => none
    | .const => some d.padValue

/-- The taps of a pool window that lie inside the image (R221 with divisor 1). -/
def Desc.poolInside (d : Desc) (x : EngineCtx) (oy ox c : Nat) : List Int :=
  let k := d.poolKernel
  (List.range (k.rows * k.cols)).filterMap fun i =>
    let iy : Int := (oy * d.strideH + d.dilH * (i / k.cols) : Nat) - (d.padTop : Int)
    let ix : Int := (ox * d.strideW + d.dilW * (i % k.cols) : Nat) - (d.padLeft : Int)
    if 0 ≤ iy ∧ iy < d.inH ∧ 0 ≤ ix ∧ ix < d.inW then some (d.image x iy.toNat ix.toNat c) else none

/-- POOL_MAX (R220). -/
def poolMax (b : Nat) (taps : List Int) : Int := match taps with
  | [] => if b = 1 then -1 else 0
  | v :: r => r.foldl max v

/-- POOL_AVG (R221). -/
def poolAvg (sum : Int) (d : Nat) : Int := if d = 0 then 0 else divHe sum d

def smithyPool (d : Desc) (x : EngineCtx) : EngineOut :=
  let (h, w) := d.outSize d.poolKernel
  let k := d.poolKernel
  let b := d.inMap.b
  { writes := d.emit x h w fun oy ox c => d.passCode (
      if d.op = opPoolMax then poolMax b (d.poolTaps x oy ox c)
      else if d.divisor then let t := d.poolInside x oy ox c; poolAvg t.sum t.length
      else poolAvg (d.poolTaps x oy ox c).sum (k.rows * k.cols)) }

/-- The two neighbours of an output index in one dimension with their weights (R223). -/
def bilinear (o f n : Nat) : (Nat × Nat) × (Nat × Nat) :=
  let t : Int := 2 * o + 1 - f
  let i0 := t / (2 * f : Nat)
  let phi := (t - 2 * f * i0).toNat
  let at_ (i : Int) : Nat := (clampInt 0 (n - 1 : Nat) i).toNat
  ((at_ i0, 2 * f - phi), (at_ (i0 + 1), phi))

def smithyUpsample (d : Desc) (x : EngineCtx) : EngineOut :=
  let f := d.factor
  { writes := d.emit x (d.inH * f) (d.inW * f) fun oy ox c => d.passCode (
      if d.resample = 2 then
        let (y0, y1) := bilinear oy f d.inH
        let (x0, x1) := bilinear ox f d.inW
        let term (y z : Nat × Nat) : Int := (y.2 * z.2 : Nat) * d.image x y.1 z.1 c
        divHe (term y0 x0 + term y0 x1 + term y1 x0 + term y1 x1) (4 * f * f)
      else d.image x (oy / f) (ox / f) c) }

/-! ### Element-wise ops -/

/-- ADD (R224): the sum of two maps, saturated to the output range. -/
def smithyAdd (d : Desc) (x : EngineCtx) : EngineOut :=
  let b := (d.outMap 0 0).b
  let (lo, hi) := codeRange b d.codeSigned
  let sum (y xx c : Nat) : Int := d.image x y xx c
    + codeValue d.inMap.b d.codeSigned (d.inMap.code (x.buf d.tableBase) y xx c)
  let beyond := (List.range (d.inH * d.inW * d.inC)).any fun i =>
    let v := sum (i / d.inC / d.inW) (i / d.inC % d.inW) (i % d.inC)
    decide (v < lo) || decide (hi < v)
  { writes := d.emit x d.inH d.inW fun y xx c => valueCode b (clampInt lo hi (sum y xx c)), sat := beyond }

/-- CONCAT (R225): the input copied to channels from the offset on, other channels left as they are. The bits of a CB32 word at or
beyond C and the rest of the last unit become 0 (R235, R237). -/
def smithyConcat (d : Desc) (x : EngineCtx) : EngineOut :=
  let out := d.outMap d.inH d.inW
  let old := x.buf d.outHandle
  let step (mem : List (Nat × Byte)) (i : Nat) : List (Nat × Byte) :=
    let y := i / d.inC / d.inW
    let xx := i / d.inC % d.inW
    let c := i % d.inC
    let now : Nat → Byte := fun a => (lookupKey a mem).getD (old a)
    (out.put d.codeSigned now y xx (d.groups + c) (d.passCode (d.image x y xx c))) ++ mem
  let beyond := if out.layout = 0 then ceilDiv out.c 32 * 32 - out.c else 0
  let clear (mem : List (Nat × Byte)) (i : Nat) : List (Nat × Byte) :=
    let now : Nat → Byte := fun a => (lookupKey a mem).getD (old a)
    out.put d.codeSigned now (i / beyond / d.inW) (i / beyond % d.inW) (out.c + i % beyond) 0 ++ mem
  let copied := (List.range (d.inH * d.inW * d.inC)).foldl step []
  { writes := ((List.range (d.inH * d.inW * beyond)).foldl clear copied).reverse ++ unitRest out.extent }

/-- The FP32 results of the normalisation form at one position (R191): the sum is exact, and μ is rounded once. -/
def normaliseY (d : Desc) (x : EngineCtx) (vals : List Int) : List Nat :=
  let base := d.tableBase
  let eps := tableWord x.gran base 32
  let sumSq : Int := (vals.map (fun v => v * v)).sum
  let mean := round32 false sumSq.toNat (max 1 d.inC)
  let r := widen (rsqrt16 (Fl.of32 (add32 mean eps)))
  (vals.zip (List.range vals.length)).map fun (v, c) =>
    mul32 (mul32 (int32 v) r) (widen (leRead x.gran (32 * base + 64 + 2 * c) 2))

/-- REQUANT in its normalisation form, at one position (R191, R226). -/
def normalise (d : Desc) (x : EngineCtx) (vals : List Int) : List Nat :=
  let sh := field (tableWord x.gran d.tableBase 36) 3 0
  let b := (d.outMap 0 0).b
  let (lo, hi) := codeRange b (d.outSigned x.gran)
  (normaliseY d x vals).map fun y => match Fl.of32 y with
    | .nan => 0
    | .inf neg => valueCode b (if neg then lo else hi)
    | .fin neg m e =>
      let (n, dd) := scaleQ m 1 (e + sh)
      let q : Int := divRne n dd
      valueCode b (clampInt lo hi (if neg then -q else q))

/-- The positions of the input of a descriptor. -/
def Desc.positions (d : Desc) : List (Nat × Nat) := (List.range (d.inH * d.inW)).map (fun i => (i / d.inW, i % d.inW))

/-- REQUANT (R226); the loss head in a learning issue takes its scale exponent from k (R349). -/
def smithyRequant (d : Desc) (x : EngineCtx) : EngineOut :=
  let vals (y xx : Nat) : List Int := (List.range d.inC).map (d.image x y xx)
  if d.opArg = 1 then
    { writes := d.emit x d.inH d.inW fun y xx c => ((normalise d x (vals y xx))[c]?).getD 0,
      bad := (d.positions.map (fun p => ((normaliseY d x (vals p.1 p.2)).filter nonFinite32).length)).sum }
  else match x.lossK with
    | some k =>
      let code (y xx c : Nat) : Nat :=
        let (lo, hi) := scaleLimits x.gran d.tableBase c
        unsigned d.obits (clampInt lo hi (scaled x.gran d.tableBase c k (d.image x y xx c)))
      { writes := d.emit x d.inH d.inW fun y xx c => d.outCode x (code y xx c),
        clips := (d.positions.map (fun p => ((List.range d.inC).filter
          (fun c => scaleClips x.gran d.tableBase c k (d.image x p.1 p.2 c))).length)).sum }
    | none => { writes := d.emit x d.inH d.inW fun y xx c =>
        d.outCode x (requant x.gran d.tableBase d.obits c (d.image x y xx c)) }

/-! ### Attention, softmax, embedding, selection -/

/-- ATTN_SCORE (R190): S × m × 2^−sh in one rounding; scores beyond a row's valid keys are not formed (R332). -/
def smithyAttn (d : Desc) (x : EngineCtx) : EngineOut :=
  let score (r j : Nat) : Nat :=
    let sum : Int := ((List.range d.inC).map (fun c => signed 8 (d.inMap.code (x.buf d.inHandle) r 0 c)
      * signed 8 (x.loft (Config.keyAddress d.weightBase d.inHandle d.inC r j c)).toNat)).sum
    let w := entryWord x.gran d.tableBase 2 j 0
    let v := sum * signed 16 w
    let (n, dd) := scaleQ v.natAbs 1 (-(field w 20 16 : Int))
    if d.stoch then narrowDraw (round32 (decide (v < 0)) n dd) (x.noise (r * d.outC + j))
    else round16 (decide (v < 0)) n dd
  { writes := ((List.range d.inH).flatMap fun r => (List.range d.outC).flatMap fun j =>
      if (match x.valid r with | some n => decide (j < n) | none => true) then
        atOffsets (2 * (r * d.outC + j)) (leBytes 2 (score r j)) else [])
      ++ unitRest (2 * d.inH * d.outC) }

/-- SOFTMAX of one row of bfloat16 values (R190); `draw` narrows stochastically (R362). -/
def softmaxRow (draw : Option (Nat → Nat)) (vals : List Nat) : List Nat :=
  let mx := vals.foldl (fun m v => if Fl.lt (Fl.of16 m) (Fl.of16 v) then v else m) 0xFF80
  if mx = 0xFF80 then vals.map (fun _ => nan16)
  else
    let es := vals.map (fun v => exp16 (Fl.of32 (sub32 (widen v) (widen mx))))
    let s := es.foldl (fun a e => add32 a (widen e)) 0
    let r := recip16 (Fl.of32 s)
    (es.zip (List.range es.length)).map fun (e, c) => match draw with
      | some u => narrowDraw (mul32 (widen e) (widen r)) (u c)
      | none => ((Fl.of16 e).mul (Fl.of16 r)).to16

def smithySoftmax (d : Desc) (x : EngineCtx) : EngineOut :=
  let row (r : Nat) : List Nat :=
    let n := match x.valid r with
      | some n => min n d.inC
      | none => d.inC
    softmaxRow (if d.stoch then some (fun c => x.noise (r * d.inC + c)) else none)
      ((List.range n).map (fun c => d.inMap.code (x.buf d.inHandle) r 0 c))
  { writes := d.emit x d.inH 1 fun r _ c => ((row r)[c]?).getD 0,
    bad := ((List.range d.inH).map (fun r => ((row r).filter nonFinite16).length)).sum }

/-- EMBED (R333). -/
def smithyEmbed (d : Desc) (x : EngineCtx) : EngineOut :=
  { writes := d.emit x d.inH 1 fun r _ c =>
      let t := leRead (x.buf d.inHandle) (2 * r) 2
      if d.inC ≤ t then 0 else (x.gran (32 * d.weightBase + t * d.outC + c)).toNat }

/-- The lowest index of the largest logit, a NaN as −∞ (R334). -/
def argmax (vals : List Nat) : Nat :=
  ((vals.zip (List.range vals.length)).foldl (fun (best : Nat × Nat) (v : Nat × Nat) =>
    let key (w : Nat) := if Fl.of16 w = .nan then Fl.inf true else Fl.of16 w
    if Fl.lt (key best.1) (key v.1) then v else best) ((vals[0]?).getD 0xFF80, 0)).2

/-- The indices of the `k` largest logits, ties to the lower index, in ascending index; 0 takes all. -/
def topK (k : Nat) (vals : List Nat) : List Nat :=
  let all := vals.zip (List.range vals.length)
  if k = 0 ∨ vals.length ≤ k then List.range vals.length
  else
    let key (w : Nat) := if Fl.of16 w = .nan then Fl.inf true else Fl.of16 w
    let beats (p q : Nat × Nat) : Bool := Fl.lt (key q.1) (key p.1) || (!Fl.lt (key p.1) (key q.1) && decide (p.2 < q.2))
    (all.filter (fun p => decide ((all.filter (fun q => beats q p)).length < k))).map Prod.snd

/-- A token drawn from a row of logits (R334). -/
def sampleToken (vals : List Nat) (seed temp k pos session : Nat) : Nat :=
  if Fl.of16 temp = .fin false 0 0 ∨ Fl.of16 temp = .fin true 0 0 ∨ k = 1 then argmax vals
  else
    let cand := topK k vals
    let mx := (vals[argmax vals]?).getD 0
    let r := recip16 (Fl.of16 temp)
    let es := cand.map (fun i =>
      exp16 (Fl.of32 (mul32 (sub32 (widen ((vals[i]?).getD 0)) (widen mx)) (widen r))))
    let s := es.foldl (fun a e => add32 a (widen e)) 0
    let x0 := philox seed pos session 0x200 0
    let target := mul32 (Fl.to32 (.fin false x0 (-32))) s
    let walk := (cand.zip es).foldl (fun (acc : Nat × Option Nat) (p : Nat × Nat) =>
      let run := add32 acc.1 (widen p.2)
      (run, if acc.2.isNone && Fl.lt (Fl.of32 target) (Fl.of32 run) then some p.1 else acc.2)) (0, none)
    walk.2.getD (cand.getLastD 0)

def smithySelect (d : Desc) (x : EngineCtx) : EngineOut :=
  let token (r : Nat) : Nat :=
    let vals := (List.range d.inC).map (fun c => d.inMap.code (x.buf d.inHandle) r 0 c)
    match x.sample r with
    | some (seed, temp, k, pos, session) => sampleToken vals seed temp k pos session
    | none => argmax vals
  let toks := (List.range d.inH).map token
  { writes := atOffsets 0 (padTo (up64 (2 * d.inH)) (toks.flatMap (leBytes 2))), tokens := toks }

/-- The rows of its input map that a descriptor of a window op decodes for an output row: those that hold an in-image tap. -/
def Desc.decodes (d : Desc) (k : Kernel) (oy ox y : Nat) : Bool :=
  (List.range (k.rows * k.cols)).any fun i => match d.tap oy ox (i / k.cols) (i % k.cols) with
    | .image ty _ => decide (ty = y)
    | _ => false

/-- The rows of the input map that a Smithy descriptor decodes: those that its window reaches, of the other ops all. -/
def Desc.decodesRow (d : Desc) (group : List Desc) (r : Nat) : Bool :=
  let y := d.inMap.rowY r
  if d.op = opPoolMax ∨ d.op = opPoolAvg then
    let (h, w) := d.outSize d.poolKernel
    (List.range (h * w)).any (fun i => d.decodes d.poolKernel (i / max 1 w) (i % max 1 w) y)
  else if d.op < opFc then
    let (h, w) := d.outSize (kernelOf group)
    (List.range (h * w)).any (fun i => d.decodes ⟨d.kh, d.kw⟩ (i / max 1 w) (i % max 1 w) y)
  else true

/-- What a Smithy descriptor of the watching ops computes, with its pass group. -/
def smithyRun (group : List Desc) (d : Desc) (x : EngineCtx) : EngineOut :=
  match (if d.op = opEmbed then none else d.inMap.zbFaultIn (d.decodesRow group) (x.buf d.inHandle)) with
  | some r => { zb := some r }
  | none =>
    if d.accumulate then {}
    else if d.op ≤ opFc then smithyConv group d x
    else if d.op = opPoolMax ∨ d.op = opPoolAvg then smithyPool d x
    else if d.op = opUpsample then smithyUpsample d x
    else if d.op = opAdd then (match d.inMap.zbFault (x.buf d.tableBase) with
      | some r => { zb := some r }
      | none => smithyAdd d x)
    else if d.op = opConcat then smithyConcat d x
    else if d.op = opRequant then smithyRequant d x
    else if d.op = opAttn then smithyAttn d x
    else if d.op = opSoftmax then smithySoftmax d x
    else if d.op = opEmbed then smithyEmbed d x
    else if d.op = opSelect then smithySelect d x
    else {}

/-! ### Bellwether -/

/-- A network block (Table 5.5, R174), at the byte of its header. -/
structure Network where
  gran : Nat → Byte
  base : Nat

def Network.word (n : Network) (i : Nat) : Nat := leRead n.gran (n.base + 4 * i) 4
def Network.m (n : Network) : Nat := field (n.word 0) 3 0
def Network.layers (n : Network) : Nat := field (n.word 0) 5 4 + 1
def Network.inSigned (n : Network) : Bool := bit (n.word 0) 6
def Network.wide (n : Network) : Bool := bit (n.word 0) 7
def Network.holdOver (n : Network) : Nat := field (n.word 0) 15 8
def Network.inputs (n : Network) : Nat := field (n.word 0) 25 16 + 1
def Network.seed (n : Network) : Nat := n.word 1 + 2 ^ 32 * n.word 2
def Network.neurons (n : Network) (l : Nat) : Nat := field (n.word 3) (8 * l + 7) (8 * l) + 1
def Network.activation (n : Network) (l : Nat) : Nat := field (n.word 4) (2 * l + 1) (2 * l)
def Network.fanIn (n : Network) (l : Nat) : Nat := if l = 0 then n.inputs else n.neurons (l - 1)
/-- Bytes of a neuron's row of codes. -/
def Network.rowBytes (n : Network) (l : Nat) : Nat := 4 * ceilDiv (n.fanIn l) 16
/-- Bytes of a layer block. -/
def Network.blockBytes (n : Network) (l : Nat) : Nat := n.neurons l * n.rowBytes l + 4 * ceilDiv (n.neurons l) 2
/-- Where layer `l` begins. -/
def Network.layerAt (n : Network) (l : Nat) : Nat := (List.range l).foldl (fun a i => a + n.blockBytes i) (n.base + 32)
/-- The 2-bit code of a weight: bit 1 the mask, bit 0 the sign. -/
def Network.weight (n : Network) (l j i : Nat) : Nat :=
  field (leRead n.gran (n.layerAt l + j * n.rowBytes l + 4 * (i / 16)) 4) (2 * (i % 16) + 1) (2 * (i % 16))
def Network.threshold (n : Network) (l j : Nat) : Nat :=
  leRead n.gran (n.layerAt l + n.neurons l * n.rowBytes l + 2 * j) 2
/-- The bytes of the whole block. -/
def Network.bytes (n : Network) : Nat := n.layerAt n.layers - n.base

/-- The level of an input element (R175). -/
def Network.level (n : Network) (a : Nat) : Nat :=
  let w := if n.wide then 16 else 8
  let v := if n.inSigned then (signed w a + 2 ^ (w - 1)).toNat else a
  if n.m ≤ w then v / 2 ^ (w - n.m) else v * 2 ^ (n.m - w)

/-- Stream bit `t` of input `i` of a layer with level `q` (R175, R176). -/
def Network.streamBit (n : Network) (k l i t q : Nat) : Bool :=
  decide (philox n.seed t i (l % 256) k / 2 ^ (32 - n.m) < q)

/-- The count of neuron `j` of a layer over the whole stream (R176, R177). -/
def Network.count (n : Network) (k l j : Nat) (levels : List Nat) : Nat :=
  let live := (List.range (n.fanIn l)).filter (fun i => bit (n.weight l j i) 1)
  ((List.range (2 ^ n.m)).filter (fun t =>
    let x0 := philox n.seed t j (l % 256 + 0x100) k
    let i := (live[x0 * live.length / 2 ^ 32]?).getD 0
    n.streamBit k l i t ((levels[i]?).getD 0) == bit (n.weight l j i) 0)).length

/-- The level that a count becomes (R178). -/
def Network.activate (n : Network) (l j c : Nat) : Nat :=
  if n.activation l = 0 then (if n.threshold l j ≤ c then 2 ^ n.m else 0)
  else if n.activation l = 1 then c else max c (2 ^ n.m / 2)

/-- The last-layer counts of the network on its input elements. -/
def Network.run (n : Network) (k : Nat) (elems : List Nat) : List Nat :=
  let last := n.layers - 1
  let levels := (List.range last).foldl (fun lv l =>
    (List.range (n.neurons l)).map (fun j => n.activate l j (n.count k l j lv))) (elems.map n.level)
  (List.range (n.neurons last)).map (fun j => n.count k last j levels)

/-- The wake word of the counts (R178, R180). -/
def Network.wakeWord (n : Network) (counts : List Nat) : Nat :=
  bitmap 16 (fun j => decide (j < counts.length) && decide (n.threshold (n.layers - 1) j ≤ (counts[j]?).getD 0))

/-- STREAM: the output record (R180, R241). -/
def bellwetherRun (d : Desc) (x : EngineCtx) : EngineOut :=
  let n : Network := ⟨x.gran, 32 * d.weightBase⟩
  let e := if n.wide then 2 else 1
  let counts := n.run x.k ((List.range n.inputs).map (fun i => leRead (x.buf d.inHandle) (e * i) e))
  { writes := atOffsets 0 (padTo 64 (leBytes 2 (n.wakeWord counts) ++ [0, 0]
      ++ (List.range 16).flatMap (fun j => leBytes 2 ((counts[j]?).getD 0)))) }

end Sys2Proof.Machine
end

