-- ==== Sys2Proof/Machine/Units.lean ====
section
/-! DEFINITION. Unit IDs (Table 17.2), the units that tests and retirement act on, and the queueing of targeted tests
(chapter 12). -/

namespace Sys2Proof

/-- The unit ID of a unit under test (Table 17.2). -/
def UnitRef.id : UnitRef → Nat
  | .tile c k t => 0x2000 + 0x100 * c + 0x20 * k + t
  | .accBank c k b => 0x3000 + 0x100 * c + 0x20 * k + b
  | .commonsBank c k b => 0x4000 + 0x100 * c + 0x20 * k + b
  | .smithy c => 0x5001 + 0x100 * c
  | .bellwether c => 0x5002 + 0x100 * c
  | .granaryRow c b _ => 0x6000 + 0x100 * c + b
  | .loftBank c b => 0x7000 + 0x100 * c + b
  | .byway c a => 0x8007 + 0x100 * c + 0x10 * a
  | .pcie c => 0x9000 + 0x100 * c
  | .page p => 0xA000 + p / 2048 % 4096
  | .reserve _ => 0xB001

/-- The chip that an on-chip unit or a link belongs to. -/
def UnitRef.chip : UnitRef → Option Nat
  | .tile c _ _ | .accBank c _ _ | .commonsBank c _ _ | .smithy c | .bellwether c | .granaryRow c _ _ | .loftBank c _
  | .byway c _ | .pcie c => some c
  | .page _ | .reserve _ => none

/-- A unit tested by an on-chip test (R412). -/
def UnitRef.onChip : UnitRef → Bool
  | .tile .. | .accBank .. | .commonsBank .. | .smithy _ | .bellwether _ | .granaryRow .. | .loftBank .. => true
  | _ => false

end Sys2Proof

namespace Sys2Proof.Machine

/-- Unit IDs of the parts that no test names. -/
def chipUnit (c : Nat) : Nat := 0x1000 + 0x100 * c
def clusterUnit (c k : Nat) : Nat := 0x200F + 0x100 * c + 0x20 * k
def shaftUnit (s : Nat) : Nat := 0xC000 + s
def channelUnit (c : Nat) : Nat := 0xC010 + c
def groupUnit (g : Nat) : Nat := 0xC018 + g
def portUnit (p : Nat) : Nat := 0xC020 + p
def camUnit (k : Nat) : Nat := 0xC030 + k
def reeveUnit : Nat := 0xB000
def netUnit : Net → Nat
  | .ecat => 0xD000
  | .can => 0xD010
def ferryUnit (p : Nat) : Nat := 0xD020 + p
def railUnit (rail chip : Nat) : Nat := 0xE000 + 0x100 * chip + rail
def outputUnit (i : Nat) : Nat := 0xE040 + i
def suppliesUnit : Nat := 0xE050
def plateUnit : Nat := 0xE060
def inputUnit : Nat := 0xE070
def trayUnit (t : Nat) : Nat := 0xF000 + t

/-- The failed chips (OD 0x2010). -/
def State.failed (s : State) (c : Nat) : Bool := (s.chip c).failed

/-- A unit that has been retired, or whose chip has (R413). -/
def State.isRetired (s : State) (u : UnitRef) : Bool :=
  s.faults.retired.contains u || (match u.chip with
    | some c => s.failed c
    | none => false)

/-- The record of a fault with its verdict (Table 17.1), stamped with the angle at detection (R415). -/
def Test.record (t : Test) (verdict : Nat) : Record :=
  ⟨t.angle, t.code, t.unit.id, t.tenant, verdict, t.detail % 2 ^ 15 + t.upper + (if t.fold then 2 ^ 15 else 0)⟩

/-- A detected error as a test to run. -/
def State.newTest (s : State) (u : UnitRef) (code tenant detail : Nat) : Test :=
  ⟨u, code, tenant, detail, s.stamp, s.running, false, 0, none, 0⟩

/-- A list of tests with the fold bit set on the test of a unit (R413). -/
def Test.folded (u : UnitRef) (t : Test) : Test := if t.unit = u then { t with fold := true } else t
def foldTest (u : UnitRef) (l : List Test) : List Test := l.map (Test.folded u)

def hasTest (u : UnitRef) (l : List Test) : Bool := l.any (fun t => decide (t.unit = u))

/-- A unit under test or queued for test. -/
def State.underTest (s : State) (u : UnitRef) : Bool := match u.chip with
  | none => hasTest u s.faults.pageTests
  | some c =>
    let x := s.chip c
    hasTest u (x.test.toList ++ x.tests ++ x.whole.getD [] ++ x.pcieTest.toList
      ++ (List.range 2).flatMap (fun a => (vget x.linkTest a).toList))

/-- A chip that a whole-chip test stalls (R411). -/
def Chip.stalled (c : Chip) : Bool := c.whole.isSome

/-- The whole-chip test starts once the unit test running has ended (R412). -/
def Chip.startWhole (c : Chip) : Chip :=
  if c.wholePending && c.test.isNone && c.whole.isNone then
    { c with whole := some c.tests, tests := [], wholePending := false }
  else c

/-- The next queued test starts when none runs (R412). -/
def Chip.startTest (c : Chip) : Chip :=
  if c.test.isNone && c.whole.isNone && !c.wholePending then match c.tests with
    | [] => c
    | t :: r => { c with test := some t, tests := r }
  else c

/-- Different units of a chip with a fault in the last second, the new one included (R412). -/
def recentUnits (u : UnitRef) (now : Nat) (l : List (UnitRef × Nat)) : List (UnitRef × Nat) :=
  (u, now) :: (l.filter (fun p => decide (p.1 ≠ u) && decide (now < p.2 + 1000000)))

/-- An on-chip test asked for: queued, or replaced with the whole queue by a whole-chip test (R412). -/
def Chip.addTest (c : Chip) (t : Test) (now : Nat) : Chip :=
  let recent := recentUnits t.unit now c.recent
  let c := { c with recent := recent }
  match c.whole with
  | some l => { c with whole := some (l ++ [t]) }
  | none =>
    let replaced := decide (3 ≤ recent.length) || (c.test.isSome && decide (16 ≤ c.tests.length))
    ({ c with tests := c.tests ++ [t], wholePending := c.wholePending || replaced }.startWhole).startTest

/-- A detected error on a unit that Table 12.1 tests (R406, R410, R413). -/
def State.detect (s : State) (u : UnitRef) (code tenant detail : Nat) : State :=
  let t := s.newTest u code tenant detail
  if s.isRetired u then s.post (t.record 4)
  else match u.chip with
    | none =>
      if hasTest u s.faults.pageTests then
        { s with faults := { s.faults with pageTests := foldTest u s.faults.pageTests } }
      else { s with faults := { s.faults with pageTests := s.faults.pageTests ++ [t] } }
    | some c => s.modChip c fun x =>
      if u.onChip then
        if hasTest u (x.test.toList ++ x.tests ++ x.whole.getD []) then
          { x with test := x.test.map (Test.folded u),
                   tests := foldTest u x.tests, whole := x.whole.map (foldTest u) }
        else x.addTest t s.micros
      else match u with
        | .byway _ a => match vget x.linkTest a with
          | some o => { x with linkTest := vset x.linkTest a (some { o with fold := true }) }
          | none => { x with linkTest := vset x.linkTest a (some t) }
        | _ => match x.pcieTest with
          | some o => { x with pcieTest := some { o with fold := true } }
          | none => { x with pcieTest := some t }

/-- A whole-chip test asked for by an error that repeats on its rerun (R412): the test of the unit joins its list. -/
def State.wholeFor (s : State) (u : UnitRef) (code tenant detail : Nat) : State := match u.chip with
  | none => s
  | some c =>
    let t := s.newTest u code tenant detail
    s.modChip c fun x => match x.whole with
      | some l => { x with whole := some (l ++ [t]) }
      | none => { x with tests := x.tests ++ [t], wholePending := true }.startWhole

/-! ### Byway routes (R17, R18, R418) -/

/-- The neighbours of a chip on its x ring and its y ring (R18). -/
def ringNext (axis c : Nat) : Nat := if axis = 0 then c / 4 * 4 + (c + 1) % 4 else (c + 4) % 16
def ringPrev (axis c : Nat) : Nat := if axis = 0 then c / 4 * 4 + (c + 3) % 4 else (c + 12) % 16

/-- The link between a chip and the next of its ring works: the link leaves port 0 or port 2 of that chip. -/
def State.linkUp (s : State) (axis c : Nat) : Bool := !(vget (s.chip c).links axis).down

/-- All `n` hops of a ring from `c` in the rising or the falling direction work. -/
def State.hops (s : State) (axis : Nat) (up : Bool) : Nat → Nat → Bool
  | _, 0 => true
  | c, n + 1 => if up then s.linkUp axis c && s.hops axis up (ringNext axis c) n
      else s.linkUp axis (ringPrev axis c) && s.hops axis up (ringPrev axis c) n

/-- Hops from `a` to `b` along a ring, rising. -/
def ringHops (axis a b : Nat) : Nat := if axis = 0 then (b % 4 + 4 - a % 4) % 4 else (b / 4 + 4 - a / 4) % 4

/-- A ring is not cut both ways between two of its chips. -/
def State.ringOpen (s : State) (axis a b : Nat) : Bool :=
  let n := ringHops axis a b
  n = 0 || s.hops axis true a n || s.hops axis false a (4 - n)

/-- A route exists between two chips: along x first, or along y first (R418). -/
def State.routed (s : State) (a b : Nat) : Bool :=
  let corner := a / 4 * 4 + b % 4
  let other := b / 4 * 4 + a % 4
  (s.ringOpen 0 a corner && s.ringOpen 1 corner b) || (s.ringOpen 1 a other && s.ringOpen 0 other b)

/-- Chips that share a Byway link with `c`. -/
def neighbours (c : Nat) : List Nat := [ringNext 0 c, ringPrev 0 c, ringNext 1 c, ringPrev 1 c]

end Sys2Proof.Machine
end

