-- ==== Sys2Proof/Machine/Exec.lean ====
section
/-! DEFINITION. Issues of jobs on the chips (chapter 8): slots, regions and address resolution, the start of a chain, engine
queues, bank rounds, squash and end. -/

namespace Sys2Proof.Machine

/-! ### Placement -/

/-- The model admitted into a slot. -/
def State.model (s : State) (slot : Nat) : Option Model := (s.slot slot).model

/-- The entry record of entry `e` on partition `p` (Table 9.8). -/
def Variant.entryOn (v : Variant) (e p : Nat) : Entry := (((v.entries[e]?).getD [])[p]?).getD ⟨0xFFFF, 0, 0, []⟩

/-- The partition takes part in the entry. -/
def Variant.takesPart (v : Variant) (e p : Nat) : Bool := decide ((v.entryOn e p).first < 0xFFFF)

/-- The chip of a partition as placed. -/
def Model.chipOf (m : Model) (p : Nat) : Nat := ((m.placed[p]?).map Placed.chip).getD 0xFF

/-- The chips of the placement. -/
def Model.chips (m : Model) : List Nat := m.placed.map Placed.chip

/-- The region of a slot on a chip; token caches, learning windows and replay areas have regions of their own above 255. -/
def Chip.region (c : Chip) (slot : Nat) : Option Region := c.regions.find? (fun r => decide (r.slot = slot) && !r.released)

/-- The image of a slot is present on a chip: resident, or in the pool (R322, R324). -/
def Chip.hasImage (c : Chip) (slot : Nat) : Bool :=
  (match c.region slot with
    | some r => decide (0 < r.granSize)
    | none => false) || c.pool.contains slot

/-- The clusters that a tier runs (Table 1.4). -/
def tierClusters (tier : Nat) : Nat := if tier = 1 then 1 else if tier = 2 then 2 else if tier = 3 ∨ tier = 4 then 8 else 0

/-! ### Issues -/

def State.issue (s : State) (id : Nat) : Option Issue := s.issues.find? (fun i => decide (i.id = id))

def State.modIssue (s : State) (id : Nat) (f : Issue → Issue) : State :=
  { s with issues := s.issues.map (fun i => if i.id = id then f i else i) }

def Issue.onChip (i : Issue) (c : Nat) : Bool := i.parts.any (fun p => decide (p.chip = c))

def Issue.part (i : Issue) (c : Nat) : Option PartRun := i.parts.find? (fun p => decide (p.chip = c))

def Issue.modPart (i : Issue) (c : Nat) (f : PartRun → PartRun) : Issue :=
  { i with parts := i.parts.map (fun p => if p.chip = c then f p else p) }

/-- Holds a committed slot (Table 8.4). The micro-batches of a learning step share the slot of the step. -/
def Issue.holdsCommitted (i : Issue) : Bool := decide (i.st = .committed) && !i.waitsSlot

/-- Holds a speculative slot. -/
def Issue.holdsSpec (i : Issue) : Bool := decide (i.st ≠ .committed) || i.waitsSlot

/-- The slots of a kind taken on a chip: micro-batches of one learning step count once. -/
def slotsTaken (l : List Issue) (c : Nat) : Nat :=
  let on := l.filter (fun i => i.onChip c)
  (on.filter (fun i => i.micro.isNone)).length + ofBool (on.any (fun i => i.micro.isSome))

/-- A slot of a kind is free for a tenant on every chip (R262). -/
def State.slotFree (s : State) (spec : Bool) (t : Nat) (chips : List Nat) : Bool :=
  let l := s.issues.filter (fun i => if spec then i.holdsSpec else i.holdsCommitted)
  let mine := l.filter (fun i => decide (i.tenant = t))
  chips.all fun c => !(s.chip c).failed && decide (slotsTaken l c < if spec then 8 else 32) && decide (slotsTaken mine c < if spec then 2 else 4)

/-- The start of an issue on a placement: one chain per partition that takes part, from the entry that the issue runs there
(R309). -/
def startParts (m : Model) (chips : List Nat) (e : Nat → Nat) : List PartRun :=
  (chips.zip (List.range chips.length)).map fun (c, p) =>
    let go := m.variant.takesPart (e p) p
    { part := p, chip := c, next := if go then some (m.variant.entryOn (e p) p).first else none, descs := [], copy := none,
      refetch := false, pieces := 0, loaded := !go, complete := !go }

/-! ### Addresses -/

/-- The Granary image of a partition of a slot as decrypted from its bundle (R307). -/
def State.imageOf (s : State) (slot part : Nat) : List Byte := match s.model slot with
  | some m => (m.variant.part part).image
  | none => []

/-- Where an image byte of a slot's partition lies in the Granary of a chip, with the copy of its learnable layers that is read;
none where the Storehouse holds it: streamed, or of a non-resident model (R320, R322, R324, R365). -/
def State.granAt (s : State) (c slot part : Nat) (side : Bool) (a : Nat) : Option Nat :=
  match (s.chip c).region slot with
  | some r => if r.granSize = 0 then none else (match s.model slot with
      | some m => m.granPlace c part side a
      | none => some a).map (r.granBase + ·)
  | none => none

/-- A byte of a slot's Granary image on a chip, with the copy of its learnable layers that is read. -/
def State.granByteOn (s : State) (c slot part : Nat) (side : Bool) (a : Nat) : Byte := match s.granAt c slot part side a with
  | some x => memRead (s.chip c).granary x
  | none => ((s.imageOf slot part)[a]?).getD 0

/-- The copy of its learnable layers that a slot's issues on a chip read (R365). -/
def Chip.sideOf (x : Chip) (slot : Nat) : Bool := ((x.region slot).map Region.side).getD false

/-- A byte of a slot's Granary image on a chip as its issues read it now. -/
def State.granByte (s : State) (c slot part : Nat) (a : Nat) : Byte := s.granByteOn c slot part ((s.chip c).sideOf slot) a

/-- The Granary image of a partition as its placement holds it now. -/
def State.imageNow (s : State) (slot : Nat) (m : Model) (q : Nat) : List Byte :=
  (List.range (m.variant.part q).image.length).map (s.granByte (m.chipOf q) slot q)

/-- Bytes of a slot's Granary image written on a chip into one of its copies: into the Granary, or where the Storehouse holds them
into the model's own image. -/
def State.writeImage (s : State) (c slot part : Nat) (side : Bool) (w : List (Nat × Byte)) : State :=
  w.foldl (fun s (p : Nat × Byte) => match s.granAt c slot part side p.1 with
    | some x => s.modChip c fun y => { y with granary := memWrite y.granary x p.2 }
    | none => s.modSlot slot fun l => { l with model := l.model.map fun m => { m with variant := { m.variant with
        parts := m.variant.parts.modify part (fun x => { x with image := x.image.set p.1 p.2 }) } } }) s

/-- The region number of the saved windows of a learning step (R338). -/
def savedRegion : Nat := 0x200

/-- Where a region-relative Loft address of an issue lies (R295, R310, R332, R355): none where a row has no session. -/
def State.loftAddr (s : State) (i : Issue) (p : PartRun) (a : Nat) : Option Nat :=
  match s.model i.slot, (s.chip p.chip).region i.slot with
  | some m, some r =>
    let x := m.variant.part p.part
    let h := a / 64
    let lp := m.variant.learn[p.part]?
    if x.scratchBase ≤ h ∧ h < x.scratchBase + x.scratchUnits then
      some (r.loftBase + x.ploft + 64 * x.scratchUnits * p.copy.getD 0 + (a - 64 * x.scratchBase))
    else if 0 < x.kvUnits ∧ x.kvBase ≤ h ∧ h < x.kvBase + 8 * x.kvUnits then
      let row := (h - x.kvBase) / x.kvUnits
      match i.rows[row]? with
      | some k => ((s.chip p.chip).region (0x100 + k)).map (fun c => c.loftBase + (a - 64 * (x.kvBase + row * x.kvUnits)))
      | none => none
    else match i.micro, lp, (s.chip p.chip).region savedRegion with
      | some mb, some l, some w =>
        if l.savedBase ≤ h ∧ h < l.savedBase + l.savedUnits then
          let copy := ((s.learn.saved.find? (fun q => decide (q.1 = p.chip ∧ q.2.1 = mb.index))).map (fun q => q.2.2)).getD 0
          some (w.loftBase + 64 * l.savedUnits * copy + (a - 64 * l.savedBase))
        else some (r.loftBase + a)
      | _, _, _ => some (r.loftBase + a)
  | _, _ => none

/-- A byte that an issue reads. -/
def State.loftByte (s : State) (i : Issue) (p : PartRun) (a : Nat) : Byte := match s.loftAddr i p a with
  | some x => memRead (s.chip p.chip).loft x
  | none => 0

/-- Bytes written from a Loft handle on, each at its own place. -/
def State.loftWrite (s : State) (i : Issue) (p : PartRun) (handle : Nat) (w : List (Nat × Byte)) : State :=
  w.foldl (fun s (o : Nat × Byte) => match s.loftAddr i p (64 * handle + o.1) with
    | some x => s.modChip p.chip (fun c => { c with loft := memWrite c.loft x o.2 })
    | none => s) s

/-- The descriptor at an index of the table of a partition (R194). -/
def State.descAt (s : State) (c slot part idx : Nat) : Desc :=
  ⟨(List.range 64).map (fun k => s.granByte c slot part (64 * idx + k))⟩

/-- The global index of replica copy `c` of this tray (R357): the rank of its seat in the seat map, times r, plus c. -/
def State.globalReplica (s : State) (c : Nat) : Nat :=
  let own := s.nat 0x2800 2
  let held := (List.range 64).filter (fun i => decide (vget s.parish.seatMap i ≠ 0xFF))
  let seat := (held.find? (fun i => decide (vget s.parish.seatMap i = own))).getD 0
  (if s.flag 0x2800 1 then (held.filter (fun i => decide (i < seat))).length else 0) * s.nat 0x5000 20 + c

/-- What an engine reads for an issue at the descriptor of index `idx`. -/
def State.ctx (s : State) (i : Issue) (p : PartRun) (idx : Nat) : EngineCtx where
  gran := s.granByteOn p.chip i.slot p.part p.side
  loft := s.loftByte i p
  k := unsigned 32 i.k
  valid := fun r => if i.kind = 4 then some (((i.rows[r]?).map (fun k => s.nat (0x6100 + k) 13)).getD 0 + 1) else none
  sample := fun r => if i.kind = 4 then (i.rows[r]?).map (fun k =>
      (s.nat (0x6100 + k) 6, s.nat (0x6100 + k) 7, s.nat (0x6100 + k) 8, s.nat (0x6100 + k) 13, k)) else none
  noise := fun e =>
    let (rep, micro, step) : Nat × Nat × Nat := match i.micro with
      | some m => (s.globalReplica m.replica, m.index, s.learn.step % 2 ^ 32)
      | none => (0, 0, unsigned 32 i.k)
    philox (s.nat 0x5000 16) e (idx % 4096 + 2 ^ 12 * p.part + 2 ^ 16 * rep) (4 * 256 + micro) step
  lossK := match i.micro, (s.model i.slot).bind (fun m => m.variant.learn[p.part]?) with
    | some _, some l => if l.lossHead && decide (l.lossDesc = idx) then some (s.num 0x5001 1) else none
    | _, _ => none

/-- The pass group of the descriptor at a chain position: the passes from its index 0 to it (R215). -/
def State.groupOf (s : State) (i : Issue) (p : PartRun) (ord : Nat) : List Desc :=
  let at_ (n : Nat) := s.descAt p.chip i.slot p.part ((p.descs[n]?).map DescRun.idx |>.getD 0)
  let pass := (at_ ord).pass
  (List.range (min pass ord + 1)).map (fun q => at_ (ord - min pass ord + q))

/-! ### Engine-0 work -/

/-- The height and the width that engine 0 writes for a group: the forward input for BWD_DATA (R350). -/
def groupSize (g : List Desc) (d : Desc) : Nat × Nat :=
  if d.op = opFc then (d.inH, 1) else if d.op = opBwdData then (d.inH, d.inW) else d.outSize (kernelOf g)

/-- The size of the forward output that a backward descriptor refers to. -/
def Desc.fwdOut (d : Desc) : Nat × Nat := if d.rowServed then (d.inH, 1) else d.outSize ⟨d.rowOff + d.kh, d.colOff + d.kw⟩

/-- Fan-in positions of the forward descriptor of a backward one. -/
def Desc.fwdFanIn (d : Desc) : Nat := if d.rowServed then d.inC else d.kh * d.kw * d.inCg

/-- The work units of a pass group (R126, R212; Table 10.5 for the backward ops). -/
def groupUnits (g : List Desc) : Nat := match g.head? with
  | none => 0
  | some d =>
    if d.op = opBwdWeight then d.outC * ceilDiv d.fwdFanIn 16
    else
      let (h, w) := groupSize g d
      h * w * (if d.op = opBwdData then ceilDiv d.inC 16 else d.unitsPer)

/-- The forward tap and channel of a fan-in position at an output position. -/
def Desc.tapAt (d : Desc) (oy ox o i : Nat) : Tap × Nat :=
  if d.rowServed then (.image oy 0, i)
  else
    let cg := max 1 d.inCg
    (d.tap oy ox (i / cg / max 1 d.kw) (i / cg % max 1 d.kw), o / max 1 d.outCg * cg + i % cg)

/-- The output-gradient map of a backward descriptor. -/
def Desc.gradMap (d : Desc) : FMap := ⟨d.inLayout, d.inCodec, d.fwdOut.1, d.fwdOut.2, d.outC, 8⟩

/-- A value of the output gradient (R351, R151). -/
def Desc.grad (d : Desc) (x : EngineCtx) (oy ox o : Nat) : Int :=
  codeValue 8 true (d.gradMap.code (x.buf d.inHandle) oy ox o)

/-- The terms of an input-gradient element (R350): for every forward tap in order, every output position that read the element
through it, and every forward output channel, weight times output gradient. -/
def Desc.bwdTerms (d : Desc) (x : EngineCtx) (y xx c : Nat) : List Int :=
  let (h, w) := d.fwdOut
  let cg := max 1 d.inCg
  let taps := if d.rowServed then [c] else (List.range (d.kh * d.kw)).map (fun t => t * cg + c % cg)
  taps.flatMap fun i => (List.range (h * w)).flatMap fun pos => (List.range d.outC).filterMap fun o =>
    if d.tapAt (pos / w) (pos % w) o i = (.image y xx, c) then some (d.weight x.gran o i * d.grad x (pos / w) (pos % w) o) else none

/-- An input-gradient element: the slices of its terms added in order (R149, R151, R136). -/
def bwdData (g : List Desc) (x : EngineCtx) (y xx c : Nat) : AccEntry :=
  g.foldl (fun e d => accTerms e (d.bwdTerms x y xx c)) accZero

/-- The saved forward input of BWD_WEIGHT (R351). -/
def Desc.savedMap (d : Desc) : FMap := ⟨d.outLayout, d.outCodec, d.inH, d.inW, d.inC, d.obits⟩

/-- The terms of the latent of output channel `o` at fan-in position `i`, by output position (R351). -/
def Desc.wgtTerms (d : Desc) (x : EngineCtx) (o i : Nat) : List Int :=
  let (h, w) := d.fwdOut
  (List.range (h * w)).map fun pos =>
    let v := match d.tapAt (pos / w) (pos % w) o i with
      | (.image y xx, c) => codeValue d.obits d.codeSigned (d.savedMap.code (x.buf d.tableBase) y xx c)
      | (.const, _) => d.padValue
      | (.masked, _) => 0
    d.grad x (pos / w) (pos % w) o * v

/-- The sum S of a latent: the slices of its terms added in order (R351, R136; Table 10.5 takes output positions as fan-in). -/
def bwdWeight (d : Desc) (x : EngineCtx) (o i : Nat) : AccEntry := accTerms accZero (d.wgtTerms x o i)

/-- Output channels of a work unit of a group: 16, or the blocks that pass 0 packs (R126, R212). -/
def unitCols (d : Desc) : Nat := if d.diag ∧ d.op ≠ opBwdData then d.packed * d.outCg else 16

/-- The accumulator entries of one work unit: position-major within a channel group, 16 columns. On the Commons route each entry
adds what the fills of its position give (R164). -/
def unitEntries (commons : Bool) (g : List Desc) (x : EngineCtx) (u : Nat) : List AccEntry := match g.head? with
  | none => []
  | some d =>
    if d.op = opBwdWeight then
      let per := ceilDiv d.fwdFanIn 16
      (List.range 16).map (fun c => if u % per * 16 + c < d.fwdFanIn then bwdWeight d x (u / per) (u % per * 16 + c)
        else accZero)
    else
      let (h, w) := groupSize g d
      let pos := u % max 1 (h * w)
      let k := u / max 1 (h * w)
      if d.op = opBwdData then
        (List.range 16).map (fun c => if 16 * k + c < d.inC then bwdData g x (pos / w) (pos % w) (16 * k + c) else accZero)
      else
        let cols := unitCols d
        let count := if commons then lookUp else accumulate
        (List.range 16).map (fun c => if c < cols ∧ cols * k + c < d.outC then
            count g x.gran (d.image x) (pos / w) (pos % w) (cols * k + c) else accZero)

/-- The output codes of one work unit with their places (y, x, channel). -/
def unitCodes (g : List Desc) (x : EngineCtx) (u : Nat) (entries : List AccEntry) : List (Nat × Nat × Nat × Nat) :=
  match g.head?, g.getLast? with
  | some d0, some d =>
    let (h, w) := groupSize g d
    let pos := u % max 1 (h * w)
    let k := u / max 1 (h * w)
    let cols := unitCols d0
    let lim := if d.op = opBwdData then d.inC else d.outC
    (List.range cols).filterMap fun c =>
      let o := cols * k + c
      if o < lim then some (pos / w, pos % w, o,
        d.outCode x (requant x.gran d.tableBase d.obits o ((entries[c]?).getD accZero).value)) else none
  | _, _ => []

/-- The output map of a group's final descriptor. -/
def groupMap (g : List Desc) (d : Desc) : FMap :=
  let (h, w) := groupSize g d
  { d.outMap h w with c := if d.op = opBwdData then d.inC else d.outC }

/-! ### Rank -/

/-- The class of an issue under R277. -/
def Issue.rank (i : Issue) : Nat :=
  if i.micro.isSome ∨ i.kind = 5 then 3 else if i.kind = 4 then 2 else if i.st = .committed then 0 else 1

/-- What is left to an issue's deadline, or to its trigger, on its shaft, if it has one. -/
def State.left (s : State) (i : Issue) : Option Int :=
  let a := (s.shaft i.shaft).angle
  if i.rank = 0 then
    let d := (s.jobDesc i.tenant i.job).deadline
    if d = 0 then none else some (i.angle + d - a)
  else if i.rank = 1 then some (i.angle - a) else none

/-- Less time to go: compares angle by the speed of each shaft. -/
def State.sooner (s : State) (i j : Issue) : Bool := match s.left i, s.left j with
  | some x, some y =>
    let u := s.shaft i.shaft
    let v := s.shaft j.shaft
    if i.shaft = j.shaft then decide (x < y)
    else decide (x * v.speed.natAbs * u.speedDen < y * u.speed.natAbs * v.speedDen)
  | some _, none => true
  | none, _ => false

/-- The order of service of R277; token steps are taken oldest first. -/
def State.before (s : State) (i j : Issue) : Bool :=
  if i.rank ≠ j.rank then decide (i.rank < j.rank)
  else if i.rank = 2 then decide (i.id < j.id)
  else if s.sooner i j then true else if s.sooner j i then false
  else if i.tenant ≠ j.tenant then decide (i.tenant < j.tenant) else decide (i.id < j.id)

/-- The first entry of a queue in the order of service; entries of one issue keep their order. -/
def State.best (s : State) (q : List (Nat × Nat × Nat)) : Option (Nat × Nat × Nat) :=
  q.foldl (fun b e => match b with
    | none => some e
    | some o => match s.issue o.1, s.issue e.1 with
      | some i, some j => if o.1 ≠ e.1 && s.before j i then some e else b
      | none, _ => some e
      | _, none => b) none

/-! ### Bank rounds -/

/-- The run of a group by chain position of pass 0. -/
def State.descRun (s : State) (e : Nat × Nat × Nat) : Option DescRun :=
  (s.issue e.1).bind (fun i => (i.parts.find? (fun p => decide (p.part = e.2.1))).bind (fun p => p.descs[e.2.2]?))

/-- A group whose every pass has been issued and which has units left to take. -/
def State.groupReady (s : State) (e : Nat × Nat × Nat) : Bool := match s.issue e.1 with
  | none => false
  | some i => match i.parts.find? (fun p => decide (p.part = e.2.1)) with
    | none => false
    | some p => match p.descs[e.2.2]? with
      | none => false
      | some d =>
        let passes := (s.descAt p.chip i.slot p.part d.idx).passes
        decide (e.2.2 + passes ≤ p.descs.length) && decide (d.taken < d.units)

/-- A route mark: the descriptor is counted in the Commons (R165). -/
def State.commonsMark (s : State) (i : Issue) (p : PartRun) (ord : Nat) : Bool :=
  match s.model i.slot, p.descs[ord]? with
  | some m, some d => (m.variant.part p.part).commons.contains d.idx
  | _, _ => false

/-- A free bank of a cluster: in service, empty and not under test (R281). -/
def State.freeBank (s : State) (c k : Nat) : Option Nat :=
  let cl := vget (s.chip c).clusters k
  (List.range 16).find? fun b =>
    let x := vget cl.banks b
    !x.retired && x.round.isNone && !s.underTest (.accBank c k b)

/-- The clusters that take rounds: those of the tier, less the ones that a downward transition is to switch off (R35). -/
def Chip.openClusters (x : Chip) : Nat :=
  if x.falling then min (tierClusters x.tier) (tierClusters (x.dropTo.getD (if x.tier = 1 then 0 else max 1 x.target)))
  else tierClusters x.tier

/-- A chip whose mirror is stale starts no speculative work (R95). -/
def State.heldBack (s : State) (c : Nat) (e : Nat × Nat × Nat) : Bool :=
  (s.chip c).mirror.stale && ((s.issue e.1).map (fun i => decide (i.st ≠ .committed))).getD false

/-- A cluster takes rounds: its tier runs it, the clock is not dropped for a change of tier (R35), and no tuning holds it
(R425, R426). -/
def State.clusterOpen (s : State) (c k : Nat) : Bool :=
  let x := s.chip c
  let cl := vget x.clusters k
  decide (k < x.openClusters) && x.dropTo.isNone && !cl.tuning && cl.tuneDue.isNone && !x.failed && !x.stalled && !x.railCycle

/-- The rounds in flight on a cluster. -/
def Cluster.rounds (c : Cluster) : List Round := c.banks.toList.filterMap AccBank.round

/-- The active clusters of a chip for a descriptor's work: those that may take its rounds, in ascending order. -/
def State.activeClusters (s : State) (c : Nat) : List Nat := (List.range 8).filter (fun k => s.clusterOpen c k)

/-- The Commons of a cluster looks tables up: a table bank is in service (R171). -/
def Cluster.looksUp (c : Cluster) : Bool := (vget c.commons 0).live || (vget c.commons 1).live

/-- The clusters that a Commons descriptor is dealt to (R166): the first c = min(active clusters, floor(r / 64)) active ones. -/
def State.dealing (s : State) (c : Nat) (d : Desc) : List Nat :=
  (s.activeClusters c).take (max 1 (d.outC / d.groupCount / 64))

/-- Work units of every `n`-th of `c` shares of channel groups dealt in turn, of `size` units each (R166). -/
def shareUnits (groups size c n : Nat) : Nat := ceilDiv (groups - n) c * size

/-- What a cluster may take of a group's units: share `lane` of `lanes`, the units of it taken, and all that it holds. -/
structure Share where
  lane : Nat
  lanes : Nat
  taken : Nat
  all : Nat
deriving DecidableEq, Repr, Inhabited

/-- The share of a dealt descriptor that a cluster serves: its own, or one whose cluster takes no rounds any more. -/
def State.dealtShare (s : State) (c k : Nat) (d : Desc) (g : List Desc) (run : DescRun) (dealt : List Nat) : Option Share :=
  let (h, w) := groupSize g d
  let share (n : Nat) : Share := ⟨n, dealt.length, (run.got[n]?).getD 0, shareUnits (ceilDiv d.outC 16) (h * w) dealt.length n⟩
  let left (n : Nat) : Bool := decide ((share n).taken < (share n).all)
  let all := List.range dealt.length
  ((all.find? (fun n => dealt[n]? = some k && left n))
    <|> (all.find? (fun n => !s.clusterOpen c ((dealt[n]?).getD 8) && left n))).map share

/-- The share of a group's units that a cluster may take: all of them in order on the Mill, its own share of a descriptor marked
Commons (R165, R166). -/
def State.shareOf (s : State) (c k : Nat) (e : Nat × Nat × Nat) : Option Share :=
  match s.issue e.1, (s.issue e.1).bind (fun i => i.parts.find? (fun p => decide (p.part = e.2.1))), s.descRun e with
  | some i, some p, some run =>
    if !s.commonsMark i p e.2.2 then some ⟨0, 1, run.taken, run.units⟩
    else
      let g := s.groupOf i p (e.2.2 + (s.descAt c i.slot p.part run.idx).passes - 1)
      let d := s.descAt c i.slot p.part run.idx
      s.dealtShare c k d g run (if run.dealt.isEmpty then s.dealing c d else run.dealt)
  | _, _, _ => none

/-- A group marked Commons runs there on a cluster with a table bank in service, and on its Mill tiles otherwise (R171). -/
def State.onCommons (s : State) (c k : Nat) (e : Nat × Nat × Nat) : Bool :=
  (vget (s.chip c).clusters k).looksUp && (match (s.issue e.1).bind (fun i => (i.part c).map (fun p => (i, p))) with
    | some (i, p) => s.commonsMark i p e.2.2
    | none => false)

/-- The unit that the `m`-th unit of a share is: the share holds every `lanes`-th channel group (R166), of `size` units each. -/
def Round.unit (r : Round) (size m : Nat) : Nat := (r.lane + r.lanes * (m / max 1 size)) * max 1 size + m % max 1 size

/-- A round of a share counted on its descriptor, which is dealt now where it was not (R166). -/
def DescRun.take (d : DescRun) (sh : Share) (dealt : List Nat) (n : Nat) : DescRun :=
  let got := if d.got.isEmpty then List.replicate dealt.length 0 else d.got
  { d with taken := d.taken + n, started := true, dealt := dealt, got := got.modify sh.lane (· + n) }

/-- A round that a bank opens, with the precision epoch of its pass group (R280). -/
def Chip.openRound (x : Chip) (k b : Nat) (r : Round) (epoch : Nat) : Chip :=
  { x with clusters := vmod x.clusters k (fun cl => { cl with banks := vmod cl.banks b (fun q =>
      { q with round := some r, epoch := epoch, entries := [] }) }) }

/-- The group of a round, by issue, partition and chain position. -/
def Round.key (r : Round) : Nat × Nat × Nat := (r.issue, r.part, r.ord)

/-- A cluster may open a bank for a group: at most 2 banks of one group, and at most 8 for speculative work (R278). -/
def State.bankCap (s : State) (live : List Round) (e : Nat × Nat × Nat) : Bool :=
  let spec := ((s.issue e.1).map (fun i => decide (i.st ≠ .committed))).getD true
  decide ((live.filter (fun r => decide (r.key = e))).length < 2)
    && !(spec && decide (8 ≤ (live.filter Round.spec).length))

/-- A round of a group taken by a cluster on one of its routes (R278, R281): of the highest-ranked group whose route is free, a
round to be taken again before a new one. -/
def State.takeRound (s : State) (c k : Nat) (commons : Bool) : State :=
  let x := s.chip c
  let live := (vget x.clusters k).rounds
  if !s.clusterOpen c k || live.any (fun r => r.commons == commons) then s
  else
    let again := x.redo.filter (fun r => (r.commons && (vget x.clusters k).looksUp) == commons)
    let fresh (e : Nat × Nat × Nat) : Bool := s.groupReady e && (s.onCommons c k e == commons) && (s.shareOf c k e).isSome
    let fits (e : Nat × Nat × Nat) : Bool := s.bankCap live e && !s.heldBack c e
    match s.freeBank c k, s.best ((again.map Round.key ++ x.queue0.filter fresh).filter fits) with
    | some b, some e => match s.issue e.1, s.descRun e with
      | some i, some d =>
        let epoch := (s.descAt c i.slot e.2.1 d.idx).epoch
        match again.find? (fun r => decide (r.key = e)) with
        | some r => s.modChip c fun x =>
            let now : Round := { r with spec := decide (i.st ≠ .committed), commons := commons }
            { x with redo := x.redo.erase r }.openRound k b now epoch
        | none => match s.shareOf c k e with
          | none => s
          | some sh =>
            let n := min 64 (sh.all - sh.taken)
            let r : Round := ⟨e.1, e.2.1, e.2.2, sh.taken, n, decide (i.st ≠ .committed), commons, sh.lane, sh.lanes⟩
            let dealt := if d.dealt.isEmpty then s.dealing c (s.descAt c i.slot e.2.1 d.idx) else d.dealt
            let s := s.modIssue e.1 fun i => i.modPart c fun p => { p with descs := p.descs.modify e.2.2 (fun d => d.take sh dealt n) }
            s.modChip c fun x => { x with
              queue0 := if d.units ≤ d.taken + n then x.queue0.erase e else x.queue0 }.openRound k b r epoch
      | _, _ => s
    | _, _ => s

/-- Every cluster of a chip takes what it can. -/
def State.fill (s : State) (c : Nat) : State :=
  forEach 8 s fun s k => (s.takeRound c k false).takeRound c k true

/-- Engines 1 to 3 take their next descriptor when free (R277, R279). The Smithy and its move engine run from Watch on (R186),
the Bellwether from Drowse on, once its check has passed (R185). -/
def State.startEngines (s : State) (c : Nat) : State :=
  let x := s.chip c
  if x.failed || x.stalled then s
  else
    let next (q : List (Nat × Nat × Nat)) : Option (Nat × Nat × Nat) := s.best (q.filter (fun e => !s.heldBack c e))
    let s := match x.run1, next x.queue1 with
      | none, some e => if 2 ≤ x.tier ∧ !s.underTest (.smithy c) then
          s.modChip c (fun x => { x with run1 := some e, queue1 := x.queue1.erase e }) else s
      | _, _ => s
    let s := match x.run2, next x.queue2 with
      | none, some e => if 1 ≤ x.tier ∧ x.bellOk ∧ !s.underTest (.bellwether c) then
          s.modChip c (fun x => { x with run2 := some e, queue2 := x.queue2.erase e }) else s
      | _, _ => s
    match x.run3, next x.queue3 with
    | none, some e => if 2 ≤ x.tier then
        s.modChip c (fun x => { x with run3 := some e, queue3 := x.queue3.erase e }) else s
    | _, _ => s

/-! ### Squash and end -/

/-- Every piece of engine work of an issue leaves the chips (R271): banks released without requantisation. -/
def Chip.drop (id : Nat) (c : Chip) : Chip :=
  let keep (e : Nat × Nat × Nat) : Bool := decide (e.1 ≠ id)
  let clear (r : Option (Nat × Nat × Nat)) := r.filter keep
  { c with
    queue0 := c.queue0.filter keep, queue1 := c.queue1.filter keep, queue2 := c.queue2.filter keep,
    queue3 := c.queue3.filter keep, run1 := clear c.run1, run2 := clear c.run2, run3 := clear c.run3,
    redo := c.redo.filter (fun r => decide (r.issue ≠ id)),
    clusters := c.clusters.map (fun k => { k with banks := k.banks.map (fun b =>
      if (b.round.map Round.issue) = some id then { b with round := none, entries := [] } else b) }) }

/-- The scratch copy of a partition after a squash: every byte undefined (R271). -/
def State.spoil (s : State) (i : Issue) (p : PartRun) : State :=
  match p.copy, s.model i.slot, (s.chip p.chip).region i.slot with
  | some n, some m, some r =>
    let x := m.variant.part p.part
    let len := 64 * x.scratchUnits
    let (d, s) := s.draw
    s.modChip p.chip fun c => { c with
      loft := memWriteN c.loft (r.loftBase + x.ploft + len * n) ((List.range len).map (Config.scratchByte d)) }
  | _, _, _ => s

/-- Strips that wait in Reeve enter the transfer queue of a chip while it has credit (R263, R265). -/
def Chip.feedStrips (x : Chip) : Chip :=
  { x with strips := x.strips ++ x.stripsWait.take (16 - x.strips.length), stripsWait := x.stripsWait.drop (16 - x.strips.length) }

/-- Strip transfers for whom none is needed any more leave the queues (R265). -/
def Chip.dropStrips (who : StripFor) (x : Chip) : Chip :=
  { x with strips := x.strips.filter (fun e => decide (e.1 ≠ who)), stripsWait := x.stripsWait.filter (fun e => decide (e.1 ≠ who)) }.feedStrips

def State.dropStrips (s : State) (who : StripFor) : State := { s with chips := s.chips.map (Chip.dropStrips who) }

/-- An issue leaves the tray. -/
def State.removeIssue (s : State) (id : Nat) : State :=
  let s := { s with issues := s.issues.filter (fun i => decide (i.id ≠ id)), chips := s.chips.map (fun x => (x.drop id).dropStrips (.issue id)) }
  forEach 16 s fun s c => (s.fill c).startEngines c

/-! ### The order of triggers (R264) -/

/-- The model of a job's slot, where the slot is admitted to the tenant (R259). -/
def State.jobModel (s : State) (t j : Nat) : Option Model :=
  let d := s.jobDesc t j
  if s.nat (0x4000 + d.slot) 1 = t ∧ !(s.slot d.slot).unplaced then s.model d.slot else none

/-- Committed slots are free for a job. -/
def State.canIssue (s : State) (t j : Nat) : Bool := match s.jobModel t j with
  | none => false
  | some m => s.slotFree false t m.chips

/-- A job of a tenant that runs on one of the chips. -/
def State.shares (s : State) (t j : Nat) (chips : List Nat) : Bool :=
  ((s.jobModel t j).map (fun m => m.chips.any chips.contains)).getD false

/-- An earlier trigger has the first call on a committed slot of the chips: a pending one of the same tenant, or the oldest pending
one of another tenant that could be issued (R264, R273). -/
def State.outranked (s : State) (t order : Nat) (chips : List Nat) : Bool :=
  (s.pendOf t).queue.any (fun q => decide (q.order < order) && s.shares t q.job chips)
  || (List.range 16).any (fun u => decide (u ≠ t) && (match (s.pendOf u).queue with
    | [] => false
    | o :: _ => decide (o.order < order) && s.canIssue u o.job && s.shares u o.job chips))

/-- A speculative issue counts as committed (R261): issued in :03 of Table 8.1, and in :05 of Table 8.8. -/
def State.countCommit (s : State) (i : Issue) : State :=
  (s.bump (blk i.tenant (0x20 + i.job)) 3).bump (blk i.tenant 0x2F) 5

/-- Issues whose trigger has fired take the committed slots that have freed, oldest first, each behind the earlier triggers of its
job, and count as committed then (R261, R273). -/
def State.promote (s : State) : State :=
  s.issues.foldl (fun s i =>
    let chips := i.parts.map PartRun.chip
    if i.waitsSlot && decide (i.st = .committed) && !s.outranked i.tenant i.order chips && s.slotFree false i.tenant chips then
      (s.modIssue i.id (fun i => { i with waitsSlot := false })).countCommit i else s) s

/-- A speculative issue squashed (R271): only the speculation counters and :05 of the job move. Its k is kept, for which the job
is issued again only when its trigger fires (R272). -/
def State.squash (s : State) (id : Nat) : State := match s.issue id with
  | none => s
  | some i =>
    let s := i.parts.foldl (fun s p => s.spoil i p) s
    let s := (s.removeIssue id).bump (blk i.tenant (0x20 + i.job)) 5
    let s := s.modJob i.tenant i.job (fun r => { r with noSpec := i.k :: r.noSpec.filter (fun k => decide (k ≠ i.k)) })
    s.bump (blk i.tenant 0x2F) 6

/-- Every speculative issue that satisfies `p` is squashed, in order of issue. -/
def State.squashIf (s : State) (p : Issue → Bool) : State :=
  (s.issues.filter (fun i => decide (i.st ≠ .committed) && p i)).foldl (fun s i => s.squash i.id) s

/-- The jobs still to finish with a frame (Table 8.5): the pair leaves, and a frame that none waits for leaves its ring. -/
def releaseIn (ring : List Frame) (k : Int) (t j : Nat) : List Frame :=
  (ring.map (fun f => if f.number = k then { f with waiting := f.waiting.filter (fun w => decide (w ≠ (t, j))) } else f)).filter
    (fun f => decide (f.number ≠ k) || !f.waiting.isEmpty)

/-- A job has finished with the frame of ring `g` (0–7 groups, 8–9 cameras), or skipped it. -/
def State.release (s : State) (frame : Option (Nat × Int)) (t j : Nat) : State := match frame with
  | none => s
  | some (g, k) => if g < 8 then s.modGroup g (fun x => { x with ring := releaseIn x.ring k t j })
      else s.modCam (g - 8) (fun x => { x with ring := releaseIn x.ring k t j })

/-- The cache of a token session is zeroed. -/
def State.clearCache (s : State) (k : Nat) : State := { s with chips := s.chips.map (fun (c : Chip) => match c.region (0x100 + k) with
  | some r => { c with loft := memClear c.loft r.loftBase r.loftSize }
  | none => c) }

/-- A token session's cache zeroed and given back, its owner gone, and its position 0 (R328). -/
def State.tokenShut (s : State) (k : Nat) : State :=
  let s := s.clearCache k
  let s : State := { s with
    chips := s.chips.map (fun (c : Chip) => { c with regions := c.regions.filter (fun r => decide (r.slot ≠ 0x100 + k)) }) }
  let s := s.modToken k (fun _ => {})
  ((s.setNum (0x6100 + k) 3 0).setNum (0x6100 + k) 2 0xFF).setNum (0x6100 + k) 13 0

/-- A token session whose step ends by a fault returns to idle with end reason 5 (R329), or closes where a close was accepted during
the step (R328). -/
def State.tokenFault (s : State) (k : Nat) : State :=
  if (s.token k).closeAsked then s.tokenShut k
  else
    let s := s.modToken k (fun x => { x with outstanding := false, stopAsked := false })
    (s.setNum (0x6100 + k) 3 1).setNum (0x6100 + k) 16 5

/-- An issue ends with no output (R198, R245, R417): counted in :0B of Table 8.8, a speculative one as squashed. -/
def State.endIssue (s : State) (id : Nat) : State := match s.issue id with
  | none => s
  | some i =>
    if i.st ≠ .committed then s.squash id
    else
      let s := s.removeIssue id
      let s := s.bump (blk i.tenant 0x2F) 11
      let s := s.release i.frame i.tenant i.job
      let s := if i.kind = 4 then (i.rows.filter (· < 8)).foldl State.tokenFault s else s
      s.promote

end Sys2Proof.Machine
end

