-- ==== Sys2Proof/Machine/Moot.lean ====
section
/-! DEFINITION. The parish's frames and peers: Moot format, sending, acknowledgement, health, the leader and the seats
(chapter 11). -/

namespace Sys2Proof.Machine

/-- The parish is enabled; otherwise the tray learns alone (R371). -/
def State.inParish (s : State) : Bool := s.flag 0x2800 1

/-- The tray's own ID. -/
def State.trayId (s : State) : Nat := s.nat 0x2800 2

/-- The trays of OD 0x2800:05 and :06, as a bitmap. -/
def State.members (s : State) : Nat := Nat.lor (s.nat 0x2800 5) (s.nat 0x2800 6)

/-- The message types of Table 11.3. -/
def mHello : Nat := 0x01
def mHeartbeat : Nat := 0x02
def mAck : Nat := 0x03
def mBid : Nat := 0x10
def mStart : Nat := 0x11
def mPart : Nat := 0x20
def mFuse : Nat := 0x21
def mDecide : Nat := 0x22
def mReady : Nat := 0x30
def mCommit : Nat := 0x31
def mRollback : Nat := 0x32
def mAbort : Nat := 0x33
def mAdopt : Nat := 0x34
def mRows : Nat := 0x40
def mShadow : Nat := 0x41
def mRestore : Nat := 0x42
def mCkpt : Nat := 0x50
def mCkptDone : Nat := 0x51
def mReplay : Nat := 0x60

/-- The class of a type: 0 unsequenced, 1 control, 2 data, 3 bulk. -/
def mClass (ty : Nat) : Nat :=
  if ty ≤ 3 then 0 else if ty = mPart ∨ ty = mRows ∨ ty = mShadow ∨ ty = mRestore then 2 else if ty = mCkpt then 3 else 1

/-- A datagram (R379): header, payload and CRC-32. -/
def MootFrame.encode (source parish : Nat) (f : MootFrame) : List Byte :=
  let body := [0x4D, 0x4F, 0x4F, 0x54, 1, BitVec.ofNat 8 f.type, BitVec.ofNat 8 source, BitVec.ofNat 8 f.dst]
    ++ leBytes 2 parish ++ leBytes 2 f.payload.length ++ leBytes 4 f.seq ++ leBytes 4 f.ack ++ leBytes 8 f.step
    ++ leBytes 2 f.flags ++ [0, 0] ++ f.payload
  body ++ leBytes 4 (crc32 body)

/-- A payload that passes the checks of R379 for a destination tray and a parish. -/
def mootValid (own parish : Nat) (b : List Byte) : Bool :=
  let n := b.length
  decide (36 ≤ n) && slice b 0 4 == [0x4D, 0x4F, 0x4F, 0x54] && decide (byteAt b 4 = 1) && decide (byteAt b 7 = own)
    && decide (leAt b 8 2 = parish) && decide (leAt b 10 2 = n - 36) && decide (n - 36 ≤ 1408)
    && decide (leAt b (n - 4) 4 = crc32 (b.take (n - 4)))

/-! ### Peers -/

def State.peer (s : State) (t : Nat) : Peer := vget s.parish.peers t
def State.modPeer (s : State) (t : Nat) (f : Peer → Peer) : State :=
  { s with parish := { s.parish with peers := vmod s.parish.peers t f } }

/-- The heartbeat interval in µs. -/
def State.beat (s : State) : Nat := 1000 * s.nat 0x2800 11

/-- The tray counts as healthy to itself in ready, watching and learning (R373). -/
def State.selfHealthy (s : State) : Bool := s.tray = .ready || s.runs

/-- A tray of the parish is healthy in this tray's view. -/
def State.healthy (s : State) (t : Nat) : Bool := if t = s.trayId then s.selfHealthy else (s.peer t).healthy

/-- The healthy trays of the parish. -/
def State.healthySet (s : State) : List Nat := (bitsSet 64 s.members).filter s.healthy

/-- More than half of the trays are healthy (R375). -/
def State.quorum (s : State) : Bool := decide ((bitsSet 64 s.members).length < 2 * s.healthySet.length)

/-- The seats of the map with the tray that holds each, ascending. -/
def State.seats (s : State) : List (Nat × Nat) :=
  (List.range 64).filterMap fun i => let t := vget s.parish.seatMap i; if t < 64 then some (i, t) else none

/-- Every seat of the parish that has not been dropped is held by a healthy tray (R374). -/
def State.allSeated (s : State) : Bool :=
  (bitsSet 64 (s.nat 0x2800 5)).all fun i =>
    bit s.parish.dropped i || (!bit s.parish.vacant i && (let t := vget s.parish.seatMap i; decide (t < 64) && s.healthy t))

/-- A port of the Ferry is up (R376). -/
def State.portUp (s : State) (q : Nat) : Bool := vget s.parish.module q && vget s.parish.lock q && !vget s.parish.dup q

/-- The ports over which a heartbeat from a tray has arrived within 16 intervals (R378). -/
def State.portsTo (s : State) (t : Nat) : List Nat :=
  (List.range 2).filter fun q => s.portUp q && (match vget (s.peer t).heardPort q with
    | some m => decide (s.micros ≤ m + 16 * s.beat)
    | none => false)

/-! ### Sending -/

/-- A frame handed to a port, counted in OD 0x2810. -/
def State.transmit (s : State) (q : Nat) (f : MootFrame) : State :=
  ({ s with parish := { s.parish with sent := (q, f) :: s.parish.sent } }.bump 0x2810 (2 + 6 * q)).add 0x2810 (6 + 6 * q)
    f.payload.length

/-- The acknowledge fields that any frame to a tray carries (R380). -/
def State.withAck (s : State) (f : MootFrame) : MootFrame :=
  { f with ack := (s.peer f.dst).nextExpect, flags := Nat.lor f.flags 2 }

/-- One unsequenced frame on every port that is up (R378). -/
def State.sendPlain (s : State) (ty dst step : Nat) (payload : List Byte) : State :=
  let f := s.withAck ⟨ty, dst, 0, 0, step, 1, payload⟩
  ((List.range 2).filter s.portUp).foldl (fun s q => s.transmit q f) s

/-- The ports on which a frame goes out: control frames on every port that qualifies, data and bulk frames to one destination on
alternate ones (R378). -/
def State.portsFor (s : State) (f : MootFrame) : List Nat :=
  let ps := s.portsTo f.dst
  if mClass f.type = 1 then ps
  else if mClass f.type = 0 then ps.take 1
  else (ps[(s.peer f.dst).nextPort % max 1 ps.length]?).toList

/-- A queued frame sent. -/
def State.launch (s : State) (f : MootFrame) : State :=
  let f := s.withAck f
  let ports := s.portsFor f
  let s := s.modPeer f.dst (fun p => { p with
    ackOwed := false, nextPort := if 2 ≤ mClass f.type then p.nextPort + 1 else p.nextPort })
  ports.foldl (fun s q => s.transmit q f) s

/-- The frames of a destination inside its window of 256 go out, control before data before bulk (R380, R383). -/
def State.pump (s : State) (dst : Nat) : State :=
  let waiting := (s.peer dst).unacked.filter (fun u => u.out.isNone)
  let room := 256 - ((s.peer dst).unacked.filter (fun u => u.out.isSome)).length
  let order := (List.range 4).flatMap (fun c => waiting.filter (fun u => decide (mClass u.frame.type = c)))
  (order.take room).foldl (fun s u =>
    let n := (s.peer dst).nextSend
    let f := { u.frame with seq := n }
    let s := s.modPeer dst (fun p => { p with
      nextSend := (n + 1) % 2 ^ 32,
      unacked := (p.unacked.erase u) ++ [{ u with frame := f, out := some s.micros, port := (s.portsFor f).getLastD 0 }] })
    s.launch f) s

/-- A sequenced frame queued for a tray (R380). -/
def State.sendTo (s : State) (ty dst step : Nat) (payload : List Byte) : State :=
  (s.modPeer dst (fun p => { p with unacked := p.unacked ++ [⟨⟨ty, dst, 0, 0, step, 0, payload⟩, 0, 0, none⟩] })).pump dst

/-- The 16-byte prefix of a data payload (Table 11.3). -/
def MootPre.encode (p : MootPre) : List Byte :=
  leBytes 2 p.layer ++ leBytes 2 p.shard ++ leBytes 2 p.replica ++ leBytes 1 p.content ++ [0] ++ leBytes 4 p.offset
    ++ leBytes 4 p.total

/-- A whole sent in chunks of 1 392 bytes, each behind its prefix. -/
def State.sendWhole (s : State) (ty dst step layer shard replica content : Nat) (b : List Byte) : State :=
  forEach (max 1 (ceilDiv b.length 1392)) s fun s n =>
    s.sendTo ty dst step ((MootPre.encode ⟨layer, shard, replica, content, 1392 * n, b.length⟩) ++ slice b (1392 * n) 1392)

/-- A seat map as START and ROLLBACK carry it. -/
def seatBytes (m : List Nat) : List Byte := (List.range 64).map (fun i => BitVec.ofNat 8 ((m[i]?).getD 0xFF))

def State.seatList (s : State) : List Nat := s.parish.seatMap.toList

/-! ### The leader and the seats -/

/-- The leader in view: the healthy tray of the lowest ID under quorum (R375). -/
def State.leaderInView (s : State) : Nat := if s.quorum then s.healthySet.headD 0xFF else 0xFF

/-- The tray acts as leader: alone, or the leader in its own view (R371, R375). -/
def State.leads (s : State) : Bool := !s.inParish || (s.parish.leader = s.trayId && s.quorum)

/-- The seat this tray holds. -/
def State.ownSeat (s : State) : Nat := ((s.seats.find? (fun p => decide (p.2 = s.trayId))).map Prod.fst).getD 0xFF

/-- The seat this tray reports: none once it has given it up. -/
def State.seatShown (s : State) : Nat := if bit s.parish.vacant s.ownSeat then 0xFF else s.ownSeat

/-- A seat whose own tray is healthy, never taken and not dropped, is held by that tray (R374). -/
def State.seatOwn (s : State) : State :=
  let m := (bitsSet 64 (s.nat 0x2800 5)).foldl (fun (m : Vector Nat 64) i =>
    if vget m i = 0xFF ∧ s.healthy i = true ∧ bit s.parish.dropped i = false then vset m i i else m) s.parish.seatMap
  { s with parish := { s.parish with seatMap := m } }

/-- The parish state of Table 11.6, the leader and the seat held, as the view of health now gives them; a change of leader
raises 0x7204 (R375). -/
def State.review (s : State) : State :=
  if !s.inParish then { s with parish := { s.parish with state := 0, leader := 0xFF, seat := 0xFF } }
  else
    let s := s.seatOwn
    let l := s.leaderInView
    let changed := decide (l ≠ s.parish.leader ∧ l ≠ 0xFF)
    let st := if !s.quorum then 4 else if s.allSeated then 2 else if s.parish.started then 3 else 1
    let s := { s with parish := { s.parish with
      leader := l, state := st, seat := s.seatShown,
      started := s.parish.started || decide (st = 2),
      recoverFrom := if changed && decide (l = s.trayId) then some s.micros else s.parish.recoverFrom } }
    if changed then s.raise 0x7204 0 noTenant l else s

/-- A peer lost (R373). -/
def State.losePeer (s : State) (t : Nat) : State :=
  let p := s.peer t
  if p.healthy then
    let s := s.modPeer t (fun p => { p with healthy := false, lost := true, unacked := [], held := [] })
    let s := (s.raise 0x7203 (trayUnit t) noTenant t).review
    if s.leads then { s with parish := { s.parish with recoverFrom := some s.micros } } else s
  else s

/-! ### Digests -/

/-- The configuration digest that HELLO and HEARTBEAT carry (R372). -/
def State.configDigest (s : State) : Nat :=
  let enc (i j : Nat) : List Byte := match odRow i j with
    | some r => r.ty.encode (s.get i j)
    | none => []
  let slot := s.nat 0x5000 2
  crc64 ([4, 5, 6, 10, 11, 12, 13].flatMap (enc 0x2800) ++ (List.range 16).flatMap (fun j => enc 0x5000 (6 + j))
    ++ enc (0x4000 + slot) 12 ++ enc (0x4000 + slot) 13)

/-- A tray whose frames arrive, whose digest matches and whose last reported state allows it becomes healthy, and the numbering
restarts (R373, R380). -/
def State.refresh (s : State) (t : Nat) : State :=
  let p := s.peer t
  if p.digestOk && decide (3 ≤ p.trayState ∧ p.trayState ≤ 5) && !p.healthy then
    (s.modPeer t (fun p => { p with
      healthy := true, lost := false, nextSend := 0, nextExpect := 0, held := [],
      unacked := [] })).review
  else s

/-- A tray whose digest differs is ignored, with 0x7201 once, and is no longer healthy (R372, R373). -/
def State.digestDiffers (s : State) (t : Nat) : State :=
  let old := (s.peer t).digestRaised
  let s := s.modPeer t (fun p => { p with digestOk := false, digestRaised := true })
  (if old then s else s.raise 0x7201 0 noTenant t).losePeer t

/-- A tray's report of itself is taken in: digest and tray state; the numbering restarts when it becomes healthy (R380). -/
def State.hearPeer (s : State) (t digest trayState : Nat) : State :=
  if digest ≠ s.configDigest then s.digestDiffers t
  else
    let s := s.modPeer t (fun p => { p with digestOk := true, trayState := trayState })
    if 3 ≤ trayState ∧ trayState ≤ 5 then s.refresh t else s.losePeer t

/-- The configuration digest that a frame carries. -/
def frameDigest : Instr → Option Nat
  | .helloReceive _ digest _ _ => some digest
  | .heartbeatReceive _ _ _ _ _ _ _ digest _ => some digest
  | _ => none

/-- A frame comes from a tray whose digest differs, or is not known yet: it is ignored (R372). -/
def State.ignores (s : State) (t : Nat) (i : Instr) : Bool := match frameDigest i with
  | some d => decide (d ≠ s.configDigest)
  | none => !(s.peer t).digestOk

/-- An acknowledgement is owed to a tray (R380). -/
def State.oweAck (s : State) (t : Nat) : State :=
  s.modPeer t (fun p => if p.ackOwed then p else { p with ackOwed := true, ackFrom := s.micros })

/-! ### Receiving -/

/-- Frames below an acknowledged sequence leave, and those that the map of an ACK names (R380). -/
def State.takeAck (s : State) (t ack map : Nat) : State :=
  let gone (u : Unacked) : Bool := u.out.isSome &&
    (let d := (u.frame.seq + 2 ^ 32 - ack) % 2 ^ 32
     decide (2 ^ 31 ≤ d) || (decide (1 ≤ d ∧ d ≤ 32) && bit map (d - 1)))
  (s.modPeer t (fun p => { p with unacked := p.unacked.filter (fun u => !gone u) })).pump t

/-- A frame that has passed R377 and R379: arrival, acknowledgement, and delivery in sequence order of what `act` does with
each payload (R380). -/
def State.receive (s : State) (h : MootHdr) (i : Instr) (act : Instr → State → State) : State :=
  if !s.inParish || !bit s.members h.src || decide (h.src = s.trayId) || !s.portUp h.port then s
  else
    let s := s.bump 0x2810 (3 + 6 * h.port)
    if s.ignores h.src i then (if (frameDigest i).isSome then s.digestDiffers h.src else s) else
    let s := (s.modPeer h.src (fun p => { p with heard := some s.micros })).refresh h.src
    let s := if h.ackValid then s.takeAck h.src h.ack 0 else s
    if h.unsequenced then act i s
    else
      let p := s.peer h.src
      let d := (h.seq + 2 ^ 32 - p.nextExpect) % 2 ^ 32
      if 2 ^ 31 ≤ d then s.oweAck h.src
      else if 256 < d then s.bump 0x2810 (5 + 6 * h.port)
      else
        let held := if (lookupKey d p.held).isSome then p.held else insertKey d i p.held
        let run := (List.range held.length).takeWhile (fun n => (lookupKey n held).isSome)
        let s := (s.oweAck h.src).modPeer h.src (fun p => { p with
          nextExpect := (p.nextExpect + run.length) % 2 ^ 32,
          held := (held.filter (fun e => decide (run.length ≤ e.1))).map (fun e => (e.1 - run.length, e.2)) })
        run.foldl (fun s n => match lookupKey n held with
          | some j => act j s
          | none => s) s

end Sys2Proof.Machine
end

