-- ==== Sys2Proof/Machine/Flags.lean ====
section
/-! DEFINITION. The flag words: triggers (R87), frames (Table 3.4), job results (Table 8.7), condition outputs (Table 14.11)
and the shaft status word (Table 2.4). -/

namespace Sys2Proof.Machine

/-- A word with the listed bits set. -/
def word (l : List (Bool × Nat)) : Nat := (l.map (fun p => ofBool p.1 * 2 ^ p.2)).sum

/-- The status word of a shaft of a kind (Table 2.4). -/
def Shaft.status (x : Shaft) (kind : Nat) : Nat :=
  word [(decide (kind ≠ 0), 0), (x.referenced, 1), (x.standstill, 2), (x.referenced && x.reverse, 3), (x.uncertain, 4), (x.overspeed, 5),
    (x.beyond, 6), (x.inputLoss, 7), (decide (kind = 4), 8)]

/-- The trigger flag byte of a crossing on a shaft (R87). -/
def Shaft.triggerFlags (x : Shaft) (substituted held coalesced : Bool) : Nat :=
  word [(x.uncertain, 0), (x.overspeed, 1), (substituted, 2), (held, 3), (x.referenced && x.reverse, 4), (coalesced, 5)]

/-- The flags of a camera frame that its fire gives (Table 3.4). -/
def fireFrameFlags (x : Shaft) (trigger : Nat) : Nat :=
  word [(bit trigger 0, 0), (bit trigger 1, 1), (x.beyond, 2), (bit trigger 4, 5), (bit trigger 2, 9), (bit trigger 3, 10),
    (bit trigger 5, 11)]

/-- The result flags of an issue (Table 8.7). -/
def Issue.resultFlags (i : Issue) (late : Bool) : Nat :=
  i.flags % 64 + word [(late, 6), (i.satFlag, 7), (decide (i.frameFlags % 2 ^ 10 ≠ 0), 8), (i.ranAhead, 9), (i.gated, 10)]

/-- The status of a condition output from the result flags and the valid bit (Table 14.11). -/
def outputStatus (valid : Bool) (flags : Nat) : Nat :=
  word [(valid, 0), (bit flags 6, 1), (bit flags 0, 2), (bit flags 8, 3), (bit flags 9, 4)]

end Sys2Proof.Machine
end

