-- ==== Sys2Proof/Machine/Trigger.lean ====
section
/-! DEFINITION. What triggers jobs (chapter 8): the jobs of a source and their chains, frames in their rings and in the Loft,
committed issues, the pending queues, and the jobs that follow another one. -/

namespace Sys2Proof.Machine

/-! ### Jobs, chains and shafts -/

/-- The enabled jobs: tenant and number. -/
def State.enabledJobs (s : State) : List (Nat × Nat) :=
  s.od.filterMap fun (k, v) =>
    let i := k / 256
    if k % 256 = 1 ∧ 0x3000 ≤ i ∧ i < 0x4000 ∧ 0x20 ≤ i % 256 ∧ i % 256 ≤ 0x2E ∧ v ≠ .num 0 then
      some ((i - 0x3000) / 0x100, i % 256 - 0x20) else none

/-- The chain of descriptor indices from `i` on: at most `n` of them (R197). -/
def State.chainFrom (s : State) (c slot part : Nat) : Nat → Nat → List Nat
  | _, 0 => []
  | i, n + 1 =>
    let d := s.descAt c slot part i
    i :: (if d.last then [] else s.chainFrom c slot part d.next n)

/-- The descriptors of an entry on a partition as its image holds them. -/
def State.chain (s : State) (slot : Nat) (m : Model) (e part : Nat) : List Desc :=
  if m.variant.takesPart e part then
    (s.chainFrom (m.chipOf part) slot part (m.variant.entryOn e part).first (m.variant.part part).descCount).map
      (s.descAt (m.chipOf part) slot part)
  else []

/-- A wake job: its chain holds a STREAM descriptor (R183). -/
def State.isWakeJob (s : State) (t j : Nat) : Bool := match s.jobModel t j with
  | none => false
  | some m => (List.range m.variant.p).any fun q =>
      (s.chain (s.jobDesc t j).slot m (s.jobDesc t j).entry q).any (fun d => d.op = opStream)

/-- The shaft of a frame group: that of its lowest enabled channel (R103). -/
def State.groupShaft (s : State) (g : Nat) : Nat :=
  (((List.range 8).find? (fun c => s.flag (0x2300 + c) 1 && decide (s.nat (0x2300 + c) 14 = g))).map
    (fun c => s.nat (0x2300 + c) 10)).getD 0

/-- The shaft of a trigger source (Table 8.3); a kind-3 job takes that of its source job. -/
def State.jobShaft (s : State) (t j : Nat) : Nat → Nat
  | 0 => 0
  | n + 1 =>
    let d := s.jobDesc t j
    if d.kind = 0 then s.nat (blk t (0x10 + d.index)) 2
    else if d.kind = 1 then s.groupShaft d.index
    else if d.kind = 2 then s.nat (0x2310 + d.index) 2
    else if d.kind = 3 then s.jobShaft t d.index n else 0

/-- The chip that holds a wake job's STREAM descriptor has a Bellwether that has failed for good (R185). -/
def State.bellLost (s : State) (t j : Nat) : Bool := match s.jobModel t j with
  | none => false
  | some m => (List.range m.variant.p).any fun q => (s.chip (m.chipOf q)).bellFailed
      && (s.chain (s.jobDesc t j).slot m (s.jobDesc t j).entry q).any (fun d => d.op = opStream)

/-- A gated job runs ungated where the Bellwether of its wake job's chip has failed for good (R185). -/
def State.ungated (s : State) (t j : Nat) : Bool := (s.jobDesc t j).gated && s.bellLost t (s.jobDesc t j).gateJob

/-! ### Frames in the Loft -/

/-- Bytes of a sample or a pixel of a frame ring: 0 to 7 groups, 8 and 9 cameras. -/
def State.sampleBytes (s : State) (ring : Nat) : Nat :=
  if ring < 8 then
    (((List.range 8).find? (fun c => s.flag (0x2300 + c) 1 && decide (s.nat (0x2300 + c) 14 = ring))).map
      (fun c => 2 - s.nat (0x2300 + c) 15)).getD 2
  else 1 + s.nat (0x2310 + (ring - 8)) 18

/-- The channels of a group, ascending (R103). -/
def State.groupChannels (s : State) (g : Nat) : List Nat :=
  (List.range 8).filter (fun c => s.flag (0x2300 + c) 1 && decide (s.nat (0x2300 + c) 14 = g))

/-- Positions of a group's frame, or rows of a camera's, and the bytes of one. -/
def State.frameShape (s : State) (ring : Nat) : Nat × Nat :=
  if ring < 8 then
    let l := s.groupChannels ring
    let c := l.headD 0
    (s.nat (0x2300 + c) 11 * s.nat (0x2300 + c) 12, l.length * s.sampleBytes ring)
  else (s.nat (0x2310 + (ring - 8)) 17, s.nat (0x2310 + (ring - 8)) 16 * s.sampleBytes ring)

/-- The bytes of the data that strip `i` covers: first and end (R265). -/
def State.stripBytes (s : State) (ring i : Nat) : Nat × Nat :=
  let (p, b) := s.frameShape ring
  (i * p / 8 * b, (i + 1) * p / 8 * b)

/-- The Loft handle of the frame of an issue: that of its job, or of the sample source for a micro-batch (R342). -/
def State.frameHandle (s : State) (i : Issue) : Nat :=
  (s.jobDesc i.tenant (if i.micro.isSome then s.nat 0x5000 17 else i.job)).handle

/-- The frame ring that an issue reads, if any. -/
def State.frameRing (s : State) (i : Issue) : Option Nat :=
  let d := s.jobDesc i.tenant i.job
  if i.kind = 1 then some d.index else if i.kind = 2 then some (8 + d.index) else none

/-- The frame of an issue written into the Loft of a partition's chip (R22, R265), or the step table of a token step at the base
of the scratch window (R330). -/
def State.deliver (s : State) (i : Issue) (p : PartRun) : State :=
  let base := ((s.model i.slot).map (fun m => (m.variant.part p.part).scratchBase)).getD 0
  if i.frameData.isEmpty then s else s.loftWrite i p (if i.kind = 4 then base else s.frameHandle i) (atOffsets 0 i.frameData)

/-! ### Frames in their rings -/

/-- The frames of a ring: 0 to 7 groups, 8 and 9 cameras. -/
def State.ringOf (s : State) (r : Nat) : List Frame := if r < 8 then (s.group r).ring else (s.cam (r - 8)).ring

/-- A ring changed. -/
def State.modRing (s : State) (r : Nat) (f : List Frame → List Frame) : State :=
  if r < 8 then s.modGroup r (fun g => { g with ring := f g.ring }) else s.modCam (r - 8) (fun c => { c with ring := f c.ring })

/-- Header and data of a frame: from its ring, or as an issue holds it. -/
def State.frameBytes (s : State) (frame : Option (Nat × Int)) : List Byte := match frame with
  | none => []
  | some (r, k) => match (s.ringOf r).find? (fun f => decide (f.number = k)) with
    | some f => f.header ++ f.data
    | none => ((s.issues.find? (fun i => i.frame == some (r, k) && !i.frameData.isEmpty)).map Issue.frameData).getD []

/-! ### Jobs and their triggers -/

/-- A speculative issue of a job is under way. -/
def State.expects (s : State) (t j : Nat) : Bool := s.issues.any (fun i => decide (i.tenant = t ∧ i.job = j) && decide (i.st ≠ .committed))

/-- A job that a trigger of its own source reaches: enabled, or disabled with a speculative issue still to decide (R257), of an
active tenant, with a model in place, and neither gated nor a wake job whose Bellwether has failed (R185). -/
def State.listens (s : State) (t j : Nat) : Bool :=
  s.runs && (s.jobOn t j || s.expects t j) && decide (s.tenantState t = 1) && (s.jobModel t j).isSome
    && (!(s.jobDesc t j).gated || s.ungated t j) && !(s.isWakeJob t j && s.bellLost t j)

/-- The enabled jobs of a kind and trigger index, in tenant and job order, then the disabled ones with a speculative issue. -/
def State.jobsOf (s : State) (kind index : Nat) : List (Nat × Nat) :=
  s.enabledJobs.filter (fun (t, j) => decide ((s.jobDesc t j).kind = kind ∧ (s.jobDesc t j).index = index))
  ++ ((s.issues.filter (fun i => decide (i.st ≠ .committed) && decide (i.kind = kind ∧ i.index = index) && !s.jobOn i.tenant i.job)).map
    (fun i => (i.tenant, i.job))).eraseDups

/-- The unit of the source of a job's triggers (R288). -/
def State.sourceUnit (s : State) (t j : Nat) : Nat → Nat
  | 0 => 0
  | n + 1 =>
    let d := s.jobDesc t j
    if d.kind = 0 then shaftUnit (s.nat (blk t (0x10 + d.index)) 2)
    else if d.kind = 1 then groupUnit d.index
    else if d.kind = 2 then camUnit d.index
    else if d.kind = 3 then s.sourceUnit t d.index n else 0

/-- A dropped window (R286 to R288): counted, recorded, its frame released and its speculative issue squashed. -/
def State.dropTrigger (s : State) (t : Nat) (tr : Trigger) (code : Nat) : State :=
  let n := min ((s.job t tr.job).drops + 1) 0xFFF
  let s := s.modJob t tr.job (fun r => { r with drops := n })
  let s := (s.bump (blk t (0x20 + tr.job)) 7).bump (blk t 0x2F) 9
  let s := if code = 0x9101 then s.bump 0x2420 1 else s
  let s := s.raise code (s.sourceUnit t tr.job 16) t (tr.job + 16 * n)
  let s := s.squashIf (fun i => decide (i.tenant = t ∧ i.job = tr.job ∧ i.k = tr.k))
  s.release tr.frame t tr.job

/-- A committed issue of a tenant has been made on a frame (R287). -/
def State.serveFrame (s : State) (frame : Option (Nat × Int)) (t : Nat) : State := match frame with
  | none => s
  | some (r, k) => s.modRing r (fun l => l.map (fun f => if f.number = k ∧ ¬ f.served.contains t then { f with served := t :: f.served } else f))

/-- A committed issue made on a trigger (R261). It is delivered its whole frame, so that no strip of it is left to deliver. -/
def State.issueOn (s : State) (t : Nat) (tr : Trigger) : State :=
  let d := s.jobDesc t tr.job
  match s.jobModel t tr.job with
  | none => s
  | some m =>
    let x : Issue :=
      { id := s.nextIssue, tenant := t, job := tr.job, slot := d.slot, entry := d.entry, kind := d.kind, index := d.index,
        st := .committed, ranAhead := false, waitsSlot := false, order := tr.order, epoch := (s.shaft tr.shaft).traj.epoch,
        traj := (s.shaft tr.shaft).traj, k := tr.k, angle := tr.angle, flags := tr.flags, shaft := tr.shaft,
        frame := tr.frame, frameFlags := tr.frameFlags, gated := tr.gated, parts := startParts m m.chips (fun _ => d.entry),
        arrived := [], saturated := 0, satFlag := false, frameData := s.frameBytes tr.frame, stripsIn := [],
        finished := false, rows := [], micro := none, out := [] }
    let s := { s with issues := s.issues ++ [x], nextIssue := s.nextIssue + 1 }
    let s := (s.modJob t tr.job (fun r => { r with drops := 0 })).serveFrame tr.frame t
    let s := s.dropStrips (.job t tr.job tr.k)
    s.bump (blk t (0x20 + tr.job)) 3

/-- A trigger put into the pending queue of its tenant, or dropped under its policy (R286). -/
def State.enqueueTrigger (s : State) (t : Nat) (tr : Trigger) : State :=
  let p := s.pendOf t
  let put (s : State) : State := s.modPend t (fun p => { p with queue := p.queue ++ [tr] })
  let full := decide (8 ≤ p.queue.length)
  let policy := s.nat (blk t 0x50) 1
  let dropOldest (s : State) : State := match (s.pendOf t).queue with
    | [] => s
    | o :: r => (s.modPend t (fun p => { p with queue := r })).dropTrigger t o 0x9101
  if policy = 2 && (p.decimating || full) then
    let count := if p.decimating then p.count else 0
    let keep := decide (count % max 2 (s.nat (blk t 0x50) 2) = 0)
    let s := s.modPend t (fun p => { p with decimating := true, count := count + 1 })
    if keep then put (if full then dropOldest s else s) else s.dropTrigger t tr 0x9101
  else if !full then put s
  else if policy = 1 then put (dropOldest s) else s.dropTrigger t tr 0x9101

/-- Decimation ends when the queue is empty (R286). -/
def State.endDecimation (s : State) (t : Nat) : State :=
  if (s.pendOf t).queue.isEmpty then s.modPend t (fun p => { p with decimating := false, count := 0 }) else s

/-- A speculative issue commits on its trigger (R270): its slot, its frame and its held descriptors. Without a committed slot, or
behind an earlier trigger, it stays in its speculative slot and is counted later (R261, R273). -/
def State.commitIssue (s : State) (i : Issue) (tr : Trigger) : State :=
  let data := s.frameBytes tr.frame
  let chips := i.parts.map PartRun.chip
  let wait := !s.slotFree false i.tenant chips || s.outranked i.tenant tr.order chips
  let s := s.modIssue i.id fun i => { i with
    st := .committed, waitsSlot := wait, ranAhead := true, order := tr.order, angle := tr.angle, flags := tr.flags,
    shaft := tr.shaft, frame := tr.frame, frameFlags := tr.frameFlags, frameData := data }
  let s := (s.modJob i.tenant i.job (fun r => { r with drops := 0 })).serveFrame tr.frame i.tenant
  let s := if wait then s else s.countCommit i
  match s.issue i.id with
  | none => s
  | some i => i.parts.foldl (fun s p => if p.loaded then s.deliver i p else s) s

/-- A gap that is open now closes on a chip (R97). -/
def Chip.closeGap (now : Nat) (x : Chip) : Chip :=
  { x with mirror := { x.mirror with gaps := x.mirror.gaps.filter (fun g => !decide (g.1 ≤ now ∧ now < g.2)) } }

/-- A job falls due: the gaps open on its chips close (R97), and the k of a squashed issue may be predicted no more (R272). -/
def State.fallDue (s : State) (t j : Nat) (k : Int) : State :=
  let s := s.modJob t j (fun r => { r with noSpec := r.noSpec.filter (fun q => decide (q ≠ k)) })
  match s.jobModel t j with
  | none => s
  | some m => m.chips.foldl (fun s c => s.modChip c (Chip.closeGap s.timebase)) s

/-- A trigger reaches a job (R264, R270 to R272): the issue that expects its k commits, those of its job that expect a k it has
passed are squashed, and without one it is issued, or queued behind the earlier triggers that want the same chips. -/
def State.trigger (s : State) (t : Nat) (tr : Trigger) : State :=
  let tr := { tr with order := s.nextIssue }
  let s := { s with nextIssue := s.nextIssue + 1 }.fallDue t tr.job tr.k
  let back := bit tr.flags 4
  let mine (i : Issue) : Bool := decide (i.tenant = t ∧ i.job = tr.job) && decide (i.st ≠ .committed)
  let s := s.squashIf (fun i => mine i && (if back then decide (tr.k < i.k) else decide (i.k < tr.k)))
  match s.issues.find? (fun i => mine i && decide (i.k = tr.k)) with
  | some i => s.commitIssue i tr
  | none =>
    let chips := ((s.jobModel t tr.job).map Model.chips).getD []
    if !s.jobOn t tr.job then s.release tr.frame t tr.job
    else if (s.pendOf t).decimating || !s.canIssue t tr.job || s.outranked t tr.order chips then s.enqueueTrigger t tr
    else s.issueOn t tr

/-- A pending trigger of a tenant becomes a committed issue: its oldest, where slots are free and no tenant whose oldest trigger
is older could take them (R264). Issues that waited behind it follow (R273). -/
def State.issuePending (s : State) (t : Nat) : State := match (s.pendOf t).queue with
  | [] => s
  | tr :: rest =>
    if !s.canIssue t tr.job || s.outranked t tr.order (((s.jobModel t tr.job).map Model.chips).getD []) then s
    else (((s.modPend t (fun p => { p with queue := rest })).endDecimation t).issueOn t tr).promote

/-- Issues of kind-3 jobs on the completion of their source job, with its angle, k, trigger flags and shaft (R260). -/
def State.chained (s : State) (t src : Nat) (k angle : Int) (flags shaft : Nat) : State :=
  (s.enabledJobs.filter (fun (u, j) => decide (u = t ∧ (s.jobDesc u j).kind = 3 ∧ (s.jobDesc u j).index = src))).foldl
    (fun s (u, j) => if s.listens u j then s.trigger u ⟨j, k, angle, flags % 64, shaft, none, 0, 0, false⟩ else s) s

end Sys2Proof.Machine
end

