-- ==== Sys2Proof/Machine/Learn.lean ====
section
/-! DEFINITION. A learning step on this tray (chapters 10 and 11): its phases from the step event to commit, skip or
rollback, with the messages of the parish, or with every message taken internally where the tray learns alone (R371). The
operations stand in the order from the last phase back to the first. -/

namespace Sys2Proof
open Machine

/-- The DECIDE payload (Table 11.3). -/
def Decide.encode (d : Decide) : List Byte :=
  leBytes 1 d.outcome ++ [0, 0, 0] ++ leBytes 4 d.sigma ++ leBytes 4 d.norm ++ leBytes 4 d.overflow ++ leBytes 4 d.nonFinite
    ++ leBytes 4 d.origin

/-- The FUSE payload. -/
def FusePart.encode (f : FusePart) : List Byte :=
  leBytes 4 f.sigma ++ leBytes 4 f.overflow ++ leBytes 4 f.nonFinite ++ leBytes 4 f.overflowOrigin
    ++ leBytes 4 f.nonFiniteOrigin

/-- The lower of two origins: layer, then tray, then chip (R386). -/
def lowerOrigin (a b : Nat) : Nat :=
  if a = 0xFFFFFFFF then b else if b = 0xFFFFFFFF then a
  else
    let key (o : Nat) := field o 25 16 * 2 ^ 16 + field o 7 0 * 2 ^ 8 + field o 15 8
    if key a ≤ key b then a else b

def satAdd (a b : Nat) : Nat := min (a + b) (2 ^ 32 - 1)

/-- Two fused parts folded, the second the contributor just added with its origin (R385). -/
def FusePart.fold (a b : FusePart) (origin : Nat) : FusePart :=
  let sum := add32 a.sigma b.sigma
  let bad := nonFinite32 sum && !nonFinite32 a.sigma && !nonFinite32 b.sigma
  ⟨sum, satAdd a.overflow b.overflow, satAdd (satAdd a.nonFinite b.nonFinite) (ofBool bad),
   lowerOrigin a.overflowOrigin b.overflowOrigin,
   lowerOrigin (lowerOrigin a.nonFiniteOrigin b.nonFiniteOrigin) (if bad then origin else 0xFFFFFFFF)⟩

def FusePart.zero : FusePart := ⟨0, 0, 0, 0xFFFFFFFF, 0xFFFFFFFF⟩

end Sys2Proof

namespace Sys2Proof.Machine

/-- The Loft that the saved windows and the gradient buffers of a partition take (R338). -/
def LearnPart.window (l : LearnPart) : Nat := 64 * l.savedUnits * l.copies + (l.layers.map (fun r => 1024 * r.rowSets)).sum

def State.learnTenant (s : State) : Nat := s.nat 0x5000 1
def State.learnSlot (s : State) : Nat := s.nat 0x5000 2
def State.learnModel (s : State) : Option Model := s.model s.learnSlot
def State.learnParts (s : State) : List LearnPart := match s.learnModel with
  | some m => m.variant.learn
  | none => []
/-- Micro-batches of a step per replica. -/
def State.microCount (s : State) : Nat := s.nat 0x5000 6
/-- The loss scale exponent (R353). -/
def State.lossK (s : State) : Int := s.num 0x5001 1

/-- This tray's rank among the seats of the map (R371). -/
def State.rank (s : State) : Nat :=
  if s.inParish then (s.seats.filter (fun p => decide (p.1 < s.ownSeat))).length else 0

/-- Q: the seats of the map times r (R371). -/
def State.replicas (s : State) : Nat := (if s.inParish then s.seats.length else 1) * s.nat 0x5000 20

/-- The tray that holds the seat of a global replica. -/
def State.trayOf (s : State) (rep : Nat) : Nat :=
  if s.inParish then ((s.seats[rep / max 1 s.learn.r]?).map Prod.snd).getD 0xFF else s.trayId

/-- The chip of a partition in a copy on this tray. -/
def State.copyChip (s : State) (copy part : Nat) : Nat := (((s.learn.copies[copy]?).getD [])[part]?).getD 0xFF

/-- The layers of the model with the partition that holds each, in ascending layer number. -/
def State.layerList (s : State) : List (Nat × LayerRec) :=
  sortBy (fun a b => decide (a.2.layer ≤ b.2.layer)) (s.learnParts.flatMap (fun l => l.layers.map (fun r => (l.part, r))))

/-- A layer's record and partition. -/
def State.layerRec (s : State) (l : Nat) : Option (Nat × LayerRec) := s.layerList.find? (fun r => decide (r.2.layer = l))

/-- The shards this tray owns, ascending by layer and shard: partition, record, shard, chip (R357). -/
def State.owned (s : State) : List (Nat × LayerRec × Nat × Nat) :=
  s.layerList.flatMap fun (p, r) => (List.range s.learn.copies.length).map fun c =>
    (p, r, s.rank * s.learn.r + c, s.copyChip c p)

/-- A shard held in a list: committed or shadow. -/
def findShard (l : List Shard) (layer shard role : Nat) : Option Shard :=
  l.find? (fun x => decide (x.layer = layer ∧ x.shard = shard ∧ x.role = role))

/-- A shard put into a list in place of the one it replaces. -/
def putShard (l : List Shard) (x : Shard) : List Shard :=
  x :: l.filter (fun y => !decide (y.layer = x.layer ∧ y.shard = x.shard ∧ y.role = x.role))

def State.modLearn (s : State) (f : Learn → Learn) : State := { s with learn := f s.learn }
def State.modParish (s : State) (f : Parish → Parish) : State := { s with parish := f s.parish }

/-- Bytes of bfloat16 values. -/
def bytes16 (l : List Nat) : List Byte := l.flatMap (leBytes 2)
/-- Values of bfloat16 bytes. -/
def vals16 (b : List Byte) : List Nat := (List.range (b.length / 2)).map (fun i => leAt b (2 * i) 2)

/-- Every other tray that holds a seat. -/
def State.otherSeats (s : State) : List Nat := (s.seats.map Prod.snd).filter (fun t => decide (t ≠ s.trayId))

/-- A control frame to every other tray that holds a seat. -/
def State.sendSeats (s : State) (ty step : Nat) (payload : List Byte) : State :=
  if s.inParish then s.otherSeats.foldl (fun s t => s.sendTo ty t step payload) s else s

/-! ### Step counters (R352) -/

/-- One happening counted on a chip with its layer: overflow or non-finite. -/
def State.countStep (s : State) (overflow : Bool) (c layer : Nat) : State := s.modChip c fun x =>
  if overflow then { x with overflow := min (x.overflow + 1) (2 ^ 32 - 1), overflowLayer := min x.overflowLayer layer }
  else { x with nonFinite := min (x.nonFinite + 1) (2 ^ 32 - 1), nonFiniteLayer := min x.nonFiniteLayer layer }

/-- The forward pass group of a layer: its descriptors from pass 0 on (Table 10.3). -/
def State.fwdGroup (s : State) (c part : Nat) (r : LayerRec) : List Nat :=
  s.chainFrom c s.learnSlot part r.fwd (s.descAt c s.learnSlot part r.fwd).passes

/-- A descriptor belongs to a layer: as a pass of its forward group, as its BWD_WEIGHT, or as the BWD_DATA that reads a weight
block of the group (R350). -/
def State.ofLayer (s : State) (c part idx : Nat) (r : LayerRec) : Bool :=
  let d := s.descAt c s.learnSlot part idx
  let g := s.fwdGroup c part r
  decide (r.wgt = idx) || g.contains idx
    || (decide (d.op = opBwdData) && g.any (fun n => decide ((s.descAt c s.learnSlot part n).weightBase = d.weightBase)))

/-- The layer of a descriptor of a partition on a chip, for R352: that of its layer record, else the free choice that the rules
leave. -/
def State.layerOfDesc (s : State) (c part idx : Nat) : Nat :=
  match (s.learnParts.find? (fun l => decide (l.part = part))).bind (fun l => l.layers.find? (s.ofLayer c part idx)) with
  | some r => r.layer
  | none => Config.layerOf part idx % 1024

/-! ### Ending a step -/

/-- The step leaves its phases; the micro-batches' issues leave the chips. -/
def State.endStep (s : State) : State :=
  let ids := (s.issues.filter (fun i => i.micro.isSome)).map Issue.id
  let s := ids.foldl State.removeIssue s
  let s := s.modLearn fun l => { l with
    phase := 0, drawn := [], saved := [], offload := [], newResiduals := [], staged := [], folds := [], updates := [], chunks := [], withheld := false, decided := none, reductions := [] }
  (s.modParish fun p => { p with
    bids := [], fuses := [], readies := [], committedSent := false, timerFrom := none, paused := 0, pauseFrom := none,
    fuseSent := false, readySent := false }).promote

/-- The digest of one chip over its owned shards of a step (R387). -/
def State.chipDigest (s : State) (n c : Nat) : Nat :=
  crc64 (leBytes 8 n ++ (s.owned.filter (fun o => decide (o.2.2.2 = c))).flatMap (fun (_, r, j, _) =>
    (match findShard s.learn.shadow r.layer j 0 with
      | some x => bytes16 x.lat ++ bytes16 x.mom
      | none => [])
    ++ (match s.learn.newRows.find? (fun x => decide (x.layer = r.layer ∧ x.shard = j)) with
      | some x => x.bytes
      | none => [])))

/-- The digest of the tray over its chips, ascending. -/
def State.trayDigest (s : State) (n : Nat) : Nat :=
  crc64 (((List.range 16).filter (fun c => s.learn.copies.any (fun l => l.contains c))).flatMap
    (fun c => leBytes 8 (s.chipDigest n c)))

/-- The record of a step in the replay ring (R401). -/
def State.recordStep (s : State) (outcome digest : Nat) : State :=
  let d := s.nat 0x2800 13
  let chips := (List.range 16).filter (fun c => s.learn.copies.any (fun l => l.contains c))
  let digests := if outcome = 1 then chips.map (fun c => (c, s.chipDigest s.learn.step c)) else []
  if d = 0 then s
  else s.modLearn fun l => { l with
    restarted := false
    replay := (l.replay ++ [(⟨l.step, outcome, s.lossK, s.nat 0x5001 4, s.seatList, l.r, l.eligible, l.drawn,
      l.decided.getD ⟨0, 0, 0, 0, 0, 0xFFFFFFFF⟩, digest, digests, l.restarted, l.recorded⟩ : ReplayRec)]).drop
        (l.replay.length + 1 - d) }

/-! ### Checkpoints (R399, R400) -/

/-- Every shard of a checkpoint is in this journal. -/
def State.ckptWhole (s : State) (c : Checkpoint) : Bool :=
  s.layerList.all fun (_, r) => (List.range c.q).all fun j => (findShard c.shards r.layer j 0).isSome

/-- The leader has CKPT_DONE of every seat: the checkpoint is complete. -/
def State.ckptComplete (s : State) (step : Nat) : State :=
  (s.modLearn fun l => { l with
    checkpoints := l.checkpoints.map (fun c => if c.step = step then { c with complete := true } else c),
    writingRecord := true }).setNum 0x2801 6 step

/-- CKPT_DONE of a tray reaches the leader. -/
def State.ckptDone (s : State) (tray step : Nat) : State :=
  let s := s.modParish fun p => { p with ckptDones := tray :: p.ckptDones.filter (· != tray) }
  let want := if s.inParish then s.seats.map Prod.snd else [s.trayId]
  if s.leads && want.all (fun t => s.parish.ckptDones.contains t) then
    (s.ckptComplete step).modParish fun p => { p with ckptDones := [] }
  else s

/-- A journal that has become whole is reported (R399). -/
def State.ckptReport (s : State) (step : Nat) : State :=
  match s.learn.checkpoints.find? (fun c => decide (c.step = step)) with
  | none => s
  | some c =>
    if c.whole || !s.ckptWhole c then s
    else
      let s := s.modLearn fun l => { l with
        checkpoints := l.checkpoints.map (fun c => if c.step = step then { c with whole := true } else c) }
      if s.leads then s.ckptDone s.trayId step else s.sendTo mCkptDone s.parish.leader step []

/-- The checkpoint of step `n`, opened in the journal: the older of the two goes, never the latest complete one. -/
def State.openCkpt (s : State) (n : Nat) : State :=
  if s.learn.checkpoints.any (fun c => decide (c.step = n)) then s
  else
    let c : Checkpoint := ⟨n, s.lossK, s.nat 0x5001 4, s.learn.q, s.learn.r, s.seatList, [], s.learn.residuals, false, false⟩
    let done : Nat := (s.learn.checkpoints.filter Checkpoint.complete).foldl (fun (m : Nat) (c : Checkpoint) => max m c.step) 0
    let keep := s.learn.checkpoints.filter (fun x => x.complete && decide (x.step = done))
    let others := s.learn.checkpoints.filter (fun x => !(x.complete && decide (x.step = done)))
    s.modLearn fun l => { l with checkpoints := (if keep.isEmpty then others.drop (others.length - 1) else keep) ++ [c] }

/-- A shard put into the journal's checkpoint of a step. -/
def State.ckptShard (s : State) (n : Nat) (x : Shard) : State :=
  (s.modLearn fun l => { l with
    checkpoints := l.checkpoints.map (fun c => if c.step = n then { c with shards := putShard c.shards x } else c)
  }).ckptReport n

/-- The checkpoint of a step taken: residuals, k and the seat map here, the owned shards to every journal (R399). -/
def State.takeCkpt (s : State) (n : Nat) : State :=
  let s := s.openCkpt n
  let s := s.modLearn fun l => { l with checkpoints := l.checkpoints.map (fun c => if c.step = n then { c with
    k := s.lossK, clean := s.nat 0x5001 4, q := l.q, r := l.r, seatMap := s.seatList, residuals := l.residuals } else c) }
  let mine := s.learn.committed.filter (fun x => decide (x.role = 0))
  let s := mine.foldl (fun s x => if s.inParish then s.otherSeats.foldl (fun s t =>
      s.sendWhole mCkpt t n x.layer x.shard x.shard 0 (bytes16 x.lat ++ bytes16 x.mom)) s else s) s
  mine.foldl (fun s x => s.ckptShard n x) s

/-- The checkpoint of a step just ended, where its number is a multiple of the interval (R399). -/
def State.checkpoint (s : State) (n : Nat) : State :=
  if n % max 1 (s.nat 0x2800 12) ≠ 0 then s else s.takeCkpt n

/-! ### Phase 7 and the skip -/

/-- The loss scale after a skip or a commit (R353). -/
def State.scaleAfter (s : State) (committed : Bool) : State :=
  if committed then
    let n := s.nat 0x5001 4 + 1
    if s.nat 0x5001 3 ≤ n then (s.setNum 0x5001 1 (min (s.lossK + 1) 24)).setNum 0x5001 4 0
    else s.setNum 0x5001 4 n
  else
    let s := if s.lossK = -16 then s.raise 0x7103 0 s.learnTenant 0 else s
    (s.setNum 0x5001 1 (max (s.lossK - 1) (-16))).setNum 0x5001 4 0

/-- A step that has ended shows its stall time (OD 0x2420:06): the model counts no compute and transfer times, so it is a free
value. -/
def State.showStall (s : State) : State :=
  let (d, s) := s.draw
  s.setNum 0x2420 6 (Config.measured 0x242006 d % 2 ^ 32 : Nat)

/-- A skipped step (R353, R367, R388). -/
def State.applySkip (s : State) (d : Decide) : State :=
  if s.parish.appliedStep = s.learn.step ∧ s.parish.applied ≠ 0 then s
  else
    let n := s.learn.step
    let code := if d.outcome = 2 then 0x7101 else 0x7102
    let s := s.raise code (chipUnit (field d.origin 15 8 % 16)) s.learnTenant
      (field d.origin 25 16 + 2 ^ 10 * (field d.origin 7 0 % 64))
    let s := s.recordStep d.outcome 0
    let s := s.scaleAfter false
    let s := ((s.setNum 0x5002 1 n).bump 0x5002 3).setNum 0x5002 5 d.outcome
    let s := s.modParish fun p => { p with applied := d.outcome, appliedStep := n }
    (s.showStall.endStep).checkpoint n

/-! ### The new rows of a step (R364, R365) -/

/-- The rows of one shard placed into a weight block (R344): pairs of image offset and byte. -/
def placeRows (base k first : Nat) (rows : List Byte) : List (Nat × Byte) :=
  (rows.zip (List.range rows.length)).map fun (b, n) =>
    let j := first + n / (32 * k)
    (base + ((j / 16 * k + n / 32 % k) * 16 + j % 16) * 32 + n % 32, b)

/-- The partition of the learnable slot that a chip holds. -/
def State.learnPartOn (s : State) (c : Nat) : Option LearnPart :=
  (s.learn.copies.find? (fun l => l.contains c)).bind fun l =>
    (l.zip s.learnParts).find? (fun q => decide (q.1 = c)) |>.map Prod.snd

/-- Every shard of a layer lies in the inactive copy on a chip. -/
def State.layerWhole (s : State) (c : Nat) (r : LayerRec) : Bool :=
  (List.range s.learn.q).all fun j => s.learn.rowsIn.contains (c, r.layer, j)

/-- Every shard of every layer of the chip has arrived (R365). -/
def State.rowsWhole (s : State) (c : Nat) : Bool := match s.learnPartOn c with
  | none => false
  | some l => !l.layers.isEmpty && decide (0 < s.learn.q) && l.layers.all (s.layerWhole c)

/-- Rows received and not yet switched to on a chip. -/
def State.rowsWait (s : State) (c : Nat) : Bool := s.learn.rowsIn.any (fun x => decide (x.1 = c))

/-- The issues of a slot on a chip read the other copies from now on. -/
def Chip.flip (slot : Nat) (x : Chip) : Chip :=
  { x with regions := x.regions.map (fun r => if r.slot = slot && !r.released then { r with side := !r.side } else r) }

/-- The chip switches to the new copies of all layers together once it has received every one (R365). -/
def State.switchRows (s : State) (c : Nat) : State :=
  if s.rowsWhole c then
    (s.modChip c (Chip.flip s.learnSlot)).modLearn fun l => { l with rowsIn := l.rowsIn.filter (fun x => decide (x.1 ≠ c)) }
  else s

/-- The rows of a shard reach a chip of this tray and go into the inactive copy of the layer's weight block, the one that held the
step before the present one (R364, R365). -/
def State.landRows (s : State) (r : ShardRows) : State :=
  let s := s.switchRows r.chip
  match s.layerRec r.layer, s.learnModel with
  | some (q, x), some m =>
    let w := placeRows (m.variant.blockAt q x) (weightRows x.wmode) ((shardSpan x.rowSets s.learn.q r.shard).1 / 256) r.bytes
    (s.writeImage r.chip s.learnSlot q (!(s.chip r.chip).sideOf s.learnSlot) w).modLearn fun l => { l with
      rowsIn := (r.chip, r.layer, r.shard) :: l.rowsIn.filter (fun x => decide (x ≠ (r.chip, r.layer, r.shard))) }
  | _, _ => s

/-- The chips of this tray that hold a layer: one per copy. -/
def State.holders (s : State) (part : Nat) : List Nat := (List.range s.learn.copies.length).map (fun c => s.copyChip c part)

/-- When the next forward pass reaches a layer: its stage, and the place of its forward descriptor in the forward chain. -/
def State.reachedAt (s : State) (layer : Nat) : Nat := match s.layerRec layer, s.learnModel with
  | some (q, r), some m =>
    let first := (m.variant.entryOn (s.jobDesc s.learnTenant (s.nat 0x5000 3)).entry q).first
    4096 * q + (s.chainFrom (m.chipOf q) s.learnSlot q first 4096).idxOf r.fwd
  | _, _ => 0

/-- The owners send the rows of their shards to every chip that holds the layer, layer by layer as the next forward pass reaches
them (R364). -/
def State.gather (s : State) (n : Nat) : State :=
  (sortBy (fun a b => decide (s.reachedAt a.layer < s.reachedAt b.layer ∨ (s.reachedAt a.layer = s.reachedAt b.layer ∧ a.shard ≤ b.shard)))
    s.learn.newRows).foldl (fun s r => match s.layerRec r.layer with
    | none => s
    | some (p, _) =>
      let s := (s.holders p).foldl (fun s c => s.landRows { r with chip := c }) s
      if s.inParish then s.otherSeats.foldl (fun s t => s.sendWhole mRows t n r.layer r.shard r.shard 0 r.bytes) s else s) s

/-- COMMIT(n) applied (R390): the shadows become the committed shards and the committed areas the next shadows, residuals are replaced,
k and the step number move. -/
def State.applyCommit (s : State) (n digest : Nat) : State :=
  if s.learn.phase = 0 ∨ s.learn.step ≠ n ∨ (s.parish.appliedStep = n ∧ s.parish.applied ≠ 0) then s
  else
    let s := s.recordStep 1 digest
    let s := s.modLearn fun l => { l with
      committed := l.shadow.foldl putShard l.committed,
      shadow := l.committed,
      residuals := l.newResiduals ++ l.residuals.filter (fun r =>
        !l.newResiduals.any (fun x => decide (x.chip = r.chip ∧ x.layer = r.layer))) }
    let s := s.scaleAfter true
    let s := ((s.setNum 0x5002 1 n).bump 0x5002 2).setNum 0x5002 5 1
    let s := match s.learn.decided with
      | some d => s.setNum 0x5002 6 d.norm
      | none => s
    let s := s.setNum 0x5002 8 (s.micros - s.learn.startedAt : Nat)
    let s := s.modParish fun p => { p with applied := 1, appliedStep := n }
    let s := (s.bump (blk s.learnTenant (0x20 + s.nat 0x5000 3)) 4).bump (blk s.learnTenant 0x2F) 1
    let s := ((s.gather n).showStall.endStep).checkpoint n
    s.chained s.learnTenant (s.nat 0x5000 3) s.learn.fireK s.learn.fireAngle s.learn.fireFlags s.learn.fireShaft

/-! ### Phase 6: UPDATE, shadows, ready -/

/-- READY of a tray reaches the leader; with READY of every seat, COMMIT (R388, R390). -/
def State.leaderReady (s : State) (tray digest : Nat) : State :=
  let s := s.modParish fun p => { p with readies := (tray, digest) :: p.readies.filter (fun r => decide (r.1 ≠ tray)) }
  let want := if s.inParish then s.seats.map Prod.snd else [s.trayId]
  let got (t : Nat) : Option Nat := (s.parish.readies.find? (fun r => decide (r.1 = t))).map Prod.snd
  if s.learn.phase = 6 && want.all (fun t => (got t).isSome) && !s.parish.committedSent then
    let n := s.learn.step
    let own := (got s.trayId).getD 0
    let pd := crc64 (want.flatMap (fun t => leBytes 8 ((got t).getD 0)))
    let s := s.modParish fun p => { p with committedSent := true, parishDigest := pd }
    let s := s.setNum 0x2801 8 pd
    ((s.sendSeats mCommit n []).modLearn fun l => { l with phase := 7 }).applyCommit n own
  else s

/-- The tray is ready once every owner has run its UPDATE and every buddy has acknowledged its shadow (R388). -/
def State.readyCheck (s : State) : State :=
  let waiting := s.parish.peers.toList.any (fun p => p.unacked.any (fun u => decide (u.frame.type = mShadow)))
  if s.learn.phase = 6 && s.learn.updates.isEmpty && !s.learn.withheld && !waiting && !s.parish.readySent then
    let d := s.trayDigest s.learn.step
    let s := s.modParish fun p => { p with readySent := true }
    if s.leads then s.leaderReady s.trayId d else s.sendTo mReady s.parish.leader s.learn.step (leBytes 8 d)
  else s

/-- The clip factor of Table 10.9. -/
def State.clipFactor (s : State) : Nat :=
  let c := s.nat 0x5000 15
  let norm := (s.learn.decided.map Decide.norm).getD 0
  if Fl.of32 c = .fin false 0 0 ∨ abs32 c = 0 ∨ !Fl.lt (Fl.of32 c) (Fl.of32 norm) then int32 1 else div32 c norm

/-- The update region header of a shard (Table 10.9). -/
def State.updateHdr (s : State) (r : LayerRec) (shard : Nat) : UpdateHdr where
  eta := mul32 (s.nat 0x5000 11) r.rate
  beta := s.nat 0x5000 12
  lambda := s.nat 0x5000 13
  clip := widen (s.nat 0x5000 14)
  scale := mul32 (scale32 r.gamma (-(s.lossK + r.exp))) s.clipFactor
  first := (shardSpan r.rowSets s.learn.q shard).1
  layer := r.layer
  step := s.learn.step
  seed := s.nat 0x5000 16
  stochastic := s.flag 0x5000 21

/-- The shadow of a shard goes to its buddy (R357, R388). -/
def State.sendShadow (s : State) (x : Shard) (part : Nat) : State :=
  if s.learn.q ≤ 1 then s
  else
    let b := (x.shard + 1) % s.learn.q
    let t := s.trayOf b
    if t = s.trayId then s.modLearn fun l => { l with
      shadow := putShard l.shadow { x with role := 1, chip := s.copyChip (b % max 1 s.learn.r) part } }
    else s.sendWhole mShadow t s.learn.step x.layer x.shard x.shard 0 (bytes16 x.lat ++ bytes16 x.mom)

/-- UPDATE of a shard on its owner (R361, R363, R364). -/
def State.runUpdate (s : State) (c layer shard : Nat) : State :=
  let s := s.modLearn fun l => { l with updates := l.updates.erase (c, layer, shard) }
  match s.layerRec layer, findShard s.learn.committed layer shard 0,
      s.learn.folds.find? (fun f => decide (f.layer = layer ∧ f.shard = shard)) with
  | some (p, r), some x, some f =>
    let new := updateShard (s.updateHdr r shard) x.lat x.mom f.sum
    let y : Shard := { x with chip := c, lat := new.map Prod.fst, mom := new.map Prod.snd }
    let bad := (y.lat ++ y.mom).any nonFinite16
    let s := s.modLearn fun l => { l with
      shadow := putShard l.shadow y,
      newRows := ⟨c, layer, shard, rowsOf r.wmode r.delta y.lat⟩ ::
        l.newRows.filter (fun z => !decide (z.layer = layer ∧ z.shard = shard)),
      withheld := l.withheld || bad }
    let s := if bad then s.raise 0x7104 (chipUnit c) s.learnTenant 0 else s
    (s.sendShadow y p).readyCheck
  | _, _, _ => s.readyCheck

/-! ### Phases 4 and 5 -/

/-- DECIDE taken by this tray (R386, R388). -/
def State.applyDecide (s : State) (d : Decide) : State :=
  if s.learn.phase < 3 ∨ 5 < s.learn.phase then s
  else
    let s := (s.modLearn fun l => { l with decided := some d, phase := 5 }).setNum 0x2801 7 d.origin
    if d.outcome = 1 then
      (s.modLearn fun l => { l with
        phase := 6, newRows := [],
        updates := s.owned.map (fun (_, r, j, c) => (c, r.layer, j)) }).readyCheck
    else s.applySkip d

/-- FUSE of a tray reaches the leader; with FUSE of every seat, DECIDE (R385, R386). -/
def State.leaderFuse (s : State) (tray : Nat) (f : FusePart) : State :=
  let s := s.modParish fun p => { p with fuses := (tray, f) :: p.fuses.filter (fun r => decide (r.1 ≠ tray)) }
  let want := if s.inParish then s.seats.map Prod.snd else [s.trayId]
  let got (t : Nat) : Option FusePart := (s.parish.fuses.find? (fun r => decide (r.1 = t))).map Prod.snd
  if s.learn.phase = 4 && want.all (fun t => (got t).isSome) then
    let total := want.foldl (fun a t => a.fold ((got t).getD FusePart.zero) t) FusePart.zero
    let outcome : Nat := if total.overflow ≠ 0 then 2 else if total.nonFinite ≠ 0 then 3 else 1
    let origin := if outcome = 2 then total.overflowOrigin else if outcome = 3 then total.nonFiniteOrigin else 0xFFFFFFFF
    let d : Decide := ⟨outcome, total.sigma, sqrt32 total.sigma, total.overflow, total.nonFinite, origin⟩
    (s.sendSeats mDecide s.learn.step d.encode).applyDecide d
  else s

/-- The partial of one owner: the fold of its shards' squares (R385). -/
def State.ownerSquares (s : State) (c : Nat) : Nat × Nat :=
  (s.owned.filter (fun o => decide (o.2.2.2 = c))).foldl (fun acc (_, r, j, _) =>
    match s.learn.folds.find? (fun f => decide (f.layer = r.layer ∧ f.shard = j)) with
    | some f => squares (gradScale s.lossK r.exp r.gamma) acc f.sum
    | none => acc) (0, 0)

/-- The layer that a chip's non-finite squares name first. -/
def State.ownerBadLayer (s : State) (c : Nat) : Nat :=
  (((s.owned.filter (fun o => decide (o.2.2.2 = c))).find? (fun (_, r, j, _) =>
    match s.learn.folds.find? (fun f => decide (f.layer = r.layer ∧ f.shard = j)) with
    | some f => decide ((squares (gradScale s.lossK r.exp r.gamma) (0, 0) f.sum).2 ≠ 0)
    | none => false)).map (fun o => o.2.1.layer)).getD 0xFFFF

/-- The tray's partial with the counters of its chips, owners in ascending (replica, partition) order (R385). -/
def State.trayPartial (s : State) : FusePart :=
  (s.learn.copies.flatten).foldl (fun a c =>
    let (sq, bad) := s.ownerSquares c
    let x := s.chip c
    let nf := satAdd x.nonFinite bad
    let origin (n layer : Nat) := if n = 0 then 0xFFFFFFFF else s.trayId + 2 ^ 8 * c + 2 ^ 16 * (layer % 1024)
    a.fold ⟨sq, x.overflow, nf, origin x.overflow x.overflowLayer,
      origin nf (min x.nonFiniteLayer (if bad = 0 then 0xFFFF else s.ownerBadLayer c))⟩
      (s.trayId + 2 ^ 8 * c)) FusePart.zero

/-- FUSE is due once every owner has folded every shard and every chip's passes have ended (R388). -/
def State.fuseCheck (s : State) : State :=
  let folded := s.owned.all (fun (_, r, j, _) =>
    s.learn.folds.any (fun f => decide (f.layer = r.layer ∧ f.shard = j ∧ s.learn.q ≤ f.next)))
  let running := s.issues.any (fun i => i.micro.isSome)
  if s.learn.phase = 3 && folded && !running && !s.parish.fuseSent then
    let f := s.trayPartial
    let s := (s.modParish fun p => { p with fuseSent := true }).modLearn fun l => { l with phase := 4 }
    if s.leads then s.leaderFuse s.trayId f else s.sendTo mFuse s.parish.leader s.learn.step f.encode
  else s

/-! ### Phase 3: reduction -/

/-- A decoded part reaches its owner's tray (R384). -/
def State.stagePart (s : State) (layer shard rep : Nat) (dec : List Nat) : State :=
  s.modLearn fun l => { l with
    staged := ⟨layer, shard, rep, 0, [], dec, true⟩ ::
      l.staged.filter (fun x => !decide (x.layer = layer ∧ x.shard = shard ∧ x.replica = rep)) }

/-- The owner folds the next part of a shard, where it has arrived (R384). -/
def State.foldNext (s : State) (layer shard : Nat) : State :=
  match s.learn.folds.find? (fun f => decide (f.layer = layer ∧ f.shard = shard)) with
  | none => s
  | some f =>
    match s.learn.staged.find? (fun x => decide (x.layer = layer ∧ x.shard = shard ∧ x.replica = f.next) && x.whole) with
    | none => s
    | some x =>
      let sum := if f.next = 0 then x.decoded else (f.sum.zip x.decoded).map (fun p => add32 p.1 p.2)
      (s.modLearn fun l => { l with
        staged := l.staged.erase x,
        folds := l.folds.map (fun g => if g.layer = layer ∧ g.shard = shard then { g with next := g.next + 1, sum := sum }
          else g) }).fuseCheck

/-- A new residual narrowed to bfloat16 (R359). -/
def State.residual (s : State) (layer x w : Nat) : Nat :=
  if s.flag 0x5000 21 then narrowDraw w (philox (s.nat 0x5000 16) x layer (5 * 256) (s.learn.step % 2 ^ 32)) else narrow w

/-- The reduction of a layer starts on a chip: every shard part is encoded and sent to its owner (R358). -/
def State.reduce (s : State) (c copy : Nat) (r : LayerRec) : State :=
  if s.learn.reductions.contains (c, r.layer) then s
  else
    let s := s.modLearn fun l => { l with reductions := (c, r.layer) :: l.reductions }
    let g := ((s.learn.bufs.find? (fun b => decide (b.chip = c ∧ b.layer = r.layer))).map GradBuf.vals).getD []
    let e := ((s.learn.residuals.find? (fun b => decide (b.chip = c ∧ b.layer = r.layer))).map Residual.vals).getD
      (List.replicate (256 * r.rowSets) 0)
    let q := s.learn.q
    let mode := s.nat 0x5000 9
    let rep := s.rank * s.learn.r + copy
    let enc (j : Nat) := encodePart mode (s.nat 0x5000 10) (shardOf r.rowSets q j g) (shardOf r.rowSets q j e)
    let left := (((List.range q).flatMap (fun j => (enc j).2.2)).zip (List.range (256 * r.rowSets))).map
      (fun (w, x) => s.residual r.layer x w)
    let s := if mode = 0 then s else s.modLearn fun l => { l with
      newResiduals := (⟨c, r.layer, left⟩ : Residual) :: l.newResiduals }
    forEach q s fun s j =>
      let (b, dec, _) := enc j
      if s.trayOf j = s.trayId then s.stagePart r.layer j rep dec
      else s.sendWhole mPart (s.trayOf j) s.learn.step r.layer j rep 0 b

/-- S added to the gradient buffer of a layer: written by micro-batch 0, added by the later ones (R351, R352). -/
def State.addGrad (s : State) (c layer : Nat) (first : Bool) (vals : List Int) : State :=
  let old := ((s.learn.bufs.find? (fun b => decide (b.chip = c ∧ b.layer = layer))).map GradBuf.vals).getD []
  let new := if first then vals.map int32
    else (vals.zip (List.range vals.length)).map (fun (v, i) => add32 ((old[i]?).getD 0) (int32 v))
  let s := s.modLearn fun l => { l with
    bufs := ⟨c, layer, new⟩ :: l.bufs.filter (fun b => !decide (b.chip = c ∧ b.layer = layer)) }
  new.foldl (fun s v => if nonFinite32 v then s.countStep false c layer else s) s

/-! ### Phases 1 and 2 -/

/-- Samples a label or the target kind makes eligible, oldest first (R341). -/
def State.eligible (s : State) : List Sample :=
  s.learn.ring.filter (fun x => decide (s.nat 0x5000 19 = 0) || x.label.isSome)

/-- The sample of micro-batch `i` of a global replica (R342). -/
def State.sampleOf (s : State) (rep i : Nat) : Option Sample :=
  let e := s.learn.drawn.length
  s.learn.drawn[philox (s.nat 0x5000 16) i rep (6 * 256) (s.learn.step % 2 ^ 32) % max 1 e]?

/-- The entry that a pass of a micro-batch runs on a partition: the forward entry of the job, or what the partition's learning state
names (Table 10.2). -/
def State.passEntry (s : State) (m : Model) (pass part : Nat) : Nat :=
  let l := m.variant.learn.find? (fun l => decide (l.part = part))
  if pass = 0 then (s.jobDesc s.learnTenant (s.nat 0x5000 3)).entry
  else if pass = 1 then (l.map LearnPart.restore).getD 0xFF else (l.map LearnPart.backward).getD 0xFF

/-- The entry that an issue runs on a partition. -/
def State.entryOf (s : State) (m : Model) (i : Issue) (part : Nat) : Nat := match i.micro with
  | some mb => s.passEntry m mb.pass part
  | none => i.entry

/-- The issue of one pass of a micro-batch of a copy (R342, R354). -/
def State.microIssue (s : State) (m : Model) (copy i pass : Nat) (chips : List Nat) : State :=
  let smp := s.sampleOf (s.rank * s.learn.r + copy) i
  let a := s.shaft s.learn.fireShaft
  let x : Issue :=
    { id := s.nextIssue, tenant := s.learnTenant, job := s.nat 0x5000 3, slot := s.learnSlot, entry := s.passEntry m pass 0, kind := 5,
      index := 0, st := .committed, ranAhead := false, waitsSlot := false, order := 0, epoch := a.traj.epoch, traj := a.traj,
      k := s.learn.fireK, angle := s.learn.fireAngle, flags := s.learn.fireFlags, shaft := s.learn.fireShaft, frame := none, frameFlags := 0, gated := false,
      parts := startParts m chips (s.passEntry m pass), arrived := [], saturated := 0, satFlag := false,
      frameData := if pass = 0 then (smp.map Sample.frame).getD [] else [], stripsIn := [], finished := false, rows := [],
      micro := some ⟨copy, i, pass⟩, out := [] }
  { s with issues := s.issues ++ [x], nextIssue := s.nextIssue + 1 }

/-- The issues of every micro-batch of every copy; the order of each stage holds them back (R354). The step takes one
committed slot of each chip, and waits for it. -/
def State.launchStep (s : State) : State := match s.learnModel with
  | none => s
  | some m =>
    if s.learn.phase ≠ 3 ∨ s.issues.any (fun i => i.micro.isSome)
        ∨ s.learn.copies.any (fun l => !s.slotFree false s.learnTenant l) ∨ !s.learn.reductions.isEmpty then s
    else
      let restores := m.variant.learn.any (fun l => decide (l.restore ≠ 0xFF))
      let s := s.bump (blk s.learnTenant (0x20 + s.nat 0x5000 3)) 3
      forEach s.learn.copies.length s fun s c => forEach s.microCount s fun s i =>
        let chips := (s.learn.copies[c]?).getD []
        let s := s.microIssue m c i 0 chips
        let s := if restores then s.microIssue m c i 1 chips else s
        s.microIssue m c i 2 chips

/-- START taken by this tray (R388): phase 3, folds opened, passes issued. -/
def State.applyStart (s : State) (q r : Nat) : State :=
  if s.learn.phase ≠ 1 ∧ s.learn.phase ≠ 2 then s
  else
    let s := s.modLearn fun l => { l with q := q, r := r, phase := 3, reductions := [] }
    let s := s.modLearn fun l => { l with folds := s.owned.map (fun (_, x, j, _) => ⟨x.layer, j, 0, []⟩) }
    s.launchStep

/-- The step's frames that have been sent again and wait: peer and frame. -/
def State.liveRetries (s : State) : List (Nat × Unacked) :=
  (List.range 64).flatMap fun t => ((s.peer t).unacked.filter (fun u =>
    u.out.isSome && decide (0 < u.resent ∧ u.frame.step = s.learn.step))).map (fun u => (t, u))

/-- The step timeout pauses from the first live retransmission of the step to the end of the last (R382, R419). -/
def State.pauseStep (s : State) : State := match s.parish.timerFrom, s.parish.pauseFrom, s.liveRetries.isEmpty with
  | some _, none, false => s.modParish fun p => { p with pauseFrom := some s.micros }
  | some _, some m, true => s.modParish fun p => { p with pauseFrom := none, paused := p.paused + (s.micros - m) }
  | _, _, _ => s

/-- BID of a tray reaches the leader; with a BID of every seat, START (R388). -/
def State.leaderBid (s : State) (tray : Nat) : State :=
  let s := s.modParish fun p => { p with bids := tray :: p.bids.filter (· != tray) }
  let want := if s.inParish then s.seats.map Prod.snd else [s.trayId]
  if s.learn.phase = 1 && want.all (fun t => s.parish.bids.contains t) then
    let q := s.replicas
    let r := s.nat 0x5000 20
    let s := (s.modParish fun p => { p with timerFrom := some s.micros, paused := 0, pauseFrom := none, committedSent := false }).pauseStep
    let s := s.sendSeats mStart s.learn.step (seatBytes s.seatList ++ leBytes 2 q ++ leBytes 1 r ++ [0])
    s.applyStart q r
  else s

/-- The step conditions of R340 hold, with a seat held, its shards restored and the parish formed (R374, R396). -/
def State.stepAllowed (s : State) : Bool :=
  let a := s.shaft 0
  decide (s.tray = .learning) && decide (s.learn.phase = 0) && decide (s.command = 0) && !s.learn.ring.isEmpty && !s.learn.copies.isEmpty
    && s.learn.copies.all (fun l => l.all (fun c => !(s.chip c).failed))
    && decide (a.speed.natAbs * 6000000000 ≤ s.nat 0x5000 5 * 2 ^ 24 * a.speedDen)
    && (!s.inParish || (decide (s.parish.state = 2) && decide (s.ownSeat < 64))) && s.learn.replaying.isNone
    && s.learn.restoring.isEmpty

/-- Bytes of the largest frame of the sample source, header and data. -/
def State.sourceFrame (s : State) : Nat :=
  let src := s.jobDesc s.learnTenant (s.nat 0x5000 17)
  64 + (s.stripBytes (if src.kind = 1 then src.index else 8 + src.index) 7).2

/-- What the micro-batches draw where no sample of the ring is eligible: R342 takes a number modulo E, which is then 0, so frame and
label are free. -/
def State.freeSample (s : State) : Sample × State :=
  let (d, s) := s.draw
  let (b, s) := s.draw
  (⟨0, (List.range s.sourceFrame).map (Config.scratchByte d), some ((List.range 64).map (Config.scratchByte b))⟩, s)

/-- A fire of the step event (R340), with its k, angle, flags and shaft: a step starts and bids, or the fire is counted. -/
def State.stepFire (s : State) (k angle : Int) (flags shaft : Nat) : State :=
  if s.tray ≠ .learning then s
  else if !s.stepAllowed then s.bump 0x5002 9
  else
    let e := s.eligible
    let (drawn, s) := if e.isEmpty then let (x, s) := s.freeSample; ([x], s) else (e, s)
    let s := s.modLearn fun l => { l with
      phase := 1, step := s.nat 0x5002 1 + 1, startedAt := s.micros, eligible := e.length, drawn := drawn, withheld := false,
      fireK := k, fireAngle := angle, fireFlags := flags, fireShaft := shaft,
      bufs := [], recorded := [], r := s.nat 0x5000 20 }
    let s : State := { s with chips := s.chips.map (fun (c : Chip) => { c with
      overflow := 0, overflowLayer := 0xFFFF, nonFinite := 0, nonFiniteLayer := 0xFFFF }) }
    let s := s.modParish fun p => { p with applied := 0, appliedStep := s.learn.step }
    let s := s.setNum 0x5002 7 (min e.length 65535 : Nat)
    if s.leads then s.leaderBid s.trayId else s.sendTo mBid s.parish.leader s.learn.step []

/-! ### Rollback (R391 to R393, R398) -/

/-- ROLLBACK(n) with target n − 1 taken by this tray (R392). -/
def State.applyRollback (s : State) : State :=
  if s.learn.phase = 0 then s
  else
    let s := ((s.bump 0x5002 4).setNum 0x5002 5 4).bump 0x2801 11
    let s := s.modParish fun p => { p with applied := 4, appliedStep := s.learn.step }
    let s := s.modLearn fun l => { l with shadow := [] }
    (s.endStep).raise 0x7207 0 s.learnTenant 0

/-- The leader rolls the step in progress back (R391, R392). -/
def State.rollbackStep (s : State) : State :=
  let n := s.learn.step
  (s.sendSeats mRollback n (leBytes 8 (n - 1) ++ seatBytes s.seatList)).applyRollback

/-- A step in progress is aborted for a cause: the leader rolls it back before COMMIT has gone out, any other tray sends
ABORT (R391). -/
def State.abortStep (s : State) (cause : Nat) : State :=
  if s.learn.phase = 0 ∨ s.learn.phase = 7 then s
  else if s.leads then (if s.parish.committedSent then s else s.rollbackStep)
  else s.sendTo mAbort s.parish.leader s.learn.step (leBytes 2 cause)

/-- The rows of every owned layer formed from its latents again (Table 10.4), for all chips of this tray. -/
def State.formRows (s : State) : State :=
  s.learn.committed.foldl (fun s x => match s.layerRec x.layer with
    | some (p, r) => (s.holders p).foldl (fun s c => s.landRows ⟨c, x.layer, x.shard, rowsOf r.wmode r.delta x.lat⟩) s
    | none => s) s

/-- The shards that the chips of this tray keep as buddies: partition, record, shard, chip (R357). -/
def State.kept (s : State) : List (Nat × LayerRec × Nat × Nat) :=
  if s.learn.q ≤ 1 then [] else s.owned.map (fun (p, r, j, c) => (p, r, (j + s.learn.q - 1) % s.learn.q, c))

/-- The shards of this tray taken from the whole latents and momentum of each layer, owned ones and kept ones (R357). -/
def State.takeShards (s : State) (lat mom : LayerRec → List Nat) : State :=
  let q := s.learn.q
  let cut (role : Nat) (o : Nat × LayerRec × Nat × Nat) : Shard :=
    ⟨o.2.1.layer, o.2.2.1, o.2.2.2, role, shardOf o.2.1.rowSets q o.2.2.1 (lat o.2.1), shardOf o.2.1.rowSets q o.2.2.1 (mom o.2.1)⟩
  s.modLearn fun l => { l with committed := s.owned.map (cut 0) ++ s.kept.map (cut 1), shadow := [] }

/-- Every row formed from whole latents, for every chip that holds its layer (Table 10.4). -/
def State.formAll (s : State) (lat : LayerRec → List Nat) : State :=
  s.layerList.foldl (fun s (p, r) => forEach s.learn.q s fun s j => (s.holders p).foldl (fun s h =>
    s.landRows ⟨h, r.layer, j, rowsOf r.wmode r.delta (shardOf r.rowSets s.learn.q j (lat r))⟩) s) s

/-- The seat of a tray in a seat map, 0xFF for none. -/
def seatIn (map : List Nat) (t : Nat) : Nat := ((List.range 64).find? (fun i => map[i]? = some t)).getD 0xFF

/-- A checkpoint loaded: step number, k, clean count, shards under the present Q, residuals where this tray's seat and r are those of
the checkpoint, and every row (R398). -/
def State.loadCkpt (s : State) (c : Checkpoint) : State :=
  let s := s.modLearn fun l => { l with q := s.replicas, r := s.nat 0x5000 20 }
  let whole (r : LayerRec) : List Shard := (List.range c.q).filterMap (fun j => findShard c.shards r.layer j 0)
  let same := decide (seatIn c.seatMap s.trayId = seatIn s.seatList s.trayId ∧ c.r = s.learn.r)
  let s := s.takeShards (fun r => (whole r).flatMap Shard.lat) (fun r => (whole r).flatMap Shard.mom)
  let s := s.modLearn fun l => { l with residuals := if same then c.residuals else [], restoring := [] }
  let s := ((s.setNum 0x5001 1 c.k).setNum 0x5001 4 c.clean).setNum 0x5002 1 c.step
  let s := if same then s else (s.modLearn fun l => { l with restarted := true }).raise 0x720A 0 s.learnTenant 0
  s.formAll (fun r => (whole r).flatMap Shard.lat)

/-- A rollback to checkpoint `c` with a new seat map (R398). -/
def State.applyRestore (s : State) (c : Checkpoint) (map : List Nat) : State :=
  let now := s.nat 0x5002 1
  let s := (s.endStep).modParish fun p => { p with
    seatMap := Vector.ofFn (fun i : Fin 64 => (map[i.val]?).getD 0xFF), applied := 4, appliedStep := now }
  let s := (s.add 0x2801 10 (now - c.step)).bump 0x2801 11
  (s.raise 0x7209 0 s.learnTenant 0).loadCkpt c

/-- The latest complete checkpoint of the journal. -/
def State.lastCkpt (s : State) : Option Checkpoint :=
  (s.learn.checkpoints.filter Checkpoint.complete).foldl (fun b c => match b with
    | some x => if x.step < c.step then some c else b
    | none => some c) none

end Sys2Proof.Machine
end

