-- ==== Sys2Proof/Machine/DescCheck.lean ====
section
/-! DEFINITION. The checks of the descriptors of a model at admission, in the order of R232: one descriptor, then pass groups,
then chains. -/

namespace Sys2Proof.Machine

/-- What one partition's admission on one chip knows (R228, R295): the tag fields, the Granary image, the Loft intervals that
the placement grants (first byte and length), the scratch window among them, the marks, the first descriptors of its entries,
and the off-load window. -/
structure Grant where
  tenant : Nat
  slot : Nat
  size : Nat
  gran : Nat → Byte
  count : Nat
  loft : List (Nat × Nat)
  scratch : Nat × Nat
  commons : List Nat
  starts : List Nat
  offload : Nat

/-- A breach: fault code, and the word and bits of the field that failed (R233). -/
structure Breach where
  code : Nat
  word : Nat
  hi : Nat
  lo : Nat
deriving DecidableEq, Repr, Inhabited

/-- The first breach of a list of conditions, each TRUE where it is broken. -/
def firstBreach : List (Bool × Breach) → Option Breach
  | [] => none
  | (b, x) :: r => if b then some x else firstBreach r

/-- The next check, where the earlier ones found nothing. -/
def orBreach (a : Option Breach) (b : Option Breach) : Option Breach := match a with
  | some x => some x
  | none => b

/-- Convolution ops. -/
def Desc.conv (d : Desc) : Bool := d.op = opConv || d.op = opDwconv || d.op = opGconv
/-- Window geometry of words 3 to 6 (R202): the convolution ops, and the backward ops that serve one. -/
def Desc.windowClass (d : Desc) : Bool := d.conv || ((d.op = opBwdData || d.op = opBwdWeight) && !d.rowServed)

/-! ### Op, engine, reserved and unused fields -/

/-- Table 5.1, with R125 for wmode 3 on engine 0 (R159), then R150 and R333. DESIGN CHOICE (log entry 91): a BWD_DATA whose
transposed-read flag is clear, which R350 requires set without naming a code, is refused as R150 refuses a misused flag. -/
def Desc.opBreach (d : Desc) : Option Breach :=
  let counting := d.conv || d.op = opFc
  let back := d.op = opBwdData || d.op = opBwdWeight
  let engineOk := if counting then d.engine ≤ 1 else if back then d.engine = 0 else if d.op = opStream then d.engine = 2
    else d.engine = 1
  firstBreach [
    (!opCodes.contains d.op, ⟨0x4A04, 0, 31, 26⟩),
    (d.engine = 0 && decide (d.wmode = 3), ⟨0x4A30, 0, 23, 22⟩),
    (!decide engineOk, ⟨0x4A61, 0, 25, 24⟩),
    (counting && d.engine = 1 && decide (d.wmode ≠ 3), ⟨0x4A61, 0, 23, 22⟩),
    (d.op = opEmbed && decide (d.wmode ≠ 3), ⟨0x4A61, 0, 23, 22⟩),
    (d.transposed && !(d.op = opFc || d.op = opBwdData || d.op = opStream || d.moveClass), ⟨0x4A30, 7, 27, 27⟩),
    (d.op = opBwdData && !d.transposed, ⟨0x4A30, 7, 27, 27⟩)]

/-- The bits of each word that an op uses (Table 6.5, R172, R195, R351, R356, R360), kh and kw apart. -/
def Desc.used (d : Desc) (i : Nat) : Nat :=
  let all := 0xFFFFFFFF
  let param := if d.outCodec = 2 ∨ d.outCodec = 3 then 0x00070000 else 0
  if i = 0 ∨ i = 13 then all
  else if i = 15 then 0xFFFFFF0F
  else if i = 14 then 0
  else if i = 7 then (if d.op = opStream ∨ d.op = opUpdate then 0xFF000000
    else (if d.moveClass then 0x9000FFFF else 0xFF00FFFF) + param)
  else if d.windowClass then
    if i = 3 then 0x00FFFFFF else if i = 5 then 0xC000FFFF
    else if i = 6 then (if d.padMode = 1 then all else 0xFFFF0000)
    else if i = 12 then (if d.op = opBwdWeight then 0x00400000 else 0) else all
  else if d.rowClass then
    if i = 3 then 0xFF else if i = 4 ∨ i = 5 then 0
    else if i = 12 then (if d.op = opBwdWeight then 0x00400000 else 0)
    else if i = 6 then (if d.op = opFc ∨ d.rowServed then 0xFFFF0000 else 0)
    else if (i = 8 ∨ i = 9) ∧ d.op = opSelect then 0 else all
  else if d.poolClass then
    if i = 3 then 0x00FFFFFF else if i = 5 then 0xC0000000 else if i = 6 then (if d.padMode = 1 then 0xFFFF else 0)
    else if i = 8 ∨ i = 9 then 0 else if i = 12 then 0xFFE00000 else all
  else if d.op = opUpsample then
    if i = 3 then 0xFF else if i = 4 ∨ i = 5 ∨ i = 6 ∨ i = 8 ∨ i = 9 then 0 else if i = 12 then 0x007F0000 else all
  else if d.elementClass then
    if i = 3 then 0xFF else if i = 4 ∨ i = 5 ∨ i = 8 then 0
    else if i = 6 then (if d.op = opConcat then 0xFFFF0000 else 0)
    else if i = 9 then (if d.op = opConcat then 0 else all)
    else if i = 12 then (if d.op = opRequant then 0x0000FFFF else 0x00400000) else all
  else if d.op = opStream then
    if i = 3 then 0xFF else if i = 8 ∨ i = 10 ∨ i = 11 then all else 0
  else
    if i = 3 then 0xFF else if i = 1 ∨ i = 2 ∨ i = 10 ∨ i = 11 then all
    else if i = 12 then (if d.op = opUpdate then 0xFFFF else 0) else 0

/-- The fields of the words other than 0 and 13, low bit first (Table 6.1): word, high bit, low bit. -/
def fieldTable : List (Nat × Nat × Nat) :=
  [(1, 15, 0), (1, 31, 16), (2, 15, 0), (2, 31, 16), (3, 3, 0), (3, 7, 4), (3, 11, 8), (3, 15, 12), (3, 19, 16), (3, 23, 20),
   (3, 31, 24), (4, 7, 0), (4, 15, 8), (4, 23, 16), (4, 31, 24), (5, 7, 0), (5, 15, 8), (5, 29, 16), (5, 31, 30), (6, 15, 0),
   (6, 31, 16), (7, 3, 0), (7, 7, 4), (7, 11, 8), (7, 15, 12), (7, 23, 16), (7, 24, 24), (7, 25, 25), (7, 26, 26), (7, 27, 27),
   (7, 28, 28), (7, 29, 29), (7, 30, 30), (7, 31, 31), (8, 31, 0), (9, 31, 0), (10, 31, 0), (11, 31, 0), (12, 15, 0),
   (12, 17, 16), (12, 20, 18), (12, 21, 21), (12, 22, 22), (12, 23, 23), (12, 27, 24), (12, 31, 28), (14, 31, 0), (15, 7, 4)]

/-- A non-zero reserved or unused field. The resample fields of R223 are unused fields of every op but UPSAMPLE, and R232 puts
this check first. Of several such fields the first in word and bit order is named. A move op answers 0x4A28 for a field that it does
not use (R356, R360), but for its codec parameter (R251); a speculable flag is left to R269. -/
def Desc.fieldBreach (d : Desc) : Option Breach :=
  let code (f : Nat × Nat × Nat) : Nat := if d.moveClass && !(decide (f = (7, 23, 16)) && decide (d.op ≠ opUpdate)) then 0x4A28 else 0x4A02
  let stray (i : Nat) : Nat := Nat.land (d.w i) (Nat.xor 0xFFFFFFFF (d.used i))
  let one (f : Nat × Nat × Nat) : Bool := (!d.windowClass && decide (f.1 = 3 ∧ f.2.1 < 8 ∧ field (d.w 3) f.2.1 f.2.2 ≠ 1))
    || (d.rowClass && decide (f.1 = 1 ∧ f.2.2 = 16 ∧ d.inW ≠ 1))
  orBreach (firstBreach (fieldTable.map (fun f =>
      (decide (field (stray f.1) f.2.1 f.2.2 ≠ 0) || one f, ⟨if one f then 0x4A02 else code f, f.1, f.2.1, f.2.2⟩))))
    (firstBreach [
      (d.op = opUpdate && decide (d.inW ≠ 1 ∨ d.inC ≠ 256 ∨ d.outC ≠ 256), ⟨0x4A28, 2, 31, 0⟩),
      (d.op = opUpdate && decide (d.f 7 29 24 ≠ 0), ⟨0x4A28, 7, 29, 24⟩),
      (d.op = opUpdate && decide (d.wmode = 3 ∨ d.abits ≠ 8 ∨ d.obits ≠ 8), ⟨0x4A28, 0, 23, 16⟩),
      (d.op = opUpdate && decide (Nat.land (d.w 0) 0xFFFF ≠ 0), ⟨0x4A28, 0, 15, 0⟩)])

/-! ### Widths, dimensions, pad constant, groups -/

/-- A layout whose element fixes the code width (R200). -/
def wideLayout (l : Nat) : Bool := l = 2 || l = 4 || l = 5 || l = 6

def Desc.widthBreach (d : Desc) : Option Breach :=
  let back := d.op = opBwdData || d.op = opBwdWeight
  firstBreach [
    (d.op = opStream && decide (d.f 0 21 16 ≠ 0), ⟨0x4A61, 0, 21, 16⟩),
    (d.engine = 0 && wideLayout d.inLayout, ⟨0x4A61, 7, 3, 0⟩),
    (d.engine = 0 && wideLayout d.outLayout, ⟨0x4A61, 7, 7, 4⟩),
    (d.engine = 1 && wideLayout d.inLayout && decide (d.abits ≠ 8), ⟨0x4A61, 0, 21, 19⟩),
    (d.engine = 1 && wideLayout d.outLayout && decide (d.obits ≠ 8), ⟨0x4A61, 0, 18, 16⟩),
    (back && decide (d.abits ≠ 8), ⟨0x4A61, 0, 21, 19⟩),
    (d.op = opBwdData && decide (d.obits ≠ 8), ⟨0x4A61, 0, 18, 16⟩)]

/-- The output size that R202 gives a descriptor: by the pool window, or by the kernel extent `k` of its group (R218). -/
def Desc.ownSize (d : Desc) (k : Kernel) : Nat × Nat :=
  if d.poolClass then d.outSize (d.poolKernel)
  else if d.windowClass then d.outSize k
  else if d.op = opUpsample then (d.factor * d.inH, d.factor * d.inW)
  else (d.inH, if d.rowClass then 1 else d.inW)

def Desc.sizeBreach (d : Desc) (k : Kernel) : Option Breach :=
  if d.op = opStream then none
  else
    let sized := d.poolClass || d.windowClass
    let (h, w) := d.ownSize k
    firstBreach [
      (d.inH = 0, ⟨0x4A10, 1, 15, 0⟩), (d.inW = 0, ⟨0x4A10, 1, 31, 16⟩),
      (d.inC = 0, ⟨0x4A10, 2, 15, 0⟩), (d.outC = 0, ⟨0x4A10, 2, 31, 16⟩),
      (decide (d.kh = 0 ∨ 7 < d.kh), ⟨0x4A11, 3, 3, 0⟩), (decide (d.kw = 0 ∨ 7 < d.kw), ⟨0x4A11, 3, 7, 4⟩),
      (sized && decide (h = 0), ⟨0x4A12, 4, 15, 0⟩), (sized && decide (w = 0), ⟨0x4A12, 4, 31, 16⟩),
      (decide (65535 < h), ⟨0x4A10, 1, 15, 0⟩), (decide (65535 < w), ⟨0x4A10, 1, 31, 16⟩)]

/-- The pad constant (R133, R208): none of the classes without padding uses it. BWD_WEIGHT names no table: its obits and the
code-signed bit give the forward input (R351). -/
def Desc.padBreach (d : Desc) (gran : Nat → Byte) : Option Breach :=
  if d.padMode ≠ 1 ∨ !(d.windowClass || d.poolClass) then none
  else
    let v := d.padValue
    let ok : Bool :=
      if d.inLayout = 5 ∨ d.inLayout = 6 then !nonFinite16 d.padConst
      else if d.inLayout = 2 ∨ d.inLayout = 4 then true
      else
        let b := if d.op = opBwdWeight then d.obits else d.abits
        let sg := if d.poolClass || d.op = opBwdWeight then d.codeSigned else tableInSigned gran d.tableBase
        if b = 1 then decide (v = 1 ∨ v = -1) else decide ((codeRange b sg).1 ≤ v ∧ v ≤ (codeRange b sg).2)
    if ok then none else some ⟨0x4A13, 6, 15, 0⟩

/-- Groups and packing (R210 to R214). -/
def Desc.groupBreach (d : Desc) : Option Breach :=
  if d.op = opFc then firstBreach [(decide (d.groups ≠ 1), ⟨0x4A16, 6, 31, 16⟩), (d.diag, ⟨0x4A23, 7, 25, 25⟩)]
  else if !d.windowClass then firstBreach [(d.diag && decide (d.op ≠ opStream), ⟨0x4A23, 7, 25, 25⟩)]
  else
    let g := d.groups
    let need := d.engine = 0 && (d.op = opDwconv || (d.op = opGconv && decide (d.outCg < 16)))
    firstBreach [
      (decide (g = 0 ∨ d.inC % max 1 g ≠ 0 ∨ d.outC % max 1 g ≠ 0), ⟨0x4A16, 6, 31, 16⟩),
      (d.op = opDwconv && decide (d.inC ≠ d.outC ∨ d.inC ≠ g), ⟨0x4A16, 6, 31, 16⟩),
      (d.diag != need, ⟨0x4A23, 7, 25, 25⟩),
      (d.diag && decide (256 < d.fanIn), ⟨0x4A23, 7, 25, 25⟩),
      (d.diag && !(d.outCg = 1 || d.outCg = 2 || d.outCg = 4 || d.outCg = 8), ⟨0x4A16, 6, 31, 16⟩),
      (d.engine = 0 && !d.diag && decide (g ≠ 1 ∧ d.outCg % 16 ≠ 0), ⟨0x4A16, 6, 31, 16⟩)]

/-! ### Shapes of the Smithy -/

/-- Pool, resample and element shapes (R219 to R227), and the exact limit of R187. -/
def Desc.shapeBreach (d : Desc) : Option Breach :=
  let wide := wideLayout d.inLayout
  let macs := d.engine = 1 && (d.conv || d.op = opFc)
  firstBreach [
    ((d.poolClass || d.op = opUpsample || d.op = opAdd) && decide (d.inC ≠ d.outC), ⟨0x4A24, 2, 31, 0⟩),
    ((d.poolClass || d.op = opUpsample || d.op = opConcat) && decide (d.abits ≠ d.obits), ⟨0x4A24, 0, 21, 16⟩),
    (d.poolClass && d.globalPool && decide (d.w 4 ≠ 0 ∨ d.f 3 23 8 ≠ 0), ⟨0x4A24, 12, 23, 23⟩),
    ((d.op = opPoolAvg || (d.op = opUpsample && decide (d.resample = 2))) && decide (d.abits = 1), ⟨0x4A24, 0, 21, 19⟩),
    (d.op = opUpsample && decide (d.resample = 0 ∨ d.resample = 3), ⟨0x4A24, 12, 17, 16⟩),
    (decide (d.op ≠ opUpsample) && decide (d.op ≠ opUpdate) && decide (d.f 12 20 16 ≠ 0), ⟨0x4A24, 12, 20, 16⟩),
    (d.op = opConcat && decide (d.outC < d.groups + d.inC), ⟨0x4A24, 6, 31, 16⟩),
    (d.op = opSelect && decide (d.outC ≠ 1), ⟨0x4A24, 2, 31, 16⟩),
    (d.op = opSoftmax && decide (1024 < d.inC), ⟨0x4A24, 2, 15, 0⟩),
    (macs && decide ((if wide then 511 else 131071) < d.fanIn), ⟨0x4A60, 2, 15, 0⟩),
    (d.op = opAttn && decide (131071 < d.inC), ⟨0x4A60, 2, 15, 0⟩)]

/-! ### Threshold and scale tables, wake networks -/

/-- The descriptor names a threshold and scale table. -/
def Desc.hasTable (d : Desc) : Bool :=
  d.conv || d.op = opFc || d.op = opBwdData || d.op = opRequant || d.op = opAttn

/-- The channels of the table: the output channels of the descriptor; the input gradient of BWD_DATA has the channels of the
forward input. -/
def Desc.tableChannels (d : Desc) : Nat := if d.op = opBwdData then d.inC else d.outC

def Desc.tableBytes (d : Desc) (gran : Nat → Byte) : Nat :=
  if !d.hasTable then 0
  else if d.op = opRequant ∧ d.opArg = 1 then 64 + ceilDiv (2 * d.outC) 32 * 32
  else 32 + d.tableChannels * entryBytes (tableMode gran d.tableBase)

/-- An entry of a table with its reserved bits and values in place (Table 4.5, R142, R143); the fault of the first breach. -/
def entryBreach (gran : Nat → Byte) (base mode obits c : Nat) (os : Bool) : Nat :=
  let w (i : Nat) := entryWord gran base mode c i
  if mode = 0 then (if 2 ^ 25 ≤ w 0 ∨ 2 ^ 24 ≤ w 1 ∨ 2 ^ 24 ≤ w 2 ∨ w 3 ≠ 0 then 0x4A31 else 0)
  else if mode = 1 then
    let n := 2 ^ obits - 1
    let t (j : Nat) : Int := signed 24 (w j)
    if 2 ≤ w 0 ∨ (List.range 15).any (fun j => decide (2 ^ 24 ≤ w (j + 1))) = true then 0x4A31
    else if (List.range 15).any (fun j => decide (n ≤ j) && decide (w (j + 1) ≠ 0)) ∨
        (List.range (n - 1)).any (fun j => decide (t (j + 2) < t (j + 1))) = true then 0x4A32
    else 0
  else
    let (lo, hi) := codeRange obits os
    let f (h l : Nat) : Int := codeField os (field (w 2) h l)
    let inside (v : Int) : Bool := decide (lo ≤ v ∧ v ≤ hi)
    if 2 ^ 21 ≤ w 0 ∨ 2 ^ 24 ≤ w 1 ∨ 2 ^ 24 ≤ w 2 ∨ w 3 ≠ 0 then 0x4A31
    else if inside (f 7 0) && inside (f 15 8) && inside (f 23 16) && decide (f 15 8 ≤ f 23 16) then 0 else 0x4A31

/-- The table of a descriptor (R139 to R143, R190, R226, R350). -/
def Desc.tableBreach (d : Desc) (g : Grant) : Option Breach :=
  if !d.hasTable || decide (g.size < 32 * d.tableBase + 32) then none
  else
    let whole := decide (32 * d.tableBase + d.tableBytes g.gran ≤ g.size)
    let h := tableWord g.gran d.tableBase 0
    let mode := field h 1 0
    let os := bit h 3
    let n := d.tableChannels
    let norm := d.op = opRequant && decide (d.opArg = 1)
    let header := decide (mode = 3 ∨ field h 7 4 ≠ 0 ∨ field h 15 11 ≠ 0 ∨ field h 10 8 + 1 ≠ d.obits ∨ field h 31 16 ≠ n)
      || (List.range 7).any (fun i => decide (tableWord g.gran d.tableBase (4 * i + 4) ≠ 0))
      || (mode = 0 && (decide (d.obits ≠ 1) || os)) || (mode = 1 && decide (d.obits < 2 ∨ 4 < d.obits))
      || (mode = 2 && decide (d.obits < 2)) || (decide (d.abits = 1) && bit h 2)
    let only2 := (d.op = opRequant || d.op = opAttn || d.op = opBwdData) && decide (mode ≠ 2)
    let back := d.op = opBwdData && !(bit h 2 && os)
    let eps := tableWord g.gran d.tableBase 32
    let row := norm && whole && (decide (eps = 0 ∨ 0x7F800000 ≤ eps ∨ 16 ≤ tableWord g.gran d.tableBase 36)
      || (List.range 6).any (fun i => decide (tableWord g.gran d.tableBase (40 + 4 * i) ≠ 0))
      || (List.range (d.tableBytes g.gran - 64 - 2 * n)).any (fun i => decide (g.gran (32 * d.tableBase + 64 + 2 * n + i) ≠ 0)))
    orBreach (firstBreach [
        (d.op = opRequant && decide (1 < d.opArg), ⟨0x4A31, 12, 15, 0⟩),
        (header || only2 || back || row, ⟨0x4A31, 9, 31, 0⟩)])
      (if norm || !whole then none
      else
        let bad := ((List.range n).map (fun c => entryBreach g.gran d.tableBase mode d.obits c os)).find? (· ≠ 0)
        match bad with
        | some code => some ⟨code, 9, 31, 0⟩
        | none => if d.op = opAttn ∧ (List.range n).any (fun c => decide (entryWord g.gran d.tableBase 2 c 1 ≠ 0)) = true
            then some ⟨0x4A31, 9, 31, 0⟩ else none)

/-- The largest activation magnitude (Table 4.3). -/
def actMax (b : Nat) (isSigned : Bool) : Nat := if b = 1 then 1 else if isSigned then 2 ^ (b - 1) else 2 ^ b - 1

/-- The Commons mark of one descriptor (R165); `whole` says that every descriptor of its pass group carries it. -/
def Desc.routeBreach (d : Desc) (g : Grant) (idx : Nat) (whole : Bool) : Option Breach :=
  let fit := (d.op = opFc || d.op = opConv || d.op = opGconv) && decide (d.engine = 0 ∧ 2 ≤ d.abits)
    && !d.transposed && !d.early && decide (64 ≤ d.outC / d.groupCount) && whole
  if g.commons.contains idx && !fit then some ⟨0x4A40, 0, 31, 26⟩ else none

/-- Early settle (R147). An op without a threshold table has none of mode 0. -/
def Desc.settleBreach (d : Desc) (g : Grant) : Option Breach :=
  let bound := d.fanIn * actMax d.abits (tableInSigned g.gran d.tableBase) * (if d.wmode = 2 then 3 else 1)
  let table := d.hasTable && (decide (g.size < 32 * d.tableBase + 32) || (decide (tableMode g.gran d.tableBase = 0) && decide (bound < 2 ^ 23)))
  if d.early && decide (d.op ≠ opStream) && !(decide (d.engine = 0 ∧ d.passes = 1) && !d.transposed && table) then
    some ⟨0x4A34, 7, 24, 24⟩ else none

/-- The first channel whose settle sums differ from its weights (R148). -/
def Desc.settleDiff (d : Desc) (g : Grant) : Option Nat :=
  if !d.early || d.op = opStream || decide (g.size < 32 * d.weightBase + d.weightBytes)
      || decide (g.size < 32 * d.tableBase + d.tableBytes g.gran) then none
  else (List.range d.outC).find? (fun o =>
    let (p, n) := d.settleSums g.gran o
    decide (p ≠ field (entryWord g.gran d.tableBase 0 o 1) 23 0 ∨ n ≠ field (entryWord g.gran d.tableBase 0 o 2) 23 0))

/-- A wake network (R172 to R174). -/
def Desc.networkBreach (d : Desc) (g : Grant) : Option Breach :=
  if d.op ≠ opStream then none
  else
    let n : Network := ⟨g.gran, 32 * d.weightBase⟩
    let flagBad := d.early || d.accumulate || d.transposed || d.stoch || d.diag
    let layers := List.range n.layers
    if flagBad then some ⟨0x4A50, 7, 31, 24⟩
    else if 1 < d.wmode then some ⟨0x4A50, 0, 23, 22⟩
    else if g.size < n.base + 32 then none
    else
      let head := decide (n.m < 6 ∨ 12 < n.m ∨ n.holdOver = 0 ∨ field (n.word 0) 31 26 ≠ 0 ∨ field (n.word 4) 31 8 ≠ 0 ∨ n.word 5 ≠ 0
          ∨ n.word 6 ≠ 0 ∨ n.word 7 ≠ 0 ∨ 16 < n.neurons (n.layers - 1))
        || layers.any (fun l => decide (n.activation l = 3))
      let codes := (layers.map (fun l => n.neurons l * n.fanIn l)).sum
      let weights (p : Nat → Nat → Nat → Bool) : Bool := layers.any (fun l =>
        (List.range (n.neurons l)).any (fun j => (List.range (n.fanIn l)).any (p l j)))
      let neurons (p : Nat → Nat → Bool) : Bool := layers.any (fun l => (List.range (n.neurons l)).any (p l))
      if head then some ⟨0x4A50, 8, 31, 0⟩
      else if 4096 < codes then some ⟨0x4A51, 8, 31, 0⟩
      else if g.size < n.base + n.bytes then none
      else firstBreach [
        (d.wmode = 0 && weights (fun l j i => !bit (n.weight l j i) 1), ⟨0x4A50, 8, 31, 0⟩),
        (neurons (fun l j => (List.range (n.fanIn l)).all (fun i => !bit (n.weight l j i) 1)), ⟨0x4A52, 8, 31, 0⟩),
        (neurons (fun l j => decide (2 ^ n.m < n.threshold l j)), ⟨0x4A50, 8, 31, 0⟩)]

/-! ### Layouts, codecs, addresses -/

/-- A codec that an op may name with a layout, a width and a reading (R252). -/
def codecOk (codec layout b : Nat) (isSigned : Bool) : Bool :=
  if codec = 0 then true
  else if codec = 1 then decide (1 ≤ layout ∧ layout ≤ 4 ∧ 2 ≤ b)
  else if codec = 2 ∨ codec = 3 then decide ((layout = 1 ∨ layout = 3) ∧ b = 8) && !isSigned else false

/-- Layouts and codecs by descriptor (Table 7.3, R333, R334, R348, R356). -/
def Desc.layoutBreach (d : Desc) (gran : Nat → Byte) : Option Breach :=
  let li := d.inLayout
  let lo := d.outLayout
  let ci := d.inCodec
  let co := d.outCodec
  let back := d.op = opBwdData || d.op = opBwdWeight
  let inOk := codecOk ci li (codeWidth li d.abits) (d.inSigned gran)
  let outOk := codecOk co lo (codeWidth lo d.obits) (if d.op = opBwdWeight then d.codeSigned else d.outSigned gran)
  let engine0 := fun l => decide (l = 0 ∨ l = 1 ∨ l = 3)
  let (a, b, c, e) :=
    if d.op = opStream ∨ d.op = opUpdate then (true, true, true, true)
    else if back then (engine0 li, engine0 lo, decide (ci = 0), if d.op = opBwdData then decide (co = 0) else outOk)
    else if d.engine = 0 then (engine0 li, engine0 lo, inOk, outOk)
    else if d.op = opConcat then (decide (li ≤ 4), decide (lo = li), inOk, decide (co = 0))
    else if d.op = opAttn then (decide (li = 1), decide (lo = 5), decide (ci = 0), decide (co = 0))
    else if d.op = opSoftmax then (decide (li = 5), decide (lo = 5), decide (ci = 0), decide (co = 0))
    else if d.op = opEmbed then (decide (li = 2), decide (lo = 1), decide (ci = 0), decide (co = 0))
    else if d.op = opSelect then (decide (li = 5), decide (lo = 2), decide (ci = 0), decide (co = 0))
    else if d.op = opOffload then (decide (li ≤ 6), decide (lo = li), decide (ci = 0),
      codecOk co lo (codeWidth lo d.obits) d.codeSigned)
    else if d.op = opPrefetch then (decide (li ≤ 6), decide (lo = li),
      codecOk ci li (codeWidth li d.abits) d.codeSigned, decide (co = 0))
    else (decide (li ≤ 4), decide (lo ≤ 4), inOk, outOk)
  firstBreach [(!a, ⟨0x4A15, 7, 3, 0⟩), (!b, ⟨0x4A15, 7, 7, 4⟩), (!c, ⟨0x4A15, 7, 11, 8⟩), (!e, ⟨0x4A15, 7, 15, 12⟩)]

/-- The Loft buffers of a descriptor as first byte and length: inputs, and the output, with the words that name them
(R228, R235). -/
def Desc.buffers (d : Desc) (k : Kernel) (gran : Nat → Byte) : List (Nat × Nat × Nat) × (Nat × Nat × Nat) :=
  let at_ (w handle bytes : Nat) : Nat × Nat × Nat := (w, 64 * handle, up64 bytes)
  let (h, w) := d.ownSize k
  let out := (d.outMap h w).extent
  if d.op = opStream then
    let n : Network := ⟨gran, 32 * d.weightBase⟩
    ([at_ 10 d.inHandle (n.inputs * (if n.wide then 2 else 1))], at_ 11 d.outHandle 64)
  else if d.op = opBwdData then
    ([at_ 10 d.inHandle d.gradMap.extent], at_ 11 d.outHandle ({ d.outMap d.inH d.inW with c := d.inC }).extent)
  else if d.op = opBwdWeight then
    ([at_ 10 d.inHandle d.gradMap.extent, at_ 9 d.tableBase d.savedMap.extent],
     at_ 11 d.outHandle (1024 * (d.weightBytes / (32 * weightRows d.wmode))))
  else if d.op = opEmbed then ([at_ 10 d.inHandle (2 * d.inH)], at_ 11 d.outHandle out)
  else if d.op = opOffload then ([at_ 10 d.inHandle d.inMap.extent], at_ 11 0 0)
  else if d.op = opPrefetch then ([], at_ 11 d.outHandle (d.outMap d.inH d.inW).extent)
  else if d.op = opUpdate then
    ([at_ 10 d.inHandle (64 + 2 * up64 (512 * d.inH) + 1024 * d.inH)],
     at_ 11 d.outHandle (32 * weightRows d.wmode * d.inH))
  else if d.op = opAdd then
    ([at_ 10 d.inHandle d.inMap.extent, at_ 9 d.tableBase d.inMap.extent], at_ 11 d.outHandle out)
  else ([at_ 10 d.inHandle d.inMap.extent], at_ 11 d.outHandle out)

/-- Addresses (R228, R254, R356). -/
def Desc.placeBreach (d : Desc) (k : Kernel) (g : Grant) : Option Breach :=
  let (ins, out) := d.buffers k g.gran
  let block := if d.op = opStream then (⟨g.gran, 32 * d.weightBase⟩ : Network).bytes else d.weightBytes
  let table := d.tableBytes g.gran
  let moved := if d.op = opOffload then (64 * d.outHandle, (d.outMap d.inH d.inW).extent)
    else if d.op = opPrefetch then (64 * d.inHandle, d.inMap.extent) else (0, 0)
  orBreach (firstBreach [
      (decide (0 < block ∧ g.size < 32 * d.weightBase + block), ⟨0x4A14, 8, 31, 0⟩),
      (decide (0 < table ∧ g.size < 32 * d.tableBase + table), ⟨0x4A14, 9, 31, 0⟩),
      (decide (g.offload < moved.1 + moved.2), ⟨0x4A14, if d.op = opPrefetch then 10 else 11, 31, 0⟩)])
    (orBreach (firstBreach ((ins ++ [out]).map (fun b => (!covered g.loft b.2.1 b.2.2, ⟨0x4A14, b.1, 31, 0⟩))))
      (firstBreach (ins.map (fun b =>
        (decide (b.2.1 < out.2.1 + out.2.2 ∧ out.2.1 < b.2.1 + b.2.2), ⟨0x4A17, 11, 31, 0⟩)))))

/-- What speculation forbids (R269). -/
def Desc.specBreach (d : Desc) (k : Kernel) (g : Grant) : Option Breach :=
  let out := (d.buffers k g.gran).2
  firstBreach [
    (d.speculable && (d.op = opBwdData || d.op = opBwdWeight || d.moveClass || d.op = opSelect), ⟨0x4A27, 7, 28, 28⟩),
    (d.speculable && !covered [g.scratch] out.2.1 out.2.2, ⟨0x4A27, 7, 28, 28⟩)]

/-- Check, tag and slot fields (R196, R197). -/
def Desc.tagBreach (d : Desc) (g : Grant) : Option Breach :=
  firstBreach [(!d.checkOk, ⟨0x4A01, 15, 31, 16⟩), (decide (d.tenantTag ≠ g.tenant), ⟨0x4A03, 15, 3, 0⟩),
    (decide (d.slotTag ≠ g.slot), ⟨0x4A03, 15, 15, 8⟩)]

/-- One descriptor, in the order of R232; `idx` is its index in the table, `group` the indices of its pass group, and `k` the
kernel extent of that. -/
def Desc.breach (d : Desc) (k : Kernel) (g : Grant) (idx : Nat) (group : List Nat) : Option Breach :=
  orBreach (d.tagBreach g) <| orBreach d.opBreach <| orBreach d.fieldBreach <| orBreach d.widthBreach <|
  orBreach (d.sizeBreach k) <| orBreach (d.padBreach g.gran) <| orBreach d.groupBreach <| orBreach d.shapeBreach <|
  orBreach (d.tableBreach g) <| orBreach (d.routeBreach g idx (group.all g.commons.contains)) <| orBreach (d.networkBreach g) <|
  orBreach (d.settleBreach g) <| orBreach ((d.settleDiff g).map (fun _ => ⟨0x4A33, 9, 31, 0⟩)) <|
  orBreach (d.layoutBreach g.gran) <| orBreach (d.placeBreach k g) (d.specBreach k g)

/-! ### Pass groups and chains -/

/-- A descriptor of the table of a grant. -/
def Grant.desc (g : Grant) (i : Nat) : Desc := ⟨(List.range 64).map (fun k => g.gran (64 * i + k))⟩

/-- The descriptors that follow index `i` in chain order, itself first, at most `n`. -/
def Grant.run (g : Grant) (i : Nat) : Nat → List Nat
  | 0 => []
  | n + 1 => i :: (let d := g.desc i
      if d.last || decide (g.count ≤ d.next) then [] else g.run d.next n)

/-- The pass group that holds descriptor `i`: the run of passes that its pass 0 begins (R202, R215). -/
def Grant.groupOf (g : Grant) (i : Nat) : List Nat :=
  if (g.desc i).passes = 1 then [i]
  else
    let group (j : Nat) : List Nat := g.run j (g.desc j).passes
    match (List.range g.count).find? (fun j => decide ((g.desc j).pass = 0) && (group j).contains i) with
    | some j => group j
    | none => [i]

/-- The first field of a list in which two descriptors differ: word, high bit, low bit. -/
def fieldDiff (a b : Desc) (l : List (Nat × Nat × Nat)) : Option (Nat × Nat × Nat) :=
  l.find? (fun f => decide (a.f f.1 f.2.1 f.2.2 ≠ b.f f.1 f.2.1 f.2.2))

/-- The fields that R201 requires the passes of a group to share. -/
def precisionFields : List (Nat × Nat × Nat) := [(0, 31, 26), (0, 25, 24), (0, 23, 22), (0, 21, 19), (0, 18, 16), (0, 7, 0)]

/-- The fields that R216 requires the passes of a group to share. -/
def sharedFields : List (Nat × Nat × Nat) :=
  [(1, 15, 0), (1, 31, 16), (2, 15, 0), (2, 31, 16), (4, 7, 0), (4, 15, 8), (4, 23, 16), (4, 31, 24), (6, 15, 0), (6, 31, 16),
   (10, 31, 0), (11, 31, 0), (3, 11, 8), (3, 15, 12), (3, 19, 16), (3, 23, 20), (5, 31, 30), (7, 3, 0), (7, 7, 4), (7, 11, 8),
   (7, 15, 12), (7, 23, 16), (7, 24, 24), (7, 25, 25), (7, 27, 27), (7, 28, 28)]

/-- A breach at the first field in which two passes differ. -/
def diffBreach (code : Nat) (a b : Desc) (l : List (Nat × Nat × Nat)) : Option Breach :=
  (fieldDiff a b l).map (fun f => ⟨code, f.1, f.2.1, f.2.2⟩)

/-- What R215 and R216 ask of pass `j` of a group of `n` whose pass 0 is `d`. -/
def Desc.passBreach (d e : Desc) (n j : Nat) : Option Breach :=
  orBreach (firstBreach [
    (decide (e.pass ≠ j), ⟨0x4A21, 0, 15, 12⟩),
    (decide (e.passes ≠ n), ⟨0x4A21, 0, 11, 8⟩),
    (e.accumulate == decide (j + 1 = n), ⟨0x4A21, 7, 26, 26⟩),
    (decide (0 < j) && decide (e.barrier ≠ 0), ⟨0x4A21, 13, 31, 16⟩)])
  (diffBreach 0x4A21 d e sharedFields)

/-- What R217 asks of a pass: its offsets, 0 in a single pass. -/
def Desc.offsetBreach (e : Desc) (one : Bool) : Option Breach := firstBreach [
  (decide (255 < e.rowOff + e.kh) || (one && decide (e.rowOff ≠ 0)), ⟨0x4A22, 5, 7, 0⟩),
  (decide (255 < e.colOff + e.kw) || (one && decide (e.colOff ≠ 0)), ⟨0x4A22, 5, 15, 8⟩)]

/-- A pass group from its pass 0 (R201, R140, R202, R203, R215 to R217). A later pass follows, wherever the chain reaches it, the pass
before it: no entry of the model and no other descriptor leads into the middle of a group. -/
def Grant.groupBreach (g : Grant) (i : Nat) : Option Breach :=
  let d := g.desc i
  let n := d.passes
  if d.pass ≠ 0 then
    let before := (List.range g.count).filter (fun j => decide ((g.desc j).next = i) && !(g.desc j).last)
    let prev := before.all (fun j => decide ((g.desc j).pass + 1 = d.pass ∧ (g.desc j).passes = n))
    if prev && !before.isEmpty && decide (d.pass < n) && !g.starts.contains i then none else some ⟨0x4A21, 0, 15, 12⟩
  else
    let idx := g.run i n
    let ds := idx.map g.desc
    let tail := ds.drop 1
    orBreach (tail.findSome? (fun e => diffBreach 0x4A20 d e precisionFields)) <|
    orBreach (firstBreach [
      (decide (n ≠ 1) && !d.conv, ⟨0x4A21, 0, 11, 8⟩),
      (decide (ds.length ≠ n), ⟨0x4A21, 13, 15, 0⟩)]) <|
    orBreach ((ds.zip (List.range n)).findSome? (fun p => d.passBreach p.1 n p.2)) <|
    orBreach (if d.windowClass then ds.findSome? (fun e => e.offsetBreach (decide (n = 1))) else none) <|
    firstBreach [(tail.any (fun e => decide (e.tableBase ≠ d.tableBase)), ⟨0x4A20, 9, 31, 0⟩)]

/-- The chain from index `i` (R229, R230): the index and the field that break it, if any. `seen` holds the descriptors before
it. -/
def Grant.chainFault (g : Grant) : Nat → Nat → List Nat → Option (Nat × Breach)
  | 0, i, _ => some (i, ⟨0x4A25, 13, 15, 0⟩)
  | fuel + 1, i, seen =>
    let d := g.desc i
    if seen.contains i then some (i, ⟨0x4A25, 13, 15, 0⟩)
    else if seen.length < d.barrier then some (i, ⟨0x4A25, 13, 31, 16⟩)
    else if d.last then none
    else g.chainFault fuel d.next (i :: seen)

/-- The descriptor that follows `i` in a chain, where the two end and begin engine-0 pass groups of different precision under
one epoch (R282). -/
def Grant.epochFault (g : Grant) (i : Nat) : Option Nat :=
  let a := g.desc i
  let b := g.desc a.next
  let same := decide (a.wmode = b.wmode ∧ a.abits = b.abits ∧ a.obits = b.obits) && a.inSigned g.gran == b.inSigned g.gran
  if a.engine = 0 ∧ b.engine = 0 ∧ a.epoch = b.epoch ∧ !a.last && !a.accumulate && !same && decide (b.pass = 0) then some a.next
  else none

/-- The first fault of a model's table on one chip (R232, R233). -/
def Grant.fault (g : Grant) (chip : Nat) : Option AdmFault :=
  let mk (i : Nat) (b : Breach) : AdmFault :=
    { code := b.code, word := b.word, bits := 256 * b.hi + b.lo, value := i, chip := some chip,
      detail := if b.code = 0x4A33 then ((g.desc i).settleDiff g).getD 0 else i }
  let all := List.range g.count
  match all.findSome? (fun i => let group := g.groupOf i
      ((g.desc i).breach (kernelOf (group.map g.desc)) g i group).map (mk i)) with
  | some f => some f
  | none => match all.findSome? (fun i => (g.groupBreach i).map (mk i)) with
    | some f => some f
    | none =>
      match all.find? (fun i => let d := g.desc i
          if d.last then decide (d.next ≠ 0) else decide (g.count ≤ d.next)) with
      | some i => some (mk i ⟨0x4A25, 13, 15, 0⟩)
      | none => match g.starts.findSome? (fun i => g.chainFault 4097 i []) with
        | some (i, b) => some (mk i b)
        | none => (all.findSome? g.epochFault).map (fun i => mk i ⟨0x4A26, 0, 7, 0⟩)

end Sys2Proof.Machine
end

