-- ==== Sys2Proof/Machine/Admit.lean ====
section
/-! DEFINITION. Regions on a chip, quotas, the placement search, admission into a slot, and residence (chapter 9). -/

namespace Sys2Proof.Machine

/-- What placement may use of a Granary and of a Loft (R317). -/
def granCap : Nat := 32505856
def loftCap : Nat := 7864320

/-- The double buffer of a tight fit (R320). -/
def tightBuffer : Nat := 131072

/-! ### Regions -/

/-- The lowest base at which `size` bytes lie clear of the intervals taken (base and length). -/
def firstFit (taken : List (Nat × Nat)) (size cap : Nat) : Option Nat :=
  (sortBy (fun a b => decide (a ≤ b)) (0 :: taken.map (fun p => p.1 + p.2))).find? (fun a =>
    decide (a + size ≤ cap) && taken.all (fun p => decide (a + size ≤ p.1 ∨ p.1 + p.2 ≤ a ∨ p.2 = 0 ∨ size = 0)))

/-- Granary and Loft intervals of the regions in use. -/
def Chip.granTaken (c : Chip) : List (Nat × Nat) :=
  (c.regions.filter (fun r => !r.released)).map (fun r => (r.granBase, r.granSize))
def Chip.loftTaken (c : Chip) : List (Nat × Nat) :=
  (c.regions.filter (fun r => !r.released)).map (fun r => (r.loftBase, r.loftSize))

/-- A released region has been zeroed (R296). -/
def Chip.clearRegion (c : Chip) (r : Region) : Chip :=
  { c with
    granary := memClear c.granary r.granBase r.granSize, loft := memClear c.loft r.loftBase r.loftSize,
    regions := c.regions.erase r }

/-- Every released region zeroed. -/
def Chip.clearAll (c : Chip) : Chip := (c.regions.filter Region.released).foldl Chip.clearRegion c

/-- The cells of an interval moved to a new base. -/
def moveCells (m : List Host.Cell) (base size dest : Nat) : List Host.Cell :=
  (m.filter (fun x => decide (base ≤ x.1 ∧ x.1 < base + size))).map (fun x => (x.1 - base + dest, x.2))

/-- The regions in use moved together, in their order, from address 0 up. No rule says where a region lies. -/
def Chip.compact (c : Chip) : Chip :=
  let c := c.clearAll
  let step (a : List Region × Nat × Nat × List Host.Cell × List Host.Cell) (r : Region) :=
    let (l, g, f, mg, ml) := a
    (l ++ [{ r with granBase := g, loftBase := f }], g + r.granSize, f + r.loftSize,
      mg ++ moveCells c.granary r.granBase r.granSize g, ml ++ moveCells c.loft r.loftBase r.loftSize f)
  let (l, _, _, mg, ml) := c.regions.foldl step ([], 0, 0, [], [])
  { c with regions := l, granary := mg, loft := ml }

/-- A region of a slot on a chip; what a released region leaves there is zeroed before the space is used again (R296). -/
def Chip.addRegion (c : Chip) (slot gran loft : Nat) : Chip :=
  let put (c : Chip) : Option Chip :=
    match firstFit c.granTaken gran granCap, firstFit c.loftTaken loft loftCap with
    | some g, some f =>
      let hit (r : Region) : Bool := r.released && decide ((g < r.granBase + r.granSize ∧ r.granBase < g + gran)
        ∨ (f < r.loftBase + r.loftSize ∧ r.loftBase < f + loft))
      let c := (c.regions.filter hit).foldl Chip.clearRegion c
      some { c with regions := c.regions ++ [⟨slot, g, gran, f, loft, false, false⟩] }
    | _, _ => none
  match put c with
  | some c => c
  | none => (put c.compact).getD c

/-- The regions of a slot are released: their zeroing is still to come (R296). -/
def Chip.release (slot : Nat) (c : Chip) : Chip :=
  { c with
    regions := c.regions.map (fun r => if r.slot = slot then { r with released := true } else r),
    pool := c.pool.filter (· ≠ slot), loading := c.loading.filter (· ≠ slot),
    context := if c.context = some slot then none else c.context }

/-! ### What is held -/

/-- Granary bytes that a partition needs, N_p with the second copies. -/
def Variant.need (v : Variant) (p : Nat) : Nat := (v.part p).gran + v.second p

/-- Loft bytes that a partition needs (R317). -/
def Partition.loftNeed (x : Partition) : Nat := x.ploft + 64 * x.copies * x.scratchUnits

/-- The slots that hold a model with a placement. -/
def State.placedSlots (s : State) : List (Nat × Model) :=
  (List.range 256).filterMap fun n => match s.model n with
    | some m => if m.placed.isEmpty then none else some (n, m)
    | none => none

def State.resident (s : State) (slot : Nat) : Bool := decide (s.nat (0x4000 + slot) 4 = 5)

/-- What the placed models of a chip charge, with one slot left out: resident bytes, largest non-resident image, and count of
resident models. -/
def State.chargeOn (s : State) (c except : Nat) : Nat × Nat × Nat :=
  (s.placedSlots.filter (fun p => decide (p.1 ≠ except))).foldl (fun a (n, m) =>
    (m.placed.zip (List.range m.placed.length)).foldl (fun (a : Nat × Nat × Nat) (x, q) =>
      if x.chip ≠ c then a
      else if s.resident n then (a.1 + x.footprint, a.2.1, a.2.2 + 1)
      else (a.1, max a.2.1 (m.variant.need q), a.2.2)) a) (0, 0, 0)

/-- The Granary that a further copy of the learnable slot takes on a chip (R337). -/
def State.copyCharge (s : State) (c : Nat) : Nat :=
  if (s.learn.copies.drop 1).any (fun l => l.contains c) then
    (((s.chip c).region (s.nat 0x5000 2)).map Region.granSize).getD 0
  else 0

/-- The Loft that a further copy of the learnable slot takes on a chip (R337). -/
def State.copyLoft (s : State) (c : Nat) : Nat :=
  if (s.learn.copies.drop 1).any (fun l => l.contains c) then
    (((s.chip c).region (s.nat 0x5000 2)).map Region.loftSize).getD 0
  else 0

/-- Loft bytes free on a chip. -/
def Chip.loftFree (c : Chip) (except : Nat) : Nat :=
  loftCap - ((c.regions.filter (fun r => decide (r.slot ≠ except) && !r.released)).map Region.loftSize).sum

/-- Granary and Loft bytes that the models of a tenant hold, one slot left out; token caches and learning windows count with
the Loft (R294, R328, R337). -/
def State.granHeld (s : State) (t except : Nat) : Nat :=
  ((s.placedSlots.filter (fun p => decide (p.1 ≠ except ∧ s.nat (0x4000 + p.1) 1 = t))).map (fun (n, m) =>
    if s.resident n then (m.placed.map Placed.footprint).sum
    else ((List.range m.placed.length).map m.variant.need).sum)).sum
  + (if s.nat 0x5000 1 = t then ((List.range 16).map s.copyCharge).sum else 0)

def State.loftHeld (s : State) (t except : Nat) : Nat :=
  let tokens := ((List.range 8).filter (fun i => decide (s.nat (0x6100 + i) 2 = t))).map (fun i =>
    ((s.token i).cache.map (fun q => 64 * q.2.2)).sum)
  ((s.placedSlots.filter (fun p => decide (p.1 ≠ except ∧ s.nat (0x4000 + p.1) 1 = t))).map (fun (_, m) =>
    ((List.range m.placed.length).map (fun q => (m.variant.part q).loftNeed)).sum)).sum + tokens.sum
  + (if s.nat 0x5000 1 = t then ((List.range 16).map (fun c => s.copyLoft c
      + (((s.chip c).regions.filter (fun r => decide (0x200 ≤ r.slot) && !r.released)).map Region.loftSize).sum)).sum else 0)

/-- Bytes of staged and admitted bundles of a tenant. -/
def State.storeHeld (s : State) (t except : Nat) : Nat :=
  ((List.range 256).map (fun n => if n ≠ except ∧ s.nat (0x4000 + n) 1 = t then
    (((s.slot n).staged.map List.length).getD 0) + ((s.model n).map (fun m => m.bundle.length)).getD 0 else 0)).sum

/-! ### Fits (R319, R320) -/

/-- The blocks streamed to reach a target, largest first; none where they fall short. -/
def takeBlocks (target : Nat) : List WeightBlock → Nat → Option (List WeightBlock)
  | [], got => if target ≤ got then some [] else none
  | b :: r, got => if target ≤ got then some [] else (takeBlocks target r (got + b.size)).map (b :: ·)

/-- A partition on a chip of capacity `cap`: fully, or tightly where allowed. -/
def Variant.fit (v : Variant) (tight : Bool) (cap chip q : Nat) : Option Placed :=
  let n := v.need q
  if n ≤ cap then some ⟨chip, n, 0⟩
  else
    let d := n - cap
    if !tight || decide (cap / 8 < d) then none
    else match takeBlocks (d + tightBuffer) (v.part q).blocks 0 with
      | none => none
      | some l =>
        let sent := (l.map WeightBlock.size).sum
        some ⟨chip, n - sent + tightBuffer, sent⟩

/-! ### The search (R317, R318) -/

/-- What the search leaves out, to name the cause of a failure (R319, R325). -/
inductive Without where
  | nothing | loft | quota | pool
deriving DecidableEq, Repr

/-- The capacity of a chip for a slot (R317), and its free Granary. -/
def State.capacity (s : State) (slot c : Nat) (w : Without) : Nat × Nat :=
  let t := s.nat (0x4000 + slot) 1
  let (res, non, _) := s.chargeOn c slot
  let free := granCap - (res + s.copyCharge c) - (if w = .pool then 0 else non)
  let left := 1024 * s.nat (blk t 1) 2 - s.granHeld t slot
  (if w = .quota then free else min free left, free)

/-- The candidates for a partition, in the order of R318. -/
def State.candidates (s : State) (slot : Nat) (v : Variant) (w : Without) (q : Nat) (used : List Nat) (prev : Option Nat) :
    List Nat :=
  let t := s.nat (0x4000 + slot) 1
  let pool := match prev with
    | some c => if v.chain then (List.range 16).filter (fun x => (neighbours c).contains x) else List.range 16
    | none => List.range 16
  let ok (c : Nat) : Bool :=
    !used.contains c && !s.failed c && !bit (s.nat 0x2011 1) c && (w = .quota || bit (s.nat (blk t 1) 1) c)
      && decide ((s.chargeOn c slot).2.2 < 64)
      && (w = .loft || decide ((v.part q).loftNeed ≤ (s.chip c).loftFree slot))
  let pref := s.nat (0x4000 + slot) 14
  let free (c : Nat) := (s.capacity slot c w).2
  sortBy (fun a b =>
    if bit pref a ≠ bit pref b then bit pref a else if free a ≠ free b then decide (free b < free a) else decide (a ≤ b)) (pool.filter ok)

/-- The depth-first search over the partitions left (R318). -/
def State.assign (s : State) (slot : Nat) (v : Variant) (tight : Bool) (w : Without) :
    List Nat → List Nat → Option Nat → Option (List Placed)
  | [], _, _ => some []
  | q :: r, used, prev => (s.candidates slot v w q used prev).findSome? fun c =>
      match v.fit tight (s.capacity slot c w).1 c q with
      | none => none
      | some x => (s.assign slot v tight w r (c :: used) (some c)).map (x :: ·)

/-- The smallest total shortfall over the complete assignments (R319). -/
def State.shortfall (s : State) (slot : Nat) (v : Variant) : List Nat → List Nat → Option Nat → Option Nat
  | [], _, _ => some 0
  | q :: r, used, prev => (s.candidates slot v .nothing q used prev).foldl (fun best c =>
      match s.shortfall slot v r (c :: used) (some c) with
      | none => best
      | some n =>
        let d := v.need q - (s.capacity slot c .nothing).1 + n
        some (match best with
          | some b => min b d
          | none => d)) none

/-- The first variant and assignment of R318. -/
def State.placement (s : State) (slot : Nat) (vs : List Variant) (want : Bool) (w : Without) : Option (Variant × List Placed) :=
  let t := s.nat (0x4000 + slot) 1
  let tightOk := want && (w = .quota || s.flag (blk t 1) 7)
  (vs.filter (fun v => w = .quota || decide (v.p ≤ s.nat (blk t 1) 5))).findSome? fun v =>
    match s.assign slot v false w (List.range v.p) [] none with
    | some l => some (v, l)
    | none => if tightOk then (s.assign slot v true w (List.range v.p) [] none).map (fun l => (v, l)) else none

/-- The first of a list of amounts with which they pass a limit together. -/
def firstOver (limit : Nat) (l : List Nat) : Option Nat :=
  (List.range l.length).find? (fun q => decide (limit < (l.take (q + 1)).sum))

/-- The variant and the partition that a refusal names (R314): of the variants that the quota :05 admits the first, and its first
partition that no assignment of those before it leaves a chip for. -/
def State.stuck (s : State) (slot : Nat) (vs : List Variant) (want : Bool) : Nat :=
  let t := s.nat (0x4000 + slot) 1
  let tight := want && s.flag (blk t 1) 7
  match (vs.find? (fun v => decide (v.p ≤ s.nat (blk t 1) 5))) <|> vs.head? with
  | none => 0
  | some v => v.number * 256
      + ((List.range v.p).find? (fun q => (s.assign slot v tight .nothing (List.range (q + 1)) [] none).isNone)).getD 0

/-- The placement of a slot, or the refusal of R313 with its shortfall. -/
def State.place (s : State) (slot : Nat) (vs : List Variant) (want : Bool) : Except AdmFault (Variant × List Placed) :=
  let t := s.nat (0x4000 + slot) 1
  match s.placement slot vs want .nothing with
  | some (v, l) =>
    let gran := firstOver (1024 * s.nat (blk t 1) 2 - s.granHeld t slot) (l.map Placed.footprint)
    let loft := firstOver (1024 * s.nat (blk t 1) 3 - s.loftHeld t slot) ((List.range v.p).map (fun q => (v.part q).loftNeed))
    match gran <|> loft with
    | some q => .error { code := 0x4B07, detail := v.number * 256 + q }
    | none => .ok (v, l)
  | none =>
    let tryWith (w : Without) : Bool := (s.placement slot vs want w).isSome
    let code := if tryWith .loft then 0x4B06 else if tryWith .quota then 0x4B07 else if tryWith .pool then 0x4B08 else 0x4B03
    let short := (vs.filter (fun v => decide (v.p ≤ s.nat (blk t 1) 5))).foldl (fun (b : Option Nat) v =>
      match b, s.shortfall slot v (List.range v.p) [] none with
      | some x, some y => some (min x y)
      | none, y => y
      | x, none => x) none
    .error { code := code, detail := s.stuck slot vs want, value := short.getD 0, short := short.getD 0 }

/-! ### Admission (R313 to R315) -/

/-- The Loft intervals that a placement grants a partition, region-relative (R228, R310, R332, R355). -/
def Variant.granted (v : Variant) (q : Nat) : List (Nat × Nat) :=
  let x := v.part q
  [(0, x.ploft), (64 * x.scratchBase, 64 * x.scratchUnits), (64 * x.kvBase, 64 * v.batch * x.kvUnits)]
    ++ (v.learn.filter (fun l => decide (l.part = q))).flatMap (fun l =>
      (64 * l.savedBase, 64 * l.savedUnits) :: l.layers.map (fun r => (64 * r.buffer, 1024 * r.rowSets)))

/-- The grant of a partition for the descriptor checks. -/
def Variant.grant (v : Variant) (tenant slot q : Nat) : Grant :=
  let x := v.part q
  { tenant := tenant, slot := slot, size := x.gran, gran := fun a => (x.image[a]?).getD 0, count := x.descCount,
    loft := v.granted q, scratch := (64 * x.scratchBase, 64 * x.scratchUnits), commons := x.commons,
    starts := (v.entries.map (fun l => ((l[q]?).getD ⟨0xFFFF, 0, 0, []⟩).first)).filter (· < 0xFFFF),
    offload := ((v.learn.find? (fun l => decide (l.part = q))).map LearnPart.offload).getD 0 }

/-- The checks of R313 up to the images: the plain sections, or the refusal. -/
def State.openBundle (s : State) (slot : Nat) (b : List Byte) : Except AdmFault (List (Section × List Byte)) :=
  let t := s.nat (0x4000 + slot) 1
  let signer := bundleSigner b
  let key := if signer = 0 then s.boot.fuses.ownerKey else s.bytes (blk signer 2) 1
  if !bundleFormed b then .error { code := 0x4B01 }
  else if (signer ≠ 0 ∧ signer ≠ t) ∨ ecdsaVerify key (sha256 (b.take (tableEnd b))) (b.drop (b.length - 64)) = false then
    .error { code := 0x8201 }
  else match badDigest b with
    | some i => .error { code := 0x8202, detail := i, value := i }
    | none =>
      if s.boot.fuses.revision < bundleMinRevision b then .error { code := 0x4B04, value := bundleMinRevision b }
      else
        let idx := List.range (sectionCount b)
        let plain (i : Nat) := plainSection (s.tenant t).bundleKey b i
        match idx.find? (fun i => (plain i).isNone) with
        | some i => .error { code := 0x8203, detail := i, value := i }
        | none => .ok (idx.map (fun i => (sectionAt b i, (plain i).getD [])))

/-- The descriptor checks on every chip of a placement. -/
def tableFault (v : Variant) (tenant slot : Nat) (l : List Placed) : Option AdmFault :=
  (l.zip (List.range l.length)).findSome? fun (x, q) => (v.grant tenant slot q).fault x.chip

/-- Bytes kept in model flash, one slot left out. -/
def State.flashBytes (s : State) (except : Nat) : Nat :=
  ((s.store.flash.filter (fun p => decide (p.1 ≠ except))).map (fun p => p.2.length)).sum

/-- Everything R313 checks for a bundle in a slot. -/
def State.judge (s : State) (slot : Nat) (b : List Byte) (want : Bool) : Except AdmFault Model :=
  match s.openBundle slot b with
  | .error f => .error f
  | .ok secs => match variantsOf secs with
    | .error f => .error f
    | .ok vs => match s.place slot vs want with
      | .error f => .error f
      | .ok (v, l) => match tableFault v (s.nat (0x4000 + slot) 1) slot l with
        | some f => .error f
        | none => if 6 * 2 ^ 30 < s.flashBytes slot + b.length then .error { code := 0x4B05, detail := v.number * 256 }
            else .ok ⟨b, bundleLearnable b, v, l⟩

/-- Granary bytes that the regions of a chip leave to the pool of non-resident images. -/
def State.poolSize (s : State) (c except : Nat) : Nat :=
  granCap - ((s.chargeOn c except).1 + s.copyCharge c)

/-- Bytes of a slot's image on a chip. -/
def State.imageSize (s : State) (c slot : Nat) : Nat := match s.model slot with
  | none => 0
  | some m => ((List.range m.variant.p).map (fun q => if m.chipOf q = c then m.variant.need q else 0)).sum

/-- Images evicted, least recently used first and none in use, until `need` bytes fit (R324). -/
def evictPool (size : Nat → Nat) (used : Nat → Bool) (room need : Nat) : Nat → List Nat → Option (List Nat)
  | 0, _ => none
  | n + 1, pool =>
    if (pool.map size).sum + need ≤ room then some pool
    else match pool.reverse.find? (fun k => !used k) with
      | none => none
      | some k => evictPool size used room need n (pool.filter (· ≠ k))

/-- An image in the pool that an issue in flight on the chip uses. -/
def State.imageUsed (s : State) (c slot : Nat) : Bool := s.issues.any (fun i => decide (i.slot = slot)
  && i.parts.any (fun p => decide (p.chip = c) && p.loaded && !p.complete))

/-- The pools hold no more than the resident regions leave them (R324): the least recently used images that no issue in flight uses
go where the regions have grown. -/
def State.trimPools (s : State) : State := forEach 16 s fun s c => s.modChip c fun x => { x with
  pool := (evictPool (s.imageSize c) (s.imageUsed c) (s.poolSize c 256) 0 (x.pool.length + 1) x.pool).getD
    (x.pool.filter (s.imageUsed c)) }

/-- The images of one partition laid into a region: what the Granary keeps of its image, and the Loft image. -/
def Chip.layImages (x : Chip) (r : Region) (spans : List (Nat × Nat)) (image loftImage : List Byte) : Chip :=
  { x with
    granary := if 0 < r.granSize then memWriteN x.granary r.granBase (packed spans image) else x.granary,
    loft := memWriteN x.loft r.loftBase loftImage,
    regions := x.regions.map (fun q => if q = r then { q with side := false } else q) }

/-- The images of one partition laid into its chip (R322): the Granary image of a resident model without what a tight fit streams,
and the Loft image of both kinds. -/
def State.layPart (s : State) (slot : Nat) (m : Model) (want : Bool) (q : Nat) : State :=
  match m.placed[q]? with
  | none => s
  | some p =>
    let x := m.variant.part q
    s.modChip p.chip fun c =>
      let c := c.addRegion slot (if want then p.footprint else 0) x.loftNeed
      match c.region slot with
      | none => c
      | some r => c.layImages r (m.spansOn p.chip q) x.image x.loftImage

/-- The slowdown of a tight fit, per mille (R321). -/
def Model.slowdown (m : Model) : Nat :=
  let tw := (List.range m.variant.p).foldl (fun a q =>
    let e := m.variant.entryOn 0 q
    if e.first < 0xFFFF then max a ((e.cycles[2]?).getD 0) else a) 0
  let ts := m.placed.foldl (fun a p => max a p.streamed) 0
  if ts = 0 then 1000
  else if tw = 0 then 65535
  else min 65535 (ceilDiv (1000 * max (197 * tw) (50 * ts)) (197 * tw))

/-- The entries of the slot record that follow its placement. -/
def State.showSlot (s : State) (slot : Nat) : State :=
  let i := 0x4000 + slot
  match s.model slot with
  | none => ((((s.setNum i 6 0).setNum i 7 0).setNum i 8 0).setNum i 9 0).setNum i 10 1000
  | some m =>
    let sent := (m.placed.map Placed.streamed).sum
    ((((s.setNum i 6 (bitmap 16 (fun c => m.chips.contains c)))).setNum i 7 m.variant.number).setNum i 8
      (ofBool (decide (0 < sent)))).setNum i 9 sent |>.setNum i 10 m.slowdown

/-- A model laid into its chips: slot state, entries and regions. -/
def State.layModel (s : State) (slot : Nat) (m : Model) (want : Bool) : State :=
  let s := (List.range m.variant.p).foldl (fun s q => s.layPart slot m want q) s
  let s := s.modSlot slot (fun x => { x with model := some m, staged := none, unplaced := false })
  let i := 0x4000 + slot
  ((((s.setNum i 4 (if want then 5 else 4)).setNum i 12 (bundleModelId m.bundle)).setNum i 13
    (bundleVersion m.bundle)).showSlot slot).trimPools

/-- The unit ID of an admission fault (R233, R549): the chip, Reeve for class 8, else the tray. -/
def AdmFault.unit (f : AdmFault) : Nat := match f.chip with
  | some c => chipUnit c
  | none => if f.code / 0x1000 = 8 then reeveUnit else 0

/-- An admission refused (R314): the slot is staged again, :0F, :0B and OD 0x2401 hold the fault. -/
def State.refuseAdmission (s : State) (slot : Nat) (f : AdmFault) : State :=
  let i := 0x4000 + slot
  let t := s.nat i 1
  let r : Record := ⟨s.stamp, f.code, f.unit, t, 0, f.detail⟩
  let s := ((s.setNum i 4 2).setNum i 15 f.code).setNum i 11 f.short
  let d : Deny := { abort := 0, index := i, sub := 3, code := f.code, record := some r, word := f.word, value := f.value }
  (s.post r).refuseLate { d with bits := f.bits }

/-- The model admitted: kept in model flash (R315), with the event of a tight fit (R321). -/
def State.admitted (s : State) (slot : Nat) (m : Model) (want : Bool) : State :=
  let s := s.layModel slot m want
  let s := { s with store := { s.store with flash := insertKey slot m.bundle s.store.flash } }
  match (List.range m.placed.length).find? (fun q => match m.placed[q]? with
      | some p => decide (0 < p.streamed)
      | none => false) with
  | some q => s.raise 0x4B10 0 (s.nat (0x4000 + slot) 1) (m.variant.number * 256 + q)
  | none => s

/-! ### Eviction and residence (R316, R324, R325) -/

/-- The model of a slot leaves: regions released, bundle and images deleted (R316). -/
def State.evict (s : State) (slot : Nat) : State :=
  let s := { s with
    chips := s.chips.map (Chip.release slot),
    store := { s.store with flash := eraseKey slot s.store.flash } }
  let s := s.modSlot slot (fun x => { x with model := none, staged := none, unplaced := false, fromFlash := false })
  let i := 0x4000 + slot
  (((s.setNum i 4 1).setNum i 12 0).setNum i 13 0).showSlot slot

/-- The residence change of R325 on the chips already placed: the new placement, or the fault. -/
def State.residePlan (s : State) (slot : Nat) (m : Model) : Except AdmFault (List Placed) :=
  let t := s.nat (0x4000 + slot) 1
  let tight := s.flag (blk t 1) 7
  let quota := 1024 * s.nat (blk t 1) 2 - s.granHeld t slot
  let idx := List.range m.placed.length
  let fitWith (pool : Bool) (q : Nat) : Option Placed :=
    let c := m.chipOf q
    let (res, non, n) := s.chargeOn c slot
    let cap := min quota (granCap - (res + s.copyCharge c) - (if pool then non else 0))
    if n < 64 then m.variant.fit tight cap c q else none
  match idx.find? (fun q => (fitWith true q).isNone) with
  | none =>
    let l := idx.filterMap (fitWith true)
    match firstOver quota (l.map Placed.footprint) with
    | some q => .error { code := 0x4B07, detail := m.variant.number * 256 + q }
    | none => .ok l
  | some q =>
    let short := (idx.map (fun q => m.variant.need q - (s.capacity slot (m.chipOf q) .nothing).1)).sum
    let code := if idx.all (fun q => (fitWith false q).isSome) then 0x4B08 else 0x4B03
    .error { code := code, detail := m.variant.number * 256 + q, value := short, short := short }

/-- The slot's regions laid again with a new residence; the image goes as its chips hold it, and the Loft stays where it is
(R322). -/
def State.reside (s : State) (slot : Nat) (m : Model) (l : List Placed) (want : Bool) : State :=
  let parts := (m.variant.parts.zip (List.range m.variant.parts.length)).map (fun (x, q) => { x with image := s.imageNow slot m q })
  let m := { m with placed := l, variant := { m.variant with parts := parts } }
  let move (s : State) (q : Nat) : State := match l[q]? with
    | none => s
    | some p => s.modChip p.chip fun c =>
        match c.region slot with
        | none => c
        | some r =>
          let old : Region := { r with loftSize := 0, released := true }
          let keep : Region := { r with slot := 0x1000, granSize := 0 }
          let c := { c with
            regions := (c.regions.filter (· ≠ r)) ++ keep :: (if 0 < r.granSize then [old] else []),
            pool := c.pool.filter (· ≠ slot), loading := c.loading.filter (· ≠ slot) }
          let size := if want then p.footprint else 0
          let c := c.addRegion slot size 0
          let base := ((c.region slot).map Region.granBase).getD 0
          let loft := ((c.region 0x1000).map Region.loftBase).getD r.loftBase
          let c := { c with
            regions := c.regions.filter (fun x => x.released || !(x.slot = slot || x.slot = 0x1000))
              ++ [{ r with granBase := base, granSize := size, loftBase := loft, side := false }] }
          if want then { c with granary := memWriteN c.granary base (packed (m.spansOn p.chip q) (m.variant.part q).image) } else c
  let s := (List.range l.length).foldl move s
  let s := s.modSlot slot (fun x => { x with model := some m })
  ((s.setNum (0x4000 + slot) 4 (if want then 5 else 4)).showSlot slot).trimPools

/-- A model without a placement is placed again where the search and the checks allow it (R432). -/
def State.replace (s : State) (slot : Nat) : Option State := match s.model slot with
  | none => none
  | some m =>
    let want := s.resident slot
    match s.openBundle slot m.bundle with
    | .error _ => none
    | .ok secs => match variantsOf secs with
      | .error _ => none
      | .ok vs => match s.place slot vs want with
        | .error _ => none
        | .ok (v, l) => match tableFault v (s.nat (0x4000 + slot) 1) slot l with
          | some _ => none
          | none => some (s.layModel slot { m with variant := v, placed := l } want)

end Sys2Proof.Machine
end

