-- ==== Sys2Proof/Machine/Tier.lean ====
section
/-! DEFINITION. Operating tiers (chapter 1): the tier that each chip is to run in, and its transitions. -/

namespace Sys2Proof.Machine

/-- Clock of a tier in MHz (Table 1.6). -/
def tierMHz (t : Nat) : Nat := if t = 1 then 25 else if t = 2 then 200 else if t = 3 then 500 else if t = 4 then 700 else 0

/-- Core voltage of a tier in mV (Table 1.6). -/
def tierMilliVolts (t : Nat) : Int := if t = 1 then 500 else if t = 2 then 550 else if t = 3 then 650 else if t = 4 then 750 else 0

/-- VCORE of chip `c` at cluster `k` in mV: that of the chip's tier plus the cluster's trim, and off in Fallow or while the chip's
rails are off (R497). -/
def State.coreMilliVolts (s : State) (c k : Nat) : Int :=
  if (s.chip c).tier = 0 ∨ (s.chip c).railsOn = false then 0 else tierMilliVolts (s.chip c).tier + (vget (s.chip c).clusters k).trim

/-- A designated spare that is not in use (R20, R21). -/
def State.isSpare (s : State) (c : Nat) : Bool := bit (s.nat 0x2011 1) c

/-- A chip that holds a resident model (R30). -/
def State.hasResident (s : State) (c : Nat) : Bool :=
  s.placedSlots.any (fun p => s.resident p.1 && p.2.chips.contains c)

/-- A gated job counts for the tier in its hold-over and until the issues made on it have ended, unless it runs ungated (R184,
R185). -/
def State.activeJob (s : State) (t j : Nat) : Bool :=
  (s.jobModel t j).isSome && (!(s.jobDesc t j).gated || (s.job t j).holdOver.isSome || s.ungated t j
    || s.issues.any (fun i => decide (i.tenant = t ∧ i.job = j)))

/-- Cycles of a job's chain on a chip at a tier, from the bundle (R276). -/
def State.jobCycles (s : State) (t j c tier : Nat) : Nat := match s.jobModel t j with
  | none => 0
  | some m => ((List.range m.variant.p).map fun q =>
      if m.chipOf q = c then (((m.variant.entryOn (s.jobDesc t j).entry q).cycles[tier - 1]?).getD 0) else 0).sum

/-- A chip holds copies of the learnable model while learning (R31, R337). -/
def State.learnsOn (s : State) (c : Nat) : Bool :=
  decide (s.tray = .learning) && s.learn.copies.any (fun l => l.contains c)

/-- The jobs that count for the tier of a chip. -/
def State.tierJobs (s : State) (c : Nat) : List (Nat × Nat) :=
  s.enabledJobs.filter fun (t, j) => decide (s.tenantState t = 1) && s.activeJob t j && (match s.jobModel t j with
    | some m => m.chips.contains c
    | none => false)

/-- Work that needs the Smithy, and so at least Watch (R186). -/
def State.needsSmithy (s : State) (c : Nat) (jobs : List (Nat × Nat)) : Bool :=
  let uses (slot : Nat) (m : Model) (e : Nat) : Bool := (List.range m.variant.p).any fun q =>
    decide (m.chipOf q = c) && (s.chain slot m e q).any (fun d => decide (d.engine = 1))
  jobs.any (fun (t, j) => match s.jobModel t j with
    | some m => uses (s.jobDesc t j).slot m (s.jobDesc t j).entry
    | none => false)
  || (List.range 8).any (fun i => decide (s.nat (0x6100 + i) 3 = 2) && (match s.model (s.nat (0x6100 + i) 4) with
    | some m => uses (s.nat (0x6100 + i) 4) m (s.nat (0x6100 + i) 5)
    | none => false))
  || s.learnsOn c

/-- Ticks of the upward steps from one tier to another (Table 1.7). -/
def riseTicks (a b : Nat) : Nat :=
  (((List.range b).filter (fun t => decide (a ≤ t))).map (fun t => if t = 0 then 200000 else if t = 1 then 3000 else 5500)).sum

/-- A shaft's speed as its predicted trajectory has it after `dt` ticks (R91), magnitude as an exact quotient; the present one
where it is larger. -/
def Shaft.fastest (x : Shaft) (dt : Nat) : Nat × Nat :=
  let ahead := (x.speed * x.accelDen + x.accel * dt * x.speedDen).natAbs
  (max (x.speed.natAbs * x.accelDen) ahead, x.speedDen * x.accelDen)

/-- Every deadline of the jobs on a chip is met at a tier (R29, R276): all their cycles within each deadline, at the fastest that
the shaft runs by the time the chip has reached the tier, so that a raise is asked for ahead of the angle that needs it (R37). No
deadline is met in Fallow. -/
def State.meets (s : State) (c tier : Nat) (jobs : List (Nat × Nat)) : Bool :=
  let total := (jobs.map (fun (t, j) => s.jobCycles t j c tier)).sum
  jobs.all fun (t, j) =>
    let d := (s.jobDesc t j).deadline
    let (n, den) := (s.shaft (s.jobShaft t j 16)).fastest (riseTicks (s.chip c).tier tier)
    d = 0 || (decide (0 < tier) && decide (total * 100 * n ≤ d * den * tierMHz tier))

/-- The effective ceiling of a chip (R28, R31, R33). -/
def State.ceiling (s : State) (c : Nat) : Nat :=
  min (s.nat 0x2002 1) (if s.faults.capped || !s.learnsOn c then 3 else 4)

/-- The tier below which a chip never goes: Drowse with a resident model, or as a spare that takes the role of a failed chip (R30,
R417). -/
def State.leastTier (s : State) (c : Nat) : Nat :=
  if s.hasResident c || (s.chip c).spareFor.isSome then 1 else 0

/-- A test of an on-chip unit, or of the whole chip, runs on the chip (R411). -/
def Chip.tests? (x : Chip) : Bool := x.test.isSome || x.whole.isSome

/-- The tier that Reeve chooses for a chip (R21, R29 to R33, R48, R185): the lowest, from the floor up, in which every deadline is
met. A job without a deadline raises no tier above the floor (R276), but the Smithy's work needs Watch (R186), and so does a test,
which raises the chip whatever the ceiling (R411; DESIGN CHOICE, log entry 111). -/
def State.chooseTier (s : State) (c : Nat) : Nat :=
  let x := s.chip c
  let least := s.leastTier c
  let test := if x.tests? then 2 else 0
  if x.failed || (s.isSpare c && x.spareFor.isNone) then 0
  else if s.tray = .safeHold then (if x.tests? then 2 else if x.tier = 0 then least else 1)
  else
    let top := max (max least (s.ceiling c)) test
    let floor := max (max (s.nat 0x2002 2) least) (if x.bellFailed then 2 else 0)
    let jobs := s.tierJobs c
    let low := max (max floor test) (if s.needsSmithy c jobs then 2 else 0)
    if top ≤ low then top
    else (((List.range (top + 1)).filter (fun t => decide (low ≤ t))).find? (fun t => s.meets c t jobs)).getD top

/-- A chip begins the transition towards its target, unless a step is under way (R34 to R36). -/
def Chip.aim (x : Chip) (target : Nat) : Chip :=
  let x := { x with target := target }
  if x.rising || x.dropTo.isSome || x.reloading || !x.railsOn then x
  else { x with rising := decide (x.tier < target), falling := decide (target < x.tier) }

/-- Reeve chooses tiers, which it does not before step 12 of the start-up. -/
def State.tiersOpen (s : State) : Bool := s.alive && !(s.tray = .selfTest && decide (s.power.step < 12))

/-- The tiers of all chips chosen anew. -/
def State.retier (s : State) : State :=
  if s.tiersOpen then forEach 16 s fun s c => let t := s.chooseTier c; s.modChip c (fun x => x.aim t)
  else s

/-- A chip on which a test waits for Watch is raised for it (R411). -/
def State.liftTest (s : State) (c : Nat) : State :=
  if s.tiersOpen && (s.chip c).tests? then let t := s.chooseTier c; s.modChip c (fun x => x.aim t) else s

/-- The tier that a downward transition reaches: Fallow only from Drowse (Table 1.7). -/
def Chip.nextDown (x : Chip) : Nat := if x.tier = 1 then 0 else max 1 x.target

/-- A round, or a run of an engine, that keeps a downward transition waiting (R35, and the drain of Table 1.7). -/
def Chip.holdsDown (x : Chip) (n : Nat) : Bool :=
  ((List.range 8).any fun k => decide (tierClusters n ≤ k) && (vget x.clusters k).rounds.any (fun r => !r.spec))
  || (decide (n < 2) && (x.run1.isSome || x.run3.isSome)) || (decide (n = 0) && x.run2.isSome)

/-- The speculative rounds of the clusters that go off are put back, to be taken again. -/
def Chip.putBack (x : Chip) (n : Nat) : Chip :=
  let off (k : Nat) : Bool := decide (tierClusters n ≤ k)
  { x with
    redo := x.redo ++ (List.range 8).flatMap (fun k => if off k then (vget x.clusters k).rounds else []),
    clusters := Vector.ofFn (fun k : Fin 8 => let cl := vget x.clusters k.val
      if off k.val then { cl with banks := cl.banks.map (fun b => { b with round := none, entries := [] }) } else cl) }

/-- Granary and Loft are lost in Fallow (Table 1.6). -/
def Chip.lose (x : Chip) : Chip :=
  { x with granary := [], loft := [], pool := [], loading := [], context := none, bellOk := false }

/-- The images of the models placed on a chip and of a learning copy there, laid again after Fallow. -/
def State.reloadChip (s : State) (c : Nat) : State :=
  let copied (slot q : Nat) : Bool := slot = s.learnSlot && (s.learn.copies.drop 1).any (fun l => l[q]? == some c)
  s.placedSlots.foldl (fun s (slot, m) => (List.range m.variant.p).foldl (fun s q =>
    if m.chipOf q = c ∨ copied slot q = true then
      s.modChip c fun x => match x.region slot with
        | none => x
        | some r => x.layImages r (m.spansOn c q) (m.variant.part q).image (m.variant.part q).loftImage
    else s) s) s

/-- One step of an upward transition has ended (R34). -/
def State.tierStep (s : State) (c : Nat) : State :=
  let x := s.chip c
  if !x.rising then s
  else if x.tier = 0 then s.setChip c { x with rising := false, tier := 1, reloading := true, bellOk := false }
  else
    let s := s.setChip c { x with rising := false, tier := x.tier + 1 }
    (((s.modChip c (fun x => x.aim x.target)).fill c).startEngines c)

/-- The meaning of TIER_STEP_COMPLETE. -/
def execTierStepComplete (c : Nat) (s : State) : Host.Outcome State Fault Refusal := .next (s.tierStep c)

/-- The start of a downward transition whose wait has ended (R35). -/
def State.dropStart (s : State) (c : Nat) : State :=
  let x := s.chip c
  let n := x.nextDown
  if x.falling && x.dropTo.isNone && !x.holdsDown n then s.setChip c { x.putBack n with dropTo := some n } else s

/-- The meaning of DOWNWARD_TIER_START. -/
def execDownwardTierStart (c : Nat) (s : State) : Host.Outcome State Fault Refusal := .next (s.dropStart c)

/-- The end of a downward transition: the chip moves on towards its target (R36). -/
def State.dropEnd (s : State) (c : Nat) : State :=
  let x := s.chip c
  match x.dropTo with
  | none => s
  | some n =>
    let x := { x with tier := n, falling := false, dropTo := none }
    let x := if n = 0 then x.lose else if n = 1 then { x with bellOk := false } else x
    ((s.setChip c (x.aim x.target)).fill c).startEngines c

/-- The meaning of DOWNWARD_TIER_COMPLETE. -/
def execDownwardTierComplete (c : Nat) (s : State) : Host.Outcome State Fault Refusal := .next (s.dropEnd c)

/-- A chip raised from Fallow has reloaded its models (Table 1.7). -/
def State.reloadEnd (s : State) (c : Nat) : State :=
  if (s.chip c).reloading then
    let s := (s.reloadChip c).modChip c (fun x => { x with reloading := false }.aim x.target)
    let s := s.modLearn fun l => { l with rowsIn := l.rowsIn.filter (fun x => decide (x.1 ≠ c)) }
    let s := if s.learn.copies.any (fun l => l.contains c) then s.formRows else s
    (s.fill c).startEngines c
  else s

/-- The meaning of FALLOW_RELOAD_COMPLETE. -/
def execFallowReloadComplete (c : Nat) (s : State) : Host.Outcome State Fault Refusal := .next (s.reloadEnd c)

/-- The known-answer network has run on entry into Drowse (R185). -/
def State.bellChecked (s : State) (c : Nat) (pass : Bool) : State :=
  let x := s.chip c
  if x.tier = 0 || x.failed || x.bellOk then s
  else if pass then (s.setChip c { x with bellOk := true }).startEngines c
  else (s.detect (.bellwether c) 0x5401 noTenant 0).liftTest c

/-- The meaning of BELLWETHER_CHECK_COMPLETE. -/
def execBellwetherCheckComplete (c : Nat) (pass : Bool) (s : State) : Host.Outcome State Fault Refusal :=
  .next (s.bellChecked c pass)

/-- The other bound of OD 0x2002 forbids a value (R28). -/
def State.boundDeny (s : State) (sub value : Nat) : Option Deny :=
  let top := if sub = 1 then value else s.nat 0x2002 1
  let low := if sub = 2 then value else s.nat 0x2002 2
  if 4 < value ∨ top < low then some (badValue 0x2002 sub) else none

/-- The meaning of TIER_BOUNDS_WRITE. -/
def execTierBoundsWrite (n : Net) (sub value : Nat) (s : State) : Host.Outcome State Fault Refusal :=
  .next (s.write n 0x2002 sub (leBytes 1 value) (fun s => s.boundDeny sub value)
    (fun s => (s.setNum 0x2002 sub value).retier))

end Sys2Proof.Machine
end

