-- ==== Sys2Proof/Machine/Run.lean ====
section
/-! DEFINITION. Chains on the chips (chapters 6, 8, 9 and 10): the start of a partition, the issue of descriptors, bank rounds
and descriptors that end, hand-offs, images and streamed pieces. -/

namespace Sys2Proof.Machine

/-! ### Targets -/

/-- The value of element `n` of a frame's data, by the sample format of its header (Table 3.3). -/
def frameElem (frame : List Byte) (n : Nat) : Int :=
  let f := byteAt frame 50
  if f = 0 then signed 16 (leAt frame (64 + 2 * n) 2)
  else if f = 1 then signed 8 (byteAt frame (64 + n))
  else if f = 2 then (byteAt frame (64 + n) : Nat) else (leAt frame (64 + 2 * n) 2 : Nat)

/-- The staged target of a micro-batch: every code negated and saturated (R349). -/
def State.stageTarget (s : State) (i : Issue) (p : PartRun) : State :=
  match i.micro, (s.model i.slot).bind (fun m => m.variant.learn[p.part]?) with
  | some mb, some l =>
    if !l.lossHead then s
    else match s.sampleOf (s.rank * s.learn.r + mb.replica) mb.index with
      | none => s
      | some smp =>
        let d := s.descAt p.chip i.slot p.part l.lossDesc
        let n := d.inH * d.inW * d.inC
        let w := if l.targetLayout = 2 then 16 else 8
        let code (e : Nat) : Int :=
          if s.nat 0x5000 19 = 1 then signed 8 (byteAt (smp.label.getD []) e)
          else if 64 + (e + 1) * (if byteAt smp.frame 50 % 3 = 0 then 2 else 1) ≤ smp.frame.length then frameElem smp.frame e else 0
        let bytes := (List.range n).flatMap (fun e =>
          leInt (w / 8) (clampInt (-(2 ^ (w - 1) : Nat)) ((2 ^ (w - 1) : Nat) - 1) (-code e)))
        s.loftWrite i p l.target (atOffsets 0 bytes)
  | _, _ => s

/-! ### The start of a partition -/

/-- The scratch copy that an issue may take on a chip (R310). -/
def State.freeCopy (s : State) (i : Issue) (p : PartRun) : Option Nat := match s.model i.slot with
  | none => none
  | some m =>
    let x := m.variant.part p.part
    if x.scratchUnits = 0 then some 0
    else
      let held := (s.issues.filter (fun o => decide (o.slot = i.slot ∧ o.id ≠ i.id))).flatMap (fun o =>
        (o.parts.filter (fun q => decide (q.chip = p.chip) && !o.finished)).filterMap PartRun.copy)
      (List.range x.copies).find? (fun n => !held.contains n)

/-- The stage of a micro-batch issue comes next on its chip (R354, R355); a restore also waits until its forward pass has ended. -/
def State.stageReady (s : State) (i : Issue) (p : PartRun) : Bool := match i.micro with
  | none => true
  | some mb =>
    let m := s.microCount
    let order := stageOrder (s.nat 0x5000 7) m s.learnParts.length p.part
    let ended (pass k : Nat) : Bool := !s.issues.any fun o => match o.micro with
      | some q => decide (q.replica = mb.replica ∧ q.index = k ∧ q.pass = pass)
          && o.parts.any (fun z => decide (z.part = p.part) && !z.complete)
      | none => false
    let begun (pass k : Nat) : Bool := !s.issues.any fun o => match o.micro with
      | some q => decide (q.replica = mb.replica ∧ q.index = k ∧ q.pass = pass)
          && o.parts.any (fun z => decide (z.part = p.part) && !z.complete && z.descs.isEmpty)
      | none => false
    let before (pass k : Nat) : Bool := (order.takeWhile (fun o => o != (pass, k))).all (fun o => ended o.1 o.2)
    let d := s.nat 0x5000 8
    if mb.pass = 1 then
      ended 0 mb.index && (if d = 0 then before 2 mb.index
        else if mb.index < d then (order.takeWhile (fun o => decide (o.1 = 0))).all (fun o => ended o.1 o.2)
        else begun 2 (mb.index - d))
    else before mb.pass mb.index && (mb.pass = 0 || ended 1 mb.index)

/-- A copy of the saved window that a micro-batch may take (R338, R355): none needed, or its number. -/
def State.takeSaved (s : State) (i : Issue) (p : PartRun) : Option State :=
  match i.micro, (s.model i.slot).bind (fun m => m.variant.learn[p.part]?) with
  | some mb, some l =>
    if mb.pass = 2 ∨ l.savedUnits = 0 ∨ s.learn.saved.any (fun q => decide (q.1 = p.chip ∧ q.2.1 = mb.index)) then some s
    else
      let held := (s.learn.saved.filter (fun q => decide (q.1 = p.chip))).map (fun q => q.2.2)
      ((List.range l.copies).find? (fun n => !held.contains n)).map fun n =>
        s.modLearn fun x => { x with saved := (p.chip, mb.index, n) :: x.saved }
  | _, _ => some s

/-- A handle inside the scratch window of a partition. -/
def Partition.inScratch (x : Partition) (h : Nat) : Bool :=
  decide (x.scratchBase ≤ h ∧ h < x.scratchBase + x.scratchUnits)

/-- The frame of an issue must wait for the previous issue of its job (R310). -/
def State.frameWaits (s : State) (i : Issue) (p : PartRun) : Bool := match s.model i.slot, s.frameRing i with
  | some m, some _ => !(m.variant.part p.part).inScratch (s.frameHandle i)
      && s.issues.any (fun o => decide (o.tenant = i.tenant ∧ o.job = i.job ∧ o.id < i.id) && !o.finished)
  | _, _ => false

/-- A hand-off belongs to the entries that an issue runs on its two partitions (R309). -/
def State.handsOver (s : State) (m : Model) (i : Issue) (h : HandOff) : Bool :=
  decide (h.entry = s.entryOf m i h.src ∧ h.entry = s.entryOf m i h.dst)

/-- Hand-offs of an issue that end in a partition, by number (R309). -/
def State.handOffsTo (s : State) (m : Model) (i : Issue) (part : Nat) : List Nat :=
  (List.range m.variant.handOffs.length).filter (fun n => match m.variant.handOffs[n]? with
    | some h => s.handsOver m i h && decide (h.dst = part)
    | none => false)

/-- A chip that can start work. -/
def Chip.works (x : Chip) : Bool := !x.failed && !x.stalled && !x.railCycle && decide (1 ≤ x.tier) && !x.reloading

/-- The chain of a partition begins on its chip: image, context, scratch copy, saved window, frame and target; where one of
them is missing, the partition waits (R309, R310, R322 to R324, R342, R355), and a gated issue until the chip has reached the
tier that Reeve chose (R183). The issue reads the copy of the learnable layers that is current on the chip, a micro-batch the one
that is arriving (R364, R365). -/
def State.begin (s : State) (i : Issue) (p : PartRun) : State := match s.model i.slot with
  | none => s
  | some m =>
    let c := p.chip
    let s := if i.slot = s.learnSlot then s.switchRows c else s
    let x := s.chip c
    if !(s.handOffsTo m i p.part).all i.arrived.contains || !s.stageReady i p || s.frameWaits i p
        || (i.gated && decide (x.tier < x.target)) then s
    else if !x.hasImage i.slot then
      if decide (i.st = .committed) && !i.waitsSlot && !x.loading.contains i.slot then
        s.setChip c { x with loading := x.loading ++ [i.slot], loadFrom := insertKey i.slot s.micros x.loadFrom } else s
    else match (match p.copy with | some n => some n | none => s.freeCopy i p) with
      | none => s
      | some n => match s.takeSaved i p with
        | none => s
        | some s =>
          let s := s.modChip c fun x => { x with
            context := some i.slot,
            pool := if x.pool.contains i.slot then i.slot :: x.pool.filter (· ≠ i.slot) else x.pool }
          let side := x.sideOf i.slot != (i.micro.isSome && s.rowsWait c)
          let s := s.modIssue i.id fun i => i.modPart c fun p => { p with copy := some n, loaded := true, side := side }
          match s.issue i.id, (s.issue i.id).bind (fun i => i.part c) with
          | some i, some p =>
            let s := s.deliver i p
            if (i.micro.map Micro.pass) = some 1 then s else s.stageTarget i p
          | _, _ => s

/-! ### Streamed pieces (R321) -/

/-- The streamed weight blocks of descriptors of a chain in the order in which it needs them, each once (R320, R321). -/
def State.streamedFor (s : State) (i : Issue) (p : PartRun) (idxs : List Nat) : List WeightBlock := match s.model i.slot with
  | none => []
  | some m =>
    let x := m.variant.part p.part
    let l := match m.placed[p.part]? with
      | some z => if z.chip = p.chip ∧ 0 < z.streamed then x.streamedBlocks z.streamed else []
      | none => []
    if l.isEmpty then []
    else (idxs.filterMap (fun k =>
      let d := x.desc k
      l.find? (fun b => decide ((d.engine = 0 ∨ d.engine = 1) ∧ b.start = 32 * d.weightBase ∧ b.size = d.weightBytes)
        && !(p.side && (m.variant.secondAt p.part b.start).isSome)))).eraseDups

/-- The pieces of 64 KiB of those blocks: image offset and length. -/
def State.piecesOf (s : State) (i : Issue) (p : PartRun) (idxs : List Nat) : List (Nat × Nat) :=
  (s.streamedFor i p idxs).flatMap fun b => (List.range (ceilDiv b.size 65536)).map fun n =>
    (b.start + 65536 * n, min 65536 (b.size - 65536 * n))

/-- How many pieces descriptors of a chain need. -/
def State.piecesTo (s : State) (i : Issue) (p : PartRun) (idxs : List Nat) : Nat := (s.piecesOf i p idxs).length

/-- Pieces in the double buffer of a slot on a chip that no issued descriptor has taken. -/
def State.piecesHeld (s : State) (c slot : Nat) : Nat :=
  ((s.issues.filter (fun i => decide (i.slot = slot))).map fun i => ((i.parts.filter (fun p => decide (p.chip = c) && !p.complete)).map
    (fun p => p.pieces - s.piecesTo i p (p.descs.map DescRun.idx))).sum).sum

/-- A descriptor that is issued still waits for some of its pieces: up to chain position `ord`. -/
def State.piecesShort (s : State) (i : Issue) (p : PartRun) (ord : Nat) : Bool :=
  decide (p.pieces < s.piecesTo i p ((p.descs.take (ord + 1)).map DescRun.idx))

/-- A piece put into its half of the double buffer, the last 131 072 bytes of the region (R320). -/
def State.putPiece (s : State) (c slot part n : Nat) (piece : Nat × Nat) : State := match (s.chip c).region slot with
  | none => s
  | some r =>
    let half := r.granBase + r.granSize - tightBuffer + 65536 * (n % 2)
    s.modChip c fun x => { x with granary := memWriteN x.granary half (slice (s.imageOf slot part) piece.1 piece.2) }

/-- The meaning of WEIGHT_PIECE_ARRIVE: the next piece of the issue crosses PCIe into a free half of the double buffer. -/
def State.pieceArrive (s : State) (c id : Nat) : State := match s.issue id, (s.issue id).bind (fun i => i.part c) with
  | some i, some p => match s.model i.slot with
    | none => s
    | some m =>
      let all := s.chainFrom c i.slot p.part (m.variant.entryOn (s.entryOf m i p.part) p.part).first (m.variant.part p.part).descCount
      match (s.piecesOf i p all)[p.pieces]? with
      | some piece =>
        if p.loaded && decide (s.piecesHeld c i.slot < 2) then
          (s.putPiece c i.slot p.part p.pieces piece).modIssue id fun i => i.modPart c fun p => { p with pieces := p.pieces + 1 }
        else s
      | none => s
  | _, _ => s

def execWeightPieceArrive (c id : Nat) (s : State) : Host.Outcome State Fault Refusal := .next (s.pieceArrive c id)

/-! ### Issue of descriptors -/

/-- Descriptors that wait in the engine-0 queue: the issued passes of each group not yet wholly taken (Table 8.5). -/
def State.queued0 (s : State) (c : Nat) : Nat :=
  ((s.chip c).queue0.map fun e => match (s.issue e.1).bind (fun i => i.part c) with
    | none => 0
    | some p => match p.descs[e.2.2]? with
      | none => 0
      | some d =>
        let n := ((s.issue e.1).map (fun i => (s.descAt c i.slot p.part d.idx).passes)).getD 1
        min n (p.descs.length - e.2.2)).sum

/-- The engine of a descriptor: 3 stands for the move engine (R356). -/
def Desc.unitOf (d : Desc) : Nat := if d.op = opOffload ∨ d.op = opPrefetch then 3 else d.engine

/-- The queue of an engine has credit (Table 8.5). -/
def State.credit (s : State) (c e : Nat) : Bool :=
  let x := s.chip c
  if e = 0 then decide (s.queued0 c < 16) else if e = 1 then decide (x.queue1.length < 8)
  else if e = 2 then decide (x.queue2.length < 4) else decide (x.queue3.length < 8)

/-- The `b` descriptors before the next one have completed; the earlier passes of its own group are counted with it (R230). -/
def PartRun.barrierMet (p : PartRun) (b pass : Nat) : Bool :=
  let prior := p.descs.take (p.descs.length - pass)
  (prior.drop (p.descs.length - max b pass)).all DescRun.complete

/-- Every strip that the input of a descriptor overlaps is present (R266). -/
def State.stripsReady (s : State) (i : Issue) (p : PartRun) (d : Desc) : Bool := match s.frameRing i with
  | none => true
  | some ring =>
    decide (i.st = .committed) || (
      let base := 64 * (s.frameHandle i + 1)
      let ins := (d.buffers (kernelOf [d]) (s.granByte p.chip i.slot p.part)).1
      (List.range 8).all fun n =>
        let (a, b) := s.stripBytes ring n
        i.stripsIn.contains (p.chip, n) || ins.all (fun q => decide (q.2.1 + q.2.2 ≤ base + a ∨ base + b ≤ q.2.1)))

/-- The Granary row of a byte of a chip. -/
def rowOfByte (c a : Nat) : UnitRef :=
  let x := Config.granaryPlace a
  .granaryRow c (x % 64) (x / 64 % 16384)

/-- The Granary row that holds a descriptor of an issue on a chip. -/
def State.descRow (s : State) (i : Issue) (p : PartRun) (idx : Nat) : UnitRef :=
  rowOfByte p.chip ((s.granAt p.chip i.slot p.part p.side (64 * idx)).getD 0)

/-- A micro-batch reads a learnable layer's block whose new rows have not all arrived: it waits by credit (R364). -/
def State.layerWaits (s : State) (i : Issue) (p : PartRun) (d : Desc) : Bool := match s.model i.slot with
  | none => false
  | some m => i.micro.isSome && (p.side != (s.chip p.chip).sideOf i.slot) && (m.variant.layersOn p.part).any (fun r =>
      decide (m.variant.blockAt p.part r = 32 * d.weightBase) && !s.layerWhole p.chip r)

/-- The first piece of a descriptor's streamed block is not there yet (R321). -/
def State.pieceWaits (s : State) (i : Issue) (p : PartRun) (idx : Nat) : Bool :=
  let before := s.piecesTo i p (p.descs.map DescRun.idx)
  decide (before < s.piecesTo i p (p.descs.map DescRun.idx ++ [idx]) ∧ p.pieces ≤ before)

/-- Speculative work of a chip whose mirror is stale: it starts no descriptor (R95). -/
def State.specWaits (s : State) (i : Issue) (c : Nat) : Bool := decide (i.st ≠ .committed) && (s.chip c).mirror.stale

/-- A descriptor enters its engine's queue. -/
def State.enqueue (s : State) (i : Issue) (p : PartRun) (idx : Nat) (d : Desc) : State :=
  let ord := p.descs.length
  let run : DescRun := ⟨idx, d.unitOf, 0, 0, 0, false, false, [], []⟩
  let s := s.modIssue i.id fun i => i.modPart p.chip fun p => { p with
    descs := p.descs ++ [run], next := if d.last then none else some d.next, refetch := false }
  let e := (i.id, p.part, ord)
  let s :=
    if d.unitOf = 0 then
      let s := if d.pass = 0 then s.modChip p.chip (fun x => { x with queue0 := x.queue0 ++ [e] }) else s
      if d.pass + 1 = d.passes then match s.issue i.id, (s.issue i.id).bind (fun i => i.part p.chip) with
        | some i, some p =>
          let u := groupUnits (s.groupOf i p ord)
          s.modIssue i.id fun i => i.modPart p.chip fun p => { p with
            descs := p.descs.modify (ord - min d.pass ord) (fun r => { r with units := u }) }
        | _, _ => s
      else s
    else if d.unitOf = 1 then s.modChip p.chip (fun x => { x with queue1 := x.queue1 ++ [e] })
    else if d.unitOf = 2 then s.modChip p.chip (fun x => { x with queue2 := x.queue2 ++ [e] })
    else s.modChip p.chip (fun x => { x with queue3 := x.queue3 ++ [e] })
  (s.fill p.chip).startEngines p.chip

/-- The next descriptor of an issue on a chip is fetched, checked and issued (R198, R230, R268). -/
def State.issueNext (s : State) (i : Issue) (p : PartRun) : State := match p.next with
  | none => s
  | some idx =>
    let c := p.chip
    let d := s.descAt c i.slot p.part idx
    let row := s.descRow i p idx
    if s.underTest row then s
    else if !d.checkOk then
      if p.refetch then s.endIssue i.id
      else (s.detect row 0x5010 i.tenant 0).modIssue i.id (fun i => i.modPart c fun p => { p with refetch := true })
    else if d.tenantTag ≠ i.tenant then (s.raise 0x9010 (chipUnit c) i.tenant 0).endIssue i.id
    else if !(d.speculable || (decide (i.st = .committed) && !i.waitsSlot)) || !p.barrierMet d.barrier d.pass
        || !s.stripsReady i p d || s.pieceWaits i p idx || s.layerWaits i p d || s.specWaits i c || !s.credit c d.unitOf then s
    else s.enqueue i p idx d

/-- DESCRIPTOR_ISSUE: the chain begins where it has not, and its next ready descriptor goes to its queue. -/
def State.issueDesc (s : State) (c id : Nat) : State := match s.issue id, (s.issue id).bind (fun i => i.part c) with
  | some i, some p =>
    if !(s.chip c).works || p.complete then s
    else
      let s := if p.loaded then s else s.begin i p
      match s.issue id, (s.issue id).bind (fun i => i.part c) with
      | some i, some p => if p.loaded then s.issueNext i p else s
      | _, _ => s
  | _, _ => s

/-- The meaning of DESCRIPTOR_ISSUE. -/
def execDescriptorIssue (c id : Nat) (s : State) : Host.Outcome State Fault Refusal := .next ((s.issueDesc c id).liftTest c)

/-! ### The end of chains -/

/-- Every OFFLOAD of the chain that a partition runs has completed. -/
def State.offloaded (s : State) (i : Issue) (p : PartRun) : Bool := match s.model i.slot with
  | none => false
  | some m =>
    let off (n : Nat) : Bool := decide ((s.descAt p.chip i.slot p.part n).op = opOffload)
    let all := s.chainFrom p.chip i.slot p.part (m.variant.entryOn (s.entryOf m i p.part) p.part).first (m.variant.part p.part).descCount
    (all.filter off).all (fun n => p.descs.any (fun d => decide (d.idx = n) && d.complete))

/-- The saved copy of a micro-batch is free again when its backward ends, and with off-load when the OFFLOADs of its forward chain
have completed (R355). -/
def State.freeSaved (s : State) (i : Issue) (p : PartRun) (ended : Bool) : State :=
  match i.micro, (s.model i.slot).bind (fun m => m.variant.learn[p.part]?) with
  | some mb, some l =>
    if (mb.pass = 2 ∧ ended) ∨ (mb.pass = 0 ∧ l.restore ≠ 0xFF ∧ s.offloaded i p ∧ (ended ∨ p.descs.any (fun d =>
        decide ((s.descAt p.chip i.slot p.part d.idx).op = opOffload)))) then s.modLearn fun x => { x with
      saved := x.saved.filter (fun q => !decide (q.1 = p.chip ∧ q.2.1 = mb.index)) }
    else s
  | _, _ => s

/-- The final output of a partition's chain: the tokens of rows 0 to 7 where SELECT ran in it (R334), else the first 16 bytes that its
last descriptor wrote (R283). -/
def State.finalOut (s : State) (i : Issue) (p : PartRun) : List Byte :=
  if p.descs.any (fun d => decide ((s.descAt p.chip i.slot p.part d.idx).op = opSelect)) then
    (List.range 8).flatMap (fun r => leBytes 2 ((i.tokens[r]?).getD 0))
  else
    let d := s.descAt p.chip i.slot p.part (((p.descs.getLast?).map DescRun.idx).getD 0)
    (List.range 16).map (fun a => s.loftByte i p (64 * d.outHandle + a))

/-- The chain of a partition has ended: its output is kept for the result record, and an issue whose chains have all ended has
finished (R283, R309, Table 8.4). -/
def State.partEnd (s : State) (id c : Nat) : State := match s.issue id, (s.issue id).bind (fun i => i.part c) with
  | some i, some p =>
    if p.complete || p.next.isSome || !p.descs.all DescRun.complete then s
    else
      let first := s.finalOut i p
      let s := s.modIssue id fun i => { i.modPart c (fun p => { p with complete := true, endedAt := s.micros }) with out := i.out ++ [(p.part, first)] }
      let s := s.freeSaved i p true
      match s.issue id with
      | none => s
      | some i =>
        if !i.parts.all PartRun.complete then s
        else if i.micro.isSome then ((s.removeIssue id).add (blk i.tenant 0x2F) 3 i.saturated).fuseCheck
        else s.modIssue id fun i => { i with finished := true, st := if i.st = .committed then .committed else .committedHeld }
  | _, _ => s

/-- The CRC-64 of the output of a record-for-replay descriptor of a micro-batch is kept for the step's record (R401). -/
def State.recordOutput (s : State) (id c ord : Nat) : State := match s.issue id, (s.issue id).bind (fun i => i.part c) with
  | some i, some p => match i.micro, p.descs[ord]? with
    | some mb, some run =>
      let d := s.descAt c i.slot p.part run.idx
      let out := (d.buffers (kernelOf (s.groupOf i p ord)) (s.granByte c i.slot p.part)).2
      if d.replay && decide (d.op ≠ opOffload) then s.modLearn fun l => { l with
        recorded := (c, mb.index, run.idx, crc64 ((List.range out.2.2).map (fun a => s.loftByte i p (out.2.1 + a)))) :: l.recorded }
      else s
    | _, _ => s
  | _, _ => s

/-- Descriptors from position `ord` on, `n` of them, have completed (R231). -/
def State.descsDone (s : State) (id c ord n : Nat) : State :=
  let s := s.recordOutput id c (ord + n - 1)
  let s := s.modIssue id fun i => i.modPart c fun p => { p with
    descs := (p.descs.zip (List.range p.descs.length)).map (fun (d, k) =>
      if ord ≤ k ∧ k < ord + n then { d with complete := true, started := true } else d) }
  let s := match s.issue id, (s.issue id).bind (fun i => i.part c) with
    | some i, some p => s.freeSaved i p false
    | _, _ => s
  s.partEnd id c

/-! ### Bank rounds -/

/-- An address beyond the memories of Table 1.5 that the buffers of a descriptor reach. -/
def State.beyond (s : State) (i : Issue) (p : PartRun) (k : Kernel) (d : Desc) : Bool :=
  let (ins, out) := d.buffers k (s.granByte p.chip i.slot p.part)
  (out :: ins).any fun q => decide (0 < q.2.2) && (match s.loftAddr i p (q.2.1 + q.2.2 - 1) with
    | some a => decide (8388608 ≤ a)
    | none => false)

/-- Codes of a round put into an uncompressed output map. -/
def State.putCodes (s : State) (i : Issue) (p : PartRun) (g : List Desc) (d : Desc)
    (codes : List (Nat × Nat × Nat × Nat)) : State :=
  let m := groupMap g d
  codes.foldl (fun s q =>
    let mem (a : Nat) : Byte := s.loftByte i p (64 * d.outHandle + a)
    s.loftWrite i p d.outHandle (m.put (d.outSigned (s.granByte p.chip i.slot p.part)) mem q.1 q.2.1 q.2.2.1 q.2.2.2)) s

/-- The whole output map of a group written at its last round, padded to whole units: read back where it is uncompressed,
formed anew under a codec (R235, R242 to R248). -/
def State.closeMap (s : State) (i : Issue) (p : PartRun) (g : List Desc) (d : Desc) (units : Nat) : State :=
  let x := s.ctx i p 0
  let m := groupMap g d
  let isS := d.outSigned x.gran
  let vals : Nat → Nat → Nat → Nat :=
    if m.codec = 0 then m.code (x.buf d.outHandle)
    else
      let all := (List.range units).flatMap (fun u => unitCodes g x u (unitEntries false g x u))
      fun y xx c => ((all.find? (fun q => decide (q.1 = y ∧ q.2.1 = xx ∧ q.2.2.1 = c))).map (fun q => q.2.2.2)).getD 0
  s.loftWrite i p d.outHandle (atOffsets 0 (m.encode isS (d.codecParam % 8) vals))

/-- The latents of a layer in row-set order (R344): the sum S of each, 0 where the row bit is ignored. -/
def latentSums (d : Desc) (x : EngineCtx) (rowSets : Nat) : List AccEntry :=
  let slices := if d.diag then 1 else ceilDiv d.fwdFanIn 256
  (List.range (256 * rowSets)).map fun n =>
    let j := n / 256
    let c := j % 16
    let sl := j / 16 % max 1 slices
    let g := j / 16 / max 1 slices
    if d.diag then
      let b := c / max 1 d.outCg
      let o := (g * d.packed + b) * d.outCg + c % max 1 d.outCg
      if b < d.packed ∧ o < d.outC ∧ n % 256 / max 1 d.fanIn = b then bwdWeight d x o (n % 256 % max 1 d.fanIn) else accZero
    else
      let o := 16 * g + c
      let k := 256 * sl + n % 256
      if o < d.outC ∧ k < d.fwdFanIn then bwdWeight d x o k else accZero

/-- The gradients of a BWD_WEIGHT that has ended: into the layer's buffer, and the reduction after the last micro-batch
(R351, R358). -/
def State.gradients (s : State) (i : Issue) (p : PartRun) (idx : Nat) (d : Desc) : State := match i.micro with
  | none => s
  | some mb =>
    match ((s.model i.slot).bind (fun m => m.variant.learn[p.part]?)).bind (fun l => l.layers.find? (fun r => decide (r.wgt = idx))) with
    | none => s
    | some r =>
      let vals := latentSums d (s.ctx i p idx) r.rowSets
      let s := s.addGrad p.chip r.layer (decide (mb.index = 0)) (vals.map AccEntry.value)
      let buf := ((s.learn.bufs.find? (fun b => decide (b.chip = p.chip ∧ b.layer = r.layer))).map GradBuf.vals).getD []
      let s := s.loftWrite i p d.outHandle (atOffsets 0 (buf.flatMap (leBytes 4)))
      if mb.index + 1 = s.microCount then s.reduce p.chip mb.replica r else s

/-- Saturated entries and clipped codes of a round, counted on the issue and, in learning, on the chip (R138, R352). -/
def State.countRound (s : State) (i : Issue) (p : PartRun) (idx : Nat) (d : Desc) (sat : Nat) (clips : Nat) : State :=
  let s := s.modIssue i.id fun i => { i with saturated := i.saturated + sat, satFlag := i.satFlag || decide (0 < sat) }
  if i.micro.isSome ∧ (d.op = opBwdData ∨ d.op = opBwdWeight) then
    forEach (sat + (if d.op = opBwdData then clips else 0)) s (fun s _ => s.countStep true p.chip (s.layerOfDesc p.chip p.part idx))
  else s

/-- The places that a round fills tables for, in ascending position: output position and group of input channels (R162, R167). -/
def fillPlaces (g : List Desc) (units : List Nat) : List (Nat × Nat) := match g.head? with
  | none => []
  | some d =>
    let (h, w) := groupSize g d
    let size := max 1 (h * w)
    sortBy (fun a b => decide (a.1 ≤ b.1)) (units.map (fun u => (u % size, 16 * (u / size) / max 1 d.outCg))).eraseDups

/-- The table fills of a round: pass by pass, in ascending position and then ascending segment (R167). -/
def roundFills (g : List Desc) (x : EngineCtx) (units : List Nat) : List TableFill := match g.head? with
  | none => []
  | some d0 =>
    let w := max 1 (groupSize g d0).2
    g.flatMap fun d => (fillPlaces g units).flatMap fun p =>
      (List.range d.segments).map (fun seg => d.tableFill (d0.image x) (p.1 / w) (p.1 % w) (p.2 * max 1 d.outCg) seg)

/-- A fill goes to the bank whose turn it is; with one bank in service, to that one (R167, R171). -/
def Cluster.putFill (cl : Cluster) (f : TableFill) : Cluster :=
  let b := if (vget cl.commons (cl.nextBank % 2)).live then cl.nextBank % 2 else 1 - cl.nextBank % 2
  { cl with commons := vmod cl.commons b (fun t => { t with fill := some f }), nextBank := 1 - b }

/-- A bank released, holding what it counted. -/
def State.freeBankOf (s : State) (c k b : Nat) (entries : List AccEntry) : State :=
  s.modChip c fun x => { x with clusters := vmod x.clusters k (fun cl => { cl with
    banks := vmod cl.banks b (fun q => { q with round := none, entries := entries }) }) }

/-- The work units of a round in the order of its share (R126, R166). -/
def Round.unitList (r : Round) (g : List Desc) : List Nat :=
  let (h, w) := match g.head? with
    | some d => if d.op = opBwdWeight then (1, 1) else groupSize g d
    | none => (1, 1)
  (List.range r.units).map (fun m => r.unit (h * w) (r.firstUnit + m))

/-- A round that ends well: counted, requantised and released (R278). -/
def State.roundEnd (s : State) (c k b : Nat) (r : Round) (i : Issue) (p : PartRun) (run : DescRun) : State :=
  let n := (s.descAt c i.slot p.part run.idx).passes
  let g := s.groupOf i p (r.ord + n - 1)
  match g.getLast? with
  | none => s.freeBankOf c k b []
  | some d =>
    let idx := ((p.descs[r.ord + n - 1]?).map DescRun.idx).getD 0
    let x := s.ctx i p idx
    let us := r.unitList g
    let entries := us.map (fun u => unitEntries r.commons g x u)
    let sat := (entries.flatten.filter AccEntry.sat).length
    let final := decide (run.units ≤ run.fin + r.units)
    let codes := if d.op = opBwdWeight then [] else (us.zip entries).flatMap (fun (u, e) => unitCodes g x u e)
    let clips := if d.op = opBwdData then
        ((us.zip entries).map (fun (u, es) => ((unitCodes g x u es).filter (fun q =>
          scaleClips x.gran d.tableBase q.2.2.1 0 ((es[q.2.2.1 % 16]?).getD accZero).value)).length)).sum else 0
    let s := if (groupMap g d).codec = 0 then s.putCodes i p g d codes else s
    let s := s.countRound i p idx d sat clips
    let s := s.freeBankOf c k b entries.flatten
    let s := if r.commons then s.modChip c (fun z => { z with
        clusters := vmod z.clusters k (fun cl => (roundFills g x us).foldl Cluster.putFill cl) }) else s
    let s := s.modIssue i.id fun i => i.modPart c fun p => { p with
      descs := p.descs.modify r.ord (fun q => { q with fin := q.fin + r.units }) }
    let s := if !final then s
      else
        let s := if d.op = opBwdWeight then s.gradients i p idx d else s.closeMap i p g d run.units
        s.descsDone i.id c r.ord n
    (s.fill c).startEngines c

/-- A round counts plane `plane` of a column: no plane beyond the width, no second weight plane where there is one, and no plane
that every output of the column skips because it has settled (R145, R152). -/
def Round.counts (r : Round) (g : List Desc) (x : EngineCtx) (col plane wp : Nat) : Bool := match g.head? with
  | none => false
  | some d =>
    if d.op = opBwdData ∨ d.op = opBwdWeight then true
    else
      let (h, w) := groupSize g d
      let size := max 1 (h * w)
      decide (plane < d.abits) && (decide (wp = 0) || d.wmode == 2) && (r.unitList g).any (fun u =>
        !d.gated x.gran (d.image x) (u % size / max 1 w) (u % size % max 1 w) (unitCols d * (u / size) + col) plane)

/-- The unit that an error in a bank round names, with its code and detail (R156, Table 12.1): each error shows where its check
compares, the Mill's on a plane that is counted (R152), the accumulator's on every round (R153), the epoch's where the tag differs
from the epoch of the final pass (R280), the Commons' on a round that it looks up, in a bank in service (R170). -/
def upsetUnit (u : Upset) (c k b : Nat) (cl : Cluster) (r : Round) (g : List Desc) (x : EngineCtx) :
    Option (UnitRef × Nat × Nat) :=
  let tag := match u with
    | .epochTag e => e
    | _ => (vget cl.banks b).epoch
  let looked (n : Nat) : Bool := r.commons && (vget cl.commons n).live
  match u with
  | .millResidue t col plane wp =>
    if !r.commons && r.counts g x (col % 16) (plane % 8) (wp % 2) then
      some (.tile c k t, 0x5101, col % 16 + 16 * (plane % 8) + 128 * (wp % 2)) else none
  | .accResidue e => some (.accBank c k b, 0x5102, e % 1024)
  | .commonsEntry n =>
    if looked n && (roundFills g x (r.unitList g)).any (fun f => f.groups.flatten.any (fun e => !e.upset.good)) then
      some (.commonsBank c k n, 0x5201, 0) else none
  | .commonsSlice n =>
    if looked n && (roundFills g x (r.unitList g)).any (fun f => (g.headD ⟨[]⟩).lookupSlice x.gran f 0 0 |>.upset.good |> (! ·)) then
      some (.commonsBank c k n, 0x5202, 0) else none
  | _ => if tag ≠ (g.getLastD ⟨[]⟩).epoch then some (.accBank c k b, 0x5103, 0) else none

/-- An issue waits for the test of a Granary row that it read (R407). -/
def State.rowWaits (s : State) (c id : Nat) : Bool :=
  let x := s.chip c
  (x.test.toList ++ x.tests ++ x.whole.getD []).any fun t => t.issue = some id && (match t.unit with
    | .granaryRow .. => true
    | _ => false)

/-- The units of a cluster that a round uses are under test: it waits (R410). -/
def State.roundWaits (s : State) (c k b : Nat) : Bool :=
  s.underTest (.accBank c k b) || (List.range 9).any (fun t => s.underTest (.tile c k t))
    || (List.range 2).any (fun n => s.underTest (.commonsBank c k n))

/-- The first row of a ZB input that a round decodes and that breaks R245: of the input maps of its passes, and of the saved forward
input of BWD_WEIGHT. -/
def Round.zbFault (r : Round) (g : List Desc) (x : EngineCtx) : Option Nat := match g.head? with
  | none => none
  | some d0 =>
    if d0.op = opBwdWeight then d0.savedMap.zbFault (x.buf d0.tableBase)
    else if d0.op = opBwdData then none
    else
      let (h, w) := groupSize g d0
      let places := ((r.unitList g).map (fun u => u % max 1 (h * w))).eraseDups
      g.findSome? fun d => d.inMap.zbFaultIn (fun n => places.any (fun q =>
        if d.op = opFc then decide (d.inMap.rowY n = q / max 1 w)
        else d.decodes ⟨d.kh, d.kw⟩ (q / max 1 w) (q % max 1 w) (d.inMap.rowY n))) (x.buf d.inHandle)

/-- A ZB map that breaks R245 ends the issue with 0x5020. -/
def State.zbEnd (s : State) (i : Issue) (c row : Nat) : State :=
  (s.raise 0x5020 (chipUnit c) i.tenant (min row 0xFFFF)).endIssue i.id

/-- BANK_ROUND_COMPLETE on a bank that holds a round. -/
def State.bankRound (s : State) (c k b : Nat) (u : Upset) : Host.Outcome State Fault Refusal :=
  let x := s.chip c
  match (vget (vget x.clusters k).banks b).round with
  | none => .next s
  | some r =>
    if !x.works || x.dropTo.isSome || s.roundWaits c k b || s.rowWaits c r.issue then .next s
    else match s.issue r.issue, (s.issue r.issue).bind (fun i => i.part c) with
      | some i, some p => match p.descs[r.ord]? with
        | none => .next (s.freeBankOf c k b [])
        | some run =>
          let n := (s.descAt c i.slot p.part run.idx).passes
          let g := s.groupOf i p (r.ord + n - 1)
          if s.piecesShort i p (r.ord + n - 1) then .next s
          else match upsetUnit u c k b (vget x.clusters k) r g (s.ctx i p run.idx), r.zbFault g (s.ctx i p run.idx) with
          | some (unit, code, detail), _ => .next ((s.detect unit code i.tenant detail).liftTest c)
          | none, some row => .next (s.zbEnd i c row)
          | none, none =>
            if g.any (s.beyond i p (kernelOf g)) then .fault .absentAddress
            else .next (s.roundEnd c k b r i p run)
      | _, _ => .next (s.freeBankOf c k b [])

/-- The meaning of BANK_ROUND_COMPLETE. -/
def execBankRoundComplete (c k b : Nat) (u : Upset) (s : State) : Host.Outcome State Fault Refusal := s.bankRound c k b u

/-! ### Engines 1 to 3 -/

/-- UPDATE as a descriptor of a chain: latents, momentum and rows in its region, and the results (R360, R361); narrowing is
stochastic where the configuration and its flag both ask for it. -/
def updateDesc (d : Desc) (x : EngineCtx) (stochastic : Bool) : List (Nat × Byte) × List Nat :=
  let at4 (i : Nat) := leRead (x.buf d.inHandle) (4 * i) 4
  let n := 256 * d.inH
  let len := up64 (512 * d.inH)
  let h : UpdateHdr := { eta := at4 0, beta := at4 1, lambda := at4 2, clip := at4 3, scale := at4 4, first := at4 5,
                         layer := at4 6, step := at4 7, seed := at4 8 + 2 ^ 32 * at4 9, stochastic := d.stoch && stochastic }
  let vals (o w : Nat) := (List.range n).map (fun i => leRead (x.buf d.inHandle) (o + w * i) w)
  let new := updateShard h (vals 64 2) (vals (64 + len) 2) (vals (64 + 2 * len) 4)
  let rel := 64 * d.inHandle
  let rows := rowsOf d.wmode d.opArg (new.map Prod.fst)
  ((atOffsets (rel + 64) (bytes16 (new.map Prod.fst))) ++ (atOffsets (rel + 64 + len) (bytes16 (new.map Prod.snd)))
    ++ atOffsets (64 * d.outHandle) (padTo (up64 rows.length) rows), new.map Prod.fst ++ new.map Prod.snd)

/-- The off-load window of a chip and a micro-batch (R356). -/
def State.window (s : State) (c micro : Nat) : List Host.Cell := (lookupKey (64 * c + micro) s.learn.offload).getD []

/-- What a move engine's descriptor does: the map stored into the window, or brought back from it (R356). -/
def State.moveMap (s : State) (i : Issue) (p : PartRun) (idx : Nat) (d : Desc) : State :=
  let micro := (i.micro.map Micro.index).getD 0
  let isS := d.codeSigned
  if d.op = opOffload then
    let x := s.ctx i p idx
    let out : FMap := { d.inMap with codec := d.outCodec }
    let b := out.encode isS (d.codecParam % 8) (d.inMap.code (x.buf d.inHandle))
    s.modLearn fun l => { l with
      offload := insertKey (64 * p.chip + micro) (memWriteN (s.window p.chip micro) (64 * d.outHandle) b) l.offload }
  else
    let w := s.window p.chip micro
    let out : FMap := { d.inMap with codec := 0 }
    s.loftWrite i p d.outHandle (atOffsets 0 (out.encode isS 0 (d.inMap.code (fun a => memRead w (64 * d.inHandle + a)))))

/-- The engine's present descriptor, and the engine freed. -/
def Chip.running (x : Chip) (e : Nat) : Option (Nat × Nat × Nat) := if e = 1 then x.run1 else if e = 2 then x.run2 else x.run3

def Chip.freeEngine (x : Chip) (e : Nat) : Chip :=
  if e = 1 then { x with run1 := none, smithyAgain := false } else if e = 2 then { x with run2 := none }
  else { x with run3 := none }

/-- Non-finite results of an UPDATE of a chain: counted on the chip with the layer of its header, and the owner withholds its ready
for the step (R352, R363). -/
def State.updateChecked (s : State) (c : Nat) (i : Issue) (layer bad : Nat) : State :=
  if bad = 0 then s
  else
    let s := s.raise 0x7104 (chipUnit c) i.tenant 0
    if i.micro.isSome then
      (forEach bad s (fun s _ => s.countStep false c layer)).modLearn (fun l => { l with withheld := true })
    else s

/-- What a descriptor of engines 1 to 3 leaves when it ends (R231). -/
def State.engineEnd (s : State) (c e ord : Nat) (i : Issue) (p : PartRun) (run : DescRun) : State :=
  let d := s.descAt c i.slot p.part run.idx
  let x := s.ctx i p run.idx
  let done (s : State) : State := (((s.modChip c (fun x => x.freeEngine e)).descsDone i.id c ord 1).fill c).startEngines c
  if e = 3 then
    match (if d.op = opPrefetch then
        d.inMap.zbFault (fun a => memRead (s.window c ((i.micro.map Micro.index).getD 0)) (64 * d.inHandle + a)) else none) with
    | some row => (s.zbEnd i c row).startEngines c
    | none => done (s.moveMap i p run.idx d)
  else if d.op = opUpdate then
    let (w, new) := updateDesc d x (s.flag 0x5000 21)
    done (s.updateChecked c i (leRead (x.buf d.inHandle) 24 4 % 1024) (new.filter nonFinite16).length |>.loftWrite i p 0 w)
  else
    let out := if e = 2 then bellwetherRun d x else smithyRun (s.groupOf i p ord) d x
    match out.zb with
    | some row => (s.zbEnd i c row).startEngines c
    | none =>
      let s := s.loftWrite i p d.outHandle out.writes
      let s := if out.sat then s.modIssue i.id (fun i => { i with satFlag := true }) else s
      let s := if d.op = opSelect then s.modIssue i.id (fun i => { i with tokens := out.tokens }) else s
      let layer := s.layerOfDesc c p.part run.idx
      let s := if i.micro.isSome then
          forEach out.bad (forEach out.clips s (fun s _ => s.countStep true c layer)) (fun s _ => s.countStep false c layer)
        else s
      done s

/-- The first shard update that waits for a chip's Smithy (R360). -/
def State.updateOn (s : State) (c : Nat) : Option (Nat × Nat × Nat) := s.learn.updates.find? (fun u => decide (u.1 = c))

/-- A Smithy error: the descriptor is discarded and run again after a test, and a repeated error tests the whole chip (R193,
R412). -/
def State.smithyUpset (s : State) (c code tenant : Nat) : State :=
  if (s.chip c).smithyAgain then
    ((s.modChip c (fun x => { x with smithyAgain := false })).wholeFor (.smithy c) code tenant 0).liftTest c
  else ((s.detect (.smithy c) code tenant 0).modChip c (fun x => { x with smithyAgain := true })).liftTest c

/-- DESCRIPTOR_COMPLETE. -/
def State.engineDone (s : State) (c e : Nat) (u : Upset) : Host.Outcome State Fault Refusal :=
  let x := s.chip c
  let code : Option Nat := if u = .smithyInt then some 0x5301 else if u = .smithySig then some 0x5302 else none
  if !x.works || (e = 1 && (s.underTest (.smithy c) || decide (x.tier < 2))) || (e = 2 && s.underTest (.bellwether c))
      || ((x.running e).map (fun r => s.rowWaits c r.1)).getD false then
    .next s
  else match x.running e with
    | none => match e, s.updateOn c with
      | 1, some (_, layer, shard) => match code with
        | some k => .next (s.smithyUpset c k s.learnTenant)
        | none => .next (s.runUpdate c layer shard)
      | _, _ => .next s
    | some (id, _, ord) => match s.issue id, (s.issue id).bind (fun i => i.part c) with
      | some i, some p => if e = 1 && s.piecesShort i p ord then .next s else match p.descs[ord]? with
        | none => .next (s.modChip c (fun x => x.freeEngine e))
        | some run => match (if e = 1 then code else none) with
          | some k => .next (s.smithyUpset c k i.tenant)
          | none =>
            if s.beyond i p (kernelOf (s.groupOf i p ord)) (s.descAt c i.slot p.part run.idx) then .fault .absentAddress
            else .next (s.engineEnd c e ord i p run)
      | _, _ => .next (s.modChip c (fun x => x.freeEngine e))

/-- The meaning of DESCRIPTOR_COMPLETE. -/
def execDescriptorComplete (c e : Nat) (u : Upset) (s : State) : Host.Outcome State Fault Refusal := s.engineDone c e u

/-! ### Hand-offs and images -/

/-- A hand-off copies its units into the destination's Loft (R309, R22), over a route that stands (R418). -/
def State.handOff (s : State) (id n : Nat) : State := match s.issue id with
  | none => s
  | some i => match (s.model i.slot).bind (fun m => m.variant.handOffs[n]?) with
    | none => s
    | some h => match i.parts.find? (fun p => decide (p.part = h.src)), i.parts.find? (fun p => decide (p.part = h.dst)) with
      | some a, some b =>
        if ((s.model i.slot).map (fun m => s.handsOver m i h)) ≠ some true ∨ !a.complete ∨ i.arrived.contains n ∨ !s.routed a.chip b.chip then s
        else match (match b.copy with | some k => some k | none => s.freeCopy i b) with
          | none => s
          | some k =>
            let s := s.modIssue id fun i => i.modPart b.chip fun p => { p with copy := some k }
            let b := { b with copy := some k }
            let data := (List.range (64 * h.units)).map (fun o => s.loftByte i a (64 * h.srcHandle + o))
            (s.loftWrite i b h.dstHandle (atOffsets 0 data)).modIssue id fun i => { i with arrived := n :: i.arrived }
      | _, _ => s

/-- A non-resident image has crossed PCIe (R324): it waits where the pool cannot take it yet. -/
def State.imageLoaded (s : State) (c slot : Nat) : State :=
  let x := s.chip c
  if !x.loading.contains slot then s
  else
    match evictPool (s.imageSize c) (s.imageUsed c) (s.poolSize c 256) (s.imageSize c slot) (x.pool.length + 1) x.pool with
    | none => s
    | some l => s.setChip c { x with
        pool := slot :: l, loading := x.loading.filter (· ≠ slot), pcieRetries := 0,
        modelBytes := x.modelBytes + s.imageSize c slot }

end Sys2Proof.Machine
end

