-- ==== Sys2Proof/Machine/Hold.lean ====
section
/-! DEFINITION. Entry into and leave of the working states (chapter 1): what leaving learning and watching ends, entry into
safe-hold and its causes (R45 to R48, R431, R432). -/

namespace Sys2Proof.Machine

/-- The further copies of the learnable variant and the saved windows are released (R296, R337). The chips that remain switch to
the copies that have arrived whole (R365). -/
def State.releaseCopies (s : State) : State :=
  let s := forEach 16 s State.switchRows
  let extra := (s.learn.copies.drop 1).flatten
  let chip (x : Chip) (c : Nat) : Chip :=
    let x := if extra.contains c then x.release s.learnSlot else x
    x.release savedRegion
  { s with
    chips := Vector.ofFn (fun i : Fin 16 => chip (vget s.chips i.val) i.val),
    learn := { s.learn with copies := [], rowsIn := [] } }

/-- The tray leaves learning for watching: nothing of a step is left. -/
def State.leaveLearning (s : State) : State := (s.endStep).releaseCopies

/-- The tray leaves watching and learning: valid bits and alarms clear (R482), cameras switch off (R528), and what waits for
triggers that will not come is dropped. -/
def State.leaveWatching (s : State) : State :=
  let s := s.squashIf (fun _ => true)
  let s := s.clearSets
  let cam (x : Camera) : Camera := { x with
    power := false, enabled := false, resetN := false, pulse := false, capture := none,
    ev := { x.ev with held := none, still := none, stillReplaced := false, substDue := none } }
  let off (v : Vector Bool 18) : Vector Bool 18 := vset (vset v 13 false) 14 false
  { s with
    power := { s.power with extOn := off s.power.extOn, extTripped := off s.power.extTripped },
    pend := Vector.replicate 16 {},
    cams := s.cams.map cam,
    groups := s.groups.map (fun (g : Group) => { g with runs := [] }),
    events := s.events.map (fun l => l.map (fun (e : EvRun) => { e with
      held := none, still := none, stillReplaced := false, substDue := none })) }

/-- The causes of Table 12.10 still present, in its order; the number is the code. -/
def State.causes (s : State) : List Nat :=
  (if s.faults.plateCritical then [0x1102] else [])
  ++ (if s.slots.toList.any Slot.unplaced then [0x4B20] else [])
  ++ (if s.faults.burst.isSome then [0x5522] else [])
  ++ (if s.faults.reserveOut then [0x5523] else [])

/-- A step in progress is rolled back at once (R46). -/
def State.dropStep (s : State) : State :=
  if s.learn.phase = 0 then s
  else if s.leads then (if s.parish.committedSent then s else s.rollbackStep)
  else (s.sendTo mAbort s.parish.leader s.learn.step (leBytes 2 0)).applyRollback

/-- The emergency of an entry into safe-hold (R459): the record of 0x1102 has sent it already. -/
def State.holdNotice (s : State) (code : Nat) : State :=
  let unit := ((s.faults.log.reverse.find? (fun r => decide (r.code = code))).map Record.unit).getD 0
  if code = 0x1102 then s else s.emergency (emergencyCode code) code unit noTenant

/-- Entry into safe-hold from ready, watching or learning, for the cause whose record has just been written (R46, R48,
R431). -/
def State.hold (s : State) (code : Nat) : State :=
  if s.tray = .ready || s.runs then
    let s := s.dropStep
    let s := if s.tray = .learning then s.leaveLearning else s
    let s := if s.runs then s.leaveWatching else s
    let s := { s with command := 0, holdCause := code }
    (((s.enter .safeHold).holdNotice code).retier).review
  else s

end Sys2Proof.Machine
end

