-- ==== Sys2Proof/Machine/Retire.lean ====
section
/-! DEFINITION. Verdicts of tests and what a lasting one retires (R410 to R418, Tables 12.2 to 12.4), and the loading of a
spare chip in the place of a failed one. -/

namespace Sys2Proof.Machine

/-! ### Verdicts -/

/-- 24 hours in µs. -/
def dayMicros : Nat := 86400000000

/-- Transient verdicts of a unit less than 24 hours back (R414). -/
def State.recentTransients (s : State) (u : UnitRef) : List Nat :=
  ((s.faults.hist.filter (fun h => decide (h.unit = u))).flatMap History.times).filter (fun t => decide (s.running < t + dayMicros))

/-- The history of a unit replaced. -/
def State.setHistory (s : State) (u : UnitRef) (times : List Nat) : State :=
  let rest := s.faults.hist.filter (fun h => decide (h.unit ≠ u))
  { s with faults := { s.faults with hist := if times.isEmpty then rest else rest ++ [⟨u, times⟩] } }

/-- The verdict of a test (Table 12.4), from pass or fail and the history. -/
def State.verdictOf (s : State) (u : UnitRef) (pass : Bool) : Nat :=
  if !pass then 2 else if 3 ≤ (s.recentTransients u).length then 3 else 1

/-- A verdict counted in OD 0x2410, and the history moved (R414, R429). -/
def State.countVerdict (s : State) (u : UnitRef) (v : Nat) : State :=
  let s := s.bump 0x2410 (if v = 1 then 2 else 3)
  let s := if v = 3 then s.bump 0x2410 4 else s
  s.setHistory u (if v = 1 then s.recentTransients u ++ [s.running] else [])

/-! ### Records of link faults (R421) -/

/-- The operation that met a link fault has ended: its issue is gone, or the transfer is over (R421). -/
def State.opEnded (s : State) (c : Nat) (t : Test) : Bool := match t.issue.bind s.issue with
  | none => true
  | some i => match t.unit with
    | .byway .. => decide (t.arrived < i.arrived.length)
    | _ => (i.part c).all PartRun.loaded

/-- Records whose operation has ended are written. -/
def State.writeOwed (s : State) : State :=
  forEach 16 s fun s c =>
    let due := (s.chip c).owed.filter (fun o => s.opEnded c o.test)
    if due.isEmpty then s
    else due.foldl (fun s o => s.post (o.test.record o.verdict))
      (s.modChip c (fun x => { x with owed := x.owed.filter (fun o => !due.contains o) }))

/-! ### Chip retirement (R417) -/

/-- A chip powered down to Fallow as failed: nothing of its work is left. -/
def Chip.dead (x : Chip) : Chip :=
  { x.lose with
    failed := true, tier := 0, target := 0, rising := false, falling := false, dropTo := none, reloading := false,
    railsOn := false, test := none, tests := [], whole := none, wholePending := false, pcieTest := none, redo := [], strips := [],
    railCycle := false, holds := [], spareFor := none,
    clusters := x.clusters.map (fun cl => { cl with
      banks := cl.banks.map (fun b => { b with round := none, entries := [] }), tuning := false, tuneDue := none,
      tuneForced := none }) }

/-- The issues on a chip end with no output; a learning step that runs there is aborted (R417 step 1, R391). -/
def State.endIssuesOn (s : State) (c : Nat) (cause : Nat := 0x5F01) : State :=
  let learns := s.learn.copies.any (fun l => l.contains c)
  let ids := (s.issues.filter (fun i => i.micro.isNone && i.onChip c)).map Issue.id
  let s := ids.foldl State.endIssue s
  if learns then s.abortStep cause else s

/-- The lowest designated spare that has not failed. -/
def State.firstSpare (s : State) : Option Nat := (List.range 16).find? (fun c => s.isSpare c && !s.failed c)

/-- A spare leaves the spare map (R21). -/
def State.dropSpare (s : State) (c : Nat) : State := s.setNum 0x2011 1 ((putBit (s.nat 0x2011 1) c false : Nat) : Int)

/-- The placement of a slot is lost: its regions are released. -/
def State.unplace (s : State) (slot : Nat) : State :=
  let s := { s with chips := s.chips.map (Chip.release slot) }
  (s.modSlot slot (fun x => { x with unplaced := true, model := x.model.map (fun m => { m with placed := [] }) })).showSlot slot

/-- Each model placed on a chip that no spare replaces loses its placement (R417). -/
def State.unplaceOn (s : State) (c : Nat) : State :=
  let lost := (s.placedSlots.filter (fun p => p.2.chips.contains c)).map Prod.fst
  let s := lost.foldl (fun s n => (s.unplace n).raise 0x4B20 0 noTenant n) s
  if lost.isEmpty then s else s.hold 0x4B20

/-- Tests of a chip's units that its retirement leaves without a verdict: their records carry verdict 4 (R413, R415; DEDUCED, log
entry 60). -/
def Chip.untested (x : Chip) : List Test := x.test.toList ++ x.tests ++ x.whole.getD [] ++ x.pcieTest.toList

/-- A chip is retired to the designated spare of the lowest ID, or fails without one (R417, R21). A spare that fails while it takes the
role of another chip passes that role on. -/
def State.retireChip (s : State) (c v : Nat) : State :=
  if s.failed c then s
  else
    let left := (s.chip c).untested
    let role := ((s.chip c).spareFor).getD c
    let s := s.modChip c Chip.dead
    let s := left.foldl (fun s t => s.post (t.record 4)) s
    let s := ((s.endIssuesOn c).bump 0x2410 10).writeOwed
    let s := s.dropSpare c
    match s.firstSpare with
    | some d =>
      let s := (s.dropSpare d).modChip d (fun x => { x with spareFor := some role })
      (s.post ⟨s.stamp, 0x5F01, chipUnit c, noTenant, v, d⟩).retier
    | none =>
      let s := s.post ⟨s.stamp, 0x5F02, chipUnit c, noTenant, v, 0⟩
      let s := if s.learn.copies.any (fun l => l.contains c || l.contains role) then s.modParish (fun p => { p with giveUp := true }) else s
      (s.unplaceOn role).retier

/-- Pairs of chips cut from each other after a link went down: the higher one is retired (R418). -/
def State.checkRoutes (s : State) (link v : Nat) : State :=
  forEach 16 s fun s a => forEach 16 s fun s b =>
    if a < b ∧ !s.failed a ∧ !s.failed b ∧ !s.routed a b then
      (s.post ⟨s.stamp, 0x6105, link, noTenant, 0, b⟩).retireChip b v
    else s

/-! ### Units -/

/-- A unit noted as retired. -/
def State.noteRetired (s : State) (u : UnitRef) : State :=
  { s with faults := { s.faults with retired := u :: s.faults.retired.filter (fun x => decide (x ≠ u)) } }

def State.modCluster (s : State) (c k : Nat) (f : Cluster → Cluster) : State :=
  s.modChip c fun x => { x with clusters := vmod x.clusters k f }

/-- Rounds of a cluster put back to be taken again. -/
def State.redoRounds (s : State) (c k : Nat) (p : Round → Bool) (plain : Bool) : State :=
  s.modChip c fun x =>
    let cl := vget x.clusters k
    let back := cl.rounds.filter p
    { x with
      redo := x.redo ++ back.map (fun r => if plain then { r with commons := false } else r),
      clusters := vmod x.clusters k (fun cl => { cl with banks := cl.banks.map (fun b =>
        if (b.round.map p).getD false then { b with round := none, entries := [] } else b) }) }

/-- A Storehouse page mapped to the next page of the reserve, or the reserve is exhausted (R416). -/
def State.remapPage (s : State) (p : Nat) : State :=
  let used := s.faults.remapped.map Prod.snd ++ s.faults.reserveBad
  match (List.range 16384).find? (fun n => !used.contains n) with
  | some n => { s with faults := { s.faults with
      remapped := insertKey p n s.faults.remapped, reserveUsed := s.faults.reserveUsed + 1 } }.bump 0x2410 11
  | none =>
    let s := { s with faults := { s.faults with reserveOut := true } }
    (s.raise 0x5523 (UnitRef.page p).id noTenant (p % 2048)).hold 0x5523

/-- A lasting verdict retires a unit (Table 12.3). -/
def State.retireUnit (s : State) (u : UnitRef) (e : TestEnd) (v code : Nat) : State := match u with
  | .tile c k t =>
    let cl := vget (s.chip c).clusters k
    let s := s.noteRetired u
    if cl.spareLeft then
      let s := s.modCluster c k (fun cl => { cl with spareLeft := false, tilesBad := t :: cl.tilesBad })
      if t < 8 then s.bump 0x2410 5 else s
    else s.retireChip c v
  | .accBank c k b =>
    let s := (s.noteRetired u).bump 0x2410 8
    let r := (vget (vget (s.chip c).clusters k).banks b).round
    let s := s.modChip c fun x => { x with
      redo := x.redo ++ r.toList,
      clusters := vmod x.clusters k (fun cl => { cl with
        banks := vmod cl.banks b (fun q => { q with retired := true, round := none, entries := [] }) }) }
    let n := ((vget (s.chip c).clusters k).banks.toList.filter AccBank.retired).length
    if 5 ≤ n then s.retireChip c v else s
  | .commonsBank c k b =>
    let s := ((s.noteRetired u).bump 0x2410 7).modCluster c k (fun cl => { cl with commons := vset cl.commons b { live := false } })
    if (vget (s.chip c).clusters k).looksUp then s else s.redoRounds c k Round.commons true
  | .smithy c => (s.noteRetired u).retireChip c v
  | .bellwether c =>
    let s := (s.noteRetired u).modChip c (fun x => { x with bellFailed := true })
    if s.firstSpare.isSome then s.retireChip c v else s.retier
  | .granaryRow c b r =>
    if (s.chip c).rowsSpared.contains (b, r / 64) then s.retireChip c v
    else (s.modChip c (fun x => { x with rowsSpared := (b, r / 64) :: x.rowsSpared })).bump 0x2410 6
  | .loftBank c _ => (s.noteRetired u).retireChip c v
  | .byway c a =>
    let l := vget (s.chip c).links a
    match e with
    | .badLane n =>
      if l.lanesBad.isEmpty ∧ code ≠ 0x6104 then
        (s.modChip c (fun x => { x with links := vmod x.links a (fun l => { l with lanesBad := [n % 4], retries := 0 }) })).bump
          0x2410 9
      else ((s.noteRetired u).modChip c (fun x => { x with links := vmod x.links a (fun l => { l with down := true }) })).checkRoutes
        u.id v
    | _ => ((s.noteRetired u).modChip c (fun x => { x with links := vmod x.links a (fun l => { l with down := true }) })).checkRoutes
        u.id v
  | .pcie c => (s.noteRetired u).retireChip c v
  | .page p => s.remapPage p
  | .reserve p => { s with faults := { s.faults with reserveBad := p :: s.faults.reserveBad } }

/-- The verdict of a test: counted, its record written, and a lasting one carried out (R414, R415). `write` is FALSE where the
record waits for its operation (R421). -/
def State.settle (s : State) (t : Test) (e : TestEnd) (write : Bool) : State :=
  let v := s.verdictOf t.unit (decide (e = .pass))
  let s := s.countVerdict t.unit v
  let s := if write then s.post (t.record v) else s
  if v = 1 then s else s.retireUnit t.unit e v t.code

/-! ### Test ends -/

/-- A link test has ended. -/
def State.linkSettle (s : State) (c : Nat) (t : Test) (e : TestEnd) : State :=
  let wait := !s.opEnded c t
  let v := s.verdictOf t.unit (decide (e = .pass))
  let s := if wait then s.modChip c (fun x => { x with owed := x.owed ++ [⟨t, v⟩] }) else s
  s.settle t e (!wait)

/-- The span of a link test that ends now, put beside those that have ended within the last `n` µs (R419). -/
def State.testSpan (s : State) (t : Test) (l : List (Nat × Nat)) (n : Nat) : List (Nat × Nat) :=
  (t.time - s.power.ranBefore, s.micros) :: l.filter (fun p => decide (s.micros < p.2 + n))

/-- TARGETED_TEST_COMPLETE: the test of the unit that runs has ended. -/
def State.testEnd (s : State) (u : UnitRef) (e : TestEnd) : State :=
  match u with
  | .byway c a => match vget (s.chip c).linkTest a with
    | none => s
    | some t =>
      let s := (s.bump 0x2410 1).modChip c (fun x => { x with
        linkTest := vset x.linkTest a none,
        links := vmod x.links a (fun l => { l with retries := 0, tested := s.testSpan t l.tested 4000 }) })
      s.linkSettle c t e
  | .pcie c => match (s.chip c).pcieTest with
    | none => s
    | some t =>
      let s := (s.bump 0x2410 1).modChip c (fun x => { x with
        pcieTest := none, pcieRetries := 0, pcieTested := s.testSpan t x.pcieTested 2000 })
      s.linkSettle c t e
  | .page _ | .reserve _ => match s.faults.pageTests.find? (fun t => decide (t.unit = u)) with
    | none => s
    | some t =>
      let s := (s.bump 0x2410 1)
      let s := { s with faults := { s.faults with pageTests := s.faults.pageTests.filter (fun t => decide (t.unit ≠ u)) } }
      s.settle t e true
  | .tile c .. | .accBank c .. | .commonsBank c .. | .smithy c | .bellwether c | .granaryRow c .. | .loftBank c _ =>
    match (s.chip c).test with
    | none => s
    | some t =>
      if t.unit ≠ u ∨ (s.chip c).tier < 2 then s
      else
        let s := (s.bump 0x2410 1).modChip c (fun x => ({ x with test := none }.startWhole).startTest)
        let s := s.settle t e true
        let s := if u = .bellwether c ∧ !(s.chip c).bellFailed then s.modChip c (fun x => { x with bellOk := true }) else s
        ((s.retier).fill c).startEngines c

/-- The meaning of TARGETED_TEST_COMPLETE. -/
def execTargetedTestComplete (u : UnitRef) (e : TestEnd) (s : State) : Host.Outcome State Fault Refusal := .next (s.testEnd u e)

/-- WHOLE_CHIP_TEST_COMPLETE: one record for each fault whose test was replaced, each with the verdict found for its unit; a
chip with a bad unit has failed its test and is retired, and at start-up is only marked (R412, R501, Table 12.3). -/
def State.wholeEnd (s : State) (c : Nat) (bad : List UnitRef) : State := match (s.chip c).whole with
  | none => s
  | some l => if (s.chip c).tier < 2 ∧ s.tray ≠ .selfTest then s else
    let s := (s.bump 0x2410 1).modChip c (fun x => ({ x with whole := none }).startTest)
    let s := l.foldl (fun s t =>
      let v := s.verdictOf t.unit (!bad.contains t.unit)
      let s := (s.countVerdict t.unit v).post (t.record v)
      if v = 3 ∧ bad.isEmpty then s.retireUnit t.unit .fail v t.code else s) s
    if bad.isEmpty then ((s.retier).fill c).startEngines c
    else if s.tray = .selfTest then
      let s := (s.modChip c Chip.dead).bump 0x2410 10
      (s.dropSpare c).post ⟨s.stamp, 0x5F03, chipUnit c, noTenant, 2, 0⟩
    else s.retireChip c 2

/-- The meaning of WHOLE_CHIP_TEST_COMPLETE. -/
def execWholeChipTestComplete (c : Nat) (bad : List UnitRef) (s : State) : Host.Outcome State Fault Refusal :=
  .next (s.wholeEnd c bad)

/-! ### The spare takes over (R417 steps 2 to 4) -/

/-- A slot's partitions on a failed chip move to a spare, with their images; no new search is made. -/
def State.movePart (s : State) (old new : Nat) (slot : Nat) (m : Model) : State :=
  let placed := m.placed.map (fun p => if p.chip = old then { p with chip := new } else p)
  let m := { m with placed := placed }
  let s := s.modSlot slot (fun x => { x with model := some m })
  let s := s.modChip old (Chip.release slot)
  let s := (List.range placed.length).foldl (fun s q =>
    if ((placed[q]?).map Placed.chip) = some new then s.layPart slot m (s.resident slot) q else s) s
  s.showSlot slot

/-- A token cache on a lost chip is gone: the session's context is reset. -/
def State.loseCache (s : State) (c : Nat) : State :=
  forEach 8 s fun s i =>
    if (s.token i).cache.any (fun q => decide (q.1 = c)) then
      (s.modToken i (fun x => { x with cache := [] })).setNum (0x6100 + i) 13 0
    else s

/-- A chip of the learnable slot is replaced: rows formed from the latents, residuals at 0 (R394, R395). -/
def State.replaceLearner (s : State) (old new : Nat) : State :=
  if !s.learn.copies.any (fun l => l.contains old) then s
  else
    let had := s.learn.residuals.any (fun r => decide (r.chip = old))
    let s := s.modLearn fun l => { l with
      copies := l.copies.map (fun k => k.map (fun c => if c = old then new else c)),
      committed := l.committed.map (fun x => if x.chip = old then { x with chip := new } else x),
      residuals := l.residuals.filter (fun r => decide (r.chip ≠ old)) }
    let copy := ((List.range s.learn.copies.length).find? (fun n => ((s.learn.copies[n]?).getD []).contains new)).getD 0
    let part := ((((s.learn.copies[copy]?).getD []).zip (List.range 16)).find? (fun q => decide (q.1 = new))).map Prod.snd |>.getD 0
    let s := match copy, s.learnModel with
      | 0, _ | _, none => s
      | _, some m => s.modChip new (fun x =>
          let y := m.variant.part part
          let x := x.addRegion s.learnSlot (m.variant.need part) y.loftNeed
          match x.region s.learnSlot with
          | none => x
          | some r => x.layImages r [] y.image y.loftImage)
    let s := match s.learnParts[part]? with
      | some l => s.modChip new (fun x => x.addRegion savedRegion 0 l.window)
      | none => s
    let s := s.raise 0x7208 (chipUnit new) s.learnTenant 0
    let s := if had then (s.modLearn fun l => { l with restarted := true }).raise 0x720A (chipUnit new) s.learnTenant 0 else s
    s.formRows

/-- SPARE_LOAD_COMPLETE. -/
def State.spareLoaded (s : State) (c : Nat) : State := match (s.chip c).spareFor with
  | none => s
  | some old =>
    if (s.chip c).tier = 0 then s
    else
      let s := s.modChip c (fun x => { x with spareFor := none, reloading := false })
      let s := (s.placedSlots.filter (fun p => p.2.chips.contains old)).foldl (fun s p => s.movePart old c p.1 p.2) s
      let s := (s.loseCache old).replaceLearner old c
      ((s.retier).fill c).startEngines c

/-- The meaning of SPARE_LOAD_COMPLETE. -/
def execSpareLoadComplete (c : Nat) (s : State) : Host.Outcome State Fault Refusal := .next (s.spareLoaded c)

end Sys2Proof.Machine
end

