-- ==== Sys2Proof/Machine/Faults.lean ====
section
/-! DEFINITION. Detected errors of memories and links, the retry and timer pairs, and the background tasks (chapter 12). -/

namespace Sys2Proof.Machine

/-- The tenant that a record of an issue names (R545). -/
def State.issueTenant (s : State) (issue : Option Nat) : Nat := match issue.bind s.issue with
  | some i => i.tenant
  | none => noTenant

/-- A chip whose memories and links are powered. -/
def Chip.powered (x : Chip) : Bool := x.railsOn || x.failed

/-- An issue that read lost data ends with no output; a micro-batch aborts its learning step (R407, R408). -/
def State.loseIssue (s : State) (issue : Option Nat) (cause : Nat) : State := match issue.bind s.issue with
  | none => s
  | some i => if i.micro.isSome then s.abortStep cause else s.endIssue i.id

/-! ### Memories -/

/-- A detected error on an on-chip unit, noted with the issue that waits for its test (R407). -/
def State.detectFor (s : State) (u : UnitRef) (code detail : Nat) (issue : Option Nat) : State :=
  let s := s.detect u code (s.issueTenant issue) detail
  match u.chip with
  | none => s
  | some c =>
    let note (t : Test) : Test := if t.unit = u ∧ t.issue = none then { t with issue := issue } else t
    (s.modChip c fun x => { x with
      test := x.test.map note, tests := x.tests.map note, whole := x.whole.map (fun l => l.map note) }).liftTest c

/-- The meaning of GRANARY_ECC_ERROR. The row is rewritten from its image, so its bytes stand (R407). -/
def execGranaryEccError (c bank row : Nat) (unc : Bool) (issue : Option Nat) (s : State) : Host.Outcome State Fault Refusal :=
  .next (if (s.chip c).powered then s.detectFor (.granaryRow c bank row) (if unc then 0x5502 else 0x5501) row issue else s)

/-- The partition of a slot that a chip holds: as placed, or as a copy of the learnable variant. -/
def State.partOn (s : State) (c slot : Nat) : Option Partition := match s.model slot with
  | none => none
  | some m =>
    let l := if m.chips.contains c ∨ slot ≠ s.learnSlot then m.chips else (s.learn.copies.find? (fun l => l.contains c)).getD []
    ((List.range l.length).find? (fun q => l[q]? = some c)).map m.variant.part

/-- What an uncorrectable error in a region of a Loft leads to (R407): a token cache is lost, a persistent region is rewritten
from its image, and a saved window aborts the step. -/
def State.loseLoft (s : State) (c bank : Nat) (r : Region) (a : Nat) : State :=
  if 0x100 ≤ r.slot ∧ r.slot < 0x108 then
    let k := r.slot - 0x100
    let s := if s.nat (0x6100 + k) 3 = 2 then s.tokenFault k else s
    (s.modChip c (fun x => { x with loft := memClear x.loft r.loftBase r.loftSize })).setNum (0x6100 + k) 13 0
  else if r.slot = savedRegion then s.abortStep 0x5512
  else match s.partOn c r.slot with
    | none => s
    | some x =>
      if a < r.loftBase + x.ploft then
        let s := s.modChip c fun y => { y with
          loft := memWriteN y.loft r.loftBase (padTo x.ploft x.loftImage) }
        s.raise 0x5513 (UnitRef.loftBank c bank).id (s.nat (0x4000 + r.slot) 1) r.slot
      else s

/-- LOFT_ECC_ERROR. -/
def State.loftError (s : State) (c bank word : Nat) (unc : Bool) (issue : Option Nat) : State :=
  let s := s.detectFor (.loftBank c bank) (if unc then 0x5512 else 0x5511) word issue
  if !unc then s
  else
    let a := 32 * (32 * (Config.loftPlace bank word % 8192) + bank % 32)
    let s := s.loseIssue issue 0x5512
    match (s.chip c).regions.find? (fun r => decide (r.loftBase ≤ a ∧ a < r.loftBase + r.loftSize) && !r.released) with
    | none => s
    | some r => s.loseLoft c bank r a

/-- The meaning of LOFT_ECC_ERROR. -/
def execLoftEccError (c bank word : Nat) (unc : Bool) (issue : Option Nat) (s : State) : Host.Outcome State Fault Refusal :=
  .next (if (s.chip c).powered then s.loftError c bank word unc issue else s)

/-- An uncorrectable Storehouse error counted; more than 16 within 1 s are a cause of safe-hold (Table 12.10). -/
def State.storeBurst (s : State) (page : Nat) : State :=
  let now := s.micros
  let l := now :: s.faults.storeErrors.filter (fun t => decide (now < t + 1000000))
  let many := decide (16 < l.length)
  let had := s.faults.burst.isSome
  let s := { s with faults := { s.faults with storeErrors := l, burst := if many || had then some now else none } }
  if many && !had then (s.raise 0x5522 (UnitRef.page page).id noTenant (page % 2048)).hold 0x5522 else s

/-- STOREHOUSE_ECC_ERROR (R408). -/
def State.storeError (s : State) (page : Nat) (unc : Bool) (issue : Option Nat) : State :=
  let s := s.detect (.page page) (if unc then 0x5521 else 0x5520) (s.issueTenant issue) (page % 2048)
  if unc then (s.loseIssue issue 0x5521).storeBurst page else s

/-- The meaning of STOREHOUSE_ECC_ERROR. -/
def execStorehouseEccError (page : Nat) (unc : Bool) (issue : Option Nat) (s : State) : Host.Outcome State Fault Refusal :=
  .next (if s.alive then s.storeError page unc issue else s)

/-- 60 s have passed since the last uncorrectable error of a burst (Table 12.10). -/
def State.burstOver (s : State) : State := match s.faults.burst with
  | some t => if t + 60000000 ≤ s.micros then { s with faults := { s.faults with burst := none } } else s
  | none => s

/-- The meaning of STOREHOUSE_ERROR_QUIET. -/
def execStorehouseErrorQuiet (s : State) : Host.Outcome State Fault Refusal := .next s.burstOver

/-! ### Links (Table 12.5) -/

/-- The detail of a link record (R421) but for the bits of the upper timer. -/
def linkDetail (retries partner : Nat) : Nat := min retries 15 + 128 * partner

/-- A link test noted with the transfer that met the fault. -/
def State.noteTransfer (s : State) (c : Nat) (u : UnitRef) (issue : Option Nat) : State :=
  let n := ((issue.bind s.issue).map (fun i => i.arrived.length)).getD 0
  let note (t : Test) : Test := if t.unit = u ∧ t.issue = none ∧ !t.fold then { t with issue := issue, arrived := n } else t
  s.modChip c fun x => { x with linkTest := x.linkTest.map (fun o => o.map note), pcieTest := x.pcieTest.map note }

/-- A flit fails its CRC: it is retried 8 times, and a ninth failure gives up (R406). -/
def State.flitError (s : State) (c axis : Nat) (issue : Option Nat) : State :=
  let l := vget (s.chip c).links axis
  if l.down then s
  else if l.retries < 8 then
    s.modChip c fun x => { x with links := vset x.links axis { l with retries := l.retries + 1, errors := l.errors + 1 } }
  else
    let s := s.modChip c fun x => { x with links := vset x.links axis { l with retries := 0, errors := l.errors + 1 } }
    (s.detect (.byway c axis) 0x6101 (s.issueTenant issue) (linkDetail 8 (ringNext axis c))).noteTransfer c (.byway c axis) issue

/-- The meaning of BYWAY_FLIT_ERROR. -/
def execBywayFlitError (c axis : Nat) (issue : Option Nat) (s : State) : Host.Outcome State Fault Refusal :=
  .next (if s.alive then s.flitError c axis issue else s)

/-- A PCIe link recovers 3 times, and a fourth error gives up (R406). -/
def State.pcieFault (s : State) (c : Nat) (issue : Option Nat) : State :=
  let x := s.chip c
  if x.failed then s
  else if x.pcieRetries < 3 then s.setChip c { x with pcieRetries := x.pcieRetries + 1, pcieErrors := x.pcieErrors + 1 }
  else
    let s := s.setChip c { x with pcieRetries := 0, pcieErrors := x.pcieErrors + 1 }
    (s.detect (.pcie c) 0x6201 (s.issueTenant issue) (linkDetail 3 0)).noteTransfer c (.pcie c) issue

/-- The meaning of PCIE_LINK_ERROR. -/
def execPcieLinkError (c : Nat) (issue : Option Nat) (s : State) : Host.Outcome State Fault Refusal :=
  .next (if s.alive then s.pcieFault c issue else s)

/-- The bits of the upper timer in the detail of R421: the ceiling, a live retry, the timer itself. -/
def upperBits (ceiling live : Bool) : Nat := 16 * ofBool ceiling + 32 * ofBool live + 64

/-- The link test of a unit that runs, if any. -/
def State.linkTestOf (s : State) (u : UnitRef) : Option Test := match u with
  | .byway c a => vget (s.chip c).linkTest a
  | .pcie c => (s.chip c).pcieTest
  | _ => none

/-- The link test of a unit changed. -/
def State.modLinkTest (s : State) (u : UnitRef) (f : Option Test → Option Test) : State := match u with
  | .byway c a => s.modChip c fun x => { x with linkTest := vmod x.linkTest a f }
  | .pcie c => s.modChip c fun x => { x with pcieTest := f x.pcieTest }
  | _ => s

/-- The lower unit had given up earlier in the operation and its verdict is known: the owed record takes bit [6] and keeps the
lower code (R421). -/
def State.owedUpper (s : State) (c : Nat) (u : UnitRef) (issue : Nat) (bits : Nat) : State :=
  s.modChip c fun x => { x with owed := x.owed.map (fun o =>
    if o.test.unit = u ∧ o.test.issue = some issue then { o with test := { o.test with upper := bits } } else o) }

/-- What two spans of time share. -/
def overlap (a b : Nat × Nat) : Nat := min a.2 b.2 - max a.1 b.1

/-- An upper timer of a transfer that began at `start` fires (R419): four times the nominal value has passed, or its count, which
paused for the link tests that have ended and for one that runs, has reached the nominal value. -/
def State.upperDue (s : State) (u : UnitRef) (tested : List (Nat × Nat)) (start nominal : Nat) (ceiling : Bool) : Bool :=
  let now := s.micros
  let live := ((s.linkTestOf u).map (fun t => (t.time - s.power.ranBefore, now))).toList
  let paused := ((live ++ tested).map (overlap (start, now))).sum
  if ceiling then decide (start + 4 * nominal ≤ now) else decide (start + nominal + paused ≤ now)

/-- When the hand-offs of an issue that have begun and not arrived began, oldest first in the variant's order (R309). -/
def State.handOffStarts (s : State) (i : Issue) : List Nat := match s.model i.slot with
  | none => []
  | some m => (List.range m.variant.handOffs.length).filterMap fun n => (m.variant.handOffs[n]?).bind fun h =>
      match i.parts.find? (fun p => decide (p.part = h.src)) with
      | some a => if s.handsOver m i h && a.complete && !i.arrived.contains n then some a.endedAt else none
      | none => none

/-- The hand-off transfer timer of an issue fires on a link (Table 12.5). -/
def State.handOffDue (s : State) (c axis id : Nat) (ceiling : Bool) : Bool := match s.issue id with
  | none => false
  | some i => (s.handOffStarts i).any (fun m => s.upperDue (.byway c axis) (vget (s.chip c).links axis).tested m 1000 ceiling)

/-- The Reeve DMA timer of an issue fires (Table 12.5): the load of its image is timed from its start; the model keeps no start of a
frame or a weight piece, and takes the command's word there (DEDUCED, log entry 82). -/
def State.dmaDue (s : State) (c id : Nat) (ceiling : Bool) : Bool := match s.issue id with
  | none => false
  | some i => match (if (s.chip c).loading.contains i.slot then lookupKey i.slot (s.chip c).loadFrom else none) with
    | none => true
    | some m => s.upperDue (.pcie c) (s.chip c).pcieTested m 500 ceiling

/-- The upper timer of a link fires for an issue (R419 to R421). -/
def State.upperTimer (s : State) (c : Nat) (u : UnitRef) (code partner retries id : Nat) (ceiling : Bool) : State :=
  match s.issue id with
  | none => s
  | some i =>
    let finish (s : State) : State := (s.loseIssue (some id) code).writeOwed
    if (s.chip c).owed.any (fun o => decide (o.test.unit = u ∧ o.test.issue = some id)) then
      finish (s.owedUpper c u id (upperBits ceiling false))
    else match s.linkTestOf u with
      | some _ =>
        finish (s.modLinkTest u (fun o => o.map (fun t => { t with
          code := code, detail := linkDetail 15 partner, upper := upperBits ceiling true, issue := none })))
      | none =>
        if 0 < retries then
          let s := s.detect u code i.tenant (linkDetail retries partner)
          finish (s.modLinkTest u (fun o => o.map (fun t => { t with upper := upperBits ceiling true })))
        else
          finish (s.post ⟨s.stamp, code, u.id, i.tenant, 0, linkDetail 0 partner + upperBits ceiling false⟩)

/-- The meaning of BYWAY_HANDOFF_TIMER. -/
def execBywayHandoffTimer (c axis id : Nat) (ceiling : Bool) (s : State) : Host.Outcome State Fault Refusal :=
  .next (if s.handOffDue c axis id ceiling then
      s.upperTimer c (.byway c axis) 0x6104 (ringNext axis c) (vget (s.chip c).links axis).retries id ceiling
    else s)

/-- The meaning of PCIE_DMA_TIMER: the transfer is abandoned as well. -/
def execPcieDmaTimer (c id : Nat) (ceiling : Bool) (s : State) : Host.Outcome State Fault Refusal :=
  let slot := (s.issue id).map Issue.slot
  .next (if s.dmaDue c id ceiling then
      (s.upperTimer c (.pcie c) 0x6203 0 (s.chip c).pcieRetries id ceiling).modChip c (fun x => { x with
        loading := x.loading.filter (fun k => some k != slot) })
    else s)

/-- The retries of the links at a chip end with the flits of a hand-off that has arrived. -/
def State.calmLinks (s : State) (c : Nat) : State :=
  let calm (l : Link) : Link := { l with retries := 0 }
  ((s.modChip c (fun x => { x with links := x.links.map calm })).modChip (ringPrev 0 c) (fun x => { x with
    links := vmod x.links 0 calm })).modChip (ringPrev 1 c) (fun x => { x with links := vmod x.links 1 calm })

/-- HAND_OFF_ARRIVE: the units land, and a record that waited for the transfer is written (R309, R421). -/
def State.handOffEnd (s : State) (id n : Nat) : State :=
  let ends (s : State) : Nat := ((s.issue id).map (fun i => i.arrived.length)).getD 0
  let t := s.handOff id n
  if ends s = ends t then s
  else match (t.issue id).bind (fun i => (t.model i.slot).bind (fun m => m.variant.handOffs[n]?)), t.issue id with
    | some h, some i =>
      let chip (q : Nat) : Nat := ((i.parts.find? (fun p => decide (p.part = q))).map PartRun.chip).getD 0
      ((t.calmLinks (chip h.src)).calmLinks (chip h.dst)).writeOwed
    | _, _ => t

/-- The meaning of HAND_OFF_ARRIVE. -/
def execHandOffArrive (id n : Nat) (s : State) : Host.Outcome State Fault Refusal := .next (s.handOffEnd id n)

/-- The meaning of MODEL_IMAGE_LOAD_COMPLETE. -/
def execModelImageLoadComplete (c slot : Nat) (s : State) : Host.Outcome State Fault Refusal :=
  .next (s.imageLoaded c slot).writeOwed

/-! ### Background work (Table 12.6) -/

/-- The chip has no issue resident, and no trigger of a job placed on it is pending (R423). -/
def State.idleChip (s : State) (c : Nat) : Bool :=
  !s.issues.any (fun i => i.onChip c) && !(List.range 16).any (fun t => (s.pendOf t).queue.any (fun q =>
    match s.jobModel t q.job with
    | some m => m.chips.contains c
    | none => false))

/-- A gap of the mirror is open, or the chip is idle (R423). -/
def State.mayStart (s : State) (c : Nat) : Bool :=
  s.idleChip c || (s.chip c).mirror.gaps.any (fun g => decide (g.1 ≤ s.timebase ∧ s.timebase < g.2))

/-- A chip that background work reaches. -/
def Chip.attended (x : Chip) : Bool := !x.failed && x.railsOn && decide (1 ≤ x.tier)

/-- The meaning of ALMANAC_RELOCK: in a gap once a second, or forced 1.2 s after the last one (R424). -/
def execAlmanacRelock (c : Nat) (s : State) : Host.Outcome State Fault Refusal :=
  let x := s.chip c
  let since := s.micros - x.mirror.lockedAt
  .next (if x.attended && ((decide (1000000 ≤ since) && s.mayStart c) || decide (1200000 ≤ since)) then
      s.setChip c { x with mirror := { x.mirror with lockedAt := s.micros } } else s)

/-- Rounds that keep a tuning from starting (R425). -/
def Cluster.tuneBlocked (cl : Cluster) : Bool := !cl.rounds.isEmpty

/-- A task whose present period ends at `next`, or, before its first end, `period` µs after the counter's start, is due (R430). -/
def State.periodOver (s : State) (next : Option Nat) (period : Nat) : Bool := decide (next.getD period ≤ s.micros)

/-- MARGIN_TUNING_START: at the end of its interval the tuning is due, and starts, or waits and is counted as deferred (R425, R426). The
interval as now configured counts from there (R430). -/
def State.tuneStart (s : State) (c k : Nat) : State :=
  let x := s.chip c
  let cl := vget x.clusters k
  let period := 1000000 * s.nat 0x2430 1
  if !x.attended || !s.flag 0x2430 2 || cl.tuning || decide (tierClusters x.tier ≤ k)
      || (cl.tuneDue.isNone && !s.periodOver cl.tuneNext period) then s
  else
    let s := if cl.tuneDue.isSome then s else s.modCluster c k (fun cl => { cl with tuneNext := some (s.micros + period) })
    let forced := match cl.tuneForced with
      | some m => decide (m + 1000000 ≤ s.micros)
      | none => false
    if (s.mayStart c || forced) && !cl.tuneBlocked then
      s.modCluster c k (fun cl => { cl with tuning := true, tuneDue := none, tuneForced := none })
    else if cl.tuneDue.isSome then s
    else (s.modCluster c k (fun cl => { cl with tuneDue := some s.micros })).bump 0x2430 7

/-- The meaning of MARGIN_TUNING_START. -/
def execMarginTuningStart (c k : Nat) (s : State) : Host.Outcome State Fault Refusal := .next (s.tuneStart c k)

/-- MARGIN_TUNING_FORCE: a tuning that has waited 10 s is forced (R426). -/
def State.tuneForce (s : State) (c k : Nat) : State :=
  let cl := vget (s.chip c).clusters k
  match cl.tuneDue with
  | some m => if m + 10000000 ≤ s.micros ∧ cl.tuneForced = none ∧ (s.chip c).attended = true then
      (s.modCluster c k (fun cl => { cl with tuneForced := some s.micros })).bump 0x2430 8 else s
  | none => s

/-- The meaning of MARGIN_TUNING_FORCE. -/
def execMarginTuningForce (c k : Nat) (s : State) : Host.Outcome State Fault Refusal := .next (s.tuneForce c k)

/-- MARGIN_TUNING_COMPLETE: the trim is set, or every tile in service takes a test (R425, R426). -/
def State.tuneEnd (s : State) (c k : Nat) (trim : Option Int) : State :=
  let cl := vget (s.chip c).clusters k
  if !cl.tuning then s
  else
    let s := s.modCluster c k (fun cl => { cl with tuning := false })
    match trim with
    | some t => ((s.modCluster c k (fun cl => { cl with trim := clampInt (-25) 25 t })).fill c).startEngines c
    | none =>
      let s := s.raise 0x5601 (clusterUnit c k) noTenant 0
      let tiles := (List.range 9).filter (fun t => !cl.tilesBad.contains t && !(t = 8 && cl.spareLeft))
      (tiles.foldl (fun s t => s.detect (.tile c k t) 0x5101 noTenant 0) s).liftTest c

/-- The meaning of MARGIN_TUNING_COMPLETE. -/
def execMarginTuningComplete (c k : Nat) (trim : Option Int) (s : State) : Host.Outcome State Fault Refusal :=
  .next (s.tuneEnd c k trim)

/-- The start of the predicted angle gap that is open on a chip. -/
def State.openGap (s : State) (c : Nat) : Option Nat :=
  ((s.chip c).mirror.gaps.find? (fun g => decide (g.1 ≤ s.timebase ∧ s.timebase < g.2))).map Prod.fst

/-- A Commons bank may be checked: it is in service, and no group of it has been checked in this gap (R423, Table 12.6). -/
def State.mayCheck (s : State) (c k b : Nat) : Bool :=
  let bank := vget (vget (s.chip c).clusters k).commons b
  (s.chip c).attended && s.flag 0x2430 3 && s.mayStart c && bank.live
    && !((s.openGap c).isSome && bank.checkedIn == s.openGap c)

/-- The meaning of COMMONS_SELF_CHECK: a mismatch is a residue error of the table (R169, R423). -/
def execCommonsSelfCheck (c k b : Nat) (same : Bool) (s : State) : Host.Outcome State Fault Refusal :=
  .next (if s.mayCheck c k b then
      let s := s.modCluster c k (fun cl => { cl with commons := vmod cl.commons b (fun x => { x with checkedIn := s.openGap c }) })
      if same then s else (s.detect (.commonsBank c k b) 0x5201 noTenant 0).liftTest c
    else s)

/-- The meaning of TELEMETRY_SAMPLE: at the end of its interval a chip's sample is taken in an idle cycle of the link, else skipped and
counted (R427, R430). -/
def execTelemetrySample (c : Nat) (idle : Bool) (s : State) : Host.Outcome State Fault Refusal :=
  let period := 1000 * s.nat 0x2430 4
  .next (if !(s.chip c).attended || !s.periodOver (s.chip c).telemetryNext period then s
    else
      let s := s.modChip c (fun x => { x with telemetryNext := some (s.micros + period) })
      if idle then s.modChip c (fun x => { x with telemetry := (x.telemetry + 1) % 2 ^ 32 }) else s.bump 0x2430 9)

/-- Accesses of a full pass over a bank (R422). -/
def scrubPass : Nat := 8192

/-- Full passes that the tray's chips have made together: the least over their banks. -/
def Chip.passes (x : Chip) : Nat :=
  (x.scrubG.toList ++ x.scrubL.toList).foldl (fun m b => min m (b.accesses / scrubPass)) (2 ^ 64)

/-- GLEANER_SCRUB_ACCESS: one access to a bank; a full pass of every bank of a chip is counted, and a single-bit error is
corrected and raised (R422). -/
def State.scrub (s : State) (c : Nat) (loft : Bool) (bank : Nat) (err : Option Nat) : State :=
  let x := s.chip c
  if !x.attended then s
  else
    let step (b : Scrub) : Scrub := { b with accesses := b.accesses + 1, row := (b.row + 1) % scrubPass }
    let y := if loft then { x with scrubL := vmod x.scrubL bank step } else { x with scrubG := vmod x.scrubG bank step }
    let s := s.setChip c y
    let s := if x.passes < y.passes then s.bump 0x2430 6 else s
    match err with
    | none => s
    | some a => (if loft then s.detect (.loftBank c bank) 0x5511 noTenant a
        else s.detect (.granaryRow c bank a) 0x5501 noTenant a).liftTest c

/-- The meaning of GLEANER_SCRUB_ACCESS. -/
def execGleanerScrubAccess (c : Nat) (loft : Bool) (bank : Nat) (err : Option Nat) (s : State) : Host.Outcome State Fault Refusal :=
  .next (s.scrub c loft bank err)

/-- STOREHOUSE_PATROL_SCRUB: the next page is read; an error is that of the page, or of a reserve page not yet mapped (R416). -/
def State.patrol (s : State) (reserve : Bool) (page : Nat) (error : Option Bool) : State :=
  let s := { s with store := { s.store with patrol := page + 1 } }
  match error with
  | none => s
  | some unc =>
    let code := if unc then 0x5521 else 0x5520
    if reserve then
      let s := s.detect (.reserve page) code noTenant page
      if unc then s.storeBurst page else s
    else s.storeError page unc none

/-- The meaning of STOREHOUSE_PATROL_SCRUB. -/
def execStorehousePatrolScrub (reserve : Bool) (page : Nat) (error : Option Bool) (s : State) : Host.Outcome State Fault Refusal :=
  .next (if s.alive then s.patrol reserve page error else s)

/-- The meaning of FAULT_LOG_CLEAR: writing 1 empties the log (R428). -/
def execFaultLogClear (n : Net) (value : Nat) (s : State) : Host.Outcome State Fault Refusal :=
  .next (s.write n 0x2400 4 (numBytes 0x2400 4 value) (fun _ => none) (fun s => { s with faults := { s.faults with log := [] } }))

end Sys2Proof.Machine
end

