-- ==== Sys2Proof/Machine/Jobs.lean ====
section
/-! DEFINITION. Triggers of jobs, the pending queues, commit and squash, publication and completion (chapter 8), and the wake
gates (chapter 5). -/

namespace Sys2Proof.Machine

/-- The meaning of PENDING_ISSUE. -/
def execPendingIssue (t : Nat) (s : State) : Host.Outcome State Fault Refusal := .next (s.issuePending t)

/-! ### Frames that are complete -/

/-- The frames that hold a place in a ring: the staged ones and those under way. -/
def State.ringTaken (s : State) (r : Nat) : Nat :=
  ((s.ringOf r).filter (fun f => !f.evicted)).length
    + (if r < 8 then (s.group r).runs.length else ofBool (((s.cam (r - 8)).capture.map Capture.started).getD false))

/-- The oldest frame of a ring is evicted (R287): dropped for every tenant that has not issued a committed job on it, and held
without a place for the jobs of the others. -/
def State.evictOldest (s : State) (r : Nat) : State := match (s.ringOf r).find? (fun f => !f.evicted) with
  | none => s
  | some f =>
    let key : Option (Nat × Int) := some (r, f.number)
    let lost := f.waiting.filter (fun w => !f.served.contains w.1)
    let s := s.modRing r (fun l => (l.map (fun g => if g.number = f.number then
      { g with evicted := true, waiting := g.waiting.filter (fun w => f.served.contains w.1) } else g)).filter
        (fun g => decide (g.number ≠ f.number) || !g.waiting.isEmpty))
    let s := forEach 16 s fun s t => (s.modPend t (fun p => { p with
      queue := p.queue.filter (fun q => !(q.frame == key && lost.contains (t, q.job))) })).endDecimation t
    let s := if lost.isEmpty then s else s.bump 0x2420 2
    lost.foldl (fun s w => s.dropTrigger w.1 ⟨w.2, f.k, f.angle, f.flags, 0, none, f.flags, 0, false⟩ 0x9102) s

/-- A full ring of 8 makes room for a frame that begins (R287). -/
def State.evictFrame (s : State) (r : Nat) : State := if 8 ≤ s.ringTaken r then s.evictOldest r else s

/-- A complete frame is staged in its ring of 8, and triggers every job of its source (R113, R266, R270). A frame that no job waits
for leaves at once. DESIGN CHOICE (log entry 83): a job without speculate is issued here, at frame completion, as R266 has it;
R23 would have each job issued before its frame completes. -/
def State.frameReady (s : State) (r shaft : Nat) (f : Frame) (trFlags : Nat) : State :=
  let jobs := s.jobsOf (if r < 8 then 1 else 2) (r % 8)
  let waits := jobs.filter (fun (t, j) => s.runs && decide (s.tenantState t = 1) && (s.jobModel t j).isSome)
  if waits.isEmpty then s
  else
    let s := (s.evictFrame r).modRing r (fun l => l ++ [{ f with waiting := waits }])
    waits.foldl (fun s (t, j) => if s.listens t j then
        s.trigger t ⟨j, f.k, f.angle, trFlags, shaft, some (r, f.number), f.flags, 0, false⟩
      else if (s.jobDesc t j).gated then s else s.release (some (r, f.number)) t j) s

/-! ### Publication (R481 to R484) -/

/-- The value of a format at an offset of the result bytes (Table 14.10). -/
def resultValue (format offset : Nat) (b : List Byte) : Int :=
  if format = 0 then signed 8 (byteAt b offset)
  else if format = 1 then (byteAt b offset : Nat)
  else if format = 2 then signed 16 (leAt b offset 2)
  else if format = 3 then (leAt b offset 2 : Nat)
  else signed 32 (leAt b offset 4)

/-- A result of job `j` of tenant `t` published through an output set, or counted as discarded. `out` holds bytes [31:16] of the
result record of each partition. -/
def State.publish (s : State) (t j : Nat) (out : List (Nat × List Byte)) (angle k : Int) (flags shaft : Nat) : State :=
  let d := s.jobDesc t j
  if !d.publish then s
  else
    let o := d.outputSet
    let i := blk t (0x40 + o)
    let part := s.nat i 3
    let takes := ((s.jobModel t j).map (fun m => m.variant.takesPart d.entry part)).getD false
    match out.find? (fun q => decide (q.1 = part)) with
    | none => s.bump i 12
    | some q =>
      if !s.flag i 1 || !takes then s.bump i 12
      else
        let v := resultValue (s.nat i 5) (s.nat i 4) q.2
        let valid := s.runs && decide (Nat.land flags (s.nat i 6) = 0)
        let was := (s.outSet t o).alarm
        let alarm := valid && (if s.num i 9 ≤ v then true else if v < s.num i 10 then false else was)
        let s := s.modOutSet t o (fun r => { r with published := some (angle, shaft), valid := valid, alarm := alarm })
        let s := s.bump i 11
        match s.conditionOf t o with
        | none => s
        | some c =>
          (((((((s.setNum c 1 v).setNum c 2 (outputStatus valid flags)).setNum c 3 angle).bump c 4).setNum c 7 j).setNum c 8
            (unsigned 32 k)).setNum c 9 flags |>.setNum c 10 (ofBool alarm)).markUpdated c

/-- The valid bit of a set clears once its shaft has passed the stale limit (R482). -/
def State.staleSet (s : State) (t o : Nat) : State :=
  let lim := s.nat (blk t (0x40 + o)) 7
  match (s.outSet t o).published with
  | some (a, sh) =>
    let x := s.shaft sh
    let gone := if x.reverse then decide (x.angle < a - lim) else decide (a + lim < x.angle)
    if lim ≠ 0 && (s.outSet t o).valid && gone then s.clearSet t o else s
  | none => s

/-- The enabled output sets. -/
def State.enabledSets (s : State) : List (Nat × Nat) :=
  s.od.filterMap fun (k, v) =>
    let i := k / 256
    if k % 256 = 1 ∧ 0x3000 ≤ i ∧ i < 0x4000 ∧ 0x40 ≤ i % 256 ∧ i % 256 ≤ 0x4F ∧ v ≠ .num 0 then
      some ((i - 0x3000) / 0x100, i % 256 - 0x40) else none

/-- Every stale limit judged at the present angles. -/
def State.staleSets (s : State) : State := s.enabledSets.foldl (fun s p => s.staleSet p.1 p.2) s

/-! ### Completion -/

/-- An earlier issue or pending trigger of the same job (R273). -/
def State.earlier (s : State) (i : Issue) : Bool :=
  s.issues.any (fun o => decide (o.tenant = i.tenant ∧ o.job = i.job ∧ o.id ≠ i.id ∧ o.order < i.order) && decide (o.st = .committed))
    || (s.pendOf i.tenant).queue.any (fun q => decide (q.job = i.job ∧ q.order < i.order))

/-- A committed watching issue whose chains have ended and that comes next in the order of its job; the Result queues of its
chips have credit (Table 8.5). -/
def State.ripe (s : State) (i : Issue) : Bool :=
  i.finished && decide (i.st = .committed) && !i.waitsSlot && i.micro.isNone && decide (i.kind < 4) && !s.earlier i
    && i.parts.all (fun p => decide ((s.chip p.chip).results.length < 64))

/-- A frame copied into the sample ring (R341). -/
def State.keepSample (s : State) (i : Issue) : State :=
  if s.tray = .learning && decide (i.tenant = s.learnTenant) && decide (i.job = s.nat 0x5000 17) && !i.frameData.isEmpty then
    let l := s.learn.ring ++ [⟨leAt i.frameData 32 4, i.frameData, none⟩]
    s.modLearn fun x => { x with ring := l.drop (l.length - s.nat 0x5000 18) }
  else s

/-- The 32-byte result record of a job issue (R283). -/
def resultRecord (angle k : Int) (flags j t : Nat) (out : List Byte) : List Byte :=
  leInt 8 angle ++ leInt 4 k ++ leBytes 2 flags ++ leBytes 1 (j % 16) ++ leBytes 1 t ++ padTo 16 out

/-- Every chip of the placement sends its result record; a chip without a final output sends zeros (R283). -/
def State.sendResults (s : State) (i : Issue) (j : Nat) (flags : Nat) : State :=
  i.parts.foldl (fun s p => s.modChip p.chip (fun x => { x with results := x.results ++ [resultRecord i.angle i.k flags j i.tenant
    (((i.out.find? (fun q => decide (q.1 = p.part))).map Prod.snd).getD [])] })) s

/-- Reeve takes the oldest result record of every chip of an issue (Table 8.5). -/
def State.takeResults (s : State) (i : Issue) : State :=
  i.parts.foldl (fun s p => s.modChip p.chip (fun x => match x.results with
    | [] => x
    | r :: rest => { x with results := rest, lastResult := r })) s

/-- Bytes [31:16] of the result records that Reeve has just taken from the chips of an issue, by partition. -/
def State.taken (s : State) (i : Issue) : List (Nat × List Byte) :=
  (i.parts.filter (fun p => i.out.any (fun q => decide (q.1 = p.part)))).map (fun p => (p.part, slice (s.chip p.chip).lastResult 16 16))

/-- The reads of an issue's chains, from the bundle, in the loads of OD 0x2420 (R289, Table 9.8). -/
def State.countLoads (s : State) (i : Issue) : State := match s.model i.slot with
  | none => s
  | some m => i.parts.foldl (fun s p =>
      let e := m.variant.entryOn i.entry p.part
      s.modChip p.chip (fun x => { x with loftReads := x.loftReads + e.loftReads, granReads := x.granReads + e.granBytes })) s

/-- The largest of a figure over the chips. -/
def State.highest (s : State) (g : Chip → Nat) : Nat := (s.chips.toList.map g).foldl max 0

/-- A window of OD 0x2420 ends once shaft 0 has entered another revolution, or after 100 ms at standstill (R289): the loads of the
busiest chip are shown, 32 Loft words and 4 096 Granary bytes a cycle being all that a chip can read (Table 8.11). -/
def State.loadWindow (s : State) : State :=
  let x := s.shaft 0
  let rev := floorDiv x.angle (2 ^ 24)
  let ticks := s.timebase - s.loadFrom.1
  if (if x.standstill then decide (10000000 ≤ ticks) else decide (rev ≠ s.loadFrom.2)) && decide (0 < ticks) then
    let mille (key per n : Nat) (mhz : Nat) : Nat := if mhz = 0 then 0 else
      let d := per * mhz * ticks
      n * 100000 / d + (if n * 100000 % d = 0 then 0 else ofBool (Config.roundsUp key (n * 100000) d))
    let loft := s.highest (fun c => mille 0x242003 32 c.loftReads (tierMHz c.tier))
    let gran := s.highest (fun c => mille 0x242004 4096 c.granReads (tierMHz c.tier))
    let rate := s.highest (fun c => c.modelBytes * 100000000 / ticks
      + (if c.modelBytes * 100000000 % ticks = 0 then 0 else ofBool (Config.roundsUp 0x242005 (c.modelBytes * 100000000) ticks)))
    let s := ((s.setNum 0x2420 3 (min 65535 loft : Nat)).setNum 0x2420 4 (min 65535 gran : Nat)).setNum 0x2420 5 (min (2 ^ 32 - 1) rate : Nat)
    { s with loadFrom := (s.timebase, rev),
             chips := s.chips.map (fun c => { c with loftReads := 0, granReads := 0, modelBytes := 0 }) }
  else s

/-- A committed issue completes: judged late, counted, published, and its job's followers issued (R260, R275, R283, R284). -/
def State.complete (s : State) (i : Issue) : State :=
  let d := s.jobDesc i.tenant i.job
  let r := blk i.tenant (0x20 + i.job)
  let st := blk i.tenant 0x2F
  let late := d.deadline ≠ 0 && decide (i.angle + d.deadline ≤ (s.shaft i.shaft).angle)
  let s := ((s.bump r 4).setNum r 8 (s.shaft 0).angle).bump st 1
  let s := if i.satFlag then s.bump st 2 else s
  let s := s.add st 3 i.saturated
  let first := late && (s.job i.tenant i.job).onTime
  let s := s.modJob i.tenant i.job (fun x => { x with onTime := !late })
  let s := if late then (s.bump r 6).bump st 10 else s
  let s := if first then s.raise 0x4C01 0 i.tenant i.job else s
  let s := ((s.countLoads i).sendResults i i.job (i.resultFlags late)).takeResults i
  let s := s.publish i.tenant i.job (s.taken i) i.angle i.k (i.resultFlags late) i.shaft
  let s := s.keepSample i
  let s := s.removeIssue i.id
  let s := s.release i.frame i.tenant i.job
  (s.promote.chained i.tenant i.job i.k i.angle i.flags i.shaft).writeOwed.retier

/-- JOB_COMPLETE: of a job that is no wake job. -/
def State.jobEnd (s : State) (id : Nat) : State := match s.issue id with
  | some i => if s.ripe i && !s.isWakeJob i.tenant i.job then s.complete i else s
  | none => s

/-- The meaning of JOB_COMPLETE. -/
def execJobComplete (id : Nat) (s : State) : Host.Outcome State Fault Refusal := .next (s.jobEnd id)

/-! ### Wake gates (R183, R184) -/

/-- The STREAM descriptor of a wake issue: its partition run and descriptor. -/
def State.streamOf (s : State) (i : Issue) : Option (PartRun × Desc) :=
  i.parts.findSome? fun p => (p.descs.find? (fun r => decide ((s.descAt p.chip i.slot p.part r.idx).op = opStream))).map
    (fun r => (p, s.descAt p.chip i.slot p.part r.idx))

/-- The gated jobs of a wake job. -/
def State.gatedJobs (s : State) (t j : Nat) : List Nat :=
  (List.range 15).filter (fun g => s.jobOn t g && (s.jobDesc t g).gated && decide ((s.jobDesc t g).gateJob = j) && !s.ungated t g)

/-- WAKE_JOB_COMPLETE: the wake word is read, the gated jobs whose output fired are issued on the same trigger, and the others
release its frame. -/
def State.wakeEnd (s : State) (id : Nat) : State := match s.issue id with
  | none => s
  | some i =>
    if !s.ripe i || !s.isWakeJob i.tenant i.job then s
    else match s.streamOf i with
      | none => s.complete i
      | some (p, d) =>
        let wake := leNat ((List.range 2).map (fun a => s.loftByte i p (64 * d.outHandle + a)))
        let n : Network := ⟨s.granByte p.chip i.slot p.part, 32 * d.weightBase⟩
        let go (s : State) (g : Nat) : State :=
          if bit wake (s.jobDesc i.tenant g).gateOutput then
            let s := s.modJob i.tenant g (fun r => { r with holdOver := some ((s.shaft i.shaft).angle, n.holdOver, i.shaft) })
            if s.runs && decide (s.tenantState i.tenant = 1) && (s.jobModel i.tenant g).isSome then
              s.trigger i.tenant ⟨g, i.k, i.angle, i.flags, i.shaft, i.frame, i.frameFlags, 0, true⟩
            else s.release i.frame i.tenant g
          else s.release i.frame i.tenant g
        let s := s.bump (blk i.tenant 0x2F) (if wake = 0 then 8 else 7)
        ((s.gatedJobs i.tenant i.job).foldl go s).complete i

/-- The meaning of WAKE_JOB_COMPLETE. -/
def execWakeJobComplete (id : Nat) (s : State) : Host.Outcome State Fault Refusal := .next (s.wakeEnd id)

/-- The hold-over of a gated job has lapsed (R184): its shaft has turned that many revolutions, either way, since the firing. -/
def State.holdOverEnd (s : State) (t j : Nat) : State := match (s.job t j).holdOver with
  | none => s
  | some (a, turns, sh) =>
    if turns * 2 ^ 24 ≤ ((s.shaft sh).angle - a).natAbs then
      (s.modJob t j (fun r => { r with holdOver := none })).retier
    else s

/-- The meaning of WAKE_HOLD_OVER_LAPSE. -/
def execWakeHoldOverLapse (t j : Nat) (s : State) : Host.Outcome State Fault Refusal := .next (s.holdOverEnd t j)

end Sys2Proof.Machine
end

