-- ==== Sys2Proof/Machine/Angle.lean ====
section
/-! DEFINITION. Angles of shafts and periodic series of angles (R63, R67, R84), speeds, trajectories, and the times that a chip's
mirror predicts (R91, R96). -/

namespace Sys2Proof.Machine

/-- One turn in tf. -/
def turn : Int := 2 ^ 24

/-! ### Configuration of a shaft (Table 2.2) -/

def State.cfg (s : State) (i sub : Nat) : Nat := s.nat (0x2200 + i) sub
def State.kind (s : State) (i : Nat) : Nat := s.cfg i 1

/-- Counted edges per revolution (Table 2.1). -/
def State.edgesPer (s : State) (i : Nat) : Nat := if s.kind i = 1 then 4 * s.cfg i 2 else s.cfg i 2

/-- Missing teeth of a wheel whose reference is its gap. -/
def State.gapTeeth (s : State) (i : Nat) : Nat := if (s.kind i = 2 ∨ s.kind i = 3) ∧ s.cfg i 4 = 2 then s.cfg i 3 else 0

/-- The maximum speed of a shaft in rpm as a quotient (R62). -/
def State.maxSpeed (s : State) (i : Nat) : Nat × Nat :=
  if s.kind i = 4 then (s.cfg 0 9 * s.cfg i 6, max 1 (s.cfg i 7)) else (s.cfg i 9, 1)

/-- The angle of edge `i` of `e` within the revolution (R63). -/
def edgePos (e i : Nat) : Int := (i * 2 ^ 24 / max 1 e : Nat)

/-- The edge after edge `i` and the angle covered: positions from `e − m` on are absent. -/
def edgeStep (e m i : Nat) (fwd : Bool) : Nat × Int :=
  if fwd then (if e ≤ i + 1 + m then (0, turn - edgePos e i) else (i + 1, edgePos e (i + 1) - edgePos e i))
  else if i = 0 then (e - m - 1, edgePos e (e - m - 1) - turn) else (i - 1, edgePos e (i - 1) - edgePos e i)

/-- The angle of a derived shaft (R67). -/
def State.derived (s : State) (i : Nat) (a0 : Int) : Int :=
  let p := a0 * (s.cfg i 6 : Int)
  floorDiv (if s.flag (0x2200 + i) 8 then -p else p) (s.cfg i 7) + (s.cfg i 5 : Int)

/-- Shafts derived from shaft 0. -/
def State.followers (s : State) (i : Nat) : List Nat := if i = 0 then (List.range 4).filter (fun j => decide (j ≠ 0 ∧ s.kind j = 4)) else []

/-! ### Speeds -/

/-- The speed magnitude of a shaft exceeds `n / d` rpm; a speed of 1 tf per tick is 6 × 10^9 / 2^24 rpm. -/
def Shaft.faster (x : Shaft) (n d : Nat) : Bool := decide (n * 2 ^ 24 * x.speedDen < x.speed.natAbs * 6000000000 * d)

/-- The speed magnitude lies below `n / d` rpm. -/
def Shaft.slower (x : Shaft) (n d : Nat) : Bool := decide (x.speed.natAbs * 6000000000 * d < n * 2 ^ 24 * x.speedDen)

/-- A quotient reported as an integer: exact where it is one, else one of its neighbours (R66 states no rounding). -/
def reported (key : Nat) (n : Int) (d : Nat) : Int :=
  let q := floorDiv n d
  if n = q * d then q else q + ofBool (Config.roundsUp key n d)

/-- A value in an INTEGER32 field: one beyond its range shows the limit (log entry 77). -/
def satInt32 (x : Int) : Int := clampInt (-2 ^ 31) (2 ^ 31 - 1) x

/-- The speed in 0.001 rpm (OD 0x2210:05). -/
def Shaft.milliRpm (x : Shaft) : Int :=
  if x.standstill then 0 else satInt32 (reported 0x221005 (x.speed * 6000000000000) (2 ^ 24 * x.speedDen))

/-- The angle of a trajectory at a time differs from a measured angle by more than a tolerance (R91, R92). -/
def Trajectory.misses (p : Trajectory) (t : Nat) (angle : Int) (tol : Nat) : Bool :=
  let dt : Int := (t : Int) - p.time
  let den : Int := 2 * p.speedDen * p.accelDen
  let num := 2 * (p.accelDen : Int) * p.speed * dt + (p.speedDen : Int) * p.accel * dt * dt
  decide ((tol : Int) * den < ((angle - p.angle) * den - num).natAbs)

/-! ### Periodic series (R84, R105, R121) -/

/-- Angles phase + floor(k × 2^24 × pn / pd), or the single angle `phase` where pn is 0. -/
structure Series where
  phase : Int
  pn : Nat
  pd : Nat
deriving DecidableEq, Repr, Inhabited

def Series.at_ (q : Series) (k : Int) : Int := if q.pn = 0 then q.phase else q.phase + floorDiv (k * turn * q.pn) q.pd

/-- The greatest k whose angle is at most `x`. -/
def Series.upTo (q : Series) (x : Int) : Int :=
  if q.pn = 0 then (if q.phase ≤ x then 0 else -1) else floorDiv ((x - q.phase + 1) * q.pd - 1) (2 ^ 24 * q.pn)

/-- What a movement from the mark to an angle crosses (R81): the last angle crossed, its k, and how many were. -/
def Series.crossed (q : Series) (back : Bool) (mark angle : Int) : Option (Int × Int × Nat) :=
  if back then
    let n := q.upTo (mark - 1) - q.upTo (angle - 1)
    let k := q.upTo (angle - 1) + 1
    if 0 < n then some (k, q.at_ k, n.toNat) else none
  else
    let n := q.upTo angle - q.upTo mark
    let k := q.upTo angle
    if 0 < n then some (k, q.at_ k, n.toNat) else none

/-- The k of the next angle beyond the mark: above it, or below it where `down`. -/
def Series.nextK (q : Series) (down : Bool) (mark : Int) : Int := if down then q.upTo (mark - 1) else q.upTo mark + 1

def State.eventSeries (s : State) (t e : Nat) : Series :=
  let i := blk t (0x10 + e)
  ⟨s.num i 5, s.nat i 3, s.nat i 4⟩

def State.camSeries (s : State) (k : Nat) : Series := ⟨s.num (0x2310 + k) 5, s.nat (0x2310 + k) 3, s.nat (0x2310 + k) 4⟩

/-- The first channel of a group, whose settings are those of the group (R103). -/
def State.groupLead (s : State) (g : Nat) : Nat := 0x2300 + (s.groupChannels g).headD 0

/-- The start angles of a group's frames. -/
def State.frameSeries (s : State) (g : Nat) : Series := ⟨s.num (s.groupLead g) 13, s.nat (s.groupLead g) 12, 1⟩

/-- The series, shaft and mark of a job's triggers, for kinds 0 to 2. -/
def State.jobSeries (s : State) (t j : Nat) : Option (Series × Nat) :=
  let d := s.jobDesc t j
  if d.kind = 0 then some (s.eventSeries t d.index, s.nat (blk t (0x10 + d.index)) 2)
  else if d.kind = 1 then some (s.frameSeries d.index, s.groupShaft d.index)
  else if d.kind = 2 then some (s.camSeries d.index, s.nat (0x2310 + d.index) 2)
  else none

/-! ### Predicted gaps (R96) -/

/-- Ticks of the horizon: one revolution of shaft 0, or 100 ms where that is shorter. -/
def State.horizon (s : State) : Nat :=
  let x := s.shaft 0
  if x.standstill ∨ x.speed = 0 then 10000000 else min 10000000 (2 ^ 24 * x.speedDen / x.speed.natAbs)

/-- Ticks that a job is predicted to be resident on a chip. -/
def State.jobTicks (s : State) (t j c : Nat) : Nat :=
  let m := tierMHz (max 1 (s.chip c).tier)
  ceilDiv (100 * s.jobCycles t j c (max 1 (s.chip c).tier)) m

/-- The angle of a shaft as the mirror of a chip extrapolates it from its last message, with speed and acceleration (R95); it passes
the master's clamp by no more than the movement in 4 µs. -/
def State.mirrorAngle (s : State) (c i : Nat) : Int :=
  let m := vget (s.chip c).mirror.shafts i
  let x := s.shaft i
  let dt : Int := (s.timebase - m.timebase : Nat)
  let a := m.angle + (2 * 25600 * m.speed * dt + m.accel * dt * dt).fdiv (2 * 2 ^ 24 * 10000)
  let kind := s.kind i
  if kind = 0 ∨ kind = 4 ∨ x.standstill ∨ x.inputLoss ∨ x.beyond ∨ x.counted = false then a
  else
    let teeth := if x.referenced then s.gapTeeth i else 0
    let slack : Int := (m.speed.natAbs * 4 + 65535 : Nat) / 65536
    let up := x.edgeAngle + (edgeStep (s.edgesPer i) teeth x.edge true).2 - 1 + slack
    let down := x.edgeAngle + (edgeStep (s.edgesPer i) teeth x.edge false).2 + 1 - slack
    clampInt (min up down) (max up down) a

/-- The times at which a series of angles is predicted to be passed within the horizon, by the mirror of a chip: falling where the
shaft runs in reverse and the series is taken in both directions. -/
def State.passTimes (s : State) (c sh : Nat) (q : Series) (both : Bool) : List Nat :=
  let m := vget (s.chip c).mirror.shafts sh
  let x := s.shaft sh
  let v := m.speed.natAbs
  let back := bit m.status 3
  if v = 0 ∨ (back && !both) = true then []
  else
    let a := s.mirrorAngle c sh
    let reach : Int := (s.horizon * v / 6553600 : Nat)
    let at_ (k : Int) : Nat := s.timebase + (q.at_ k - a).natAbs * 6553600 / v
    if back then
      let k0 := q.nextK true x.lwm
      (List.range ((k0 - q.upTo (a - reach - 1)).toNat)).map (fun (n : Nat) => at_ (k0 - n))
    else
      let k0 := q.nextK false x.hwm
      (List.range ((q.upTo (a + reach) + 1 - k0).toNat)).map (fun (n : Nat) => at_ (k0 + n))

/-- Substitutions that fall due within the horizon: the next one, and one every `T` µs after it. -/
def State.substTimes (s : State) (due : Option Nat) (interval : Nat) : List Nat := match due with
  | none => []
  | some m => (List.range (s.horizon / max 1 (100 * interval) + 1)).filterMap fun n =>
      let t := 100 * (m + n * interval)
      if t < s.timebase + s.horizon then some t else none

/-- The event or camera of a trigger source: its series, shaft, both directions, next substitution and interval. -/
def State.sourceTimes (s : State) (c sh : Nat) (q : Series) (both : Bool) (due : Option Nat) (interval : Nat) : List Nat :=
  if bit (vget (s.chip c).mirror.shafts sh).status 2 then s.substTimes due interval else s.passTimes c sh q both

/-- The times of the fires of a tenant's event that a chip's mirror predicts. -/
def State.eventTimes (s : State) (c t e : Nat) : List Nat :=
  let i := blk t (0x10 + e)
  s.sourceTimes c (s.nat i 2) (s.eventSeries t e) (s.nat i 6 = 1) (s.ev t e).substDue (s.nat i 8)

/-- The times at which a job is predicted to start on a chip within the horizon (R96): at the fires and frames of its source, a
job of kind 3 after its source job, one of kind 4 at once while its session runs, one of kind 5 at the fires of the step event. -/
def State.predicted (s : State) (t j c : Nat) : Nat → List Nat
  | 0 => []
  | n + 1 =>
    let d := s.jobDesc t j
    if d.kind = 3 then (s.predicted t d.index c n).map (fun a => a + s.jobTicks t d.index c)
    else if d.kind = 4 then (if s.nat (0x6100 + d.index) 3 = 2 then [s.timebase] else [])
    else if d.kind = 5 then s.eventTimes c t (s.nat 0x5000 4)
    else if d.kind = 0 then s.eventTimes c t d.index
    else if d.kind = 1 then
      s.sourceTimes c (s.groupShaft d.index) (s.frameSeries d.index) (s.nat (s.groupLead d.index) 17 = 1) none 0
    else
      let k := 0x2310 + d.index
      s.sourceTimes c (s.nat k 2) (s.camSeries d.index) false (s.cam d.index).ev.substDue (s.nat k 7)

/-- Free windows between busy ones in ascending order. -/
def freeWindows (start stop : Nat) : List (Nat × Nat) → List (Nat × Nat)
  | [] => if start < stop then [(start, stop)] else []
  | b :: r => (if start < b.1 then [(start, min b.1 stop)] else []) ++ freeWindows (max start b.2) stop r

/-- The gaps of a chip (R96): at most 8, each at least 20 µs long. -/
def State.gapsOf (s : State) (c : Nat) : List (Nat × Nat) :=
  let now := s.timebase
  let jobs := s.tierJobs c
  let due := jobs.flatMap fun (t, j) => (s.predicted t j c 15).map (fun a => (a, a + s.jobTicks t j c))
  let live := (s.issues.filter (fun i => i.onChip c && decide (i.st = .committed))).map (fun i => (now, now + max 1 (s.jobTicks i.tenant i.job c)))
  let busy := sortBy (fun a b => decide (a.1 ≤ b.1)) (live ++ due)
  ((freeWindows now (now + s.horizon) busy).filter (fun w => decide (w.1 + 2000 ≤ w.2))).take 8

end Sys2Proof.Machine
end

