-- ==== Sys2Proof/Machine/Resample.lean ====
section
/-! DEFINITION. The arithmetic of the resampler (R107, R108): half-band decimators and the polyphase interpolator, on samples as
pairs of time in 2^−16 ticks and Q0.31 value. -/

namespace Sys2Proof.Machine

/-! ### Fixed-point functions, with 192 fraction bits -/

def fxOne : Int := 2 ^ 192

/-- π with 192 fraction bits: floor(π × 2^192). -/
def fxPi : Int := 19720096697726538562396133364228268891463450865190089732560

def fxMul (a b : Int) : Int := (a * b).fdiv fxOne
def fxDiv (n d : Int) : Int := if d = 0 then 0 else (n * fxOne).fdiv d

/-- Terms of a series: each the last one times `z` over `den n`. -/
def fxSeries (z : Int) (den : Nat → Int) (term acc : Int) (n : Nat) : Nat → Int
  | 0 => acc
  | f + 1 => let t := (fxMul term z).fdiv (den n); fxSeries z den t (acc + t) (n + 1) f

/-- sin(π x) / (π x) for x = n / d. -/
def fxSinc (n : Int) (d : Nat) : Int :=
  if n = 0 then fxOne
  else
    let m := n.emod (2 * d)
    let y := if (d : Int) ≤ m then m - 2 * d else m
    let z := fxMul fxPi (fxDiv y d)
    let sin := fxSeries (-(fxMul z z)) (fun k => (2 * (k : Int) + 2) * (2 * k + 3)) z z 0 60
    fxDiv sin (fxMul fxPi (fxDiv n d))

/-- I0 of a square: Σ (z² / 4)^k / (k!)². -/
def fxI0 (z2 : Int) : Int := fxSeries (z2.fdiv 4) (fun k => ((k : Int) + 1) * (k + 1)) fxOne fxOne 0 80

/-- K(n / d, β) of R108. -/
def fxKaiser (n : Int) (d beta : Nat) : Int :=
  fxDiv (fxI0 ((beta * beta : Nat) * (fxOne - fxDiv (n * n) (d * d : Nat)))) (fxI0 ((beta * beta : Nat) * fxOne))

/-- The nearest integer to n / d, a tie going to the even one. -/
def roundEven (n : Int) (d : Nat) : Int :=
  let q := n.fdiv d
  let r := n - q * d
  if 2 * r < d then q else if (d : Int) < 2 * r then q + 1 else if q % 2 = 0 then q else q + 1

/-- Quantised to Q1.17. -/
def q117 (x : Int) : Int := roundEven x (2 ^ 175)

/-! ### Stages -/

/-- The taps h[−15] to h[15] of a half-band stage. -/
def halfTap (n : Int) : Int := q117 (fxMul ((fxSinc n 2).fdiv 2) (fxKaiser n 15 7))

def sampleAt (l : Array (Int × Int)) (i : Int) : Int := if 0 ≤ i then ((l[i.toNat]?).map Prod.snd).getD 0 else 0

/-- One half-band stage: every second image, rounded to Q0.31 with saturation. -/
def halfStage (odd : Bool) (l : Array (Int × Int)) : Array (Int × Int) :=
  let taps := (List.range 31).map (fun n => (Int.ofNat n - 15, halfTap (Int.ofNat n - 15)))
  (((List.range l.size).filter (fun i => decide (i % 2 = ofBool odd))).map (fun (i : Nat) =>
    ((l[i]?.map Prod.fst).getD 0,
     clampInt (-(2 ^ 31 : Int)) (2 ^ 31 - 1)
       (roundEven ((taps.map (fun t => t.2 * sampleAt l ((i : Int) - t.1))).sum) (2 ^ 17))))).toArray

/-- The cascade of `d` stages; `phase` tells which images stage `i` keeps. -/
def cascade (phase : Nat → Bool) (l : Array (Int × Int)) : Nat → Array (Int × Int)
  | 0 => l
  | d + 1 => halfStage (phase d) (cascade phase l d)

/-- The kernel at τ = n / 512 intermediate samples, with 2 fc / fs' = cn / cd (R108). -/
def kernelTap (cn cd : Nat) (n : Int) : Int :=
  if 64 * 512 ≤ n.natAbs then 0
  else q117 (fxMul (fxMul (fxDiv cn cd) (fxSinc (n * cn) (512 * cd))) (fxKaiser n (64 * 512) 8))

/-- The kernel between two phases, with a 16-bit fraction: Q1.17 with 16 more fraction bits. -/
def kernelAt (cn cd : Nat) (n : Int) (frac : Nat) : Int :=
  kernelTap cn cd n * (2 ^ 16 - frac : Int) + kernelTap cn cd (n + 1) * frac

/-- The sum y of a position at time `t` (2^−16 ticks), as Q0.31 (R108). DESIGN CHOICE (log entry 93): the kernel between two phases
is not rounded, the products are summed exactly, and the sum is rounded to Q0.31, half to even, before the gain. -/
def interpolate (cn cd : Nat) (l : Array (Int × Int)) (t : Int) : Int :=
  let i := ((List.range l.size).filter (fun i => decide ((l[i]?.map Prod.fst).getD 0 ≤ t))).length
  if i = 0 ∨ l.size ≤ i then 0
  else
    let t0 := (l[i - 1]?.map Prod.fst).getD 0
    let t1 := (l[i]?.map Prod.fst).getD 0
    let u := if t1 ≤ t0 then 0 else ((t - t0) * 2 ^ 25).fdiv (t1 - t0)
    let acc := ((List.range 129).map (fun m =>
      let idx : Int := (i : Int) - 1 + (Int.ofNat m - 64)
      let x := u - (Int.ofNat m - 64) * 2 ^ 25
      kernelAt cn cd (x.fdiv (2 ^ 16)) (x.emod (2 ^ 16)).toNat * sampleAt l idx)).sum
    roundEven acc (2 ^ 33)

/-- The output code of a position: gain shift, rounding and saturation (R108). -/
def outputCode (bits gain : Nat) (y : Int) : Int × Bool :=
  let v := roundEven (y * 2 ^ (bits - 1 + gain)) (2 ^ 31)
  let c := clampInt (-(2 ^ (bits - 1) : Int)) (2 ^ (bits - 1) - 1) v
  (c, v != c)

end Sys2Proof.Machine
end

