-- ==== Sys2Proof/Machine/Sensor.lean ====
section
/-! DEFINITION. Sensor channels and their frames, and cameras (chapter 3). -/

namespace Sys2Proof.Machine

/-! ### Channels and ports -/

def State.chan (s : State) (c : Nat) : Channel := vget s.channels c
def State.modChan (s : State) (c : Nat) (f : Channel → Channel) : State := { s with channels := vmod s.channels c f }
def State.tdm (s : State) (p : Nat) : TdmPort := vget s.ports p
def State.modTdm (s : State) (p : Nat) (f : TdmPort → TdmPort) : State := { s with ports := vmod s.ports p f }

def State.chanOn (s : State) (c : Nat) : Bool := s.flag (0x2300 + c) 1

/-- The enabled channels of a port. -/
def State.portChannels (s : State) (p : Nat) : List Nat :=
  (List.range 8).filter (fun c => s.chanOn c && decide (s.nat (0x2300 + c) 2 = p))

/-- The port drives bit clock and sync (R101). -/
def State.masterPort (s : State) (p : Nat) : Bool := decide (s.nat (0x2300 + (s.portChannels p).headD 0) 8 = 0)

/-- A port lost: clock, rate, or fewer than 16 good TDM frames since (R116, R117). -/
def TdmPort.lost (p : TdmPort) : Bool := p.clockLoss || p.rateLoss || decide (p.good < 16)

/-- A channel or its port is lost. -/
def State.chanLost (s : State) (c : Nat) : Bool :=
  (s.chan c).stuck || decide ((s.chan c).calm < 16) || (s.tdm (s.nat (0x2300 + c) 2)).lost

/-- The status word of a channel (Table 3.2). -/
def State.chanStatus (s : State) (c : Nat) : Nat :=
  let p := s.tdm (s.nat (0x2300 + c) 2)
  word [(s.chanOn c && s.runs, 0), (s.chanOn c && s.chanLost c, 1), (p.clockLoss, 2), (p.slip, 3), (p.rateLoss, 4),
    ((s.chan c).stuck, 5)]

/-- The lowest enabled channel of a port, for the detail of R124. -/
def State.portDetail (s : State) (p : Nat) : Nat := 4096 * (s.portChannels p).headD 0 + p

/-! ### Frames under way (R105 to R107, R112, R114, R115) -/

/-- Grid positions of a frame of a group. -/
def State.positions (s : State) (g : Nat) : Nat := s.nat (s.groupLead g) 11 * s.nat (s.groupLead g) 12

/-- The grid position θ(k, j) of a group (R105). -/
def State.gridAt (s : State) (g : Nat) (k : Int) (j : Nat) : Int :=
  (s.frameSeries g).at_ k + (j * 2 ^ 24 / max 1 (s.nat (s.groupLead g) 11) : Nat)

/-- The groups whose frames lie on a shaft. -/
def State.groupsOn (s : State) (i : Nat) : List Nat :=
  (List.range 8).filter (fun g => !(s.groupChannels g).isEmpty && decide (s.groupShaft g = i))

/-- A frame counted as not analysed on every channel of its group, with 0x3011 once per episode and the speculative issues on it
squashed (R114). `cause` is a flag bit of Table 3.4. -/
def State.notAnalysed (s : State) (g cause : Nat) (k : Int) : State :=
  let s := (s.groupChannels g).foldl (fun s c => s.bump (0x2300 + c) 19) s
  let s := if (s.group g).notAnalysed then s
    else s.raise 0x3011 (channelUnit ((s.groupChannels g).headD 0)) noTenant (4096 * (s.groupChannels g).headD 0 + cause)
  let s := s.modGroup g (fun x => { x with notAnalysed := true })
  s.squashIf (fun i => decide (i.kind = 1 ∧ i.index = g ∧ i.k = k))

/-- A frame header (Table 3.3) with its check. -/
def frameHeader (start stop : Int) (t0 t1 number : Nat) (v0 v1 : Int) (w h c source format shaft flags mask sat : Nat) : List Byte :=
  let b := leInt 8 start ++ leInt 8 stop ++ leBytes 8 t0 ++ leBytes 8 t1 ++ leBytes 4 number ++ leInt 4 v0 ++ leInt 4 v1
    ++ leBytes 2 w ++ leBytes 2 h ++ leBytes 1 c ++ leBytes 1 source ++ leBytes 1 format ++ leBytes 1 shaft ++ leBytes 2 flags
    ++ leBytes 2 mask ++ leBytes 4 sat ++ [0, 0]
  b ++ leBytes 2 (crc16 b)

/-- A frame under way is marked not analysed: its header carries the cause and flag [3], and it is counted and delivered to no one
(R112 to R115). -/
def State.stopFrame (s : State) (g cause : Nat) (r : FrameRun) : State :=
  let cs := s.groupChannels g
  let sh := s.groupShaft g
  let x := s.shaft sh
  let flags := Nat.lor r.flags (Nat.lor (2 ^ cause) (2 ^ 3))
  let h := frameHeader r.angle0 x.angle r.time0 s.timebase (unsigned 32 r.k) r.rpm0 x.milliRpm (s.positions g) 1 cs.length g
    (s.nat (s.groupLead g) 15) (sh + 16 * r.d) flags (bitmap 8 cs.contains) 0
  (s.modGroup g (fun y => { y with stopped := h })).notAnalysed g cause r.k

/-- The frames under way of a group that satisfy `p` end with no data. -/
def State.failRuns (s : State) (g cause : Nat) (p : FrameRun → Bool) : State :=
  let bad := (s.group g).runs.filter p
  let s := s.modGroup g (fun x => { x with runs := x.runs.filter (fun r => !p r) })
  bad.foldl (fun s r => s.stopFrame g cause r) s

/-- Frames under way on a shaft, not yet past their last position, end for a happening of Table 3.5. -/
def State.failFrames (s : State) (i cause : Nat) : State :=
  (s.groupsOn i).foldl (fun s g => s.failRuns g cause (fun r => r.last.isNone)) s

/-- A flag set on every frame under way of a group. -/
def State.flagRuns (s : State) (g flag : Nat) : State :=
  s.modGroup g (fun x => { x with runs := x.runs.map (fun r => { r with flags := Nat.lor r.flags (2 ^ flag) }) })

/-- A flag set on the frames of the groups of a channel. -/
def State.flagChannel (s : State) (c flag : Nat) : State := s.flagRuns (s.nat (0x2300 + c) 14) flag

/-- A lost channel: the frames under way of its group are not analysed (R117). -/
def State.loseChannel (s : State) (c : Nat) : State := s.failRuns (s.nat (0x2300 + c) 14) 6 (fun _ => true)

/-- Half-band stages for a sample rate (R107): the largest d up to 12 with fs / 2^d ≥ 2.5 r0. -/
def stages (fs n speed den : Nat) : Nat :=
  ((List.range 13).filter (fun d => decide (5 * n * speed * 100000000 * 2 ^ d ≤ 2 * fs * 2 ^ 24 * den))).getLastD 0

/-- Strip transfers for a frame that begins (R265): to the chips of every job that is issued only when the frame is complete and
whose frame handle names one place for all its issues (R310). A job that speculates takes its strips with its issue. -/
def State.queueStrips (s : State) (kind index : Nat) (k : Int) : State :=
  (s.jobsOf kind index).foldl (fun s (t, j) =>
    let d := s.jobDesc t j
    match s.jobModel t j with
    | none => s
    | some m =>
      if d.speculate || d.gated || decide (s.tenantState t ≠ 1) then s
      else (m.placed.zip (List.range m.placed.length)).foldl (fun s (z, q) =>
        let x := m.variant.part q
        if m.variant.takesPart d.entry q && !decide (x.scratchBase ≤ d.handle ∧ d.handle < x.scratchBase + x.scratchUnits) then
          s.modChip z.chip (fun y => { y with
            stripsWait := y.stripsWait ++ (List.range 8).map (fun n => (StripFor.job t j k, n)) }.feedStrips)
        else s) s) s

/-- The frame k of a group as it begins on a shaft (R105, R107). -/
def State.newRun (s : State) (g i : Nat) (k : Int) : FrameRun :=
  let x := s.shaft i
  let lead := s.groupLead g
  { k := k, d := stages (s.nat lead 7) (s.nat lead 11) x.speed.natAbs x.speedDen, speed := x.speed, speedDen := x.speedDen,
    angle0 := s.gridAt g k (if x.reverse then s.positions g - 1 else 0), time0 := s.timebase, rpm0 := x.milliRpm,
    flags := word [(x.uncertain, 0), (x.reverse, 5)], reverse := x.reverse, last := none, strips := 0 }

/-- A frame begins (R105, R107): its ring makes room (R287), and on a shaft in overspeed or beyond tracking (R112), or with a lost
sensor (R117), it is not analysed. -/
def State.beginFrame (s : State) (g i : Nat) (k : Int) : State :=
  let x := s.shaft i
  let r := s.newRun g i k
  if x.overspeed then s.stopFrame g 1 r
  else if x.beyond then s.stopFrame g 2 r
  else if (s.groupChannels g).any s.chanLost then s.stopFrame g 6 r
  else ((s.evictFrame g).modGroup g (fun y => { y with runs := y.runs ++ [r] })).queueStrips 1 g k

/-- Frames that begin where a shaft moves from its mark to an angle, in the order of running. -/
def State.framesMoved (s : State) (i : Nat) (mark angle : Int) : State :=
  let x := s.shaft i
  if !s.runs || !x.referenced || !x.armed || x.standstill || x.inputLoss then s
  else (s.groupsOn i).foldl (fun s g =>
    let q := s.frameSeries g
    let q := if x.reverse then { q with phase := s.gridAt g 0 (s.positions g - 1) } else q
    if x.reverse ∧ s.nat (s.groupLead g) 17 = 0 then s
    else match q.crossed x.reverse mark angle with
      | some (k, _, n) => (List.range n).foldl (fun s (d : Nat) =>
          s.beginFrame g i (if x.reverse then k + (n - 1 - d : Nat) else k - (n - 1 - d : Nat))) s
      | none => s) s

/-- A resynchronisation forward (Table 3.5): the frames under way end. Of those whose start is stepped over, the ones stepped over
whole are counted without a header, and one in which the angle comes to lie is not analysed. -/
def State.framesResync (s : State) (i : Nat) (mark angle : Int) : State :=
  let s := (s.groupsOn i).foldl (fun s g => s.failRuns g 0 (fun r => r.last.isNone)) s
  (s.groupsOn i).foldl (fun s g => match (s.frameSeries g).crossed false mark angle with
    | some (k, _, n) => if s.runs then (List.range n).foldl (fun s (d : Nat) =>
        let k := k - n + 1 + d
        if s.gridAt g k (s.positions g - 1) ≤ angle then s.notAnalysed g 0 k else s.stopFrame g 0 (s.newRun g i k)) s else s
    | none => s) s

/-- A frame under way at a counted edge: its last position, its flags (R109, R115). -/
def FrameRun.atEdge (r : FrameRun) (x : Shaft) (final : Int) (now : Nat) : FrameRun :=
  if r.last.isSome then r
  else
    let a := x.speed.natAbs * r.speedDen
    let b := r.speed.natAbs * x.speedDen
    let drift := decide (a * 10 < 9 * b) || decide (5 * b < 4 * a)
    let passed := if r.reverse then decide (x.angle ≤ final) else decide (final ≤ x.angle)
    { r with
      flags := Nat.lor r.flags (word [(x.uncertain, 0), (drift, 4)]),
      last := if passed then some (x.angle, now, x.milliRpm) else none }

/-- A counted edge of a shaft as its groups take it: kept for the interpolation of R106, then judged. -/
def State.framesEdge (s : State) (i : Nat) : State :=
  let x := s.shaft i
  let note (s : State) (g : Nat) : State :=
    let pitch : Nat := 2 ^ 24 / max 1 (s.nat (s.groupLead g) 11)
    let final (r : FrameRun) : Int := s.gridAt g r.k (if r.reverse then 0 else s.positions g - 1)
    let s := s.modGroup g (fun y => { y with
      edges := if y.runs.isEmpty then ((x.angle, s.timebase) :: y.edges).take 2 else (x.angle, s.timebase) :: y.edges,
      runs := y.runs.map (fun r => r.atEdge x (final r) s.timebase) })
    if x.overspeed then s.failRuns g 1 (fun r => r.last.isNone)
    else if x.beyond then s.failRuns g 2 (fun r => r.last.isNone)
    else if !x.reverse ∧ x.angle + (pitch : Int) < x.hwm then s.failRuns g 3 (fun r => r.last.isNone)
    else s
  (s.groupsOn i).foldl note s

/-! ### The frame itself (R108, R113) -/

/-- The time of a grid position in 2^−16 ticks, between the two edges that bracket it (R106). DESIGN CHOICE (log entry 92): of a
position that a rocking shaft has crossed more than once, the newest such pair of edges gives the time. -/
def gridTime (edges : List (Int × Nat)) (a : Int) : Int :=
  let pairs := edges.zip (edges.drop 1)
  match pairs.find? (fun p => decide ((p.2.1 ≤ a ∧ a ≤ p.1.1) ∨ (p.1.1 ≤ a ∧ a ≤ p.2.1))) with
  | none => 0
  | some (n, o) => if n.1 = o.1 then 65536 * (n.2 : Int)
      else 65536 * (o.2 : Int) + (65536 * ((n.2 : Int) - o.2) * (a - o.1)).fdiv (n.1 - o.1)

/-- The output codes of a channel at the positions of a frame, and how many saturated (R108). -/
def State.channelCodes (s : State) (g c : Nat) (r : FrameRun) (js : List Nat) : List (Int × Bool) :=
  let i := 0x2300 + c
  let fs := s.nat i 7
  let n := s.nat i 11
  let v := r.speed.natAbs
  let d := stages fs n v r.speedDen
  let xs := (((s.chan c).samples.reverse).map (fun p => (Int.ofNat p.1, p.2))).toArray
  let l := cascade (fun st => Config.decimationPhase st r.time0) xs d
  let r0n := n * v * 100000000 * 2 ^ d
  let r0d := 2 ^ 24 * r.speedDen * fs
  let (cn, cd) := if r0n ≤ r0d then (9 * r0n, 10 * max 1 r0d) else (9, 10)
  js.map (fun j => outputCode (if s.nat i 15 = 0 then 16 else 8) (s.nat i 16)
    (interpolate cn cd l (gridTime (s.group g).edges (s.gridAt g r.k j))))

/-- The positions of a frame in the order of its data: falling in reverse running (R106). -/
def State.frameOrder (s : State) (g : Nat) (r : FrameRun) : List Nat :=
  if r.reverse then (List.range (s.positions g)).reverse else List.range (s.positions g)

/-- The data of the given positions: channels ascending within each (R113), and the saturated samples of each channel. -/
def State.frameData (s : State) (g : Nat) (r : FrameRun) (js : List Nat) : List Byte × List (Nat × Nat) :=
  let cs := s.groupChannels g
  let w := s.sampleBytes g
  let codes := cs.map (fun c => (c, s.channelCodes g c r js))
  ((List.range js.length).flatMap (fun n => codes.flatMap (fun q => leInt w (((q.2[n]?).map Prod.fst).getD 0))),
   codes.map (fun q => (q.1, (q.2.filter Prod.snd).length)))

/-- RESAMPLER_FRAME_COMPLETE: the oldest frame that has passed its last position is staged (R110, R113). DESIGN CHOICE (log entry
89): 'position 0' of Table 3.3 is the first position in time order, so that start and end angle of a reverse frame fall. -/
def State.frameComplete (s : State) (g : Nat) : State := match (s.group g).runs with
  | [] => s
  | r :: rest => match r.last with
    | none => s
    | some (_, _, v1) =>
      let lost := (s.groupChannels g).any s.chanLost
      let drop (s : State) : State := s.modGroup g (fun x => { x with
        runs := rest, edges := if rest.isEmpty then x.edges.take 2 else x.edges })
      if lost then (drop s).stopFrame g 6 r
      else
        let order := s.frameOrder g r
        let (data, sats) := s.frameData g r order
        let total := (sats.map Prod.snd).sum
        let s := sats.foldl (fun s q => (s.add (0x2300 + q.1) 20 q.2).bump (0x2300 + q.1) 18) s
        let flags := Nat.lor r.flags (if 0 < total then 2 ^ 8 else 0)
        let cs := s.groupChannels g
        let first := s.gridAt g r.k (order.headD 0)
        let final := s.gridAt g r.k (order.getLastD 0)
        let time (a : Int) : Nat := (gridTime (s.group g).edges a / 65536).toNat
        let sh := s.groupShaft g
        let header := frameHeader first final (time first) (time final) (unsigned 32 r.k) r.rpm0 v1 order.length 1 cs.length g
          (s.nat (s.groupLead g) 15) (sh + 16 * r.d) flags (bitmap 8 cs.contains) total
        let s := (drop s).modGroup g (fun x => { x with notAnalysed := false })
        s.frameReady g sh ⟨r.k, r.k, s.gridAt g r.k 0, flags, header, data, [], [], false⟩ (word [(bit flags 0, 0), (bit flags 5, 4)])

/-- The meaning of RESAMPLER_FRAME_COMPLETE. -/
def execResamplerFrameComplete (g : Nat) (s : State) : Host.Outcome State Fault Refusal := .next (s.frameComplete g)

/-! ### Serial-audio frames (R116, R117) -/

/-- The sample of a slot as Q0.31: the top bits of the slot, left-justified (R108). -/
def slotSample (width slotWidth raw : Nat) : Int :=
  signed width (raw % 2 ^ slotWidth / 2 ^ (slotWidth - width)) * 2 ^ (32 - width)

/-- The code that stuck detection counts: after the gain shift. -/
def gainCode (gain : Nat) (x : Int) : Int := clampInt (-(2 ^ 31 : Int)) (2 ^ 31 - 1) (x * 2 ^ gain)

/-- The time of the sample of a slot in 2^−16 ticks (R101), of a TDM frame whose end is the present sync edge: linearly between the
sync edges that bracket it in slave role; in master role by the frame period that the tray itself derives. -/
def State.sampleTime (s : State) (c : Nat) (last : Option Nat) : Nat :=
  let i := 0x2300 + c
  let slots := max 1 (s.nat i 6)
  let now := 65536 * s.timebase
  let back := slots - s.nat i 3
  if s.nat i 8 = 0 then now - 65536 * 100000000 * back / (max 1 (s.nat i 7) * slots)
  else match last with
    | some t => now - 65536 * (s.timebase - t) * back / slots
    | none => now

/-- A sample taken on a channel at a time. -/
def State.takeSample (s : State) (c : Nat) (time : Nat) (x : Int) : State :=
  let y := s.chan c
  let code := gainCode (s.nat (0x2300 + c) 16) x
  let same := if y.lastCode = some code then min (y.same + 1) 65536 else 1
  let stuck := decide (65536 ≤ same)
  let keep := if ((s.group (s.nat (0x2300 + c) 14)).runs).isEmpty then 400000 else y.samples.length + 1
  let s := s.modChan c (fun _ => { samples := ((time, x) :: y.samples).take keep, lastCode := some code, same := same,
                                   stuck := stuck, calm := if stuck then 0 else min 16 (y.calm + 1) })
  if stuck && !y.stuck then (s.raise 0x3001 (channelUnit c) noTenant (4096 * c)).loseChannel c else s

/-- The sample of a slot of a bridged frame: the channel's last one again. -/
def State.repeatSample (s : State) (c : Nat) (time : Nat) : State :=
  s.modChan c (fun y => { y with
    samples := (time, ((y.samples.head?).map Prod.snd).getD 0) :: y.samples, calm := if y.calm < 16 then 0 else 16 })

/-- A port is lost: the frames of its channels are not analysed (R117). -/
def State.losePort (s : State) (p : Nat) : State := (s.portChannels p).foldl State.loseChannel s

/-- A TDM frame of the wrong length in slave role: two are bridged, a third is clock loss (R116). It breaks the run of good frames
that ends a loss (R117). -/
def State.slipFrame (s : State) (p : Nat) : State :=
  let n := (s.tdm p).bad + 1
  let last := (s.tdm p).sync
  let s := s.modTdm p (fun y => { y with
    bad := n, slip := true, sync := some s.timebase, good := if 3 ≤ n ∨ y.good < 16 then 0 else y.good })
  let s := if n = 1 then s.raise 0x3003 (portUnit p) noTenant (s.portDetail p) else s
  if n ≤ 2 then
    let s := s.modTdm p (fun y => { y with bridged := true })
    (s.portChannels p).foldl (fun s c => (s.repeatSample c (s.sampleTime c last)).flagChannel c 7) s
  else if (s.tdm p).clockLoss then s
  else ((s.modTdm p (fun y => { y with clockLoss := true })).raise 0x3002 (portUnit p) noTenant (s.portDetail p)).losePort p

/-- TDM_FRAME_RECEIVE. -/
def State.tdmFrame (s : State) (p : Nat) (slots : List Nat) (bits : Nat) : State := match s.portChannels p with
  | [] => s
  | c :: _ =>
    let lead := 0x2300 + c
    if !s.runs then s
    else if !s.masterPort p && decide (bits ≠ s.nat lead 6 * s.nat lead 5) then s.slipFrame p
    else
      let last := (s.tdm p).sync
      let s := s.modTdm p (fun y => { y with
        sync := some s.timebase, bad := 0, slip := false, bridged := false, clockLoss := false, good := min 16 (y.good + 1) })
      (s.portChannels p).foldl (fun s c => s.takeSample c (s.sampleTime c last)
        (slotSample (s.nat (0x2300 + c) 4) (s.nat (0x2300 + c) 5) ((slots[s.nat (0x2300 + c) 3]?).getD 0))) s

/-- The meaning of TDM_FRAME_RECEIVE. -/
def execTdmFrameReceive (p : Nat) (slots : List Nat) (bits : Nat) (s : State) : Host.Outcome State Fault Refusal :=
  .next (s.tdmFrame p slots bits)

/-- No sync of a port for more than 2 nominal frame periods, from the last sync or from entry into watching. -/
def State.portQuiet (s : State) (p : Nat) : Bool :=
  let from_ := max (s.tdm p).awaited ((s.tdm p).sync.getD 0)
  decide (2 * 100000000 < (s.timebase - from_) * s.nat (0x2300 + (s.portChannels p).headD 0) 7)

/-- TDM_CLOCK_LOSS, in slave role: no bit clock or sync for more than 2 nominal frame periods (R116). -/
def State.clockLoss (s : State) (p : Nat) : State :=
  if !s.runs || (s.portChannels p).isEmpty || s.masterPort p || (s.tdm p).clockLoss || !s.portQuiet p then s
  else ((s.modTdm p (fun y => { y with clockLoss := true, good := 0 })).raise 0x3002 (portUnit p) noTenant
    (s.portDetail p)).losePort p

/-- The meaning of TDM_CLOCK_LOSS. -/
def execTdmClockLoss (p : Nat) (s : State) : Host.Outcome State Fault Refusal := .next (s.clockLoss p)

/-- TDM_RATE_MEASUREMENT: shown in each channel's record, and judged in slave role. -/
def State.rateMeasured (s : State) (p rate : Nat) : State := match s.portChannels p with
  | [] => s
  | c :: _ =>
    let want := 100 * s.nat (0x2300 + c) 7
    let off := decide (want < 200 * ((rate : Int) - want).natAbs)
    let s := (s.portChannels p).foldl (fun s c => s.setNum (0x2300 + c) 22 (rate % 2 ^ 32 : Nat)) s
    if s.masterPort p then s
    else
      let was := (s.tdm p).rateLoss
      let s := s.modTdm p (fun y => { y with rateLoss := off, good := if off then 0 else y.good })
      if off && !was then (s.raise 0x3004 (portUnit p) noTenant (s.portDetail p)).losePort p else s

/-- The meaning of TDM_RATE_MEASUREMENT. -/
def execTdmRateMeasurement (p rate : Nat) (s : State) : Host.Outcome State Fault Refusal :=
  .next (if s.runs then s.rateMeasured p rate else s)

/-! ### Cameras (R118 to R123, R528, R529) -/

def camIndex (k : Nat) : Nat := 0x2310 + k

/-- The status word of a camera (Table 3.7). -/
def State.camStatus (s : State) (k : Nat) : Nat :=
  let c := s.cam k
  word [(s.flag (camIndex k) 1 && s.runs, 0), (c.failed, 1), (c.capture.isSome, 2)]

/-- A fire of a camera's trigger (R121). DESIGN CHOICE (log entry 89): the fire count that numbers the camera's frames counts the
fires that open a capture; a coalesced fire is counted in :17 alone. -/
def State.cameraFire (s : State) (cam : Nat) (k angle : Int) (flags : Nat) : State :=
  let c := s.cam cam
  let x := s.shaft (s.nat (camIndex cam) 2)
  if !s.runs || !c.enabled || c.failed then s
  else match c.capture with
    | some o => (s.modCam cam (fun c => { c with capture := some { o with flags := Nat.lor o.flags (2 ^ 11) } })).bump (camIndex cam) 23
    | none => s.modCam cam (fun c => { c with
        pulse := true, pulseAt := s.timebase, fires := (c.fires + 1) % 2 ^ 32,
        capture := some ⟨k, (c.fires + 1) % 2 ^ 32, angle, fireFrameFlags x flags, flags, s.timebase, x.milliRpm, false, 0, []⟩ })

/-- The meaning of TRIGGER_PULSE_END: the pulse has lasted its width (R121). -/
def execTriggerPulseEnd (cam : Nat) (s : State) : Host.Outcome State Fault Refusal :=
  .next (if (s.cam cam).pulseAt + 100 * s.nat (camIndex cam) 8 ≤ s.timebase then
    s.modCam cam (fun c => { c with pulse := false }) else s)

/-- The meaning of CAMERA_RESET_RELEASE: after CAM_12V has come up (R528). -/
def execCameraResetRelease (cam : Nat) (s : State) : Host.Outcome State Fault Refusal :=
  .next (s.modCam cam (fun c => if c.power then { c with resetN := true } else c))

/-- A setup list as it goes out (R119): each entry writes a value, its register address most significant byte first, or waits. -/
def cciSteps (b : List Byte) : List CciStep :=
  (List.range (b.length / 4)).map fun i =>
    if byteAt b (4 * i + 3) = 0 then .write [BitVec.ofNat 8 (byteAt b (4 * i + 1)), BitVec.ofNat 8 (byteAt b (4 * i)), BitVec.ofNat 8 (byteAt b (4 * i + 2))]
    else .wait (byteAt b (4 * i + 2))

/-- CCI_SETUP_SEND: the list goes out in order, up to the write that gets a negative acknowledge and marks the camera failed
(R119). A wait is not acknowledged. -/
def State.cciSend (s : State) (cam : Nat) (nack : Option Nat) : State :=
  let c := s.cam cam
  let b := s.bytes (camIndex cam) 20
  if !c.enabled || !c.resetN then s
  else match nack with
    | none => s.modCam cam (fun c => { c with cci := cciSteps b })
    | some n =>
      if b.length ≤ 4 * n ∨ byteAt b (4 * n + 3) ≠ 0 then s
      else (s.modCam cam (fun c => { c with cci := cciSteps (b.take (4 * (n + 1))), failed := true })).raise 0x3106 (camUnit cam)
        noTenant (4096 * (8 + cam) + n % 4096)

/-- The meaning of CCI_SETUP_SEND. -/
def execCciSetupSend (cam : Nat) (nack : Option Nat) (s : State) : Host.Outcome State Fault Refusal := .next (s.cciSend cam nack)

/-- A capture that fails closes: counted, raised once per episode, its speculative issues squashed (R123, R271). -/
def State.failCapture (s : State) (cam code : Nat) : State := match (s.cam cam).capture with
  | none => s
  | some o =>
    let c := s.cam cam
    let was := if code = 0x3101 then c.ep1 else if code = 0x3102 then c.ep2 else c.ep3
    let s := (s.modCam cam (fun c => { c with
      capture := none, ep1 := c.ep1 || decide (code = 0x3101), ep2 := c.ep2 || decide (code = 0x3102),
      ep3 := c.ep3 || decide (code = 0x3103) })).bump (camIndex cam) 22
    let s := if was then s else s.raise code (camUnit cam) noTenant (4096 * (8 + cam))
    s.squashIf (fun i => decide (i.kind = 2 ∧ i.index = cam ∧ i.k = o.k))

/-- The capture timeout of an open capture has passed. -/
def State.captureLate (s : State) (cam : Nat) (o : Capture) : Bool := decide (o.opened + 100 * s.nat (camIndex cam) 9 ≤ s.timebase)

/-- CSI_FRAME_START. -/
def State.csiStart (s : State) (cam vc : Nat) : State :=
  if vc ≠ 0 then s.modCam cam (fun c => { c with otherVc := c.otherVc + 1 })
  else match (s.cam cam).capture with
    | some o => if o.started || s.captureLate cam o then s.bump (camIndex cam) 22
        else ((s.evictFrame (8 + cam)).modCam cam (fun c => { c with
          capture := c.capture.map (fun o => { o with started := true }) })).queueStrips 2 cam o.k
    | none => s.bump (camIndex cam) 22

/-- The meaning of CSI_FRAME_START. -/
def execCsiFrameStart (cam vc : Nat) (s : State) : Host.Outcome State Fault Refusal := .next (s.csiStart cam vc)

/-- Bits per pixel and the CSI-2 data type of a camera's format (Table 3.6). -/
def pixelBits (format : Nat) : Nat := 8 + 2 * format
def dataType (format : Nat) : Nat := 0x2A + format

/-- Pixel `i` of a row payload as CSI-2 packs it: RAW10 in groups of four with a byte of low bits, RAW12 in pairs. -/
def pixelAt (format : Nat) (b : List Byte) (i : Nat) : Nat :=
  if format = 0 then byteAt b i
  else if format = 1 then byteAt b (i / 4 * 5 + i % 4) * 4 + byteAt b (i / 4 * 5 + 4) / 4 ^ (i % 4) % 4
  else byteAt b (i / 2 * 3 + i % 2) * 16 + byteAt b (i / 2 * 3 + 2) / 16 ^ (i % 2) % 16

/-- A pixel as stored (R122). -/
def pixelBytes (format wide p : Nat) : List Byte := if wide = 1 then leBytes 2 p else leBytes 1 (p / 2 ^ (2 * format))

/-- CSI_LONG_PACKET. -/
def State.csiRow (s : State) (cam vc dt : Nat) (ecc : Ecc) (crcOk : Bool) (payload : List Byte) : State :=
  let i := camIndex cam
  let f := s.nat i 10
  let s := if ecc = .corrected then s.modCam cam (fun c => { c with eccCorrected := c.eccCorrected + 1 }) else s
  if ecc = .bad then s.failCapture cam 0x3102
  else if vc ≠ 0 then s.modCam cam (fun c => { c with otherVc := c.otherVc + 1 })
  else match (s.cam cam).capture with
    | none => s
    | some o =>
      if !o.started then s
      else if s.captureLate cam o then s.failCapture cam 0x3103
      else if !crcOk then s.failCapture cam 0x3102
      else if dt ≠ dataType f then s
      else if payload.length * 8 ≠ s.nat i 11 * pixelBits f ∨ s.nat i 12 ≤ o.rows then s.failCapture cam 0x3103
      else
        let y0 := s.nat i 15
        let keep := decide (y0 ≤ o.rows ∧ o.rows < y0 + s.nat i 17)
        let row := if keep then (List.range (s.nat i 16)).flatMap (fun n => pixelBytes f (s.nat i 18) (pixelAt f payload (s.nat i 14 + n)))
          else []
        s.modCam cam (fun c => { c with capture := some { o with rows := o.rows + 1, data := o.data ++ row } })

/-- The meaning of CSI_LONG_PACKET. -/
def execCsiLongPacket (cam vc dt : Nat) (ecc : Ecc) (crcOk : Bool) (payload : List Byte) (s : State) :
    Host.Outcome State Fault Refusal := .next (s.csiRow cam vc dt ecc crcOk payload)

/-- CSI_FRAME_END: the frame is staged, unless its row count is wrong or it ends after the capture timeout. -/
def State.csiEnd (s : State) (cam vc : Nat) : State :=
  let i := camIndex cam
  if vc ≠ 0 then s.modCam cam (fun c => { c with otherVc := c.otherVc + 1 })
  else match (s.cam cam).capture with
    | none => s
    | some o =>
      if !o.started then s
      else if s.captureLate cam o ∨ o.rows ≠ s.nat i 12 then s.failCapture cam 0x3103
      else
        let sh := s.nat i 2
        let x := s.shaft sh
        let h := frameHeader o.angle x.angle o.opened s.timebase o.number o.rpm x.milliRpm (s.nat i 16) (s.nat i 17) 1 (128 + cam)
          (2 + s.nat i 18) sh o.flags 0 0
        let s := (s.modCam cam (fun c => { c with capture := none, ep1 := false, ep2 := false, ep3 := false })).bump i 21
        s.frameReady (8 + cam) sh ⟨o.number, o.k, o.angle, o.flags, h, o.data, [], [], false⟩
          (Nat.lor o.trigger (if bit o.flags 11 then 32 else 0))

/-- The meaning of CSI_FRAME_END. -/
def execCsiFrameEnd (cam vc : Nat) (s : State) : Host.Outcome State Fault Refusal := .next (s.csiEnd cam vc)

/-- The meaning of CAPTURE_TIMEOUT: no frame start gives 0x3101, no frame end 0x3103 (R123). -/
def execCaptureTimeout (cam : Nat) (s : State) : Host.Outcome State Fault Refusal :=
  .next (match (s.cam cam).capture with
    | none => s
    | some o => if s.captureLate cam o then s.failCapture cam (if o.started then 0x3103 else 0x3101) else s)

/-! ### Strips (R265) -/

/-- The bytes of strip `n` of the frame under way that the fire or start `k` of a source began, once its last position or row is
there. -/
def State.stripData (s : State) (kind index : Nat) (k : Int) (n : Nat) : Option (List Byte) :=
  if kind = 1 then
    let g := index
    match (s.group g).runs.find? (fun r => decide (r.k = k)) with
    | none => none
    | some r =>
      let p := s.positions g
      let js := ((s.frameOrder g r).drop (n * p / 8)).take ((n + 1) * p / 8 - n * p / 8)
      let final := s.gridAt g r.k (js.getLastD 0)
      let seen := (s.group g).edges.any (fun e => if r.reverse then decide (e.1 ≤ final) else decide (final ≤ e.1))
      if seen then some (s.frameData g r js).1 else none
  else match (s.cam index).capture with
    | none => none
    | some o =>
      let (a, b) := s.stripBytes (8 + index) n
      if o.k = k ∧ b ≤ o.data.length then some (slice o.data a (b - a)) else none

/-- The frame of a source that `k` names is under way. -/
def State.underWay (s : State) (kind index : Nat) (k : Int) : Bool :=
  if kind = 1 then (s.group index).runs.any (fun r => decide (r.k = k))
  else ((s.cam index).capture.map (fun o => decide (o.k = k))).getD false

/-- What becomes of a strip transfer now: the state with the strip in the Loft, the queue unchanged; none while it must wait. An entry
whose issue has gone, or whose frame is no longer under way, leaves as it is: the frame of a committed issue is delivered whole. -/
def State.stripTry (s : State) (c : Nat) : StripFor × Nat → Option State
  | (.issue id, n) => match s.issue id, (s.issue id).bind (fun i => i.part c) with
    | some i, some p => if p.copy.isNone then none else (s.stripData i.kind i.index i.k n).map fun b =>
        let off := ((s.frameRing i).map (fun r => (s.stripBytes r n).1)).getD 0
        (s.loftWrite i p (s.frameHandle i + 1) (atOffsets off b)).modIssue id (fun i => { i with stripsIn := (c, n) :: i.stripsIn })
    | _, _ => some s
  | (.job t j k, n) =>
    let d := s.jobDesc t j
    let i : Issue := { (default : Issue) with tenant := t, job := j, slot := d.slot, kind := d.kind, index := d.index, k := k }
    match s.jobModel t j with
    | none => some s
    | some m =>
      if !s.underWay d.kind d.index k then some s
      else if s.issues.any (fun o => decide (o.tenant = t ∧ o.job = j) && !o.finished) then none
      else (s.stripData d.kind d.index k n).map fun b =>
        ((m.placed.zip (List.range m.placed.length)).filter (fun q => decide (q.1.chip = c))).foldl (fun s (z, q) =>
          let p : PartRun := { (default : PartRun) with part := q, chip := z.chip }
          s.loftWrite i p (d.handle + 1) (atOffsets (s.stripBytes (if d.kind = 1 then d.index else 8 + d.index) n).1 b)) s

/-- STRIP_TRANSFER_COMPLETE: the first strip of a chip's queue that can move lies in its Loft, and its credit returns (R263, R265). -/
def State.stripDone (s : State) (c : Nat) : State :=
  match (s.chip c).strips.findSome? (fun e => (s.stripTry c e).map (fun t => (e, t))) with
  | none => s
  | some (e, t) => t.modChip c (fun x => { x with strips := x.strips.erase e }.feedStrips)

/-- The meaning of STRIP_TRANSFER_COMPLETE. -/
def execStripTransferComplete (c : Nat) (s : State) : Host.Outcome State Fault Refusal := .next (s.stripDone c)

end Sys2Proof.Machine
end

