-- ==== Sys2Proof/Machine/Events.lean ====
section
/-! DEFINITION. Angle events and camera triggers: crossings, fires, standstill policies, the 10 µs interval, enable and disable
(R78, R79, R81, R84 to R89). -/

namespace Sys2Proof.Machine

/-! ### The settings of an event -/

def State.evIndex (_ : State) : EvRef → Nat
  | .tenant t e => blk t (0x10 + e)
  | .camera k => camIndex k

/-- The shaft of an event; both records hold it in sub-index 2. -/
def State.evShaft (s : State) (ev : EvRef) : Nat := s.nat (s.evIndex ev) 2

def State.evSeries (s : State) : EvRef → Series
  | .tenant t e => s.eventSeries t e
  | .camera k => s.camSeries k

/-- Direction *forward only*: always for a camera (R121). -/
def State.evForward (s : State) : EvRef → Bool
  | .tenant t e => decide (s.nat (blk t (0x10 + e)) 6 = 0)
  | .camera _ => true

/-- Standstill policy (Table 2.5). -/
def State.evPolicy (s : State) : EvRef → Nat
  | .tenant t e => s.nat (blk t (0x10 + e)) 7
  | .camera k => s.nat (camIndex k) 6

/-- Substitute interval T in µs. -/
def State.evInterval (s : State) : EvRef → Nat
  | .tenant t e => s.nat (blk t (0x10 + e)) 8
  | .camera k => s.nat (camIndex k) 7

/-- The event suppresses fires on an uncertain angle. -/
def State.evSuppress (s : State) : EvRef → Bool
  | .tenant t e => decide (s.nat (blk t (0x10 + e)) 9 = 1)
  | .camera _ => false

def State.evRun (s : State) : EvRef → EvRun
  | .tenant t e => s.ev t e
  | .camera k => (s.cam k).ev

def State.modEvRun (s : State) (ev : EvRef) (f : EvRun → EvRun) : State := match ev with
  | .tenant t e => s.modEv t e f
  | .camera k => s.modCam k (fun c => { c with ev := f c.ev })

/-- The event takes crossings: enabled and not inert; a camera's where the camera is in use. -/
def State.evOn (s : State) : EvRef → Bool
  | .tenant t e => s.flag (blk t (0x10 + e)) 1 && !(s.ev t e).inert
  | .camera k => s.runs && (s.cam k).enabled && !(s.cam k).failed

/-- The enabled events on a shaft, tenant events first. -/
def State.eventsOn (s : State) (i : Nat) : List EvRef :=
  (s.od.filterMap fun (k, v) =>
    let x := k / 256
    if k % 256 = 1 ∧ 0x3000 ≤ x ∧ x < 0x4000 ∧ 0x10 ≤ x % 256 ∧ x % 256 ≤ 0x1F ∧ v ≠ .num 0 ∧ s.nat x 2 = i then
      some (.tenant ((x - 0x3000) / 0x100) (x % 256 - 0x10)) else none)
  ++ ((List.range 2).filter (fun k => s.evOn (.camera k) && decide (s.nat (camIndex k) 2 = i))).map .camera

/-- Crossings dropped by policy (:0C of Table 2.6). -/
def State.evSkip (s : State) (ev : EvRef) (n : Nat) : State := match ev with
  | .tenant t e => s.add (blk t (0x10 + e)) 12 n
  | .camera _ => s

/-- Crossings merged into another (:0D of Table 2.6). -/
def State.evMerge (s : State) (ev : EvRef) (n : Nat) : State := match ev with
  | .tenant t e => s.add (blk t (0x10 + e)) 13 n
  | .camera _ => s

/-! ### Fires -/

/-- The speculative issues that expect a k of a suppressed fire are squashed (R271): its own and those of the crossings that were
merged into it, which lie before it in the direction of running. -/
def State.suppressed (s : State) (ev : EvRef) (c : Crossing) : State :=
  let back := (s.shaft (s.evShaft ev)).reverse
  let hit (k : Int) : Bool :=
    let n := if back then k - c.k else c.k - k
    decide (0 ≤ n ∧ n < c.count)
  match ev with
  | .tenant t e => s.squashIf (fun i => decide (i.tenant = t ∧ i.kind = 0 ∧ i.index = e) && hit i.k)
  | .camera k => s.squashIf (fun i => decide (i.kind = 2 ∧ i.index = k) && hit i.k)

/-- A fire delivered: a tenant's to the jobs and the learning step that subscribe, a camera's to its capture. -/
def State.deliverFire (s : State) (ev : EvRef) (k angle : Int) (flags : Nat) : State := match ev with
  | .camera c => s.cameraFire c k angle flags
  | .tenant t e =>
    let i := blk t (0x10 + e)
    let sh := s.nat i 2
    let s := (s.bump i 10).setNum i 11 angle
    let s := ((s.jobsOf 0 e).filter (fun p => decide (p.1 = t))).foldl (fun s p =>
      if s.listens t p.2 then s.trigger t ⟨p.2, k, angle, flags, sh, none, 0, 0, false⟩ else s) s
    if s.tray = .learning ∧ t = s.learnTenant ∧ e = s.nat 0x5000 4 then s.stepFire k angle (flags % 64) sh else s

/-- A fire at once: suppressed on an uncertain angle where the event asks for it, else counted and delivered (R87, R88). -/
def State.fireNow (s : State) (ev : EvRef) (c : Crossing) : State :=
  let x := s.shaft (s.evShaft ev)
  if x.uncertain && s.evSuppress ev then (s.evSkip ev c.count).suppressed ev c
  else
    let flags := x.triggerFlags (bit c.flags 2) (bit c.flags 3) (bit c.flags 5 || decide (1 < c.count))
    let s := s.evMerge ev (c.count - 1)
    let single := decide ((s.evSeries ev).pn = 0)
    let s := s.modEvRun ev (fun r => { r with lastFire := some s.timebase, inert := r.inert || single })
    s.deliverFire ev c.k c.angle flags

/-- The end of the 10 µs after a fire has not come (R88). -/
def State.evBusy (s : State) (ev : EvRef) : Bool := match (s.evRun ev).lastFire with
  | some t => decide (s.timebase < t + 1000)
  | none => false

/-- A fire, or its holding within 10 µs of the last one, where it takes in what was held before (R88). -/
def State.fire (s : State) (ev : EvRef) (c : Crossing) : State :=
  if s.evBusy ev then
    let merged : Crossing := match (s.evRun ev).held with
      | some h => { c with flags := Nat.lor h.flags c.flags, count := h.count + c.count }
      | none => c
    s.modEvRun ev (fun r => { r with held := some merged })
  else s.fireNow ev c

/-- Crossings met together: the last angle crossed, its k, and how many (R78, R88). -/
def State.crossing (s : State) (ev : EvRef) (k angle : Int) (n : Nat) : State :=
  if !s.evOn ev then s
  else if (s.shaft (s.evShaft ev)).standstill then
    if s.evPolicy ev = 0 then
      let more := n - 1 + ofBool (s.evRun ev).still.isSome
      (s.evMerge ev more).modEvRun ev (fun r => { r with
        still := some ⟨k, angle, 0, 1⟩, stillReplaced := r.stillReplaced || decide (0 < more) })
    else s.evSkip ev n
  else s.fire ev ⟨k, angle, 0, n⟩

/-- The event crossings of a movement of a shaft against its mark, then the frames that begin, then the mark (R81, R90). No frame
begins at a resynchronisation, which counts those it steps over itself (R115). -/
def State.crossAll (s : State) (i : Nat) (frames : Bool) : State :=
  let x := s.shaft i
  if !x.armed then s
  else
    let mark := if x.reverse then x.lwm else x.hwm
    let go (s : State) (ev : EvRef) : State :=
      if x.reverse && s.evForward ev then s
      else match (s.evSeries ev).crossed x.reverse mark x.angle with
        | some (k, a, n) => s.crossing ev k a n
        | none => s
    let s := (s.eventsOn i).foldl go s
    let s := if frames then s.framesMoved i mark x.angle else s
    s.setShaft i (let y := s.shaft i
      if y.reverse then { y with lwm := min y.lwm y.angle } else { y with hwm := max y.hwm y.angle })

/-! ### Standstill policies -/

/-- Substitution starts for the events of a shaft that enters standstill (R78). -/
def State.substStart (s : State) (i : Nat) : State :=
  (s.eventsOn i).foldl (fun s ev => if s.evPolicy ev = 1 then
      s.modEvRun ev (fun r => { r with substDue := some (s.micros + s.evInterval ev) }) else s) s

/-- The events of a shaft are armed: substitutions that fell due before do not fire, and the series goes on from the present
microsecond (R72, R78). -/
def State.substArm (s : State) (i : Nat) : State :=
  (s.eventsOn i).foldl (fun s ev => s.modEvRun ev (fun r => { r with substDue := r.substDue.map (fun d =>
    d + ceilDiv (s.micros - d) (s.evInterval ev) * s.evInterval ev) })) s

/-- Standstill ends: substitution stops, and a crossing held over standstill is released (Table 2.5). -/
def State.substEnd (s : State) (i : Nat) : State :=
  let go (s : State) (ev : EvRef) : State :=
    let r := s.evRun ev
    let s := s.modEvRun ev (fun r => { r with substDue := none, still := none, stillReplaced := false })
    match r.still with
    | some c => if s.evOn ev then s.fire ev { c with flags := 8 + 32 * ofBool r.stillReplaced } else s
    | none => s
  (s.eventsOn i).foldl go s

/-- EVENT_HOLD_RELEASE: the 10 µs after the last fire have ended (R88). -/
def State.holdRelease (s : State) (ev : EvRef) : State :=
  match (s.evRun ev).held with
  | some c => if s.evBusy ev then s
    else
      let s := s.modEvRun ev (fun r => { r with held := none })
      if s.evOn ev then s.fireNow ev { c with flags := Nat.lor c.flags 32 } else s
  | none => s

/-- The meaning of EVENT_HOLD_RELEASE. -/
def execEventHoldRelease (ev : EvRef) (s : State) : Host.Outcome State Fault Refusal := .next (s.holdRelease ev)

/-- TIME_SUBSTITUTE_FIRE: a substitution that has fallen due fires at the present angle, and moves no mark. It is delivered once the
microsecond in which it fell due has ended, so that an exit from standstill in that microsecond wins (R79). -/
def State.substitute (s : State) (ev : EvRef) : State :=
  let x := s.shaft (s.evShaft ev)
  match (s.evRun ev).substDue with
  | none => s
  | some due =>
    if x.standstill && x.armed && s.evOn ev && decide (s.evPolicy ev = 1 ∧ due < s.micros) then
      let q := s.evSeries ev
      let k := if q.pn = 0 then 0
        else if x.reverse && !s.evForward ev then q.nextK true x.lwm else q.nextK false x.hwm
      let s := s.modEvRun ev (fun r => { r with substDue := some (due + s.evInterval ev) })
      s.fire ev ⟨k, x.angle, 4, 1⟩
    else s

/-- The meaning of TIME_SUBSTITUTE_FIRE. -/
def execTimeSubstituteFire (ev : EvRef) (s : State) : Host.Outcome State Fault Refusal := .next (s.substitute ev)

/-! ### Enable and disable (R86, R89) -/

/-- Consecutive angles of a series come less than 10 µs apart at the maximum speed of its shaft. -/
def State.tooClose (s : State) (q : Series) (shaft : Nat) : Bool :=
  let (n, d) := s.maxSpeed shaft
  q.pn ≠ 0 && decide (q.pn * 6000000 * d < q.pd * n)

/-- Why an enable of an event is refused (R86). DESIGN CHOICE (log entry 88): of the record, OD 0x2401 names the shaft (:02) where it
is of kind 0, and the period numerator (:03) for the spacing; R86 names the check and no sub-index. -/
def State.eventDeny (s : State) (t e : Nat) : Option Deny :=
  let i := blk t (0x10 + e)
  if s.flag i 1 then none
  else if s.kind (s.nat i 2) = 0 then some (badValue i 2)
  else if s.tooClose (s.eventSeries t e) (s.nat i 2) then some (badValue i 3)
  else none

/-- An event enabled: armed for crossings beyond the present mark. -/
def State.eventOn (s : State) (t e : Nat) : State :=
  let i := blk t (0x10 + e)
  if s.flag i 1 then s
  else
    let due := if (s.shaft (s.nat i 2)).standstill ∧ s.nat i 7 = 1 then some (s.micros + s.nat i 8) else none
    (s.setNum i 1 1).modEv t e (fun r => { r with
      held := none, still := none, stillReplaced := false, inert := false, substDue := due })

/-- An event disabled: what it held is discarded. -/
def State.eventOff (s : State) (t e : Nat) : State :=
  (s.setNum (blk t (0x10 + e)) 1 0).modEv t e (fun r => { r with
    held := none, still := none, stillReplaced := false, inert := false, substDue := none })

/-- The meaning of ANGLE_EVENT_ENABLE. -/
def execAngleEventEnable (n : Net) (t e : Nat) (s : State) : Host.Outcome State Fault Refusal :=
  .next (s.write n (blk t (0x10 + e)) 1 [1] (fun s => s.eventDeny t e) (fun s => s.eventOn t e))

/-- The meaning of ANGLE_EVENT_DISABLE. -/
def execAngleEventDisable (n : Net) (t e : Nat) (s : State) : Host.Outcome State Fault Refusal :=
  .next (s.write n (blk t (0x10 + e)) 1 [0] (fun _ => none) (fun s => s.eventOff t e))

end Sys2Proof.Machine
end

