-- ==== Sys2Proof/Machine/Almanac.lean ====
section
/-! DEFINITION. The master Almanac (chapter 2): encoder edges in the order of R90, references, speed, standstill, reversal, signal
loss, derived shafts, the interpolation between edges, and the messages to the mirrors. -/

namespace Sys2Proof.Machine

/-- A record about a shaft: bits [15:14] of the detail hold its number (R99). -/
def State.raiseShaft (s : State) (i code low : Nat) : State := s.raise code (shaftUnit i) noTenant (16384 * i + low % 16384)

/-- An angle in 1/1 024 turn, to nearest with ties away from zero (R99). -/
def q1024 (x : Int) : Int := if x < 0 then -((x.natAbs + 8192) / 16384 : Nat) else ((x.natAbs + 8192) / 16384 : Nat)

/-- A signed angle in the 14-bit field of a detail. -/
def detailAngle (x : Int) : Nat := unsigned 14 (clampInt (-8192) 8191 (q1024 x))

def State.modShaft (s : State) (i : Nat) (f : Shaft → Shaft) : State := s.setShaft i (f (s.shaft i))

/-! ### Messages to the mirrors (R94) -/

/-- The angle message of a shaft to a chip (Table 2.7), but for its check. -/
def State.angleBody (s : State) (c i : Nat) : List Byte :=
  let x := s.shaft i
  leInt 8 x.angle ++ leInt 4 (satInt32 (reported 0x2F04 (x.speed * 6553600) x.speedDen))
    ++ leInt 4 (satInt32 (reported 0x2F08 (x.accel * 167772160000) x.accelDen)) ++ leBytes 8 s.timebase
    ++ leBytes 2 (x.status (s.kind i)) ++ leBytes 1 i ++ leBytes 1 (vget (s.chip c).mirror.seqOut i)
    ++ leBytes 2 x.traj.epoch

/-- An angle message goes to a chip: for every configured shaft, and for shaft 0 always. -/
def State.sendAngle (s : State) (c i : Nat) : State :=
  if s.alive && decide (s.kind i ≠ 0 ∨ i = 0) then
    let b := s.angleBody c i
    s.modChip c fun x => { x with mirror := { x.mirror with
      seqOut := vset x.mirror.seqOut i ((vget x.mirror.seqOut i + 1) % 256),
      lastSent := vset x.mirror.lastSent i (b ++ leBytes 2 (crc16 b)) } }
  else s

/-- The meaning of ANGLE_MESSAGE_SEND. -/
def execAngleMessageSend (c i : Nat) (s : State) : Host.Outcome State Fault Refusal := .next (s.sendAngle c i)

/-- The status words of the four shafts. -/
def State.statuses (s : State) : List Nat := (List.range 4).map (fun i => (s.shaft i).status (s.kind i))

/-- Messages at once for every shaft whose status word has changed. -/
def State.publishStatus (s : State) (before : List Nat) : State :=
  ((List.range 4).filter (fun i => (s.statuses[i]?) != before[i]?)).foldl (fun s i => forEach 16 s fun s c => s.sendAngle c i) s

/-! ### Prediction misses (R92) -/

/-- A prediction miss: counted once, every speculative issue on the shaft and on those derived from it squashed. -/
def State.miss (s : State) (i : Nat) : State :=
  let on := i :: s.followers i
  (s.bump 0x2210 (14 + i)).squashIf (fun x => on.contains x.shaft)

def State.missIf (s : State) (i : Nat) (b : Bool) : State := if b then s.miss i else s

/-! ### Standstill (R76, R77) -/

/-- A shaft at rest: the speed reads 0, and the history of intervals is empty. -/
def Shaft.rest (x : Shaft) : Shaft :=
  { x with
    standstill := true, overspeed := false, speed := 0, speedDen := 1, accel := 0, accelDen := 1, hist := [],
    prevInterval := 0, timed := false, speedTime := none }

/-- What standstill does to the work on a shaft: substitution starts, and frames under way end. -/
def State.restWork (s : State) (i : Nat) : State := (s.substStart i).failFrames i 3

/-- Entry of an encoder shaft into standstill, with its record. -/
def State.enterStill (s : State) (i : Nat) : State := ((s.modShaft i Shaft.rest).raiseShaft i 0x2010 0).restWork i

/-- A shaft taken into use is in standstill, and nothing is raised for it. -/
def State.takeIntoUse (s : State) (i : Nat) : State := (s.modShaft i Shaft.rest).substStart i

/-! ### Derived shafts (R67) -/

/-- A shaft crosses its maximum speed (R69): the new bit, and whether an episode begins. -/
def State.overspeedBit (s : State) (i : Nat) (x : Shaft) : Bool × Bool :=
  let v := s.cfg i 9
  if !x.overspeed && x.faster v 1 then (true, true)
  else if x.overspeed && x.slower (98 * v) 100 then (false, false)
  else (x.overspeed, false)

/-- A change of running direction (R82): none, or the new shaft. A shaft of kind 2 never reverses (R83). -/
def State.turnBack (s : State) (i : Nat) : Option Shaft :=
  let x := s.shaft i
  let band : Int := s.cfg i 11
  if !x.referenced || s.kind i = 2 then none
  else if x.reverse then (if x.lwm + band ≤ x.angle then some { x with reverse := false, hwm := x.angle } else none)
  else if x.angle + band ≤ x.hwm then some { x with reverse := true, lwm := x.angle } else none

/-- The reversal band tested: a declaration is recorded and ends the frames under way. Answers whether one was made. -/
def State.testBand (s : State) (i : Nat) : State × Bool := match s.turnBack i with
  | none => (s, false)
  | some x => (((s.setShaft i x).raiseShaft i (if x.reverse then 0x2020 else 0x2021) 0).failFrames i 3, true)

/-- Shaft `d` follows shaft 0. `restart` restarts its marks, as on a first reference of shaft 0; `band` tests its reversal
band, which interpolation between edges does not (R90); `frames` is off at a resynchronisation of shaft 0. DESIGN CHOICE (log entry
85): the standstill that a derived shaft copies (R76) raises no 0x2010 and 0x2011 of its own. -/
def State.followOne (s : State) (restart band frames : Bool) (d : Nat) : State :=
  let a := s.shaft 0
  let x := s.shaft d
  let num : Int := s.cfg d 6
  let num := if s.flag (0x2200 + d) 8 then -num else num
  let den := max 1 (s.cfg d 7)
  let moved : Shaft := { x with
    angle := s.derived d a.angle, speed := a.speed * num, speedDen := a.speedDen * den, accel := a.accel * num,
    accelDen := a.accelDen * den, standstill := a.standstill, uncertain := a.uncertain, inputLoss := a.inputLoss,
    beyond := a.beyond, referenced := a.referenced, armed := a.armed }
  let fresh := restart || (a.armed && !x.armed)
  let moved := if fresh then { moved with reverse := false, hwm := moved.angle, lwm := moved.angle } else moved
  let (hot, begins) := s.overspeedBit d moved
  let s := s.setShaft d { moved with overspeed := hot }
  let s := if begins then s.raiseShaft d 0x2201 0 else s
  let s := if a.standstill && !x.standstill then s.restWork d
    else if x.standstill && !a.standstill then s.substEnd d else s
  let s := if (a.inputLoss && !x.inputLoss) then s.failFrames d 0 else s
  if fresh then (s.substArm d).missIf d begins
  else
    let (s, turned) := if band then s.testBand d else (s, false)
    (s.crossAll d frames).missIf d (begins || turned)

/-- The shafts derived from shaft 0 follow it in shaft order. -/
def State.follow (s : State) (i : Nat) (restart : Bool) : State :=
  (s.followers i).foldl (fun s d => s.followOne restart true true d) s

/-- Angles or status have moved: what stands on them is taken anew. -/
def State.resettle (s : State) (before : List Nat) : State := ((s.publishStatus before).staleSets).retier

/-! ### Edges (R56, R57) -/

/-- The direction of a counted edge: forward, backward, or no counted edge. -/
def State.edgeSense (s : State) (i : Nat) (x : Shaft) (a b : Bool) : Option Bool :=
  let inv := s.flag (0x2200 + i) 8
  let kind := s.kind i
  if kind = 1 then
    if a ≠ x.a ∧ b = x.b then some ((a != b) != inv)
    else if a = x.a ∧ b ≠ x.b then some ((a == b) != inv)
    else none
  else if kind = 2 then (if a ∧ !x.a then some true else none)
  else if kind = 3 then (if a ∧ !x.a then some ((!b) != inv) else none)
  else none

/-- An illegal transition (R57): more than 4 in one revolution raise 0x2002 once. DESIGN CHOICE (log entry 84): the revolutions are
windows of E net counted edges from the start of the count, as the spec does not say from where they run. -/
def State.illegal (s : State) (i : Nat) : State :=
  let x := s.shaft i
  let rev := x.edges.fdiv (max 1 (s.edgesPer i))
  let x := if rev = x.illegalFrom then x else { x with illegalFrom := rev, illegal := 0, illegalRaised := false }
  let x := { x with illegal := x.illegal + 1 }
  if 4 < x.illegal && !x.illegalRaised then
    let before := s.statuses
    let s := (s.setShaft i { x with illegalRaised := true, uncertain := true }).raiseShaft i 0x2002 0
    (s.follow i false).resettle before
  else s.setShaft i x

/-! ### References (R72 to R74) -/

/-- The whole turn that gives a jump of at most half a turn, plus the offset (R72). -/
def nearestTurn (a offset : Int) : Int := (a - offset + turn / 2).fdiv turn * turn + offset

/-- The window centre that lies nearest to an angle. -/
def nearCentre (a anchor : Int) : Int := nearestTurn a anchor

/-- What a reference decision gives: the shaft, the corrected angle, records, and what else happened. -/
structure Judged where
  shaft : Shaft
  angle : Int
  raised : List (Nat × Nat)
  missed : Bool
  /-- a good reference moved the angle -/
  moved : Bool
  /-- a reference was taken -/
  taken : Bool
  /-- it was the first one -/
  first : Bool
  /-- it resynchronised the angle -/
  resync : Bool

/-- A reference taken at angle `g`: anchor, last reference and passage start there, and the angle is certain (R72, R73). -/
def Shaft.takeRef (x : Shaft) (g : Int) : Shaft :=
  { x with
    edge := 0, uncertain := false, refFault := false, trackingBack := false, anchor := g, lastRef := some g, goodRef := g,
    noRefRaised := false, passage := some ⟨g, some x.edges⟩ }

/-- The forward passages judged where the shaft has moved from `p` to `a` (R73). -/
def Shaft.passages (x : Shaft) (tol p a : Int) : Shaft × Bool :=
  let c := nearCentre a x.anchor
  let inside := decide ((a - c).natAbs ≤ tol.natAbs)
  if a ≤ p then
    let keep := match x.passage with
      | some q => decide ((a - q.centre).natAbs ≤ tol.natAbs)
      | none => false
    ({ x with passage := if keep then x.passage else none }, false)
  else
    let left := match x.passage with
      | some q => decide (q.centre + tol < a) && q.seen.isNone
      | none => false
    -- windows entered and left between the two angles
    let first := (p - x.anchor + tol).fdiv turn + 1
    let final := (a - x.anchor - tol - 1).fdiv turn
    let jumped := decide (first ≤ final)
    let kept := match x.passage with
      | some q => if q.centre = c then x.passage else some ⟨c, none⟩
      | none => if c - tol ≤ p then none else some ⟨c, none⟩
    ({ x with passage := if inside then kept else none }, left || jumped)

/-- The decision on a counted edge at angle `a` after angle `p`: `ref` a reference arrived, `checks` references are checked. DESIGN
CHOICE (log entry 86): a shaft of reference source 0 is referenced at its first edge at its present angle, without the reference
offset, which R72 assigns to a reference edge. -/
def State.judgeRef (s : State) (i : Nat) (x : Shaft) (p a : Int) (ref checks : Bool) : Judged :=
  let off : Int := s.cfg i 5
  let tol : Int := s.cfg i 10
  let none_ : Judged := ⟨x, a, [], false, false, false, false, false⟩
  if x.beyond then none_
  else if !x.referenced then
    if s.cfg i 4 = 0 || (ref && checks) then
      let g := if s.cfg i 4 = 0 then a else nearestTurn a off
      let y := if s.cfg i 4 = 0 then { x with uncertain := false, goodRef := a } else x.takeRef g
      ⟨{ y with referenced := true, armed := true, reverse := false, hwm := g, lwm := g }, g, [], false, false, true, true, false⟩
    else none_
  else if !checks then { none_ with shaft := { x with passage := none } }
  else if x.trackingBack then
    if ref then
      let g := nearestTurn a off
      ⟨x.takeRef g, g, [(0x2103, detailAngle (g - a))], false, decide (g ≠ a), true, false, true⟩
    else none_
  else
    let (x, gone) := x.passages tol p a
    let x := if gone then { x with uncertain := true, refFault := true } else x
    let log := if gone then [(0x2101, 0)] else []
    if !ref then ⟨x, a, log, gone, false, false, false, false⟩
    else
      let inside := decide ((a - nearCentre a x.anchor).natAbs ≤ tol.natAbs)
      let again := match x.passage with
        | some q => (match q.seen with
          | some n => decide (n ≠ x.edges)
          | none => false)
        | none => false
      let whole := match x.lastRef with
        | some r => decide (1 ≤ (nearestTurn (a - r) 0).natAbs ∧ ((a - r) - nearestTurn (a - r) 0).natAbs ≤ tol.natAbs)
        | none => false
      let good := if x.refFault then inside || whole else inside && !again
      if good then
        let g := nearestTurn a off
        let log := log ++ (if x.refFault then [(0x2103, detailAngle (g - a))] else [])
        ⟨x.takeRef g, g, log, gone, decide (g ≠ a), true, false, x.refFault⟩
      else
        ⟨{ x with uncertain := true, refFault := true, lastRef := some a }, a, log ++ [(0x2102, 0)], true, false, false, false, false⟩

/-- The ratio check at a reference taken by an encoder shaft (R68). DESIGN CHOICE (log entry 86): a reference that is ignored is
neither checked nor the previous one of the next check. -/
def State.ratioCheck (s : State) (i : Nat) (counted set_ : Int) : State :=
  let num : Int := s.cfg i 6
  let den : Int := s.cfg i 7
  if i = 0 ∨ num = 0 then s
  else
    let a0 := (s.shaft 0).angle
    let s := match (s.shaft i).ratioFrom with
      | none => s
      | some (a, z) =>
        let d := ((counted - a) * den - (a0 - z) * num).natAbs
        -- `d / den` rounded to 1/1 024 turn
        if 262144 * den.natAbs < d then s.raiseShaft i 0x2301 (min 0x3FFF ((2 * d + 16384 * den.natAbs) / (32768 * den.natAbs)))
        else s
    s.modShaft i (fun x => { x with ratioFrom := some (set_, a0) })

/-! ### Speed (R65, R69, R70) -/

/-- The estimate over a history of intervals. -/
def histSpeed (l : List (Int × Nat)) : Int × Nat := ((l.map Prod.fst).sum, (l.map Prod.snd).sum)

/-- An interval corresponds to at least 0.5 rpm (R77). -/
def liveInterval (v : Int × Nat) : Bool := decide (2 ^ 24 * v.2 ≤ v.1.natAbs * 12000000000)

/-- An interval lies within the tracking limit (R70): 4 MHz and 30 000 rpm. -/
def trackable (v : Int × Nat) : Bool := decide (25 ≤ v.2 ∧ v.1.natAbs * 6000000000 ≤ 30000 * 2 ^ 24 * v.2)

/-- A new speed estimate at a time, with the acceleration from the last one. -/
def Shaft.estimate (x : Shaft) (v : Int × Nat) (now : Nat) : Shaft :=
  if v.2 = 0 then x
  else
    let (an, ad) : Int × Nat := match x.speedTime with
      | some t => if t < now then (v.1 * x.speedDen - x.speed * v.2, v.2 * x.speedDen * (now - t)) else (0, 1)
      | none => (0, 1)
    { x with speed := v.1, speedDen := v.2, accel := an, accelDen := ad, speedTime := some now }

/-- What the speed of an edge tells: records, a miss, and whether standstill is entered or left. -/
structure Paced where
  shaft : Shaft
  raised : List (Nat × Nat)
  missed : Bool
  enters : Bool
  leaves : Bool

/-- The tracking limit left (R70): two consecutive intervals under it. The shaft counts on from its extrapolated angle. -/
def Shaft.track (x : Shaft) (v : Int × Nat) : Shaft :=
  if !x.beyond then x
  else if !trackable v then { x with backUnder := 0 }
  else if x.backUnder = 0 then { x with backUnder := 1 }
  else { x with beyond := false, backUnder := 0, trackingBack := true, edgeAngle := x.angle }

/-- Overspeed, then tracking, judged on the new estimate `y` (R69, R70); `x` is the shaft before the edge. -/
def State.paceLimits (s : State) (i : Nat) (x y : Shaft) (v : Int × Nat) (log : List (Nat × Nat)) (leaves : Bool) : Paced :=
  let (hot, begins) := s.overspeedBit i y
  let y := { y with overspeed := hot }
  let log := log ++ (if begins then [(0x2201, 0)] else [])
  if x.beyond || (decide (25 ≤ v.2) && !y.faster 30000 1) then ⟨y, log, begins, false, leaves⟩
  else
    ⟨{ y with
        beyond := true, uncertain := true, freeSpeed := x.speed, freeSpeedDen := x.speedDen, lossFrom := y.edgeAngle,
        lossAt := s.timebase, backUnder := 0 },
     log ++ [(0x2202, 0)], true, false, leaves⟩

/-- The speed after a counted edge (R90, step 5). `w` is the interval since the previous counted edge and `v` the same where the
estimate may use it (R65); `sameWay` says that its two edges had one direction. DESIGN CHOICE (log entry 87): the interval that spans
a standstill has no previous interval for the gap test of R71, and is itself the previous one of the next. -/
def State.pace (s : State) (i : Nat) (x : Shaft) (w v : Option (Int × Nat)) (sameWay : Bool) : Paced :=
  let now := s.timebase
  let y : Shaft := match w with
    | some w => { x.track w with prevInterval := w.2 }
    | none => x
  match v with
  | none => ⟨y, [], false, false, false⟩
  | some v =>
    if x.standstill then
      if sameWay && liveInterval v then
        s.paceLimits i x (({ y with standstill := false, hist := [v] } : Shaft).estimate v now) v [(0x2011, 0)] true
      else ⟨y, [], false, false, false⟩
    else
      let hist := (v :: x.hist).take (s.cfg i 13)
      let y : Shaft := ({ y with hist := hist } : Shaft).estimate (histSpeed hist) now
      let slow := decide (y.speed.natAbs * 12000000000 < 2 ^ 24 * y.speedDen)
      if slow then ⟨y, [], true, true, false⟩ else s.paceLimits i x y v [] false

/-! ### One counted edge, in the order of R90 -/

/-- The predicted trajectory published at an edge (R91). -/
def Shaft.publish (x : Shaft) (now : Nat) : Shaft :=
  { x with traj := ⟨(x.traj.epoch + 1) % 65536, x.angle, now, x.speed, x.speedDen, x.accel, x.accelDen⟩ }

/-- A speculative issue on the shaft, or on one derived from it, whose trajectory the measured angle misses (R92). -/
def State.strays (s : State) (i : Nat) : Bool :=
  let on := i :: s.followers i
  let x := s.shaft i
  s.issues.any (fun j => decide (j.st ≠ .committed) && on.contains j.shaft && j.traj.misses s.timebase x.angle (s.cfg i 12))

/-- A counted edge in a direction. -/
def State.edge (s : State) (i : Nat) (fwd z : Bool) : State :=
  let s0 := s
  let before := s.statuses
  let x := s.shaft i
  let now := s.timebase
  let e := s.edgesPer i
  let kind := s.kind i
  let teeth := if kind = 2 ∨ kind = 3 then s.cfg i 3 else 0
  let dt := now - x.edgeTime
  let sameWay := x.counted && decide (x.backward = !fwd)
  -- step 2: direction, index, and the angle that the interval covers
  let gap := fwd && decide (0 < teeth ∧ 0 < x.prevInterval ∧ (teeth + 2) * x.prevInterval ≤ 2 * dt)
  let known := x.referenced && decide (0 < s.gapTeeth i)
  let (n, step) : Nat × Int := edgeStep e (if known then s.gapTeeth i else 0) x.edge fwd
  let (n, step) : Nat × Int := if gap && !known then ((n + teeth) % max 1 e, edgePos e (teeth + 1)) else (n, step)
  let (n, step) : Nat × Int := if x.counted then (n, step) else (x.edge, 0)
  let w : Option (Int × Nat) := if x.counted then some (step, dt) else none
  let v : Option (Int × Nat) := if x.timed then w else none
  let from_ := if x.counted then x.edgeAngle else x.angle
  let edges := x.edges + (if fwd then 1 else -1)
  let zFirst := fwd && z && !x.faultZ && decide (x.zTaken = none ∨ x.zTaken = some edges)
  let x := { x with
    backward := !fwd, edge := n, edges := edges, counted := true, timed := true, edgeTime := now,
    zTaken := if !z then none else if zFirst then some edges else x.zTaken }
  -- step 3: the reference
  let src := s.cfg i 4
  let checks := decide (src = 2) || (decide (src = 1) && !x.faultZ)
  let ref := fwd && (if src = 1 then zFirst else decide (src = 2) && gap)
  let counted := from_ + step
  let j := s.judgeRef i x from_ counted ref checks
  let s := if j.taken then s.ratioCheck i counted j.angle else s
  let s := if j.moved then s.bump 0x2400 6 else s
  let s := j.raised.foldl (fun s r => s.raiseShaft i r.1 r.2) s
  -- step 4: the angle
  let x := { j.shaft with ratioFrom := (s.shaft i).ratioFrom }
  let mark := x.hwm
  let x := if x.beyond then x else { x with angle := j.angle, edgeAngle := j.angle }
  -- step 5: speed, standstill, overspeed, tracking
  let p := s.pace i x w v sameWay
  let s := p.raised.foldl (fun s r => s.raiseShaft i r.1 r.2) (s.setShaft i p.shaft)
  let s := if p.enters then s.enterStill i else s
  let s := if p.leaves then s.substEnd i else s
  let s := if j.resync then
      (s.followers i).foldl (fun s d => s.framesResync d (s.shaft d).hwm (s.derived d j.angle)) (s.framesResync i mark j.angle)
    else s
  -- steps 6 and 7: running direction, crossings, marks
  let (s, turned) := if j.first then (s.substArm i, false) else s.testBand i
  let s := s.crossAll i (!j.resync)
  let s := s.framesEdge i
  -- step 8: the prediction
  let stray := s.strays i
  let s := s.missIf i (j.missed || p.missed || turned || stray)
  let s := s.modShaft i (fun y => y.publish now)
  -- the derived shafts, then step 9: the mirrors
  let s := (s.followers i).foldl (fun s d => s.followOne j.first true (!j.resync) d) s
  let s := (s.followers i).foldl (fun s d => (s.framesEdge d).modShaft d (fun y => y.publish now)) s
  (s.resettle before).loadWindow.orderRecords s0

/-- A level behind the edge filter of a shaft: one that has not lasted the filter time is ignored, and the one before it stands
(R58). -/
def State.filtered (s : State) (i : Nat) (was : Bool) (l : Level) : Bool := if s.cfg i 14 ≤ l.held then l.high else was

/-- COUNTED_EDGE: the levels of A and B after the edge, and that of Z, each behind its edge filter (R58, R74). During input loss,
and of a shaft that the tray does not measure, the levels are only kept. -/
def State.edgeIn (s : State) (i : Nat) (a b z : Level) : State :=
  let x := s.shaft i
  let a := s.filtered i x.a a
  let b := s.filtered i x.b b
  let z := s.filtered i x.z z
  let s0 := s.setShaft i { x with a := a, b := b, z := z }
  if !s.alive || x.inputLoss then s0
  else if s.kind i = 1 ∧ a ≠ x.a ∧ b ≠ x.b then s0.illegal i
  else match s.edgeSense i x a b with
    | some fwd => s0.edge i fwd z
    | none => s0

/-- The meaning of COUNTED_EDGE. -/
def execCountedEdge (i : Nat) (a b z : Level) (s : State) : Host.Outcome State Fault Refusal := .next (s.edgeIn i a b z)

/-- ILLEGAL_TRANSITION: A and B have changed together, behind the edge filter. -/
def State.illegalIn (s : State) (i : Nat) (a b : Level) : State :=
  let x := s.shaft i
  let a := s.filtered i x.a a
  let b := s.filtered i x.b b
  let s0 := s.setShaft i { x with a := a, b := b }
  if s.alive && !x.inputLoss && decide (s.kind i = 1 ∧ a ≠ x.a ∧ b ≠ x.b) then s0.illegal i else s0

/-- The meaning of ILLEGAL_TRANSITION. -/
def execIllegalTransition (i : Nat) (a b : Level) (s : State) : Host.Outcome State Fault Refusal := .next (s.illegalIn i a b)

/-! ### Interpolation (R64, R70, R93) -/

/-- The distance covered at the present speed in a time, towards zero. -/
def Shaft.covered (x : Shaft) (dt : Nat) : Int := (x.speed * dt).tdiv x.speedDen

/-- The interpolated angle of an encoder shaft. -/
def State.interpolated (s : State) (i : Nat) : Int :=
  let x := s.shaft i
  let now := s.timebase
  if x.standstill then x.angle
  else if x.inputLoss then x.lossFrom + clampInt (-turn) turn (x.covered (now - x.lossAt))
  else if x.beyond then x.lossFrom + (x.freeSpeed * (now - x.lossAt : Nat)).tdiv x.freeSpeedDen
  else if !x.counted then (if x.speed = 0 then x.angle else x.lossFrom + clampInt (-turn) turn (x.covered (now - x.lossAt)))
  else
    let d := x.covered (now - x.edgeTime)
    let m := if x.referenced then s.gapTeeth i else 0
    let up := (edgeStep (s.edgesPer i) m x.edge true).2
    let down := (edgeStep (s.edgesPer i) m x.edge false).2
    if 0 ≤ d then x.edgeAngle + min d (up - 1) else x.edgeAngle + max d (down + 1)

/-- An encoder shaft advanced to the present time, with the crossings on it and on the shafts derived from it. -/
def State.advance (s : State) (i : Nat) : State :=
  let x := s.shaft i
  let a := s.interpolated i
  if s.kind i = 0 ∨ s.kind i = 4 ∨ a = x.angle then s
  else
    let s := (s.setShaft i { x with angle := a }).crossAll i true
    (s.followers i).foldl (fun s d => s.followOne false false true d) s

/-- One update of 10 ns. -/
def State.tick (s : State) : State :=
  let before := s.statuses
  let s := { s with timebase := s.timebase + 1 }
  (((((List.range 4).foldl State.advance s).staleSets).writeOwed).publishStatus before).loadWindow

/-- Consecutive updates. -/
def State.ticks (s : State) : Nat → State
  | 0 => s
  | n + 1 => s.tick.ticks n

/-- The meaning of INTERPOLATION_UPDATE: time passes from step 3 of the start-up on. -/
def execInterpolationUpdate (n : Nat) (s : State) : Host.Outcome State Fault Refusal :=
  .next (if s.tray = .off || decide (s.power.step < 3) then s else s.ticks n)

/-! ### Timers of a shaft -/

/-- Pitches to the next expected edge in the direction of travel. -/
def State.pitchesAhead (s : State) (i : Nat) : Nat :=
  let x := s.shaft i
  let m := if x.referenced then s.gapTeeth i else 0
  if 0 < m ∧ ((!x.backward ∧ s.edgesPer i ≤ x.edge + 1 + m) ∨ (x.backward ∧ x.edge = 0)) then m + 1 else 1

/-- STANDSTILL_TIMEOUT (R76), measured on the microsecond counter. -/
def State.stillTimeout (s : State) (i : Nat) : State :=
  let x := s.shaft i
  let late := decide (120000000 * s.pitchesAhead i ≤ (s.micros - x.edgeTime / 100) * s.edgesPer i)
  if s.alive && decide (1 ≤ s.kind i ∧ s.kind i ≤ 3) && !x.standstill && !x.inputLoss && late then
    let before := s.statuses
    (((s.enterStill i).miss i).follow i false).resettle before
  else s

/-- The meaning of STANDSTILL_TIMEOUT. -/
def execStandstillTimeout (i : Nat) (s : State) : Host.Outcome State Fault Refusal := .next (s.stillTimeout i)

/-- NO_GOOD_REFERENCE (R75): eight revolutions since the last good reference, or since counting began without one, once. References
are not checked during input loss, nor while the Z pair is open (R58). -/
def State.noReference (s : State) (i : Nat) : State :=
  let x := s.shaft i
  let checked := decide (1 ≤ s.kind i ∧ s.kind i ≤ 3 ∧ s.cfg i 4 ≠ 0) && !(decide (s.cfg i 4 = 1) && x.faultZ) && !x.inputLoss
  if checked && !x.noRefRaised && decide (8 * turn.natAbs ≤ (x.angle - x.goodRef).natAbs) then
    let before := s.statuses
    (((s.setShaft i { x with noRefRaised := true, uncertain := true }).raiseShaft i 0x2104 0).follow i false).resettle before
  else s

/-- The meaning of NO_GOOD_REFERENCE. -/
def execNoGoodReference (i : Nat) (s : State) : Host.Outcome State Fault Refusal := .next (s.noReference i)

/-! ### Signal loss (R58, R93) -/

/-- The detector watches a pair of a shaft (R58). -/
def State.watches (s : State) (i : Nat) : Pair → Bool
  | .a => decide (1 ≤ s.kind i ∧ s.kind i ≤ 3)
  | .b => decide (s.kind i = 1 ∨ s.kind i = 3)
  | .z => decide (s.kind i = 1 ∧ s.cfg i 4 = 1)

def Shaft.faulted (x : Shaft) : Pair → Bool
  | .a => x.faultA
  | .b => x.faultB
  | .z => x.faultZ

def Shaft.setFault (x : Shaft) (p : Pair) (v : Bool) : Shaft := match p with
  | .a => { x with faultA := v }
  | .b => { x with faultB := v }
  | .z => { x with faultZ := v }

/-- Input loss: the speed freezes and the angle extrapolates; a shaft without speed enters standstill. -/
def State.enterLoss (s : State) (i : Nat) : State :=
  let s := s.modShaft i (fun x => { x with
    inputLoss := true, referenced := false, uncertain := true, refFault := false, lossFrom := x.angle, lossAt := s.timebase,
    freeSpeed := x.speed, freeSpeedDen := x.speedDen, hist := [], timed := false, prevInterval := 0, speedTime := none, passage := none, zTaken := none })
  let s := s.failFrames i 0
  let x := s.shaft i
  let s := if !x.standstill && x.speed = 0 then s.enterStill i else s
  (s.miss i).follow i false

/-- ENCODER_PAIR_FAULT. -/
def State.pairFault (s : State) (i : Nat) (p : Pair) : State :=
  let x := s.shaft i
  let s0 := s.setShaft i (x.setFault p true)
  if x.faulted p || !s.alive || !s.watches i p then s0
  else
    let before := s.statuses
    let s := s0.raiseShaft i 0x2001 0
    if p = .z then s.modShaft i (fun x => { x with passage := none, zTaken := none })
    else if x.inputLoss then s
    else (s.enterLoss i).resettle before

/-- The meaning of ENCODER_PAIR_FAULT. -/
def execEncoderPairFault (i : Nat) (p : Pair) (s : State) : Host.Outcome State Fault Refusal := .next (s.pairFault i p)

/-- ENCODER_INPUT_RETURN: once no pair that the kind uses is lost, the shaft counts again from its extrapolated angle, and its
events wait for the next first reference. -/
def State.pairReturn (s : State) (i : Nat) (p : Pair) : State :=
  let s := s.modShaft i (fun x => x.setFault p false)
  let x := s.shaft i
  let lost := (s.watches i .a && x.faultA) || (s.watches i .b && x.faultB)
  if !x.inputLoss || lost then s
  else
    let before := s.statuses
    let s := s.setShaft i { x with
      inputLoss := false, counted := false, timed := false, armed := false, trackingBack := false, edge := 0,
      edgeAngle := x.angle, edgeTime := s.timebase, goodRef := x.angle, noRefRaised := false }
    (s.follow i false).resettle before

/-- The meaning of ENCODER_INPUT_RETURN. -/
def execEncoderInputReturn (i : Nat) (p : Pair) (s : State) : Host.Outcome State Fault Refusal := .next (s.pairReturn i p)

/-- INPUT_LOSS_EXTRAPOLATION_END: one revolution has been extrapolated. -/
def State.lossEnd (s : State) (i : Nat) : State :=
  let x := s.shaft i
  if decide (1 ≤ s.kind i ∧ s.kind i ≤ 3) && x.inputLoss && !x.standstill && decide (turn.natAbs ≤ (x.covered (s.timebase - x.lossAt)).natAbs) then
    let before := s.statuses
    let s := s.advance i
    (((s.enterStill i).miss i).follow i false).resettle before
  else s

/-- The meaning of INPUT_LOSS_EXTRAPOLATION_END. -/
def execInputLossExtrapolationEnd (i : Nat) (s : State) : Host.Outcome State Fault Refusal := .next (s.lossEnd i)

/-! ### Configuration (R60, R72) -/

/-- A shaft whose configuration has changed: it counts on from its present angle until its next first reference. `was` is its kind
before, and `watched` tells the pairs watched before: a faulted pair newly watched raises 0x2001 (R58). -/
def State.reconfigure (s : State) (i was : Nat) (watched : Pair → Bool) : State :=
  let before := s.statuses
  let kind := s.kind i
  let x := s.shaft i
  let x := { x with
    referenced := false, armed := false, counted := false, timed := false, edge := 0, edgeAngle := x.angle,
    edgeTime := s.timebase, hist := [], prevInterval := 0, speed := 0, speedDen := 1, accel := 0, accelDen := 1,
    speedTime := none, refFault := false, overspeed := false, beyond := false, backUnder := 0, trackingBack := false,
    inputLoss := false, reverse := false, passage := none, lastRef := none, zTaken := none, ratioFrom := none,
    noRefRaised := false, goodRef := x.angle, illegal := 0, illegalRaised := false }
  let x := if kind = 0 then { x with standstill := false, uncertain := false } else x
  let s := s.setShaft i x
  let s := if was = 0 ∧ 1 ≤ kind ∧ kind ≤ 3 then s.takeIntoUse i else s
  let lost := (s.watches i .a && x.faultA) || (s.watches i .b && x.faultB)
  let fresh (p : Pair) : Bool := s.watches i p && x.faulted p && !watched p
  let s := ([Pair.a, .b, .z].filter fresh).foldl (fun s _ => s.raiseShaft i 0x2001 0) s
  let s := if lost then s.enterLoss i else s
  let s := if kind = 4 then s.followOne true true true i else s
  (s.follow i true).resettle before

/-- The bytes of a number as its entry takes them. -/
def fieldBytes (index sub : Nat) (v : Int) : List Byte := match odRow index sub with
  | some r => leInt (r.ty.bits / 8) v
  | none => []

/-- A number lies in the range of its entry's type. -/
def fieldFits (index sub : Nat) (v : Int) : Bool := match odRow index sub with
  | some r => decide ((leNat (leInt (r.ty.bits / 8) v) : Int) = v)
  | none => true

/-- A value that the shaft record forbids (R60): one that its entry cannot hold, the ratio of shaft 0, and the counts of a tooth
wheel. DESIGN CHOICE (log entry 86): while the kind is 0 or 4, for which Table 2.2 gives :02 no range, it takes 1 to 65 535. -/
def State.shaftDeny (s : State) (i sub : Nat) (v : Int) : Option Deny :=
  let d : Deny := badValue (0x2200 + i) sub
  if !fieldFits (0x2200 + i) sub v then some d
  else if i = 0 ∧ (sub = 6 ∨ sub = 7) ∧ v ≠ 1 then some d
  else if sub = 2 ∧ (s.kind i = 2 ∨ s.kind i = 3) ∧ (v < 4 ∨ 1024 < v) then some d
  else if s.tray = .ready ∨ s.tray = .service then none
  else some (notNow (0x2200 + i) sub)

/-- A field of a shaft record written. -/
def State.shaftSet (s : State) (i sub : Nat) (v : Int) : State :=
  (s.setNum (0x2200 + i) sub v).reconfigure i (s.kind i) (s.watches i)

/-- The meaning of SHAFT_CONFIG_WRITE. -/
def execShaftConfigWrite (n : Net) (i sub : Nat) (v : Int) (s : State) : Host.Outcome State Fault Refusal :=
  .next (s.write n (0x2200 + i) sub (fieldBytes (0x2200 + i) sub v) (fun s => s.shaftDeny i sub v) (fun s => s.shaftSet i sub v))

/-! ### Mirror Almanacs (R95) -/

/-- An angle message as a mirror reads it. -/
def mirrorOf (b : List Byte) : MirrorShaft :=
  ⟨true, byteAt b 27, signed 64 (leAt b 0 8), signed 32 (leAt b 8 4), signed 32 (leAt b 12 4), leAt b 16 8, leAt b 24 2, leAt b 28 2⟩

/-- ANGLE_MESSAGE_RECEIVE: a bad check or a gap in the sequence discards the message; the sequence goes on from it. -/
def State.angleReceive (s : State) (c : Nat) (b : List Byte) : State :=
  let i := byteAt b 26 % 4
  let m := (s.chip c).mirror
  let old := vget m.shafts i
  if b.length ≠ 32 ∨ crc16 (b.take 30) ≠ leAt b 30 2 then s
  else
    let new := mirrorOf b
    if old.valid ∧ new.seq ≠ (old.seq + 1) % 256 then
      s.modChip c (fun x => { x with mirror := { x.mirror with shafts := vset x.mirror.shafts i { old with seq := new.seq } } })
    else
      let s := s.modChip c (fun x => { x with mirror := { x.mirror with
        shafts := vset x.mirror.shafts i new, lastValid := s.timebase, stale := false, staleRaised := false } })
      let gaps := s.gapsOf c
      s.modChip c (fun x => { x with mirror := { x.mirror with gaps := gaps } })

/-- The meaning of ANGLE_MESSAGE_RECEIVE. -/
def execAngleMessageReceive (c : Nat) (b : List Byte) (s : State) : Host.Outcome State Fault Refusal := .next (s.angleReceive c b)

/-- The chip has had no valid message for a number of ticks. -/
def State.mirrorQuiet (s : State) (c n : Nat) : Bool := s.alive && decide ((s.chip c).mirror.lastValid + n ≤ s.timebase)

/-- The meaning of MIRROR_STALE: 64 µs without a valid message. -/
def execMirrorStale (c : Nat) (s : State) : Host.Outcome State Fault Refusal :=
  .next (if s.mirrorQuiet c 6400 then s.modChip c (fun x => { x with mirror := { x.mirror with stale := true } }) else s)

/-- MIRROR_STALE_FAULT: 1 ms without a valid message, raised once. -/
def State.mirrorFault (s : State) (c : Nat) : State :=
  if s.mirrorQuiet c 100000 && !(s.chip c).mirror.staleRaised then
    (s.modChip c (fun x => { x with mirror := { x.mirror with stale := true, staleRaised := true } })).raise 0x2401 (chipUnit c) noTenant 0
  else s

/-- The meaning of MIRROR_STALE_FAULT. -/
def execMirrorStaleFault (c : Nat) (s : State) : Host.Outcome State Fault Refusal := .next (s.mirrorFault c)

/-! ### Speculative issues (R267) -/

/-- The source of a job's triggers is enabled: its event, a channel of its group, its camera. -/
def State.sourceOn (s : State) (t j : Nat) : Bool :=
  let d := s.jobDesc t j
  if d.kind = 0 then s.flag (blk t (0x10 + d.index)) 1
  else if d.kind = 1 then !(s.groupChannels d.index).isEmpty
  else if d.kind = 2 then s.flag (0x2310 + d.index) 1
  else false

/-- The k of the frame or capture of a job's source that is under way and not yet complete. -/
def State.sourceRun (s : State) (t j : Nat) : Option Int :=
  let d := s.jobDesc t j
  if d.kind = 1 then ((s.group d.index).runs.getLast?).map FrameRun.k
  else if d.kind = 2 then (s.cam d.index).capture.map Capture.k else none

/-- The k and angle that a job's trigger is predicted to have, and its shaft (R267). DESIGN CHOICE (log entry 83): a frame or capture
whose start angle the shaft has just reached may still be taken, so that a lead of 0 issues at that angle. -/
def State.expected (s : State) (t j : Nat) : Option (Int × Int × Nat) := match s.jobSeries t j with
  | none => none
  | some (q, sh) =>
    let x := s.shaft sh
    let k := q.nextK false x.hwm
    let taken (k : Int) : Bool := (s.job t j).noSpec.contains k || s.issues.any (fun i => decide (i.tenant = t ∧ i.job = j ∧ i.k = k))
    match s.sourceRun t j with
    | some r => if !taken r then some (r, q.at_ r, sh)
        else if q.pn = 0 ∧ q.phase ≤ x.hwm then none else some (k, q.at_ k, sh)
    | none => if q.pn = 0 ∧ q.phase ≤ x.hwm then none else some (k, q.at_ k, sh)

/-- The predicted angle of a shaft has reached an angle less a lead (R91, R267). -/
def Trajectory.reaches (p : Trajectory) (now : Nat) (a : Int) : Bool :=
  let dt : Int := (now : Int) - p.time
  let den : Int := 2 * p.speedDen * p.accelDen
  decide ((a - p.angle) * den ≤ 2 * (p.accelDen : Int) * p.speed * dt + (p.speedDen : Int) * p.accel * dt * dt)

/-- SPECULATIVE_ISSUE: the predicted angle has reached the predicted trigger angle less the lead, and a speculative slot is free
on every chip of the placement. -/
def State.speculate (s : State) (t j : Nat) : State :=
  let d := s.jobDesc t j
  match s.expected t j, s.jobModel t j with
  | some (k, a, sh), some m =>
    let x := s.shaft sh
    let own := if s.kind sh = 4 then s.shaft 0 else x
    let fresh := s.jobOn t j && s.sourceOn t j && !(s.job t j).noSpec.contains k
    let mine (i : Issue) : Bool := decide (i.tenant = t ∧ i.job = j ∧ i.k = k)
    let quiet := !x.armed || !x.referenced || x.standstill || x.reverse || x.beyond || x.inputLoss
      || m.chips.any (fun c => (s.chip c).mirror.stale)
    let due := x.traj.reaches s.timebase (a - d.lead)
    if !fresh || !s.listens t j || !d.speculate || quiet || !due || s.issues.any mine || (s.pendOf t).queue.any (fun q => decide (q.job = j ∧ q.k = k))
        || !s.slotFree true t m.chips then s
    else
      let i : Issue :=
        { id := s.nextIssue, tenant := t, job := j, slot := d.slot, entry := d.entry, kind := d.kind, index := d.index,
          st := .speculative, ranAhead := true, waitsSlot := false, order := 0, epoch := own.traj.epoch, traj := own.traj, k := k,
          angle := a, flags := 0, shaft := sh, frame := none, frameFlags := 0, gated := false, parts := startParts m m.chips (fun _ => d.entry),
          arrived := [], saturated := 0, satFlag := false, frameData := [], stripsIn := [], finished := false, rows := [],
          micro := none, out := [] }
      let s := { s with issues := s.issues ++ [i], nextIssue := s.nextIssue + 1 }
      let s := s.bump (blk t 0x2F) 4
      if d.kind = 1 ∨ d.kind = 2 then
        m.chips.eraseDups.foldl (fun s c => s.modChip c (fun x =>
          { x with stripsWait := x.stripsWait ++ (List.range 8).map (fun n => (StripFor.issue i.id, n)) }.feedStrips)) s
      else s
  | _, _ => s

/-- The meaning of SPECULATIVE_ISSUE. -/
def execSpeculativeIssue (t j : Nat) (s : State) : Host.Outcome State Fault Refusal := .next (s.speculate t j)

end Sys2Proof.Machine
end

