-- ==== Sys2Proof/Machine/Outputs.lean ====
section
/-! DEFINITION. Output sets and digital outputs (chapter 14), external supplies and temperatures (chapter 16). -/

namespace Sys2Proof.Machine

/-! ### Output sets (R480) -/

/-- Bytes of a value format (Table 14.10). -/
def formatBytes (f : Nat) : Nat := if f < 2 then 1 else if f < 4 then 2 else 4

/-- A condition output that an enabled set of any tenant names. -/
def State.conditionTaken (s : State) (n : Nat) : Bool := s.enabledSets.any (fun p => decide (s.nat (blk p.1 (0x40 + p.2)) 2 = n))

/-- Why an enable of a set is refused, in the order of R480. -/
def State.setDeny (s : State) (t o : Nat) : Option Deny :=
  let i := blk t (0x40 + o)
  let c := s.nat i 2
  let outs := s.nat i 8
  if s.flag i 1 then none
  else if c = 0xFF ∧ outs = 0 then some (notNow i 2)
  else if c < 16 ∧ s.conditionTaken c = true then some (notNow i 2)
  else if (List.range 4).any (fun k => bit outs k && !bit (s.nat 0x6200 (8 + k)) t) then some (notNow i 8)
  else if 16 < s.nat i 4 + formatBytes (s.nat i 5) then some (notNow i 4)
  else if s.num i 9 < s.num i 10 then some (notNow i 10)
  else none

/-- A set enabled: nothing is published through it yet. -/
def State.setOn (s : State) (t o : Nat) : State :=
  let i := blk t (0x40 + o)
  if s.flag i 1 then s else (s.setNum i 1 1).modOutSet t o (fun _ => {})

/-- A set disabled: valid bit and alarm clear, and the condition output is released. -/
def State.setOff (s : State) (t o : Nat) : State :=
  ((s.clearSet t o).setNum (blk t (0x40 + o)) 1 0).modOutSet t o (fun _ => {})

/-- The meaning of OUTPUT_SET_ENABLE. -/
def execOutputSetEnable (n : Net) (t o : Nat) (s : State) : Host.Outcome State Fault Refusal :=
  .next (s.write n (blk t (0x40 + o)) 1 [1] (fun s => s.setDeny t o) (fun s => s.setOn t o))

/-- The meaning of OUTPUT_SET_DISABLE. -/
def execOutputSetDisable (n : Net) (t o : Nat) (s : State) : Host.Outcome State Fault Refusal :=
  .next (s.write n (blk t (0x40 + o)) 1 [0] (fun _ => none) (fun s => s.setOff t o))

/-- A grant that takes an output from a tenant whose enabled set drives it is refused (R487). -/
def State.grantDeny (s : State) (k value : Nat) : Option Deny :=
  if s.enabledSets.any (fun p => bit (s.nat (blk p.1 (0x40 + p.2)) 8) k && !bit value p.1) then some (notNow 0x6200 (8 + k))
  else none

/-! ### Digital outputs (R488, R531) -/

def State.modOutputs (s : State) (f : Outputs → Outputs) : State := { s with outputs := f s.outputs }
def State.modPower (s : State) (f : Power → Power) : State := { s with power := f s.power }
def State.modFaults (s : State) (f : Faults → Faults) : State := { s with faults := f s.faults }

/-- DIGITAL_OUTPUT_OVERLOAD: an output that carries current switches itself off. -/
def State.outputOverload (s : State) (i : Nat) : State :=
  if s.level i && !vget s.outputs.overload i && !s.power.doSupplyMissing then
    ((s.modOutputs (fun o => { o with overload := vset o.overload i true })).bump 0x6200 12).raise 0x1201 (outputUnit i) noTenant i
  else s

/-- The meaning of DIGITAL_OUTPUT_OVERLOAD. -/
def execDigitalOutputOverload (i : Nat) (s : State) : Host.Outcome State Fault Refusal := .next (s.outputOverload i)

/-- The meaning of DIGITAL_OUTPUT_RETRY: a try while the level is 1; one that holds clears the overload bit. -/
def execDigitalOutputRetry (i : Nat) (holds : Bool) (s : State) : Host.Outcome State Fault Refusal :=
  .next (if s.level i && holds && !s.power.doSupplyMissing then
    s.modOutputs (fun o => { o with overload := vset o.overload i false }) else s)

/-- The meaning of DO_SUPPLY_LOSS: once per episode. No overload bit is set while the supply is missing (R531). -/
def execDoSupplyLoss (s : State) : Host.Outcome State Fault Refusal :=
  .next (if s.alive && !s.power.doSupplyMissing then
    ((s.modPower (fun p => { p with doSupplyMissing := true })).modOutputs (fun o => { o with
      overload := Vector.replicate 4 false })).raise 0x1202 inputUnit noTenant 0 else s)

/-- The meaning of DO_SUPPLY_RETURN. -/
def execDoSupplyReturn (s : State) : Host.Outcome State Fault Refusal :=
  .next (s.modPower (fun p => { p with doSupplyMissing := false }))

/-! ### External supplies (R532, R533) -/

/-- A supply switched on or off; CAM_12V is that of the camera. -/
def State.supply (s : State) (c : Nat) (on : Bool) : State :=
  let s := s.modPower (fun p => { p with extOn := vset p.extOn c on })
  if c = 13 ∨ c = 14 then s.modCam (c - 13) (fun x => { x with power := on }) else s

/-- EXTERNAL_SUPPLY_TRIP: the supply switches off, once per episode recorded. -/
def State.supplyTrip (s : State) (c : Nat) : State :=
  if vget s.power.extOn c then
    let was := vget s.power.extTripped c
    let s := (s.supply c false).modPower (fun p => { p with extTripped := vset p.extTripped c true })
    if was then s else s.raise 0x1203 suppliesUnit noTenant c
  else s

/-- The meaning of EXTERNAL_SUPPLY_TRIP. -/
def execExternalSupplyTrip (c : Nat) (s : State) : Host.Outcome State Fault Refusal := .next (s.supplyTrip c)

/-- The meaning of EXTERNAL_SUPPLY_RETRY: a tripped supply switches on again once it holds. -/
def execExternalSupplyRetry (c : Nat) (holds : Bool) (s : State) : Host.Outcome State Fault Refusal :=
  .next (if vget s.power.extTripped c && holds then
    (s.supply c true).modPower (fun p => { p with extTripped := vset p.extTripped c false }) else s)

/-! ### Temperatures (R32, R537, R538) -/

/-- A reading inside −50 °C to +125 °C. -/
def readingOf : Reading → Option Int
  | .value t => if -500 ≤ t ∧ t ≤ 1250 then some t else none
  | .openWire | .shorted => none

/-- The plate temperature judged against the one before: cap and cause. -/
def State.judgePlate (s : State) (was t : Int) : State :=
  let s := if was ≤ 750 ∧ 750 < t then
      (s.modFaults (fun f => { f with capped := true })).raise 0x1101 plateUnit noTenant (unsigned 16 t)
    else if t ≤ 700 then s.modFaults (fun f => { f with capped := false }) else s
  let s := if t ≤ 750 then s.modFaults (fun f => { f with plateCritical := false }) else s
  if was ≤ 850 ∧ 850 < t then
    ((s.modFaults (fun f => { f with plateCritical := true })).raise 0x1102 plateUnit noTenant (unsigned 16 t)).hold 0x1102
  else s

/-- PLATE_TEMPERATURE_SAMPLE. -/
def State.plateSample (s : State) (plate : Reading) (dies : List Reading) (reeve : Reading) : State :=
  if !s.alive then s
  else
    let die (c : Nat) : Option Int := ((dies[c]?).map readingOf).getD none
    let s := forEach 16 s fun s c => s.modChip c (fun x => { x with die := die c })
    let live := (List.range 16).filterMap (fun c => if (s.chip c).tier = 0 then none else die c)
    let all := live ++ (match (readingOf reeve) with | some t => [t] | none => [])
    let hot := match all with
      | [] => none
      | t :: r => some (r.foldl max t)
    let failed := (readingOf plate).isNone
    let s := if failed && !s.faults.plateFailed then
        (s.modFaults (fun f => { f with plateFailed := true })).raise 0x1104 plateUnit noTenant 0
      else s.modFaults (fun f => { f with plateFailed := failed })
    let s := s.modFaults (fun f => { f with reeve := (readingOf reeve), hottest := hot.getD (-32768) })
    let was := s.faults.plate
    let used := match (readingOf plate) with
      | some t => some t
      | none => hot.map (fun t => t - 250)
    let s := match used with
      | none => s.modFaults (fun f => { f with noTemp := true, plate := -32768, capped := true })
      | some t =>
        let s := if s.faults.noTemp then s.modFaults (fun f => { f with noTemp := false, capped := false }) else s
        (s.modFaults (fun f => { f with plate := t })).judgePlate was t
    s.retier

/-- The meaning of PLATE_TEMPERATURE_SAMPLE. -/
def execPlateTemperatureSample (plate : Reading) (dies : List Reading) (reeve : Reading) (s : State) :
    Host.Outcome State Fault Refusal := .next (s.plateSample plate dies reeve)

end Sys2Proof.Machine
end

