-- ==== Sys2Proof/Machine/Tenants.lean ====
section
/-! DEFINITION. Job records (R257 to R259), tenants, quotas, sessions and their authentication (R291 to R301), bundle keys (R306),
model slots (R311 to R316, R325). -/

namespace Sys2Proof.Machine

/-! ### Jobs enabled and disabled -/

/-- A refusal that names a word of a format and a bit range. -/
def Deny.at_ (d : Deny) (word hi lo : Nat) : Deny := { d with word := word, bits := 256 * hi + lo }

/-- The reserved fields of a job descriptor: word, high bit, low bit (Table 8.2). -/
def jobReserved : List (Nat × Nat × Nat) :=
  [(0, 11, 11), (0, 31, 26), (1, 31, 16), (4, 31, 17), (5, 31, 5), (6, 31, 0), (7, 15, 0)]

/-- The highest trigger index of each kind (Table 8.3). -/
def topIndex (kind : Nat) : Nat := match kind with
  | 0 => 15 | 1 => 7 | 2 => 1 | 3 => 14 | 4 => 7 | _ => 0

/-- A chain of kind-3 jobs from job `cur` leads back to job `j`. -/
def State.loopsBack (s : State) (t j : Nat) : Nat → Nat → Bool
  | _, 0 => false
  | cur, n + 1 => decide (cur = j) || (s.jobOn t cur && decide ((s.jobDesc t cur).kind = 3)
      && s.loopsBack t j (s.jobDesc t cur).index n)

/-- The frame of a job lies in the Loft that the placement grants each partition of its entry. -/
def State.frameFits (s : State) (m : Model) (d : JobDesc) : Bool :=
  let ring := if d.kind = 1 then d.index else 8 + d.index
  let size := 64 + (s.stripBytes ring 7).2
  (List.range m.variant.p).all fun q => !m.variant.takesPart d.entry q
    || covered (m.variant.granted q) (64 * d.handle) size

/-- The first check of R259 that a job descriptor fails: word, high bit, low bit. -/
def State.jobFlaw (s : State) (t j : Nat) : Option (Nat × Nat × Nat) :=
  let d := s.jobDesc t j
  let frame := decide (d.kind = 1 ∨ d.kind = 2)
  if !d.checkOk then some (7, 31, 16)
  else match jobReserved.find? (fun f => decide (field (d.w f.1) f.2.1 f.2.2 ≠ 0)) with
    | some f => some f
    | none => match s.jobModel t j with
      | none => some (0, 7, 0)
      | some m =>
        if m.variant.entries.length ≤ d.entry then some (1, 15, 0)
        else if 5 < d.kind then some (0, 10, 8)
        else if topIndex d.kind < d.index then some (0, 15, 12)
        else if 3 ≤ d.kind ∧ d.speculate = true then some (0, 16, 16)
        else if (d.lead ≠ 0 ∧ (3 ≤ d.kind ∨ d.speculate = false)) ∨ 2 ^ 24 < d.lead then some (3, 31, 0)
        else if (d.deadline ≠ 0 ∧ 4 ≤ d.kind) ∨ 2 ^ 30 < d.deadline then some (2, 31, 0)
        else if (frame && (decide (d.handle = 0) || !s.frameFits m d)) || (!frame && decide (d.handle ≠ 0)) then some (4, 16, 0)
        else if d.gated && !(s.jobOn t d.gateJob && s.isWakeJob t d.gateJob
            && decide ((s.jobDesc t d.gateJob).kind = d.kind ∧ (s.jobDesc t d.gateJob).index = d.index)) then some (0, 21, 17)
        else if d.kind = 3 ∧ s.loopsBack t j d.index 16 = true then some (0, 15, 12)
        else none

/-- Why an enable of a job is refused (R259), with fault 0x4C10. -/
def State.jobDeny (s : State) (t j : Nat) : Option Deny :=
  if s.jobOn t j then none
  else match s.jobFlaw t j with
    | none => none
    | some (w, hi, lo) => some (((badValue (blk t (0x20 + j)) 2).raising s 0x4C10 0 t 0).at_ w hi lo)

/-- A job enabled. -/
def State.jobStart (s : State) (t j : Nat) : State :=
  if s.jobOn t j then s
  else (((s.setNum (blk t (0x20 + j)) 1 1).modJob t j (fun r => { r with drops := 0, onTime := false, holdOver := none, noSpec := [] })).retier)

/-- The frames that wait for a job and that no issue of it holds are released. -/
def State.releaseJob (s : State) (t j : Nat) : State := forEach 10 s fun s r =>
  (s.ringOf r).foldl (fun s f =>
    if f.waiting.contains (t, j) && !s.issues.any (fun i => decide (i.tenant = t ∧ i.job = j) && i.frame == some (r, f.number)) then
      s.release (some (r, f.number)) t j else s) s

/-- A job disabled: no trigger of it issues any more (R257). -/
def State.jobStop (s : State) (t j : Nat) : State :=
  if !s.jobOn t j then s
  else
    let s := s.setNum (blk t (0x20 + j)) 1 0
    let s := (s.modPend t (fun p => { p with queue := p.queue.filter (fun q => decide (q.job ≠ j)) })).endDecimation t
    let s := s.modJob t j (fun r => { r with holdOver := none })
    (s.releaseJob t j).retier

/-- The meaning of JOB_ENABLE. -/
def execJobEnable (n : Net) (t j : Nat) (s : State) : Host.Outcome State Fault Refusal :=
  .next (s.write n (blk t (0x20 + j)) 1 [1] (fun s => s.jobDeny t j) (fun s => s.jobStart t j))

/-- The meaning of JOB_DISABLE. -/
def execJobDisable (n : Net) (t j : Nat) (s : State) : Host.Outcome State Fault Refusal :=
  .next (s.write n (blk t (0x20 + j)) 1 [0] (fun _ => none) (fun s => s.jobStop t j))

/-! ### Sessions of a network (R299 to R301) -/

/-- The session of a network ends. -/
def State.endNetSession (s : State) (n : Net) : State := s.modBox n (fun b => { b with session := none })

/-- Every session of a tenant ends. -/
def State.endSessions (s : State) (t : Nat) : State :=
  [Net.ecat, .can].foldl (fun s n => if s.session n = some t then s.endNetSession n else s) s

/-- The key with which responses of a tenant are verified. -/
def State.authKey (s : State) (t : Nat) : List Byte := if t = 0 then s.boot.fuses.ownerKey else s.bytes (blk t 2) 1

/-- An entry may be read by the session of a network (rows 1 to 4 of Table 14.1). -/
def State.readDeny (s : State) (n : Net) (index sub : Nat) : Option Deny := match existsDeny index sub with
  | some d => some d
  | none => match s.rightOn (s.session n) index sub with
    | .no => some { abort := abRights, index, sub }
    | .wo => some { abort := abWriteOnly, index, sub }
    | _ => none

/-- A challenge drawn for a network (R299). -/
def State.drawChallenge (s : State) (n : Net) (t : Nat) : State :=
  let (d, s) := s.draw
  let c := (List.range 16).map (Config.challengeByte d)
  (s.modTenant t (fun x => { x with challenge := vset x.challenge n.num (some (c, s.micros)) })).answer n (.data c)

/-- CHALLENGE_READ. -/
def State.challengeFor (s : State) (n : Net) (t : Nat) : State := s.serve n fun s =>
  match s.readDeny n (blk t 2) 2 with
  | some d => s.refuse n d
  | none => if (s.tenant t).locked then s.refuse n { abort := abStore, index := blk t 2, sub := 2 } else s.drawChallenge n t

/-- The meaning of CHALLENGE_READ. -/
def execChallengeRead (n : Net) (t : Nat) (s : State) : Host.Outcome State Fault Refusal := .next (s.challengeFor n t)

/-- The meaning of CHALLENGE_EXPIRY: a challenge lives 10 s. -/
def execChallengeExpiry (n : Net) (t : Nat) (s : State) : Host.Outcome State Fault Refusal :=
  .next (match vget (s.tenant t).challenge n.num with
    | some (_, at_) => if at_ + 10000000 ≤ s.micros then s.modTenant t (fun x => { x with challenge := vset x.challenge n.num none }) else s
    | none => s)

/-- The message that a response signs (R299). -/
def State.authMessage (s : State) (n : Net) (t : Nat) (c : List Byte) : List Byte :=
  [0x48, 0x4F, 0x4C, 0x53] ++ leBytes 4 s.boot.fuses.serial ++ leBytes 1 t ++ leBytes 1 n.num ++ c

/-- A response that a tenant's key verifies against a live challenge. -/
def State.authOk (s : State) (n : Net) (t : Nat) (sig : List Byte) : Bool := match vget (s.tenant t).challenge n.num with
  | none => false
  | some (c, at_) => decide (s.micros < at_ + 10000000) && !(s.authKey t).isEmpty && ecdsaVerify (s.authKey t) (sha256 (s.authMessage n t c)) sig

/-- A failed response (R300): counted, recorded, and the eighth within 60 s locks the tenant's challenges. -/
def State.authFail (s : State) (n : Net) (t : Nat) : State :=
  let s := s.bump (blk t 2) 7
  let recent := s.micros :: ((s.tenant t).failTimes.filter (fun m => decide (s.micros < m + 60000000)))
  let locks := !(s.tenant t).locked && decide (8 ≤ recent.length)
  let s := s.modTenant t (fun x => if x.locked then x else { x with failTimes := recent, locked := locks })
  let d := (Deny.mk abStore (blk t 2) 3 0 none 0xFF 0 0).raising s 0x8101 (netUnit n) t 0
  let s := s.refuse n d
  if locks then s.raise 0x8102 (netUnit n) t 0 else s

/-- A response judged: the challenge is consumed either way. -/
def State.authJudge (s : State) (n : Net) (t : Nat) (sig : List Byte) : State :=
  let good := s.authOk n t sig
  let s := s.modTenant t (fun x => { x with challenge := vset x.challenge n.num none })
  if good then (s.modBox n (fun b => { b with session := some ⟨t, s.micros⟩ })).answer n .ok else s.authFail n t

/-- AUTH_RESPONSE_WRITE. -/
def State.authResponse (s : State) (n : Net) (t : Nat) (sig : List Byte) : State := s.serve n fun s =>
  match (s.rightsDeny n (blk t 2) 3) <|> (valueDeny (blk t 2) 3 sig) with
  | some d => s.refuse n d
  | none => s.authJudge n t sig

/-- The meaning of AUTH_RESPONSE_WRITE. -/
def execAuthResponseWrite (n : Net) (t : Nat) (sig : List Byte) (s : State) : Host.Outcome State Fault Refusal :=
  .next (s.authResponse n t sig)

/-- The meaning of AUTH_LOCK_END: 60 s after the failure that locked. -/
def execAuthLockEnd (t : Nat) (s : State) : Host.Outcome State Fault Refusal :=
  .next (if (s.tenant t).locked && decide ((s.tenant t).failTimes.headD 0 + 60000000 ≤ s.micros) then
    s.modTenant t (fun x => { x with locked := false, failTimes := [] }) else s)

/-- The meaning of END_SESSION: a write of +0x02:05. -/
def execEndSession (n : Net) (t value : Nat) (s : State) : Host.Outcome State Fault Refusal :=
  .next (s.write n (blk t 2) 5 (numBytes (blk t 2) 5 value) (fun _ => none) (fun s => s.endNetSession n))

/-- The meaning of SESSION_IDLE_TIMEOUT: no SDO access for the idle limit of the session's tenant. -/
def execSessionIdleTimeout (n : Net) (s : State) : Host.Outcome State Fault Refusal :=
  .next (match (s.box n).session with
    | some x => if x.last + 1000000 * s.nat (blk x.tenant 2) 6 ≤ s.micros then s.endNetSession n else s
    | none => s)

/-- Why a public key is refused (R298). -/
def keyDeny (t : Nat) (key : List Byte) : Option Deny :=
  if key.length < 64 then some { abort := abLength, index := blk t 2, sub := 1 }
  else if !onCurve (beNat (key.take 32)) (beNat (key.drop 32)) then some (badValue (blk t 2) 1)
  else none

/-- The meaning of PUBLIC_KEY_WRITE. -/
def execPublicKeyWrite (n : Net) (t : Nat) (key : List Byte) (s : State) : Host.Outcome State Fault Refusal :=
  .next (s.write n (blk t 2) 1 key (fun _ => keyDeny t key) (fun s => s.setBytes (blk t 2) 1 key))

/-- A bundle key unwrapped (R306). -/
def State.unwrap (s : State) (t : Nat) (w : List Byte) : Option (List Byte) :=
  gcmOpen s.boot.fuses.wrapKey (w.take 12) (leBytes 1 t) (slice w 12 32) (slice w 44 16)

/-- Why a bundle key is refused. -/
def State.bundleKeyDeny (s : State) (n : Net) (t : Nat) (w : List Byte) : Option Deny :=
  if w.length ≠ 60 then some { abort := abLength, index := blk t 2, sub := 8 }
  else if (s.unwrap t w).isNone then some ((badValue (blk t 2) 8).raising s 0x8204 (netUnit n) t 0)
  else none

/-- A bundle key held, wrapped as written and unwrapped. -/
def State.bundleKeySet (s : State) (t : Nat) (w : List Byte) : State :=
  (s.setBytes (blk t 2) 8 w).modTenant t (fun x => { x with bundleKey := (s.unwrap t w).getD [] })

/-- The meaning of BUNDLE_KEY_WRITE. -/
def execBundleKeyWrite (n : Net) (t : Nat) (w : List Byte) (s : State) : Host.Outcome State Fault Refusal :=
  .next (s.write n (blk t 2) 8 w (fun s => s.bundleKeyDeny n t w) (fun s => s.bundleKeySet t w))

/-! ### Token sessions: what ends them (R328, R329) -/

/-- A running session returns to idle, or is full, with an end reason. -/
def State.tokenEnd (s : State) (k state reason : Nat) : State :=
  let s := s.modToken k (fun x => { x with prompt := [], ready := false, outstanding := false, stopAsked := false })
  ((s.setNum (0x6100 + k) 3 state).setNum (0x6100 + k) 16 reason).retier

/-- A session closed. -/
def State.tokenClose (s : State) (k : Nat) : State := (s.tokenShut k).retier

/-- A stop: at the end of the step under way, or at once. -/
def State.tokenStop (s : State) (k : Nat) : State :=
  if s.nat (0x6100 + k) 3 ≠ 2 then s
  else if (s.token k).outstanding then s.modToken k (fun x => { x with stopAsked := true })
  else s.tokenEnd k 1 4

/-- The open sessions of a tenant. -/
def State.tokensOf (s : State) (t : Nat) : List Nat :=
  (List.range 8).filter (fun k => decide (s.nat (0x6100 + k) 3 ≠ 0 ∧ s.nat (0x6100 + k) 2 = t))

/-! ### Slots (R311 to R316) -/

/-- An enabled job or an open token session names a slot (R316). -/
def State.slotNamed (s : State) (slot : Nat) : Bool :=
  let t := s.nat (0x4000 + slot) 1
  s.enabledJobs.any (fun p => decide (p.1 = t ∧ (s.jobDesc p.1 p.2).slot = slot))
  || (s.tokensOf t).any (fun k => decide (s.nat (0x6100 + k) 4 = slot))

/-- The issues of a slot end. -/
def State.endSlotIssues (s : State) (slot : Nat) : State :=
  (s.issues.filter (fun i => decide (i.slot = slot))).foldl (fun s i => s.endIssue i.id) s

/-- A slot in the states that a command asks for. -/
def State.slotIn (s : State) (slot : Nat) (l : List Nat) : Option Deny :=
  if l.contains (s.nat (0x4000 + slot) 4) then none else some (notNow (0x4000 + slot) 3)

/-- The admit command is accepted (R313). -/
def State.admitDeny (s : State) (slot : Nat) : Option Deny :=
  if s.tray = .ready ∨ s.runs = true then s.slotIn slot [2] else some (notNow (0x4000 + slot) 3)

def State.admitStart (s : State) (slot : Nat) : State := s.setNum (0x4000 + slot) 4 3

/-- The evict command is accepted. -/
def State.evictDeny (s : State) (slot : Nat) : Option Deny :=
  (s.slotIn slot [4, 5]) <|> (if s.slotNamed slot then some (notNow (0x4000 + slot) 3) else none)

def State.evictSlot (s : State) (slot : Nat) : State := ((s.endSlotIssues slot).evict slot).retier

/-- A residence change refused (R325): the fault, :0B and :0F of the slot. -/
def State.resideDeny (s : State) (slot : Nat) (f : AdmFault) : Deny :=
  { (notNow (0x4000 + slot) 3 f.value).raising s f.code 0 (s.nat (0x4000 + slot) 1) f.detail with value := f.value }

/-- The new placement of a slot made resident, or the fault. -/
def State.residentPlan (s : State) (slot : Nat) : Except AdmFault (Model × List Placed) := match s.model slot with
  | none => .error { code := 0x4B03 }
  | some m => (s.residePlan slot m).map (fun l => (m, l))

/-- The placement of a slot made non-resident: every image fits fully in the pool of its chip, and in the quota. -/
def State.poolPlan (s : State) (slot : Nat) : Except AdmFault (Model × List Placed) := match s.model slot with
  | none => .error { code := 0x4B08 }
  | some m =>
    let t := s.nat (0x4000 + slot) 1
    let all := (List.range m.placed.length).map m.variant.need
    match (List.range m.placed.length).find? (fun q => decide (s.poolSize (m.chipOf q) slot < m.variant.need q)) with
    | some q => .error { code := 0x4B08, detail := m.variant.number * 256 + q }
    | none => match firstOver (1024 * s.nat (blk t 1) 2 - s.granHeld t slot) all with
      | some q => .error { code := 0x4B07, detail := m.variant.number * 256 + q }
      | none => .ok (m, m.placed.zip all |>.map (fun x => { x.1 with footprint := x.2, streamed := 0 }))

/-- A residence change: its plan, the state it starts from, and the residence it gives. -/
def State.changeDeny (s : State) (slot from_ : Nat) (plan : Except AdmFault (Model × List Placed)) : Option Deny :=
  let i := 0x4000 + slot
  (s.slotIn slot [from_]) <|> (if (s.slot slot).unplaced then some (notNow i 3) else none) <|> (match plan with
    | .ok _ => none
    | .error f => some (s.resideDeny slot f))

/-- The entries of a slot that a refused residence change sets. -/
def State.noteRefused (s : State) (slot from_ : Nat) (plan : Except AdmFault (Model × List Placed)) : State :=
  let i := 0x4000 + slot
  match plan with
  | .error f => if s.nat i 4 = from_ ∧ (s.slot slot).unplaced = false then (s.setNum i 15 f.code).setNum i 11 f.short else s
  | .ok _ => s

def State.changeTo (s : State) (slot : Nat) (want : Bool) (plan : Except AdmFault (Model × List Placed)) : State := match plan with
  | .ok (m, l) => (s.reside slot m l want).retier
  | .error _ => s

/-- Staged bundles only are discarded. -/
def State.discard (s : State) (slot : Nat) : State :=
  (s.modSlot slot (fun x => { x with staged := none })).setNum (0x4000 + slot) 4 1

/-- Why a command of a slot record is refused. -/
def State.slotDeny (s : State) (slot cmd : Nat) : Option Deny := match cmd with
  | 1 => s.admitDeny slot
  | 2 => s.evictDeny slot
  | 3 => s.changeDeny slot 4 (s.residentPlan slot)
  | 4 => s.changeDeny slot 5 (s.poolPlan slot)
  | 5 => s.slotIn slot [2]
  | _ => some (badValue (0x4000 + slot) 3)

/-- What a command of a slot record does. -/
def State.slotDo (s : State) (slot cmd : Nat) : State := match cmd with
  | 1 => s.admitStart slot
  | 2 => s.evictSlot slot
  | 3 => s.changeTo slot true (s.residentPlan slot)
  | 4 => s.changeTo slot false (s.poolPlan slot)
  | 5 => s.discard slot
  | _ => s

/-- A write of a slot command. A refused residence change shows in the slot record too. -/
def State.slotWrite (s : State) (n : Net) (slot cmd : Nat) : State :=
  let plan := if cmd = 3 then some (4, s.residentPlan slot) else if cmd = 4 then some (5, s.poolPlan slot) else none
  let t := s.write n (0x4000 + slot) 3 (leBytes 1 cmd) (fun s => s.slotDeny slot cmd) (fun s => s.slotDo slot cmd)
  match plan with
  | some (f, p) => if (t.box n).answer = .abort abState ∧ t.faults.refusal.code / 256 = 0x4B then t.noteRefused slot f p else t
  | none => t

def execSlotAdmit (n : Net) (slot : Nat) (s : State) : Host.Outcome State Fault Refusal := .next (s.slotWrite n slot 1)
def execSlotEvict (n : Net) (slot : Nat) (s : State) : Host.Outcome State Fault Refusal := .next (s.slotWrite n slot 2)
def execSlotMakeResident (n : Net) (slot : Nat) (s : State) : Host.Outcome State Fault Refusal := .next (s.slotWrite n slot 3)
def execSlotMakeNonResident (n : Net) (slot : Nat) (s : State) : Host.Outcome State Fault Refusal := .next (s.slotWrite n slot 4)
def execSlotDiscardStaged (n : Net) (slot : Nat) (s : State) : Host.Outcome State Fault Refusal := .next (s.slotWrite n slot 5)

/-- A model of model flash admitted again at step 14, with its residence and its placement (R315, R501): the bundle passes
the checks of R313 but for the search, or the model is left without a placement. -/
def State.readmitEnd (s : State) (slot : Nat) : State :=
  if s.store.readmit.head? ≠ some slot ∨ s.power.step ≠ 13 then s
  else
    let s := { s with store := { s.store with readmit := s.store.readmit.drop 1 } }
    let s := s.modSlot slot (fun x => { x with fromFlash := true })
    match s.model slot with
    | none => s
    | some m =>
      if (s.slot slot).unplaced then (s.replace slot).getD s
      else
        let flaw := match s.openBundle slot m.bundle with
          | .error f => some f
          | .ok _ => tableFault m.variant (s.nat (0x4000 + slot) 1) slot m.placed
        match flaw with
        | some f => (s.unplace slot).post ⟨s.stamp, f.code, f.unit, s.nat (0x4000 + slot) 1, 0, f.detail⟩
        | none => (s.admitted slot m (s.resident slot)).retier

/-- ADMISSION_COMPLETE: the checks of R313 give the model its placement or the refusal. -/
def State.admissionEnd (s : State) (slot : Nat) : State :=
  if s.tray = .selfTest then s.readmitEnd slot
  else if s.nat (0x4000 + slot) 4 ≠ 3 then s
  else
    let want := s.flag (0x4000 + slot) 5
    match s.judge slot ((s.slot slot).staged.getD []) want with
    | .error f => s.refuseAdmission slot f
    | .ok m => (s.admitted slot m want).retier

/-- The meaning of ADMISSION_COMPLETE. -/
def execAdmissionComplete (slot : Nat) (s : State) : Host.Outcome State Fault Refusal := .next (s.admissionEnd slot)

/-- A bundle is too long, or exceeds the Storehouse quota of the slot's owner (R312). -/
def State.bundleTooBig (s : State) (slot n : Nat) : Bool :=
  let t := s.nat (0x4000 + slot) 1
  decide (1073741824 < n ∨ 1048576 * s.nat (blk t 1) 4 < s.storeHeld t 256 - ((s.slot slot).staged.getD []).length + n)

/-- A bundle stored: the slot is staged. -/
def State.stage (s : State) (slot : Nat) (b : List Byte) : State :=
  (s.modSlot slot (fun x => { x with staged := some b, download := none })).setNum (0x4000 + slot) 4 2

/-- BUNDLE_DOWNLOAD_COMPLETE: a download whose last segment or packet has come is stored, and only now answered. -/
def State.bundleEnd (s : State) (slot : Nat) : State := match (s.slot slot).download with
  | none => s
  | some n =>
    let b := s.box n
    if b.foe = some slot then
      ((s.stage slot b.foeData).modBox n (fun b => { b with foe := none, foeData := [] })).answer n .ok
    else match b.xfer with
      | some x => if x.whole ∧ x.index = 0x4000 + slot then
          ((s.stage slot x.data).modBox n (fun b => { b with xfer := none })).answer n .ok else s
      | none => s

/-- The meaning of BUNDLE_DOWNLOAD_COMPLETE. -/
def execBundleDownloadComplete (slot : Nat) (s : State) : Host.Outcome State Fault Refusal := .next (s.bundleEnd slot)

/-! ### Tenants and quotas (R292, R294) -/

/-- Why a tenant command is refused (R292): code, state, tenant 0, and the key of a tenant to be created. -/
def State.tenantDeny (s : State) (t cmd : Nat) : Option Deny :=
  let i := blk t 0
  let from_ := if cmd = 1 then 0 else if cmd = 2 then 1 else 2
  if cmd = 0 ∨ 4 < cmd then some (badValue i 3)
  else if t = 0 ∨ s.tenantState t ≠ from_ ∨ (cmd = 1 ∧ (s.bytes (blk t 2) 1).isEmpty = true) then some (notNow i 3)
  else none

/-- A tenant suspended. -/
def State.tenantPause (s : State) (t : Nat) : State :=
  let s := ((s.setNum (blk t 0) 2 2).endSessions t)
  (((s.tokensOf t).foldl State.tokenStop s)).retier

/-- A tenant deleted: its issues end, its slots are evicted and freed, its sessions close, and its block returns to defaults. -/
def State.tenantDrop (s : State) (t : Nat) : State :=
  let s := s.endSessions t
  let s := (s.issues.filter (fun i => decide (i.tenant = t))).foldl (fun s i => s.endIssue i.id) s
  let s := (s.tokensOf t).foldl State.tokenClose s
  let s := forEach 15 s fun s j => s.jobStop t j
  let s := forEach 16 s fun s e => s.eventOff t e
  let s := forEach 16 s fun s o => if s.flag (blk t (0x40 + o)) 1 then s.setOff t o else s
  let mine := (List.range 256).filter (fun n => decide (s.nat (0x4000 + n) 1 = t))
  let s := mine.foldl (fun s n => (((s.evict n).setNum (0x4000 + n) 1 0xFF).setNum (0x4000 + n) 4 0)) s
  let s := forEach 256 s fun s k => s.clearObject (blk t k)
  let s : State := { s with
    store := { s.store with stored := s.store.stored.filter (fun c => !decide (blk t 0 ≤ c.1 / 256 ∧ c.1 / 256 < blk t 0 + 256)) },
    jobs := vset s.jobs t (Vector.replicate 15 {}), events := vset s.events t (Vector.replicate 16 {}),
    sets := vset s.sets t (Vector.replicate 16 {}), pend := vset s.pend t {} }
  (s.modTenant t (fun _ => {})).retier

/-- What a tenant command does. -/
def State.tenantDo (s : State) (t cmd : Nat) : State := match cmd with
  | 1 => s.setNum (blk t 0) 2 1
  | 2 => s.tenantPause t
  | 3 => (s.setNum (blk t 0) 2 1).retier
  | 4 => s.tenantDrop t
  | _ => s

def State.tenantWrite (s : State) (n : Net) (t cmd : Nat) : State :=
  s.write n (blk t 0) 3 (leBytes 1 cmd) (fun s => s.tenantDeny t cmd) (fun s => s.tenantDo t cmd)

def execTenantCreate (n : Net) (t : Nat) (s : State) : Host.Outcome State Fault Refusal := .next (s.tenantWrite n t 1)
def execTenantSuspend (n : Net) (t : Nat) (s : State) : Host.Outcome State Fault Refusal := .next (s.tenantWrite n t 2)
def execTenantResume (n : Net) (t : Nat) (s : State) : Host.Outcome State Fault Refusal := .next (s.tenantWrite n t 3)
def execTenantDelete (n : Net) (t : Nat) (s : State) : Host.Outcome State Fault Refusal := .next (s.tenantWrite n t 4)

/-- The chips that hold models of a tenant. -/
def State.chipsHeld (s : State) (t : Nat) : List Nat :=
  (s.placedSlots.filter (fun p => decide (s.nat (0x4000 + p.1) 1 = t))).flatMap (fun p => p.2.chips)

/-- What a tenant already holds against a quota: the amount in the unit of the entry, and whether a value lies below it. -/
def State.quotaHeld (s : State) (t sub value : Nat) : Nat × Bool :=
  let models := s.placedSlots.filter (fun p => decide (s.nat (0x4000 + p.1) 1 = t))
  let amount (n : Nat) : Nat × Bool := (n, decide (value < n))
  match sub with
  | 1 => (bitmap 16 (s.chipsHeld t).contains, (s.chipsHeld t).any (fun c => !bit value c))
  | 2 => amount (ceilDiv (s.granHeld t 256) 1024)
  | 3 => amount (ceilDiv (s.loftHeld t 256) 1024)
  | 4 => amount (ceilDiv (s.storeHeld t 256) 1048576)
  | 5 => amount ((models.map (fun p => p.2.placed.length)).foldl max 0)
  | 6 => amount (s.tokensOf t).length
  | _ => (0, false)

/-- A quota below what the tenant holds is refused, and OD 0x2401 gives the amount held (R294). -/
def State.quotaDeny (s : State) (t sub value : Nat) : Option Deny :=
  let (held, low) := s.quotaHeld t sub value
  if low then some (notNow (blk t 1) sub held) else none

/-- The meaning of QUOTA_WRITE. -/
def execQuotaWrite (n : Net) (t sub value : Nat) (s : State) : Host.Outcome State Fault Refusal :=
  .next (s.write n (blk t 1) sub (numBytes (blk t 1) sub value) (fun s => s.quotaDeny t sub value)
    (fun s => s.setNum (blk t 1) sub value))

end Sys2Proof.Machine
end

