-- ==== Sys2Proof/Machine/Tokens.lean ====
section
/-! DEFINITION. Token sessions (R326 to R334): open, generate, stop, reset, close, and the steps that they run. -/

namespace Sys2Proof.Machine

def tokIndex (i : Nat) : Nat := 0x6100 + i

/-- The session that writes owns the token session, or is the Steward's. -/
def State.tokenMine (s : State) (n : Net) (i : Nat) : Bool :=
  s.session n = some 0 || ((s.session n).isSome && s.session n == s.ownerOf (tokIndex i))

/-- A token model: its variant names a vocabulary (R308). -/
def State.tokenModel (s : State) (owner slot : Nat) : Option Model := match s.model slot with
  | some m => if s.nat (0x4000 + slot) 1 = owner ∧ m.variant.vocab ≠ 0 then some m else none
  | none => none

/-- What the first generate takes on each chip: units of the cache (R328). -/
def cacheNeed (m : Model) : List (Nat × Nat) :=
  (m.placed.zip (List.range m.placed.length)).map (fun x => (x.1.chip, (m.variant.part x.2).kvUnits))

/-- The cache of a session fits its chips and its owner's quota. -/
def State.cacheFits (s : State) (owner : Nat) (need : List (Nat × Nat)) : Bool :=
  need.all (fun q => decide (64 * q.2 ≤ (s.chip q.1).loftFree 0x1000))
  && decide (s.loftHeld owner 256 + (need.map (fun q => 64 * q.2)).sum ≤ 1024 * s.nat (blk owner 1) 3)

/-- The cache of a session taken. -/
def State.cacheTake (s : State) (i : Nat) (need : List (Nat × Nat)) : State :=
  let s := need.foldl (fun s q => s.modChip q.1 (fun c => c.addRegion (0x100 + i) 0 (64 * q.2))) s
  (s.modToken i (fun x => { x with
    cache := need.map (fun q => (q.1, ((((s.chip q.1).region (0x100 + i)).map Region.loftBase).getD 0) / 64, q.2)) })).clearCache i

/-- Why an open is refused (R326). -/
def State.openDeny (s : State) (n : Net) (i : Nat) : Option Deny :=
  if s.nat (tokIndex i) 3 ≠ 0 then some (notNow (tokIndex i) 1)
  else match s.session n with
    | none => some { abort := abRights, index := tokIndex i, sub := 1 }
    | some t => if s.nat (blk t 1) 6 ≤ (s.tokensOf t).length then some (notNow (tokIndex i) 1) else none

/-- A session opened for the tenant of the network. -/
def State.tokenOpen (s : State) (n : Net) (i : Nat) : State :=
  let s := (s.clearObject (tokIndex i)).modToken i (fun _ => {})
  ((s.setNum (tokIndex i) 2 ((s.session n).getD 0)).setNum (tokIndex i) 3 1)

/-- A command on a session that is open and of the writer. -/
def State.tokenDeny (s : State) (n : Net) (i : Nat) (states : List Nat) : Option Deny :=
  if s.nat (tokIndex i) 3 = 0 then some (notNow (tokIndex i) 1)
  else if !s.tokenMine n i then some { abort := abRights, index := tokIndex i, sub := 1 }
  else if states.contains (s.nat (tokIndex i) 3) then none
  else some (notNow (tokIndex i) 1)

/-- The prompt of a session. -/
def State.promptOf (s : State) (i : Nat) : List Nat := vals16 (s.bytes (tokIndex i) 11)

/-- Why a generate is refused (R327 to R329). The session of a suspended tenant does not respond until resume (R292; DESIGN CHOICE, log
entry 90: with the abort of a command that does not fit the present state). -/
def State.generateDeny (s : State) (n : Net) (i : Nat) : Option Deny :=
  let x := tokIndex i
  let owner := s.nat x 2
  (s.tokenDeny n i [1]) <|> (if s.tenantState owner = 2 then some (notNow x 1) else match s.tokenModel owner (s.nat x 4) with
    | none => some (badValue x 4)
    | some m =>
      if m.variant.entries.length ≤ s.nat x 5 then some (badValue x 5)
      else if (s.promptOf i).any (fun t => decide (m.variant.vocab ≤ t)) ∨ 1024 < s.nat x 13 + (s.promptOf i).length then
        some (badValue x 11)
      else if s.promptOf i = [] ∧ s.nat x 13 = 0 then some (notNow x 1)
      else if (s.token i).cache.isEmpty && !s.cacheFits owner (cacheNeed m) then
        some ((Deny.mk abMemory x 1 0 none 0xFF 0 0).raising s 0x4D03 0 owner 0)
      else none)

/-- A session runs: its prompt first, or its latest token where the prompt is empty. -/
def State.tokenGenerate (s : State) (i : Nat) : State :=
  let x := tokIndex i
  let s := match s.tokenModel (s.nat x 2) (s.nat x 4) with
    | some m => if (s.token i).cache.isEmpty then s.cacheTake i (cacheNeed m) else s
    | none => s
  let p := s.promptOf i
  let feed := match p with
    | t :: _ => t
    | [] => s.nat x 14
  let s := s.modToken i (fun k => { k with
    prompt := p.drop 1, feed := feed, ready := true, outstanding := false, stopAsked := false, closeAsked := false, made := 0 })
  ((((s.setBytes x 11 []).setBytes x 12 []).setNum x 16 0).setNum x 3 2).retier

/-- A session back at position 0, its cache zeroed. -/
def State.tokenReset (s : State) (i : Nat) : State := ((s.clearCache i).setNum (tokIndex i) 13 0).setNum (tokIndex i) 3 1

/-- A close: at once, or at the end of the step under way. -/
def State.tokenCloseAsk (s : State) (i : Nat) : State :=
  if (s.token i).outstanding then s.modToken i (fun k => { k with closeAsked := true }) else s.tokenClose i

/-- Why a command of a session record is refused. -/
def State.tokenCmdDeny (s : State) (n : Net) (i cmd : Nat) : Option Deny := match cmd with
  | 1 => s.openDeny n i
  | 2 => s.generateDeny n i
  | 3 => s.tokenDeny n i [1, 2, 3]
  | 4 => s.tokenDeny n i [1, 3]
  | 5 => s.tokenDeny n i [1, 2, 3]
  | _ => some (badValue (tokIndex i) 1)

/-- What a command of a session record does. -/
def State.tokenCmd (s : State) (n : Net) (i cmd : Nat) : State := match cmd with
  | 1 => s.tokenOpen n i
  | 2 => s.tokenGenerate i
  | 3 => s.tokenStop i
  | 4 => s.tokenReset i
  | 5 => s.tokenCloseAsk i
  | _ => s

def State.tokenWrite (s : State) (n : Net) (i cmd : Nat) : State :=
  s.write n (tokIndex i) 1 (leBytes 1 cmd) (fun s => s.tokenCmdDeny n i cmd) (fun s => s.tokenCmd n i cmd)

def execSessionOpen (n : Net) (i : Nat) (s : State) : Host.Outcome State Fault Refusal := .next (s.tokenWrite n i 1)
def execSessionGenerate (n : Net) (i : Nat) (s : State) : Host.Outcome State Fault Refusal := .next (s.tokenWrite n i 2)
def execSessionStop (n : Net) (i : Nat) (s : State) : Host.Outcome State Fault Refusal := .next (s.tokenWrite n i 3)
def execSessionResetContext (n : Net) (i : Nat) (s : State) : Host.Outcome State Fault Refusal := .next (s.tokenWrite n i 4)
def execSessionClose (n : Net) (i : Nat) (s : State) : Host.Outcome State Fault Refusal := .next (s.tokenWrite n i 5)

/-- A field of an open session is written in state idle only, its slot and entry at position 0 only, and within the bounds of its
model (R327). -/
def State.tokenFieldDeny (s : State) (i sub : Nat) (data : List Byte) : Option Deny :=
  let x := tokIndex i
  let v := leNat data
  let vocab := ((s.tokenModel (s.nat x 2) (s.nat x 4)).map (fun m => m.variant.vocab)).getD 0
  if s.nat x 3 ≠ 1 ∨ ((sub = 4 ∨ sub = 5) ∧ s.nat x 13 ≠ 0) then some (notNow x sub)
  else if sub = 4 ∧ (s.tokenModel (s.nat x 2) v).isNone = true then some (badValue x sub)
  else if sub = 10 ∧ vocab ≤ v then some (badValue x sub)
  else if sub = 11 ∧ (data.length % 2 = 1 ∨ data = [] ∨ 1024 < s.nat x 13 + data.length / 2
      ∨ (vals16 data).any (fun t => decide (vocab ≤ t)) = true) then some (badValue x sub)
  else none

/-! ### Steps (R330, R331) -/

/-- Sessions of a slot and entry whose step is ready. -/
def State.readyTokens (s : State) (slot entry : Nat) : List Nat :=
  (List.range 8).filter fun k => decide (s.nat (tokIndex k) 3 = 2 ∧ s.nat (tokIndex k) 4 = slot ∧ s.nat (tokIndex k) 5 = entry)
    && (s.token k).ready && !(s.token k).outstanding && decide (s.tenantState (s.nat (tokIndex k) 2) = 1)

/-- The step table: one token and one position per row (R330). -/
def State.stepTable (s : State) (rows : List Nat) (batch : Nat) : List Byte :=
  (List.range batch).flatMap fun r => match rows[r]? with
    | some k => leBytes 2 (s.token k).feed ++ leBytes 2 (s.nat (tokIndex k) 13)
    | none => [0, 0, 0, 0]

/-- The job records of a session's owner that count the steps of session `k` (R331). -/
def State.tokenJobs (s : State) (k : Nat) : List (Nat × Nat) :=
  s.enabledJobs.filter fun p =>
    let d := s.jobDesc p.1 p.2
    decide (p.1 = s.nat (tokIndex k) 2 ∧ d.kind = 4 ∧ d.index = k ∧ d.slot = s.nat (tokIndex k) 4 ∧ d.entry = s.nat (tokIndex k) 5)

/-- TOKEN_STEP_ISSUE: the ready sessions of a slot and entry form one committed issue (R330). -/
def State.tokenStep (s : State) (slot entry : Nat) : State := match s.model slot with
  | none => s
  | some m =>
    let t := s.nat (0x4000 + slot) 1
    let rows := (s.readyTokens slot entry).take m.variant.batch
    if rows = [] ∨ s.runs = false ∨ (s.slot slot).unplaced = true ∨ m.variant.vocab = 0 ∨ s.slotFree false t m.chips = false then s
    else
      let k0 := rows.headD 0
      let i : Issue :=
        { id := s.nextIssue, tenant := t, job := 0xF, slot := slot, entry := entry, kind := 4, index := k0, st := .committed,
          ranAhead := false, waitsSlot := false, order := s.nextIssue, epoch := 0, traj := (s.shaft 0).traj,
          k := (s.nat (tokIndex k0) 13 : Nat), angle := (s.shaft 0).angle, flags := 0, shaft := 0, frame := none, frameFlags := 0,
          gated := false, parts := startParts m m.chips (fun _ => entry), arrived := [], saturated := 0, satFlag := false,
          frameData := s.stepTable rows m.variant.batch, stripsIn := [], finished := false, rows := rows, micro := none, out := [],
          tokenJobs := rows.flatMap s.tokenJobs }
      let s := { s with issues := s.issues ++ [i], nextIssue := s.nextIssue + 1 }
      let s := rows.foldl (fun s k => s.modToken k (fun x => { x with ready := false, outstanding := true })) s
      i.tokenJobs.foldl (fun s p => s.bump (blk p.1 (0x20 + p.2)) 3) s

/-- The meaning of TOKEN_STEP_ISSUE. -/
def execTokenStepIssue (slot entry : Nat) (s : State) : Host.Outcome State Fault Refusal := .next (s.tokenStep slot entry)

/-- A step of session `k` has ended with a selected token (R329). -/
def State.tokenAdvance (s : State) (k token : Nat) : State :=
  let x := tokIndex k
  let t := s.token k
  let pos := s.nat x 13 + 1
  let s := s.setNum x 13 pos
  let s := s.modToken k (fun y => { y with outstanding := false })
  if t.closeAsked then s.tokenClose k
  else match t.prompt with
    | p :: rest =>
      if t.stopAsked then s.tokenEnd k 1 4
      else s.modToken k (fun y => { y with prompt := rest, feed := p, ready := true })
    | [] =>
      let s := ((s.setBytes x 12 (s.bytes x 12 ++ leBytes 2 token)).setNum x 14 token).bump x 15
      let s := s.modToken k (fun y => { y with made := t.made + 1 })
      let stop := s.nat x 10
      let stop := if s.num x 10 < 0 then ((s.model (s.nat x 4)).map (fun m => m.variant.stopToken)).getD 0 else stop
      if 1024 ≤ pos then (s.raise 0x4D01 0 (s.nat x 2) 0).tokenEnd k 3 3
      else if token = stop then s.tokenEnd k 1 2
      else if s.nat x 9 ≤ t.made + 1 then s.tokenEnd k 1 1
      else if t.stopAsked then s.tokenEnd k 1 4
      else s.modToken k (fun y => { y with feed := token, ready := true })

/-- One completion of a job record that a step counts in (R331), which triggers the jobs that follow it (R260). -/
def State.tokenCount (s : State) (i : Issue) (p : Nat × Nat) : State :=
  let st := blk p.1 0x2F
  let s := ((s.bump (blk p.1 (0x20 + p.2)) 4).setNum (blk p.1 (0x20 + p.2)) 8 (s.shaft 0).angle).bump st 1
  let s := if i.satFlag then s.bump st 2 else s
  let s := s.add st 3 i.saturated
  (s.publish p.1 p.2 i.out i.angle i.k (i.resultFlags false) i.shaft).chained p.1 p.2 i.k i.angle i.flags i.shaft

/-- The token that SELECT chose for row `r` (R334); where no SELECT ran, bytes 2r of the step's result (R331). -/
def Issue.tokenOf (i : Issue) (r : Nat) : Nat := (i.tokens[r]?).getD (leAt ((i.out.head?.map Prod.snd).getD []) (2 * r) 2)

/-- TOKEN_STEP_COMPLETE: one completion for every job that the step was issued for (R331), and its tokens to its sessions. -/
def State.tokenStepEnd (s : State) (id : Nat) : State := match s.issue id with
  | none => s
  | some i =>
    if !i.finished || i.kind ≠ 4 then s
    else
      let s := i.tokenJobs.foldl (fun s p => s.tokenCount i p) s
      let s := (s.removeIssue id).promote
      ((i.rows.zip (List.range i.rows.length)).foldl (fun s q => s.tokenAdvance q.1 (i.tokenOf q.2)) s).writeOwed

/-- The meaning of TOKEN_STEP_COMPLETE. -/
def execTokenStepComplete (id : Nat) (s : State) : Host.Outcome State Fault Refusal := .next (s.tokenStepEnd id)

end Sys2Proof.Machine
end

