-- ==== Sys2Proof/Machine/LearnSetup.lean ====
section
/-! DEFINITION. The checks of command 0x03 and what it sets up: further copies of the learnable variant, saved windows, learning
and commit regions, latents from the bundle or from the checkpoint of record (R336 to R339, R389, R518); and labels (R366). -/

namespace Sys2Proof.Machine

/-! ### Is the configuration complete? -/

/-- The entry runs the forward descriptors of every layer record on every partition. -/
def State.forwardEntry (s : State) (m : Model) (e : Nat) : Bool :=
  m.variant.learn.all fun l =>
    let first := (m.variant.entryOn e l.part).first
    let chain := s.chainFrom (m.chipOf l.part) s.learnSlot l.part first 4096
    decide (first < 0xFFFF) && l.layers.all (fun r => chain.contains r.fwd)

/-- The first sub-index of OD 0x5000 that R336 finds incomplete. -/
def State.learnFlaw (s : State) : Option Nat :=
  let t := s.learnTenant
  let slot := s.learnSlot
  let j := s.nat 0x5000 3
  let d := s.jobDesc t j
  let src := s.jobDesc t (s.nat 0x5000 17)
  let model := if s.nat (0x4000 + slot) 1 = t ∧ s.resident slot = true ∧ (s.slot slot).unplaced = false then s.learnModel else none
  if 16 ≤ t ∨ s.tenantState t ≠ 1 ∨ s.flag (blk t 1) 8 = false then some 1
  else match model with
    | none => some 2
    | some m =>
      if m.learnable = false ∨ m.variant.learn.length ≠ m.variant.p ∨ m.placed.isEmpty then some 2
      else if s.jobOn t j = false ∨ d.kind ≠ 5 ∨ d.slot ≠ slot ∨ d.index ≠ 0 ∨ d.deadline ≠ 0 ∨ d.lead ≠ 0
          ∨ s.forwardEntry m d.entry = false then some 3
      else if s.flag (blk t (0x10 + s.nat 0x5000 4)) 1 = false then some 4
      else if s.jobOn t (s.nat 0x5000 17) = false ∨ (src.kind ≠ 1 ∧ src.kind ≠ 2) ∨ src.slot ≠ slot then some 17
      else none

/-! ### Copies (R337) -/

/-- One further copy of the variant, placed under the search of R318 with full fit only. -/
def State.placeCopy (s : State) (m : Model) : Option State :=
  match s.assign s.learnSlot m.variant false .nothing (List.range m.variant.p) s.learn.copies.flatten none with
  | none => none
  | some l =>
    let lay (s : State) (q : Nat) : State := match l[q]? with
      | none => s
      | some p => s.modChip p.chip fun x =>
          let y := m.variant.part q
          let x := x.addRegion s.learnSlot p.footprint y.loftNeed
          match x.region s.learnSlot with
          | none => x
          | some r => x.layImages r [] (s.imageNow s.learnSlot m q) y.loftImage
    let s := (List.range l.length).foldl lay s
    some (s.modLearn fun x => { x with copies := x.copies ++ [l.map Placed.chip] }).trimPools

/-- Copies `1` to `r − 1`. -/
def State.placeCopies (s : State) (m : Model) : Nat → Option State
  | 0 => some (s.modLearn fun l => { l with copies := [m.chips] })
  | n + 1 => (s.placeCopies m n).bind (fun s => s.placeCopy m)

/-- The quotas of the learning tenant hold what its models and copies take. -/
def State.learnQuota (s : State) : Bool :=
  let t := s.learnTenant
  decide (s.granHeld t 256 ≤ 1024 * s.nat (blk t 1) 2 ∧ s.loftHeld t 256 ≤ 1024 * s.nat (blk t 1) 3)

/-! ### Saved windows, Loft and Storehouse (R338, R339, R389) -/

/-- The saved copies that a partition needs. -/
def State.savedNeed (s : State) (l : LearnPart) : Nat :=
  if l.offload ≠ 0 then s.nat 0x5000 8 + 2
  else if s.nat 0x5000 7 = 0 then s.microCount else min s.microCount s.learnParts.length

/-- The saved windows and gradient buffers laid into the Loft of every chip that holds a copy, where there is room. -/
def State.layWindows (s : State) : Option State :=
  s.learn.copies.foldl (fun o chips => (s.learnParts.zip chips).foldl (fun o x => o.bind fun (s : State) =>
    if (s.chip x.2).loftFree 0x1000 < x.1.window then none
    else some (s.modChip x.2 (fun c => c.addRegion savedRegion 0 x.1.window))) o) (some s)

/-- The latents of a shard. -/
def shardLen (g q j : Nat) : Nat := (shardSpan g q j).2 - (shardSpan g q j).1

/-- The latents that the owners of this tray own. -/
def State.ownedLen (s : State) : Nat := (s.owned.map (fun (_, r, j, _) => shardLen r.rowSets s.learn.q j)).sum

/-- Bytes of the learning region (R339). -/
def State.learnRegion (s : State) : Nat :=
  let perCopy := (s.learnParts.map (fun l => s.microCount * l.offload
    + (if s.nat 0x5000 9 = 0 then 0 else (l.layers.map (fun r => 512 * r.rowSets)).sum))).sum
  s.learn.copies.length * perCopy + 4 * s.ownedLen + s.nat 0x5000 18 * s.sourceFrame

/-- The copies placed, or, before command 0x03 has placed them, the virtual copies configured: what a region's size is judged on. -/
def State.withCopies (s : State) : State :=
  if s.learn.copies.isEmpty then s.modLearn fun l => { l with
    q := s.replicas, r := s.nat 0x5000 20, copies := List.replicate (s.nat 0x5000 20) [] } else s

/-- The size of a region of the present configuration in MiB, rounded up; 0 without a learnable model. -/
def State.regionShown (s : State) (size : State → Nat) : Nat :=
  if s.learnModel.isNone then 0 else ceilDiv (size s.withCopies) 1048576

/-- OD 0x5000:16 (R339). -/
def State.learnShown (s : State) : Nat := s.regionShown State.learnRegion

/-- Bytes of the commit region (R389): an owner's shadow, a buddy's committed copy and shadow, and the foreign parts of two
layers. -/
def State.commitRegion (s : State) : Nat :=
  let q := s.learn.q
  let keptLen := (s.kept.map (fun (_, r, j, _) => shardLen r.rowSets q j)).sum
  let byLayer := sortBy (fun a b => decide (b ≤ a)) (s.layerList.map (fun (_, r) =>
    ((s.owned.filter (fun o => decide (o.2.1.layer = r.layer))).map (fun o => shardLen r.rowSets q o.2.2.1)).sum))
  4 * s.ownedLen + 8 * keptLen + 4 * (q - s.learn.r) * (byLayer.take 2).sum

/-- OD 0x2801:09 (R389). -/
def State.commitShown (s : State) : Nat := s.regionShown State.commitRegion

/-- The Storehouse that staged bundles and the images of admitted models leave (R339). -/
def State.storeLeft (s : State) : Nat :=
  let used := (s.slots.toList.map (fun x => ((x.staged.map List.length).getD 0) + (match x.model with
    | some m => (m.variant.parts.map (fun p => p.image.length + p.loftImage.length)).sum
    | none => 0))).sum
  32 * 2 ^ 30 - used

/-- What command 0x03 sets up, or the sub-index of OD 0x5000 and the code that refuse it. A spare tray of a parish places nothing
until ADOPT (R397). -/
def State.learnPlan (s : State) : Except (Nat × Nat) State :=
  match s.learnFlaw with
  | some sub => .error (sub, 0x7001)
  | none => match s.learnModel with
    | none => .error (2, 0x7001)
    | some m =>
      if s.learnParts.any (fun l => decide (l.copies < s.savedNeed l)) then .error (6, 0x7003)
      else match s.placeCopies m (s.nat 0x5000 20 - 1) with
        | none => .error (20, 0x7002)
        | some t =>
          let t := t.modLearn fun l => { l with q := t.replicas, r := s.nat 0x5000 20 }
          match t.layWindows with
          | none => .error (6, 0x7003)
          | some t =>
            let need := t.learnRegion
            let commit := t.commitRegion
            if t.learnQuota = false then .error (20, 0x7002)
            else if s.storeLeft < need + commit then .error (22, 0x7002)
            else .ok (if s.inParish ∧ s.ownSeat = 0xFF then s else t)

/-! ### Latents at the start of learning (R353, R400, R518) -/

/-- The latents that the bundle carries for a layer. -/
def State.firstLatents (s : State) (r : LayerRec) : List Nat :=
  (s.learnParts.findSome? fun l =>
    ((l.layers.zip l.latents).find? (fun x => decide (x.1.layer = r.layer))).map Prod.snd).getD []

/-- Whole latents and momentum of a layer, where this tray holds every shard. -/
def State.wholeHere (s : State) (q : Nat) (r : LayerRec) : Option (List Shard) :=
  let l := (List.range q).filterMap (fun j => findShard s.learn.committed r.layer j 0)
  if l.length = q then some l else none

/-- Learning starts, or starts again: from the latents this tray holds, from the checkpoint of record, or from the bundle. -/
def State.beginLearning (s : State) (oldQ : Nat) : State := match s.learnModel with
  | none => s
  | some m =>
    let id := some (bundleModelId m.bundle, bundleVersion m.bundle)
    let s := if s.learn.bound = id then s else s.modLearn fun l => { l with
      bound := id, committed := [], residuals := [], checkpoints := [], ofRecord := none, replay := [], ring := [] }
    if s.learn.copies.isEmpty then s
    else if s.learn.committed.isEmpty then match s.learn.ofRecord with
      | some c => s.loadCkpt c
      | none =>
        ((s.takeShards s.firstLatents (fun r => List.replicate (256 * r.rowSets) 0)).setNum 0x5001 1 (s.num 0x5001 2)).setNum
          0x5001 4 0
    else
      let s := if s.learn.checkpoints.isEmpty && s.learn.ofRecord.isNone then
        (s.setNum 0x5001 1 (s.num 0x5001 2)).setNum 0x5001 4 0 else s
      if s.layerList.all (fun x => (s.wholeHere oldQ x.2).isSome) then
        s.takeShards (fun r => ((s.wholeHere oldQ r).getD []).flatMap Shard.lat)
          (fun r => ((s.wholeHere oldQ r).getD []).flatMap Shard.mom)
      else s

/-! ### Labels (R366) -/

/-- A frame number names a sample of the ring, and labels are taken under target kind 1. -/
def State.labelDeny (s : State) (sub : Nat) (data : List Byte) : Option Deny :=
  let held (n : Nat) : Bool := s.learn.ring.any (fun x => decide (x.number = n))
  let v := leAt data 0 4
  if sub = 1 then (if held v then none else some (badValue 0x5003 1))
  else if s.nat 0x5000 19 ≠ 1 then some (badValue 0x5003 sub)
  else if held (s.nat 0x5003 1) then none
  else some (badValue 0x5003 1)

/-- A label is attached to the sample that :01 names. -/
def State.label (s : State) (sub : Nat) (data : List Byte) : State :=
  if sub = 1 then s.setNum 0x5003 1 (leAt data 0 4)
  else
    let n := s.nat 0x5003 1
    s.modLearn fun l => { l with ring := l.ring.map (fun x => if x.number = n then { x with label := some data } else x) }

/-- The meaning of LABEL_WRITE. -/
def execLabelWrite (n : Net) (sub : Nat) (data : List Byte) (s : State) : Host.Outcome State Fault Refusal :=
  .next (s.write n 0x5003 sub data (fun s => s.labelDeny sub data) (fun s => s.label sub data))

end Sys2Proof.Machine
end

