-- ==== Sys2Proof/Machine/Parish.lean ====
section
/-! DEFINITION. The parish (chapter 11): enabling it, its frames as they are sent and received, health, the leader's recovery,
seats, restoring, checkpoints and replay. -/

namespace Sys2Proof.Machine

/-! ### Enabling (R370) -/

/-- The configuration of OD 0x2800 passes the check of R370. -/
def State.parishFlaw (s : State) : Bool :=
  let seats := s.nat 0x2800 5
  let spares := s.nat 0x2800 6
  let own := s.trayId
  decide (Nat.land seats spares ≠ 0 ∨ seats = 0) || !bit (if s.nat 0x2800 3 = 0 then seats else spares) own
    || (decide (s.nat 0x2800 7 = 1) && allZero (padTo 8 (s.bytes 0x2800 8)))

/-- OD 0x2800 is written in ready and service only (R369). -/
def State.parishDeny (s : State) (sub : Nat) : Option Deny :=
  if s.tray = .ready ∨ s.tray = .service then none else some (notNow 0x2800 sub)

/-- TRUE written to OD 0x2800:01. -/
def State.enableDeny (s : State) : Option Deny :=
  match s.parishDeny 1 with
  | some d => some d
  | none => if s.parishFlaw then some ((badValue 0x2800 1).raising s 0x7201 0 noTenant 0) else none

/-- The view of the parish with nothing heard yet: what the ports and neighbours are stays. -/
def Parish.fresh (p : Parish) : Parish :=
  { module := p.module, lock := p.lock, dup := p.dup, sent := p.sent, neighbours := p.neighbours }

/-- The parish enabled, or left. -/
def State.setParish (s : State) (on : Bool) : State :=
  if s.flag 0x2800 1 = on then s
  else ((s.setNum 0x2800 1 (ofBool on)).modParish Parish.fresh).review

/-- The meaning of PARISH_ENABLE. -/
def execParishEnable (n : Net) (s : State) : Host.Outcome State Fault Refusal :=
  .next (s.write n 0x2800 1 [1] State.enableDeny (fun s => s.setParish true))

/-! ### Unsequenced frames out (R372, R378) -/

/-- Every other tray of the parish. -/
def State.others (s : State) : List Nat := (bitsSet 64 s.members).filter (fun t => decide (t ≠ s.trayId))

/-- A period of `n` µs has passed since a time, or nothing was sent yet. -/
def State.elapsed (s : State) (n : Nat) (last : Option Nat) : Bool := match last with
  | some t => decide (t + n ≤ s.micros)
  | none => true

/-- The meaning of HELLO_SEND: in ready, watching and learning, every 100 ms. -/
def execHelloSend (s : State) : Host.Outcome State Fault Refusal :=
  .next (if s.inParish && s.selfHealthy && s.elapsed 100000 s.parish.helloAt then
    let s := s.review
    let s := s.modParish (fun p => { p with helloAt := some s.micros, firstHello := some (p.firstHello.getD s.micros) })
    let body := leBytes 8 s.configDigest ++ leBytes 1 (s.nat 0x2800 3) ++ leBytes 1 s.tray.code ++ List.replicate 6 0
    s.others.foldl (fun s t => s.sendPlain mHello t (s.nat 0x5002 1) body) s
  else s)

/-- The seat is given up: at once between steps, at the end of a step in progress (R395 to R397). -/
def State.vacate (s : State) : State :=
  let i := s.ownSeat
  if i < 64 ∧ bit s.parish.vacant i = false then
    let s := s.modParish fun p => { p with vacant := p.vacant + 2 ^ i, giveUp := false }
    let s := s.review
    if s.leads then s.modParish (fun p => { p with recoverFrom := some s.micros }) else s
  else s.modParish fun p => { p with giveUp := false }

/-- The 32 bytes of a HEARTBEAT (Table 11.3), with the step of its header. -/
def State.heartbeat (s : State) : Nat × List Byte :=
  let running := decide (s.learn.phase ≠ 0)
  let step := if running then s.learn.step else s.parish.appliedStep
  let outcome := if s.parish.appliedStep = step then s.parish.applied else 0
  (step, leBytes 1 s.tray.code ++ leBytes 1 s.seatShown ++ leBytes 1 s.parish.leader ++ leBytes 1 s.learn.phase
    ++ leBytes 1 outcome ++ [0, 0, 0] ++ leBytes 8 ((s.lastCkpt.map Checkpoint.step).getD 0) ++ leBytes 8 s.configDigest
    ++ leBytes 8 s.parish.parishDigest)

/-- The meaning of HEARTBEAT_SEND: every heartbeat interval. -/
def execHeartbeatSend (s : State) : Host.Outcome State Fault Refusal :=
  .next (if s.inParish && s.alive && s.elapsed s.beat s.parish.beatAt then
    let s := s.review.modParish (fun p => { p with beatAt := some s.micros })
    let s := if s.parish.giveUp && decide (s.learn.phase = 0) then s.vacate else s
    let (step, body) := s.heartbeat
    s.others.foldl (fun s t => (s.sendPlain mHeartbeat t step body).modPeer t (fun p => { p with ackOwed := false })) s
  else s)

/-! ### Seats (R374, R396) -/

/-- The healthy trays that can take a seat: spares, and members whose seat is gone (R397), in ascending ID. -/
def State.freeSpares (s : State) : List Nat :=
  s.healthySet.filter fun t =>
    !(s.seats.any (fun p => decide (p.2 = t)))
    && (bit (s.nat 0x2800 6) t || bit s.parish.dropped t || decide (vget s.parish.seatMap t < 64))

/-- A tray takes a seat of the map. -/
def State.seatTo (s : State) (i t : Nat) : State :=
  s.modParish fun p => { p with
    seatMap := vset p.seatMap i t, vacant := putBit p.vacant i false, dropped := putBit p.dropped i false }

/-- The further copies of a tray that has taken a seat are placed, where it is learning (R337, R396). -/
def State.joinSeat (s : State) : State :=
  if s.tray = .learning ∧ s.learn.copies.isEmpty then match s.learnPlan with
    | .ok t => { t with parish := s.parish }.beginLearning t.learn.q
    | .error _ => s
  else s

/-- The meaning of SEAT_FILL_TIMEOUT: 10 s after the first HELLO a seat whose own tray is not healthy goes to the healthy spare
of the lowest ID, in ascending seat number. -/
def execSeatFillTimeout (s : State) : Host.Outcome State Fault Refusal :=
  .next (match s.parish.firstHello with
    | none => s
    | some t =>
      if s.inParish && decide (t + 10000000 ≤ s.micros) && !s.parish.started then
        let s := (bitsSet 64 (s.nat 0x2800 5)).foldl (fun s i =>
          if vget s.parish.seatMap i = 0xFF ∧ bit s.parish.dropped i = false ∧ s.healthy i = false then
            match s.freeSpares.head? with
            | some x => s.seatTo i x
            | none => s
          else s) s
        let s := s.review
        if s.ownSeat < 64 then s.joinSeat else s
      else s)

/-! ### Restoring (R394, R395) -/

/-- Shards handed to the new holder of a seat, each with its latents and momentum. -/
def State.sendShards (s : State) (t : Nat) (l : List Shard) : State :=
  l.foldl (fun s x => s.sendWhole mRestore t (s.nat 0x5002 1) x.layer x.shard x.shard 0 (bytes16 x.lat ++ bytes16 x.mom)) s

/-- The rows of one shard as a weight block holds them. -/
def State.shardRows (s : State) (m : Model) (p : Nat) (r : LayerRec) (j : Nat) : List Byte :=
  let c := m.chipOf p
  let side := (s.chip c).sideOf s.learnSlot != s.rowsWhole c
  let k := weightRows r.wmode
  let (a, b) := shardSpan r.rowSets s.learn.q j
  let cells := placeRows (m.variant.blockAt p r) k (a / 256) (List.replicate (k * 32 * ((b - a) / 256)) 0)
  cells.map (fun x => s.granByteOn c s.learnSlot p side x.1)

/-- The rows of every layer handed to the new holder of a seat. -/
def State.sendRows (s : State) (t : Nat) : State := match s.learnModel with
  | none => s
  | some m => s.layerList.foldl (fun s (p, r) => forEach s.learn.q s fun s j =>
      s.sendWhole mRestore t (s.nat 0x5002 1) r.layer j j 1 (s.shardRows m p r j)) s

/-- A tray reports a seat that another held: the map follows, and what this tray can restore goes out. The tray that held the
seat sends first, its buddies where it is lost; rows come from the tray of the lowest other seat. -/
def State.newHolder (s : State) (seat t : Nat) : State :=
  let old := vget s.parish.seatMap seat
  if old = t then s
  else
    let s := (s.seatTo seat t).review
    let s := if old = s.trayId then s.sendShards t (s.learn.committed.filter (fun x => decide (x.role = 0)))
      else if old < 64 ∧ s.healthy old = false then
        s.sendShards t (s.learn.committed.filter (fun x => decide (x.role = 1 ∧ s.trayOf x.shard = t)))
      else s
    let s := if ((s.seats.filter (fun p => decide (p.1 ≠ seat))).head?.map Prod.snd) = some s.trayId ∧ old < 64 then s.sendRows t
      else s
    if old = s.trayId then
      (if s.learn.copies.isEmpty then s else s.releaseCopies.modLearn (fun l => { l with committed := [], shadow := [], restoring := [] }))
    else s

/-! ### The leader's recovery (R393, R396, R398) -/

/-- The step in progress in this tray's view: its own, or one that a healthy tray reports. -/
def State.stepInView (s : State) : Option Nat :=
  if s.learn.phase ≠ 0 then some s.learn.step
  else (s.healthySet.find? (fun t => decide (t ≠ s.trayId ∧ (s.peer t).phase ≠ 0))).map (fun t => (s.peer t).outcomeStep)

/-- An outcome that a healthy tray has applied to step `n`: 1 to 3. -/
def State.outcomeOf (s : State) (n : Nat) : Option Nat :=
  let own := if s.parish.appliedStep = n then s.parish.applied else 0
  let all := own :: (s.healthySet.filter (fun t => decide (t ≠ s.trayId))).map (fun t =>
    if (s.peer t).outcomeStep = n then (s.peer t).outcome else 0)
  all.find? (fun o => decide (1 ≤ o ∧ o ≤ 3))

/-- Roll-forward: the outcome goes to every tray that has not applied it. -/
def State.rollForward (s : State) (n o : Nat) : State :=
  let todo := s.otherSeats.filter (fun t => !decide ((s.peer t).outcomeStep = n ∧ (s.peer t).outcome = o))
  let d : Decide := match s.learn.decided with
    | some d => d
    | none => ⟨o, 0, 0, 0, 0, 0xFFFFFFFF⟩
  let s := todo.foldl (fun s t => if o = 1 then s.sendTo mCommit t n [] else s.sendTo mDecide t n d.encode) s
  let s := (s.raise 0x7206 0 s.learnTenant 0).bump 0x2801 11
  if s.learn.phase = 0 ∨ s.learn.step ≠ n then s
  else if o = 1 then s.applyCommit n (s.trayDigest n) else s.applySkip d

/-- The step in progress rolled forward or back. -/
def State.recoverStep (s : State) : State := match s.stepInView with
  | none => s
  | some n => match s.outcomeOf n with
    | some o => s.rollForward n o
    | none =>
      if s.learn.phase = 0 then
        (s.sendSeats mRollback n (leBytes 8 (n - 1) ++ seatBytes s.seatList)).raise 0x7207 0 s.learnTenant 0
      else s.rollbackStep

/-- Seats whose holder is lost or has given them up. -/
def State.openSeats (s : State) : List Nat :=
  (s.seats.filter (fun p => bit s.parish.vacant p.1 || !s.healthy p.2)).map Prod.fst

/-- The shards of a seat can come from their holder or from a buddy (R394). -/
def State.sourceLeft (s : State) (seat : Nat) : Bool :=
  let holder := vget s.parish.seatMap seat
  let rank := (s.seats.filter (fun p => decide (p.1 < seat))).length
  let q := s.replicas
  let r := s.nat 0x5000 20
  s.healthy holder || (decide (1 < q) && (List.range r).all (fun c => s.healthy (s.trayOf ((rank * r + c + 1) % q))))

/-- The whole parish goes back to the latest complete checkpoint, with the present seat map (R398). -/
def State.parishBack (s : State) : State := match s.lastCkpt with
  | none => s
  | some c => (s.sendSeats mRollback c.step (leBytes 8 c.step ++ seatBytes s.seatList)).applyRestore c s.seatList

/-- The spare of the lowest ID is sent ADOPT for a seat, and recovery counts it. -/
def State.adopt (s : State) (seat t : Nat) : State :=
  let s := ((s.seatTo seat t).bump 0x2801 11)
  if t = s.trayId then s.joinSeat else s.sendTo mAdopt t (s.nat 0x5002 1) (leBytes 1 seat)

/-- A seat leaves the map. -/
def State.dropSeat (s : State) (seat : Nat) : State :=
  s.modParish fun p => { p with
    seatMap := vset p.seatMap seat 0xFF, vacant := putBit p.vacant seat false, dropped := putBit p.dropped seat true }

/-- Each open seat is adopted or dropped. A seat given up between steps is dropped only once the checkpoint of the last committed
step is complete, which the leader orders first. -/
def State.fillSeats (s : State) : State :=
  let todo := s.openSeats
  if todo.isEmpty then s.modParish fun p => { p with recoverFrom := none }
  else
    let spares := s.freeSpares
    let pairs := todo.zip (spares.map some ++ List.replicate todo.length none)
    let given := pairs.any (fun x => x.2.isNone && s.healthy (vget s.parish.seatMap x.1))
    let now := s.nat 0x5002 1
    if given && decide ((s.lastCkpt.map Checkpoint.step) ≠ some now) then
      (if s.learn.checkpoints.any (fun c => decide (c.step = now)) then s else s.takeCkpt now)
    else
      let back := pairs.any (fun x => x.2.isNone || !s.sourceLeft x.1)
      let s := pairs.foldl (fun s x => match x.2 with
        | some t => s.adopt x.1 t
        | none => s.dropSeat x.1) s
      let s := (s.modParish fun p => { p with recoverFrom := none }).review
      if back then s.parishBack else s

/-- The meaning of LEADER_RECOVERY: 2 heartbeat intervals after a change of leader or a loss, the leader recovers. -/
def execLeaderRecovery (s : State) : Host.Outcome State Fault Refusal :=
  .next (match s.parish.recoverFrom with
    | none => s
    | some t => if s.inParish && s.leads && decide (t + 2 * s.beat ≤ s.micros) then s.recoverStep.fillSeats else s)

/-- The meaning of PEER_HEALTH_TIMEOUT: 16 heartbeat intervals without a frame. -/
def execPeerHealthTimeout (t : Nat) (s : State) : Host.Outcome State Fault Refusal :=
  .next (match (s.peer t).heard with
    | some m => if s.inParish && decide (m + 16 * s.beat < s.micros) then (s.losePeer t).pauseStep else s
    | none => s)

/-! ### Ports (R376, R377, R379) -/

/-- A duplicate address on a port is a fault (R376). -/
def State.setDup (s : State) (q : Nat) (dup : Bool) : State :=
  let was := vget s.parish.dup q
  let s := s.modParish fun p => { p with dup := vset p.dup q dup }
  if dup && !was then s.raise 0x6304 (ferryUnit q) noTenant 0 else s

/-- The meaning of FERRY_LINK_CHANGE. -/
def execFerryLinkChange (q : Nat) (module_ lock dup : Bool) (s : State) : Host.Outcome State Fault Refusal :=
  .next ((s.modParish fun p => { p with module := vset p.module q module_, lock := vset p.lock q lock }).setDup q dup)

/-- The meaning of NEIGHBOR_DISCOVERY_RECEIVE. -/
def execNeighborDiscoveryReceive (q peer : Nat) (dup : Bool) (s : State) : Host.Outcome State Fault Refusal :=
  .next (if dup then s.setDup q true
    else s.modParish fun p => { p with neighbours := (q, peer) :: p.neighbours.filter (fun x => decide (x ≠ (q, peer))) })

/-- The IPv6 address of port `q` of tray `t` of the parish (R376). -/
def State.parishAddress (s : State) (q t : Nat) : List Byte :=
  let id := s.nat 0x2800 4
  (if s.nat 0x2800 7 = 0 then [0xFE, 0x80, 0, 0, 0, 0, 0, 0] else padTo 8 (s.bytes 0x2800 8))
    ++ [0x00, 0x0A, 0x7E, BitVec.ofNat 8 (id / 256), BitVec.ofNat 8 id, 0x00, BitVec.ofNat 8 q, BitVec.ofNat 8 t]

/-- The source is the address of a port of a tray of the parish. -/
def State.fromParish (s : State) (source : List Byte) : Bool :=
  (bitsSet 64 s.members).any fun t => source == s.parishAddress 0 t || source == s.parishAddress 1 t

/-- A datagram passes R377 and R379. -/
def State.datagramOk (s : State) (d : Datagram) : Bool :=
  !d.extHeader && d.checksumOk && s.fromParish d.source && decide (d.dstPort = s.nat 0x2800 9)
    && mootValid s.trayId (s.nat 0x2800 4) d.bytes

/-- The meaning of MOOT_FRAME_REJECT: a datagram that fails is counted. -/
def execMootFrameReject (q : Nat) (d : Datagram) (s : State) : Host.Outcome State Fault Refusal :=
  .next (if s.portUp q && !s.datagramOk d then s.bump 0x2810 (5 + 6 * q) else s)

/-! ### Acknowledgement (R380, R381) -/

/-- The meaning of ACK_TIMER: 20 µs have passed with an acknowledgement owed. -/
def execAckTimer (t : Nat) (s : State) : Host.Outcome State Fault Refusal :=
  .next (if (s.peer t).ackOwed && decide ((s.peer t).ackFrom + 20 ≤ s.micros) then
    let map := bitmap 32 (fun i => (lookupKey (i + 1) (s.peer t).held).isSome)
    s.launch ⟨mAck, t, 0, 0, s.nat 0x5002 1, 1, leBytes 4 map⟩
  else s)

/-- The meaning of MOOT_RETRANSMIT_TIMER: sent again, on the other port where it qualifies; after 8 times the peer is lost. -/
def execMootRetransmitTimer (t seq : Nat) (s : State) : Host.Outcome State Fault Refusal :=
  .next (match (s.peer t).unacked.find? (fun u => decide (u.frame.seq = seq) && u.out.isSome) with
    | none => s
    | some u =>
      if s.micros < u.out.getD 0 + 200 then s
      else if 8 ≤ u.resent then ((s.raise 0x6301 (ferryUnit u.port) noTenant t).losePeer t).pauseStep
      else
        let ports := s.portsTo t
        let q := if ports.contains (1 - u.port) then 1 - u.port else u.port
        let f := s.withAck { u.frame with flags := Nat.lor u.frame.flags 4 }
        let s := s.modPeer t (fun p => { p with
          ackOwed := false,
          unacked := p.unacked.map (fun x => if x = u then { x with resent := x.resent + 1, port := q, out := some s.micros } else x) })
        (if ports.isEmpty then s else (s.transmit q f).bump 0x2810 (4 + 6 * q)).pauseStep)

/-- A frame taken: what its type does, in sequence order, and what acknowledgement releases (R382, R388). -/
def State.hear (s : State) (h : MootHdr) (i : Instr) (act : Instr → State → State) : State :=
  (s.receive h i act).readyCheck.pauseStep

/-! ### What each frame does -/

/-- A step of this tray that a frame belongs to. -/
def State.inStep (s : State) (n : Nat) : Bool := decide (s.learn.phase ≠ 0 ∧ s.learn.step = n)

/-- A frame of the step in progress, or of the one to start next. -/
def State.nearStep (s : State) (n : Nat) : Bool :=
  s.inStep n || (decide (s.learn.phase = 0) && decide (n = s.nat 0x5002 1 + 1))

/-- A chunk stored; the whole once every byte is in. -/
def State.storeChunk (s : State) (ty : Nat) (p : MootPre) (data : List Byte) : State × Option (List Byte) :=
  let same (x : Chunk) : Bool := decide (x.type = ty ∧ x.layer = p.layer ∧ x.shard = p.shard ∧ x.content = p.content)
  let mine := ⟨ty, p.layer, p.shard, p.content, p.offset, data⟩ ::
    s.learn.chunks.filter (fun x => same x && decide (x.offset ≠ p.offset))
  let rest := s.learn.chunks.filter (fun x => !same x)
  if p.total ≤ (mine.map (fun x => x.bytes.length)).sum then
    (s.modLearn (fun l => { l with chunks := rest }),
      some ((sortBy (fun a b => decide (a.offset ≤ b.offset)) mine).flatMap Chunk.bytes))
  else (s.modLearn (fun l => { l with chunks := mine ++ rest }), none)

/-- Latents and momentum of a whole that carries both. -/
def shardVals (b : List Byte) : List Nat × List Nat :=
  let v := vals16 b
  (v.take (v.length / 2), v.drop (v.length / 2))

/-- The chip of this tray that holds a shard in a role: its owner, or its buddy. -/
def State.shardChip (s : State) (layer shard role : Nat) : Nat := match s.layerRec layer with
  | some (p, _) => s.copyChip ((shard + role) % max 1 s.learn.q % max 1 s.learn.r) p
  | none => 0xFF

/-- A chunk of a gradient part staged for its owner (R384). -/
def State.takePart (s : State) (p : MootPre) (data : List Byte) : State :=
  let same (x : StagedPart) : Bool := decide (x.layer = p.layer ∧ x.shard = p.shard ∧ x.replica = p.replica)
  let old := ((s.learn.staged.find? same).map StagedPart.chunks).getD []
  let chunks := insertKey p.offset data old
  let whole := decide (p.total ≤ (chunks.map (fun c => c.2.length)).sum)
  let n := match s.layerRec p.layer with
    | some (_, r) => shardLen r.rowSets s.learn.q p.shard
    | none => 0
  let x : StagedPart := ⟨p.layer, p.shard, p.replica, p.total, if whole then [] else chunks,
    if whole then decodePart (s.nat 0x5000 9) n (chunks.flatMap Prod.snd) else [], whole⟩
  if ((s.learn.staged.find? same).map StagedPart.whole).getD false then s
  else s.modLearn fun l => { l with staged := x :: l.staged.filter (fun y => !same y) }

/-- A SHADOW: the buddy's copy of the owner's shadow (R388). -/
def State.takeShadow (s : State) (p : MootPre) (data : List Byte) : State :=
  let (s, w) := s.storeChunk mShadow p data
  match w with
  | none => s
  | some b =>
    let (lat, mom) := shardVals b
    s.modLearn fun l => { l with
      shadow := putShard l.shadow ⟨p.layer, p.shard, s.shardChip p.layer p.shard 1, 1, lat, mom⟩ }

/-- ROWS: new rows of a shard for every chip of this tray that holds the layer (R364). -/
def State.takeRows (s : State) (ty : Nat) (p : MootPre) (data : List Byte) : State :=
  let (s, w) := s.storeChunk ty p data
  match w, s.layerRec p.layer with
  | some b, some (q, _) => (s.holders q).foldl (fun s c => s.landRows ⟨c, p.layer, p.shard, b⟩) s
  | _, _ => s

/-- RESTORE: a shard, or rows, of the seat that this tray has taken (R394, R395). -/
def State.takeRestore (s : State) (n : Nat) (p : MootPre) (data : List Byte) : State :=
  if p.content = 1 then s.takeRows mRestore p data
  else
    let (s, w) := s.storeChunk mRestore p data
    match w with
    | none => s
    | some b =>
      let (lat, mom) := shardVals b
      let c := s.shardChip p.layer p.shard 0
      let s := s.modLearn fun l => { l with
        committed := putShard l.committed ⟨p.layer, p.shard, c, 0, lat, mom⟩,
        restoring := l.restoring.filter (fun x => decide (x ≠ (p.layer, p.shard))) }
      let s := (s.setNum 0x5002 1 n).raise 0x7208 (chipUnit (c % 16)) s.learnTenant 0
      if s.learn.restoring.isEmpty then (s.modLearn fun l => { l with restarted := true }).raise 0x720A 0 s.learnTenant 0 else s

/-- CKPT: a shard for the journal (R399). A checkpoint that the leader has ordered is taken here too (R396). -/
def State.takeCkptShard (s : State) (src n : Nat) (p : MootPre) (data : List Byte) : State :=
  let ordered := decide (src = s.parish.leader ∧ n = s.nat 0x5002 1 ∧ s.learn.phase = 0)
    && !s.learn.checkpoints.any (fun c => decide (c.step = n))
  let s := if ordered then s.takeCkpt n else s.openCkpt n
  let (s, w) := s.storeChunk mCkpt p data
  match w with
  | none => s
  | some b => s.ckptShard n ⟨p.layer, p.shard, 0xFF, 0, (shardVals b).1, (shardVals b).2⟩

/-- A HEARTBEAT (R373, R390, R399). -/
def State.takeHeartbeat (s : State) (h : MootHdr) (tray seat leader phase outcome ckpt digest pd : Nat) : State :=
  let s := s.modPeer h.src (fun p => { p with heardPort := vset p.heardPort h.port (some s.micros) })
  let s := s.hearPeer h.src digest tray
  if !(s.peer h.src).digestOk then s
  else
    let had := (s.peer h.src).seat
    let s := s.modPeer h.src (fun p => { p with
      seat := seat, leader := leader, phase := phase, outcome := outcome, outcomeStep := h.step, checkpoint := ckpt })
    let s := if seat < 64 then s.newHolder seat h.src
      else if had < 64 ∧ vget s.parish.seatMap had = h.src then
        let s := (s.modParish fun p => { p with vacant := putBit p.vacant had true }).review
        if s.leads then s.modParish (fun p => { p with recoverFrom := some (p.recoverFrom.getD s.micros) }) else s
      else s
    if h.src = s.parish.leader then
      let s := if pd = 0 then s else (s.modParish fun p => { p with parishDigest := pd }).setNum 0x2801 8 pd
      if s.learn.checkpoints.any (fun c => decide (c.step = ckpt) && c.whole && !c.complete) then s.ckptComplete ckpt else s
    else s

/-- ROLLBACK (R392, R398): a target one below the header's step rolls that step back, unless a healthy tray has reported that step as
committed, which wins. The header of a rollback to a checkpoint names the checkpoint. -/
def State.takeRollback (s : State) (n target : Nat) (map : List Nat) : State :=
  if target + 1 = n then (if s.inStep n ∧ s.outcomeOf n ≠ some 1 then s.applyRollback else s)
  else match s.learn.checkpoints.find? (fun c => decide (c.step = target) && c.whole) with
    | some c => s.applyRestore c map
    | none => s

/-- ADOPT (R396): the spare takes the seat, places its copies and waits for the shards. -/
def State.takeAdopt (s : State) (seat : Nat) : State :=
  if s.ownSeat < 64 then s
  else
    let s := (s.seatTo seat s.trayId).joinSeat
    let s := s.modLearn fun l => { l with committed := [], shadow := [], residuals := [], restoring := s.owned.map (fun (_, r, j, _) => (r.layer, j)) }
    s.review

/-! ### Replay (R401 to R403) -/

/-- The checkpoint below step `n` with every record from there to `n`. -/
def State.replayBase (s : State) (n : Nat) : Option Checkpoint :=
  (s.learn.checkpoints.filter Checkpoint.complete).find? fun c =>
    decide (c.step < n) && (List.range (n - c.step)).all (fun i =>
      s.learn.replay.any (fun r => decide (r.step = c.step + 1 + i)))

/-- The smallest step that R402 admits (OD 0x7000:05). -/
def State.oldestReplay (s : State) : Nat :=
  (((s.learn.replay.map ReplayRec.step).filter (fun n => (s.replayBase n).isSome)).foldl
    (fun (m : Option Nat) n => some (match m with
      | some x => min x n
      | none => n)) none).getD 0

/-- The replay is admitted (R402). -/
def State.replayOk (s : State) (n : Nat) : Bool := match s.replayBase n with
  | none => false
  | some c =>
    s.leads && decide (s.tray = .ready) && s.learn.replaying.isNone
      && s.otherSeats.all (fun t => decide ((s.peer t).trayState = 3) || !s.inParish)
      && s.learn.replay.all (fun r => !decide (c.step < r.step ∧ r.step ≤ n)
          || (r.seatMap == s.seatList && decide (r.r = s.nat 0x5000 20)))

/-- A replay begins on this tray. -/
def State.beginReplay (s : State) (n : Nat) : State :=
  (s.modLearn fun l => { l with replaying := some n }).setNum 0x7000 1 1

/-- A write of OD 0x7000:02 on the leader. -/
def State.replayDo (s : State) (n : Nat) : State :=
  let c := ((s.replayBase n).map Checkpoint.step).getD 0
  let s := s.modParish fun p => { p with replies := [] }
  (s.sendSeats mReplay n (leBytes 8 n ++ leBytes 8 c ++ [1] ++ List.replicate 15 0)).beginReplay n

def State.replayDeny (s : State) (n : Nat) : Option Deny :=
  if s.replayOk n then none
  else some ((notNow 0x7000 2).raising s 0x720D 0 s.learnTenant 0)

/-- A write of the step to replay: refused, it leaves state 4. -/
def State.replayWrite (s : State) (n : Net) (step : Nat) : State :=
  let t := s.write n 0x7000 2 (leBytes 8 step) (fun s => s.replayDeny step) (fun s => s.replayDo step)
  if (t.box n).answer = .abort abState ∧ t.faults.refusal.code = 0x720D then t.setNum 0x7000 1 4 else t

/-- The meaning of REPLAY_START. -/
def execReplayStart (n : Net) (step : Nat) (s : State) : Host.Outcome State Fault Refusal := .next (s.replayWrite n step)

/-- A tray's result reaches the leader: 2 matched, 3 differed, 4 refused. -/
def State.replayResult (s : State) (tray result : Nat) : State :=
  let s := s.modParish fun p => { p with replies := (tray, result) :: p.replies.filter (fun r => decide (r.1 ≠ tray)) }
  let want := if s.inParish then s.seats.map Prod.snd else [s.trayId]
  let got (t : Nat) : Nat := ((s.parish.replies.find? (fun r => decide (r.1 = t))).map Prod.snd).getD 0
  if s.nat 0x7000 1 ≠ 1 then s
  else if result = 3 ∨ result = 4 then s.setNum 0x7000 1 result
  else if want.all (fun t => decide (got t = 2)) then s.setNum 0x7000 1 2 else s

/-- REPLAY (Table 11.3): a start, or a result. -/
def State.takeReplay (s : State) (src step kind result : Nat) : State :=
  if kind = 1 then
    if (s.replayBase step).isSome ∧ s.tray = .ready then s.beginReplay step
    else (s.setNum 0x7000 1 4).sendTo mReplay src step (leBytes 8 step ++ leBytes 8 0 ++ [2, 4] ++ List.replicate 14 0)
  else if kind = 2 then s.replayResult src result else s

/-- The output that the trace selects: its bytes are the replay's own, which the model does not run again. -/
def State.traceData (s : State) : List Byte := match s.learnModel with
  | none => []
  | some m =>
    let c := s.nat 0x7001 2
    match (m.placed.zip (List.range m.placed.length)).find? (fun x => decide (x.1.chip = c)) with
    | none => []
    | some (_, q) =>
      let d := s.descAt c s.learnSlot q (s.nat 0x7001 3)
      (List.range (groupMap [d] d).extent).map (fun i => Config.scratchByte s.draws i)

/-- REPLAY_COMPLETE on this tray: matched, or the first difference. -/
def State.replayEnd (s : State) (diff : Option (Nat × Nat × Nat × Nat)) : State := match s.learn.replaying with
  | none => s
  | some n =>
    let s := s.modLearn fun l => { l with replaying := none }
    let s := if s.nat 0x7001 4 = 0 then s else (s.setBytes 0x7002 0 s.traceData).draw.2
    let s := match diff with
      | none => s
      | some (step, tray, chip, desc) =>
        ((s.setNum 0x7000 3 step).setNum 0x7000 4 (tray + 2 ^ 8 * chip + 2 ^ 16 * desc : Nat)).raise 0x720C
          (if chip < 16 then chipUnit chip else 0) s.learnTenant 0
    let result := if diff.isSome then 3 else 2
    if s.leads then s.replayResult s.trayId result
    else
      let s := s.setNum 0x7000 1 result
      s.sendTo mReplay s.parish.leader n (leBytes 8 n ++ leBytes 8 0 ++ leBytes 1 2 ++ leBytes 1 result ++ List.replicate 14 0)

/-- The meaning of REPLAY_COMPLETE. -/
def execReplayComplete (diff : Option (Nat × Nat × Nat × Nat)) (s : State) : Host.Outcome State Fault Refusal :=
  .next (s.replayEnd diff)

/-! ### Delivery -/

/-- What a received frame does, when it is delivered (Table 11.3). -/
def State.deliverMoot (i : Instr) (s : State) : State := match i with
  | .helloReceive h digest _ tray => s.hearPeer h.src digest tray
  | .heartbeatReceive h tray seat leader phase outcome ckpt digest pd =>
    s.takeHeartbeat h tray seat leader phase outcome ckpt digest pd
  | .ackReceive h map => s.takeAck h.src h.ack map
  | .bidReceive h => if s.leads && s.nearStep h.step then s.leaderBid h.src else s
  | .startReceive h map q r =>
    if s.inStep h.step then
      (s.modParish fun p => { p with seatMap := Vector.ofFn (fun i : Fin 64 => (map[i.val]?).getD 0xFF) }).applyStart q r
    else s
  | .partReceive h p data => if s.nearStep h.step then s.takePart p data else s
  | .fuseReceive h f => if s.leads && s.inStep h.step then s.leaderFuse h.src f else s
  | .decideReceive h d => if s.inStep h.step then s.applyDecide d else s
  | .shadowReceive h p data => if s.inStep h.step then s.takeShadow p data else s
  | .readyReceive h digest => if s.leads && s.inStep h.step then s.leaderReady h.src digest else s
  | .commitReceive h => if s.inStep h.step then s.applyCommit h.step (s.trayDigest h.step) else s
  | .rollbackReceive h target map => s.takeRollback h.step target map
  | .abortReceive h _ => if s.leads && s.inStep h.step && !s.parish.committedSent then s.rollbackStep else s
  | .adoptReceive _ seat => s.takeAdopt seat
  | .rowsReceive _ p data => s.takeRows mRows p data
  | .restoreReceive h p data => s.takeRestore h.step p data
  | .ckptReceive h p data => s.takeCkptShard h.src h.step p data
  | .ckptDoneReceive h => if s.leads then s.ckptDone h.src h.step else s
  | .replayReceive h step _ kind result => s.takeReplay h.src step kind result
  | _ => s

def State.takeFrame (s : State) (h : MootHdr) (i : Instr) : State := s.hear h i State.deliverMoot

def execHelloReceive (h : MootHdr) (digest role tray : Nat) (s : State) : Host.Outcome State Fault Refusal :=
  .next (s.takeFrame h (.helloReceive h digest role tray))
def execHeartbeatReceive (h : MootHdr) (tray seat leader phase outcome ckpt digest pd : Nat) (s : State) :
    Host.Outcome State Fault Refusal :=
  .next (s.takeFrame h (.heartbeatReceive h tray seat leader phase outcome ckpt digest pd))
def execAckReceive (h : MootHdr) (map : Nat) (s : State) : Host.Outcome State Fault Refusal := .next (s.takeFrame h (.ackReceive h map))
def execBidReceive (h : MootHdr) (s : State) : Host.Outcome State Fault Refusal := .next (s.takeFrame h (.bidReceive h))
def execStartReceive (h : MootHdr) (map : List Nat) (q r : Nat) (s : State) : Host.Outcome State Fault Refusal :=
  .next (s.takeFrame h (.startReceive h map q r))
def execPartReceive (h : MootHdr) (p : MootPre) (data : List Byte) (s : State) : Host.Outcome State Fault Refusal :=
  .next (s.takeFrame h (.partReceive h p data))
def execFuseReceive (h : MootHdr) (f : FusePart) (s : State) : Host.Outcome State Fault Refusal :=
  .next (s.takeFrame h (.fuseReceive h f))
def execDecideReceive (h : MootHdr) (d : Decide) (s : State) : Host.Outcome State Fault Refusal :=
  .next (s.takeFrame h (.decideReceive h d))
def execShadowReceive (h : MootHdr) (p : MootPre) (data : List Byte) (s : State) : Host.Outcome State Fault Refusal :=
  .next (s.takeFrame h (.shadowReceive h p data))
def execReadyReceive (h : MootHdr) (digest : Nat) (s : State) : Host.Outcome State Fault Refusal :=
  .next (s.takeFrame h (.readyReceive h digest))
def execCommitReceive (h : MootHdr) (s : State) : Host.Outcome State Fault Refusal := .next (s.takeFrame h (.commitReceive h))
def execRollbackReceive (h : MootHdr) (target : Nat) (map : List Nat) (s : State) : Host.Outcome State Fault Refusal :=
  .next (s.takeFrame h (.rollbackReceive h target map))
def execAbortReceive (h : MootHdr) (code : Nat) (s : State) : Host.Outcome State Fault Refusal :=
  .next (s.takeFrame h (.abortReceive h code))
def execAdoptReceive (h : MootHdr) (seat : Nat) (s : State) : Host.Outcome State Fault Refusal :=
  .next (s.takeFrame h (.adoptReceive h seat))
def execRowsReceive (h : MootHdr) (p : MootPre) (data : List Byte) (s : State) : Host.Outcome State Fault Refusal :=
  .next (s.takeFrame h (.rowsReceive h p data))
def execRestoreReceive (h : MootHdr) (p : MootPre) (data : List Byte) (s : State) : Host.Outcome State Fault Refusal :=
  .next (s.takeFrame h (.restoreReceive h p data))
def execCkptReceive (h : MootHdr) (p : MootPre) (data : List Byte) (s : State) : Host.Outcome State Fault Refusal :=
  .next (s.takeFrame h (.ckptReceive h p data))
def execCkptDoneReceive (h : MootHdr) (s : State) : Host.Outcome State Fault Refusal := .next (s.takeFrame h (.ckptDoneReceive h))
def execReplayReceive (h : MootHdr) (step ckpt kind result : Nat) (s : State) : Host.Outcome State Fault Refusal :=
  .next (s.takeFrame h (.replayReceive h step ckpt kind result))

/-! ### The owner's fold, the step timeout, the checkpoint of record -/

/-- The meaning of GRADIENT_PART_FOLD. -/
def execGradientPartFold (layer shard : Nat) (s : State) : Host.Outcome State Fault Refusal := .next (s.foldNext layer shard)

/-- The step timeout is due: its count, which pauses while a retransmission is live, has reached the nominal value, or four times that
has passed since its start (R382, R419). -/
def State.stepDue (s : State) (t : Nat) : Bool :=
  let nominal := 1000 * s.nat 0x2800 10
  decide (t + 4 * nominal ≤ s.micros)
    || (s.parish.pauseFrom.isNone && decide (t + nominal + s.parish.paused ≤ s.micros))

/-- STEP_TIMEOUT (R382, R392): once COMMIT has gone out it changes nothing. -/
def State.stepOut (s : State) : State := match s.parish.timerFrom with
  | none => s
  | some t =>
    let live := s.liveRetries
    if !s.leads || decide (s.learn.phase = 0) || s.parish.committedSent || !s.stepDue t then s
    else
      let (unit, detail) := match live.getLast? with
        | some (p, u) => (ferryUnit u.port, p + 2 ^ 6 * min 15 u.resent)
        | none => (0, 0)
      let n := s.learn.step
      let s := s.raise 0x7205 unit s.learnTenant detail
      let s := (List.range 64).foldl (fun s p => s.modPeer p (fun x => { x with
        unacked := x.unacked.filter (fun u => !decide (0 < u.resent ∧ u.frame.step = n)) })) s
      s.rollbackStep

/-- The meaning of STEP_TIMEOUT. -/
def execStepTimeout (s : State) : Host.Outcome State Fault Refusal := .next s.stepOut

/-- The meaning of CHECKPOINT_OF_RECORD_WRITTEN. -/
def execCheckpointOfRecordWritten (s : State) : Host.Outcome State Fault Refusal :=
  .next (if s.learn.writingRecord then s.modLearn fun l => { l with ofRecord := s.lastCkpt, writingRecord := false } else s)

end Sys2Proof.Machine
end

