-- ==== Sys2Proof/Machine/OdRead.lean ====
section
/-! DEFINITION. Reading the object dictionary: the entries that the tray computes from the rest of its state (chapters 1, 2, 9, 11,
13, 14), every other entry as it is stored, and the rights of a read. -/

namespace Sys2Proof.Machine

/-- The digits of `n` hexadecimal places of a binary-coded decimal. -/
def bcdDigits (n v : Nat) : List Byte := (List.range n).reverse.map (fun i => BitVec.ofNat 8 (0x30 + v / 16 ^ i % 16))

/-- The release date that a revision number encodes (R2): YYYY-MM-DD. -/
def dateString (rev : Nat) : List Byte :=
  bcdDigits 4 (rev / 2 ^ 16) ++ [0x2D] ++ bcdDigits 2 (rev / 2 ^ 8 % 2 ^ 8) ++ [0x2D] ++ bcdDigits 2 (rev % 2 ^ 8)

/-- The version string of the running image, or the one at delivery (R3). -/
def State.version (s : State) : OdVal := match vget s.boot.banks s.boot.booted with
  | .image b _ => .bytes ((slice b 8 12).takeWhile (fun x => x != 0))
  | .empty => s.get 0x100A 0

/-- The COB-ID of an RPDO or a TPDO: as written, or its default under the node ID in force (R454, R469). -/
def State.cobId (s : State) (index : Nat) : Nat :=
  let w := s.num index 1
  if 0 ≤ w then w.toNat
  else
    let n := s.can.node
    if index = 0x1400 then 0x200 + n
    else if 0x1800 ≤ index ∧ index ≤ 0x1803 then 0x180 + 0x100 * (index - 0x1800) + n
    else if index = 0x1804 then 0x1C0 + n else 0x80000000

/-- The status word of a chip (Table 14.4). -/
def State.chipStatus (s : State) (c : Nat) : Nat :=
  let x := s.chip c
  let cond : Nat := if x.failed then 2 else if x.whole.isSome then 3 else if s.isSpare c then 1 else 0
  let accs := (x.clusters.toList.map (fun k => (k.banks.toList.filter AccBank.retired).length)).sum
  let commons := (x.clusters.toList.map (fun k => (k.commons.toList.filter (fun b => !b.live)).length)).sum
  let down := ([0, 1].map (fun a => ofBool (!s.linkUp a c) + ofBool (!s.linkUp a (ringPrev a c)))).sum
  let spare := (x.clusters.toList.filter Cluster.spareLeft).length
  let learns := s.placedSlots.any (fun p => p.2.learnable && p.2.chips.contains c) || s.learn.copies.any (fun l => l.contains c)
  cond + 4 * ofBool (s.hasResident c) + 8 * ofBool learns + 16 * ofBool x.mirror.stale + 2 ^ 8 * accs + 2 ^ 16 * commons
    + 2 ^ 21 * down + 2 ^ 24 * spare

/-- The effective tier ceiling (R473). -/
def State.topTier (s : State) : Nat := min (s.nat 0x2002 1) (if s.faults.capped || decide (s.tray ≠ .learning) then 3 else 4)

/-- A measured quantity that fits `bits` (Table 14.5). -/
def State.measure (s : State) (index sub bits : Nat) : Nat := Config.measured (odKey index sub) s.timebase % 2 ^ bits

/-- The slots of a tenant whose state is one of `l` (any state where `l` is empty), as 32 bytes (Table 14.9). -/
def State.slotBytes (s : State) (t : Nat) (l : List Nat) : List Byte :=
  let has (n : Nat) : Bool := decide (s.nat (0x4000 + n) 1 = t) && (l.isEmpty || l.contains (s.nat (0x4000 + n) 4))
  (List.range 32).map (fun b => BitVec.ofNat 8 (bitmap 8 (fun i => has (8 * b + i))))

/-- The set that owns a condition output: the enabled one that names it (R484). -/
def State.outputOwner (s : State) (n : Nat) : Nat × Nat :=
  (s.enabledSets.find? (fun p => decide (s.nat (blk p.1 (0x40 + p.2)) 2 = n))).getD (0xFF, 0xFF)

/-- The link value of a Ferry port (Table 11.7). -/
def State.ferryLink (s : State) (q : Nat) : Nat :=
  if !vget s.parish.module q then 0 else if vget s.parish.dup q then 3 else if vget s.parish.lock q then 2 else 1

/-- Amounts in KiB or MiB, rounded up. -/
def State.heldUnits (s : State) (t sub : Nat) : Nat :=
  if sub = 9 then ceilDiv (s.granHeld t 256) 1024 else if sub = 10 then ceilDiv (s.loftHeld t 256) 1024
  else ceilDiv (s.storeHeld t 256) 1048576

/-- Power and thermal readings (Tables 14.5 and 14.6). A chip in Fallow reports 0. -/
def State.readPower (s : State) (sub : Nat) : OdVal :=
  if sub = 1 ∨ sub = 2 then .num (s.measure 0x2100 sub 16)
  else if sub = 3 then .num (reported 0x210003 (s.measure 0x2100 1 16 * s.measure 0x2100 2 16 : Nat) 1000)
  else if 5 ≤ sub ∧ sub ≤ 0x14 then .num (if (s.chip (sub - 5)).tier = 0 then 0 else s.measure 0x2100 sub 16 : Nat)
  else if 0x15 ≤ sub then .bytes ((s.chip (sub - 0x15)).clusters.toList.flatMap (fun k => leInt 1 k.trim))
  else s.get 0x2100 sub

def State.readThermal (s : State) (sub : Nat) : OdVal := .num (
  if sub = 1 then s.faults.plate else if sub = 2 then 750 else if sub = 3 then 850
  else if sub = 4 then ofBool s.faults.capped else if sub = 5 then s.faults.hottest
  else if sub = 0x16 then s.faults.reeve.getD 0
  else if (s.chip (sub - 6)).tier = 0 then 0 else ((s.chip (sub - 6)).die).getD 0)

/-- OD 0x2401 (Table 14.7). -/
def State.readRefusal (s : State) (sub : Nat) : OdVal :=
  let r := s.faults.refusal
  match sub with
  | 1 => .num r.code
  | 2 => .bytes ((r.record.map Record.encode).getD (List.replicate 16 0))
  | 3 => .num r.index | 4 => .num r.sub | 5 => .num r.word | 6 => .num r.bits | 7 => .num r.value | 8 => .num r.abort
  | 9 => .num r.net
  | _ => .bytes ((s.faults.last.map Record.encode).getD (List.replicate 16 0))

/-- A job descriptor as a read shows it: its reserved fields return 0 (R6). -/
def jobShown (b : List Byte) : List Byte :=
  (List.range 8).flatMap fun w => leBytes 4 ((jobReserved.filter (fun f => decide (f.1 = w))).foldl
    (fun v f => v - field v f.2.1 f.2.2 * 2 ^ f.2.2) (leAt b (4 * w) 4))

/-- The value of an entry as a read gives it. -/
def State.read (s : State) (index sub : Nat) : OdVal :=
  if index = 0x1001 then .num s.errorRegister
  else if index = 0x1009 then .bytes (dateString s.boot.fuses.revision)
  else if index = 0x100A then s.version
  else if index = 0x1018 ∧ sub = 3 then .num s.boot.fuses.revision
  else if index = 0x1018 ∧ sub = 4 then .num s.boot.fuses.serial
  else if sub = 1 ∧ ((0x1400 ≤ index ∧ index ≤ 0x140F) ∨ (0x1800 ≤ index ∧ index ≤ 0x181F)) then .num (s.cobId index)
  else if index = 0x2000 ∧ sub = 1 then .num s.tray.code
  else if index = 0x2000 ∧ sub = 3 then .num s.holdCause
  else if index = 0x2000 ∧ sub = 4 then .num s.command
  else if index = 0x2002 ∧ sub = 3 then .num s.topTier
  else if index = 0x2003 then .num (s.chip (sub - 1)).tier
  else if index = 0x2010 then .num (s.chipStatus (sub - 1))
  else if index = 0x2011 ∧ sub = 2 then .num ((bitsSet 16 (s.nat 0x2011 1)).filter (fun c => !s.failed c)).length
  else if index = 0x2100 then s.readPower sub
  else if index = 0x2110 then s.readThermal sub
  else if index = 0x2210 ∧ sub ≤ 4 then .num (s.shaft (sub - 1)).angle
  else if index = 0x2210 ∧ sub ≤ 8 then .num (s.shaft (sub - 5)).milliRpm
  else if index = 0x2210 ∧ sub ≤ 12 then .num ((s.shaft (sub - 9)).status (s.kind (sub - 9)))
  else if index = 0x2210 ∧ sub = 13 then .num s.micros
  else if 0x2300 ≤ index ∧ index ≤ 0x2307 ∧ sub = 21 then .num (s.chanStatus (index - 0x2300))
  else if 0x2310 ≤ index ∧ index ≤ 0x2311 ∧ sub = 24 then .num (s.camStatus (index - 0x2310))
  else if index = 0x2400 ∧ sub = 1 then .num s.faults.log.length
  else if index = 0x2400 ∧ sub = 3 then .bytes (s.faults.log.flatMap Record.encode)
  else if index = 0x2401 then s.readRefusal sub
  else if index = 0x2410 ∧ sub = 12 then
    .num ((s.chips.toList.filter (fun x => !x.failed)).map (fun x => (x.clusters.toList.filter Cluster.spareLeft).length)).sum
  else if index = 0x2801 ∧ sub = 1 then .num s.parish.state
  else if index = 0x2801 ∧ sub = 2 then .num s.parish.leader
  else if index = 0x2801 ∧ sub = 3 then .num (if s.inParish then bitmap 64 (fun t => s.healthySet.contains t) else 0 : Nat)
  else if index = 0x2801 ∧ sub = 4 then .num (if s.inParish then s.seatShown else 0xFF : Nat)
  else if index = 0x2801 ∧ sub = 5 then .num s.learn.q
  else if index = 0x2810 ∧ (sub = 1 ∨ sub = 7) then .num (s.ferryLink (sub / 7))
  else if 0x3000 ≤ index ∧ index < 0x4000 then
    let t := (index - 0x3000) / 0x100
    let o := index % 0x100
    if o = 0 ∧ sub = 4 then .num ((List.range 256).filter (fun n => decide (s.nat (0x4000 + n) 1 = t))).length
    else if o = 1 ∧ 9 ≤ sub then .num (s.heldUnits t sub)
    else if o = 2 ∧ sub = 1 then .bytes (s.authKey t)
    else if o = 2 ∧ sub = 4 then .num (ofBool (s.session .ecat = some t) + 2 * ofBool (s.session .can = some t) : Nat)
    else if 0x20 ≤ o ∧ o ≤ 0x2E ∧ sub = 2 then .bytes (jobShown (s.bytes index 2))
    else if o = 0x30 then .bytes (s.slotBytes t (if sub = 1 then [] else if sub = 2 then [5] else [4, 5]))
    else s.get index sub
  else if 0x6000 ≤ index ∧ index < 0x6010 ∧ sub = 5 then .num (s.outputOwner (index - 0x6000)).1
  else if 0x6000 ≤ index ∧ index < 0x6010 ∧ sub = 6 then .num (s.outputOwner (index - 0x6000)).2
  else if 0x6100 ≤ index ∧ index < 0x6108 ∧ sub = 10 ∧ s.num index 10 < 0 then
    .num (((s.model (s.nat index 4)).map (fun m => m.variant.stopToken)).getD 0)
  else if index = 0x6200 ∧ sub = 7 then
    .num (bitmap 4 s.level + 16 * bitmap 4 (fun i => vget s.outputs.overload i) : Nat)
  else if index = 0x2801 ∧ sub = 9 then .num s.commitShown
  else if index = 0x5000 ∧ sub = 22 then .num s.learnShown
  else if index = 0x7000 ∧ sub = 5 then .num s.oldestReplay
  else s.get index sub

/-- The bytes of an entry as a read gives them; sub-index 0x00 of a record holds its highest sub-index (R11). -/
def State.readBytes (s : State) (index sub : Nat) : List Byte := match odObj index with
  | none => []
  | some o => match o.row sub with
    | some r => r.ty.encode (s.read index sub)
    | none => leBytes 1 o.count

end Sys2Proof.Machine
end

