-- ==== Sys2Proof/Machine/Watch.lean ====
section
/-! DEFINITION. Entry into watching: the checks of the shafts, channels, the resampler and the cameras (R61, R100 to R104, R111,
R120), what entry switches on (R528), and a refusal under autostart. -/

namespace Sys2Proof.Machine

/-- A breach that refuses watching: the fault's code, unit and detail, and the entry that OD 0x2401 names. -/
structure WatchFlaw where
  code : Nat
  unit : Nat
  detail : Nat
  index : Nat
  sub : Nat
  value : Nat := 0
deriving DecidableEq, Repr, Inhabited

/-! ### Shafts (R61) -/

/-- The case of R61 with number `n`, in the order of its list, on shaft `i`: the sub-index it names. -/
def State.shaftCase (s : State) (i n : Nat) : Option Nat :=
  let kind := s.kind i
  let counts := s.cfg i 2
  let wheel : Bool := kind = 2 || kind = 3
  let when_ (b : Bool) (sub : Nat) : Option Nat := if b then some sub else none
  if n = 0 then when_ (i = 0 && (kind = 0 || kind = 4)) 1
  else if kind = 0 then none
  else match n with
    | 1 => when_ (kind = 4 && s.cfg i 6 = 0) 6
    | 2 => when_ ((wheel && (decide (counts < 4) || decide (1024 < counts))) || (kind = 1 && counts = 0)) 2
    | 3 => when_ ((s.cfg i 4 = 1 && kind != 1) || (s.cfg i 4 = 2 && (!wheel || s.cfg i 3 = 0))) 4
    | 4 => when_ (wheel && decide (counts < 4 * s.cfg i 3)) 3
    | 5 => when_ (kind != 4 && decide (240000000 < s.cfg i 9 * s.edgesPer i)) 9
    | _ => when_ (kind = 4 && decide (30000 * (s.maxSpeed i).2 < (s.maxSpeed i).1)) 6

/-- The first case of the list that holds on some shaft, on the lowest such shaft. -/
def State.shaftBreach (s : State) : Option WatchFlaw :=
  (List.range 7).findSome? fun n => (List.range 4).findSome? fun i =>
    (s.shaftCase i n).map fun sub => ⟨0x2005, shaftUnit i, 16384 * i, 0x2200 + i, sub, 0⟩

/-! ### Channels (R100, R103, R104, R111) -/

/-- The enabled channels in ascending order. -/
def State.channelsOn (s : State) : List Nat := (List.range 8).filter s.chanOn

/-- The sub-index of channel `c` that breaks R100 or R103, the lowest of them: against itself, and against the lowest-numbered
enabled channel of its port and of its frame group. -/
def State.channelCase (s : State) (c : Nat) : Option Nat :=
  let v (c sub : Nat) : Nat := s.nat (0x2300 + c) sub
  let first (sub : Nat) : Nat := (s.channelsOn.find? (fun o => decide (v o sub = v c sub))).getD c
  let port := first 2
  let group := first 14
  let twin := s.channelsOn.any (fun o => decide (o < c ∧ v o 2 = v c 2 ∧ v o 3 = v c 3))
  let bad (sub : Nat) : Bool := match sub with
    | 3 => decide (v c 6 ≤ v c 3) || twin
    | 4 => decide (v c 5 < v c 4)
    | 5 => v port 5 != v c 5
    | 6 => v port 6 != v c 6 || (v c 9 = 0 && v c 6 != 2)
    | 7 => v port 7 != v c 7 || decide (24576000 < v c 7 * v c 6 * v c 5)
    | 8 => v port 8 != v c 8
    | 9 => v port 9 != v c 9
    | 10 => v group 10 != v c 10 || decide (s.kind (v c 10) = 0)
    | 11 => v group 11 != v c 11
    | 12 => v group 12 != v c 12 || decide (32768 < v c 11 * v c 12)
    | 13 => v group 13 != v c 13
    | 15 => v group 15 != v c 15
    | 17 => v group 17 != v c 17
    | _ => false
  (List.range 18).find? bad

def State.channelBreach (s : State) : Option WatchFlaw := s.channelsOn.findSome? fun c =>
  (s.channelCase c).map fun sub => ⟨0x3005, channelUnit c, 4096 * c, 0x2300 + c, sub, c⟩

/-- The load of the resampler at the maximum speeds as a quotient: samples per minute, and its denominator (R111). -/
def State.resamplerLoad (s : State) : Nat × Nat :=
  s.channelsOn.foldl (fun (a : Nat × Nat) c =>
    let (n, d) := s.maxSpeed (s.nat (0x2300 + c) 10)
    (a.1 * d + s.nat (0x2300 + c) 11 * n * a.2, a.2 * d)) (0, 1)

def State.loadBreach (s : State) : Option WatchFlaw :=
  let (n, d) := s.resamplerLoad
  if 720000000 * d < n then some ⟨0x3010, 0, 0xF000, 0x2001, 0, 0⟩ else none

/-! ### Cameras (R120) -/

/-- The sub-index of camera `k` that breaks R120. The spacing in µs times `20 · lane rate · pd · vmax` is compared. -/
def State.cameraCase (s : State) (k : Nat) : Option Nat :=
  let v (sub : Nat) : Nat := s.nat (camIndex k) sub
  let (vn, vd) := s.maxSpeed (v 2)
  let b := v 11 * v 12 * pixelBits (v 10)
  let short := decide (v 3 * 60000000 * vd * 20 * v 13 < (11 * b + (v 8 + 100) * 20 * v 13) * v 4 * vn)
  if s.kind (v 2) = 0 then some 2
  else if short then some 3
  else if v 11 < v 14 + v 16 then some 16
  else if v 12 < v 15 + v 17 then some 17
  else none

def State.cameraBreach (s : State) : Option WatchFlaw :=
  ((List.range 2).filter (fun k => s.flag (camIndex k) 1)).findSome? fun k =>
    (s.cameraCase k).map fun sub => ⟨0x3105, camUnit k, 4096 * (8 + k), camIndex k, sub, 0⟩

/-- The first breach that refuses watching: shafts, channels, resampler, cameras. -/
def State.watchBreach (s : State) : Option WatchFlaw :=
  s.shaftBreach <|> s.channelBreach <|> s.loadBreach <|> s.cameraBreach

/-! ### Entry -/

/-- A camera as entry into watching leaves it (R528): an enabled one is supplied and enabled, and is held in reset. On a shaft at
standstill its trigger substitutes from T after that (R121, Table 2.5). -/
def State.cameraOn (s : State) (k : Nat) : State :=
  if s.flag (camIndex k) 1 then
    let i := camIndex k
    let due := if (s.shaft (s.nat i 2)).standstill ∧ s.nat i 6 = 1 then some (s.micros + s.nat i 7) else none
    (s.supply (13 + k) true).modCam k (fun c => { c with
      enabled := true, resetN := false, failed := false, cci := [], ev := { c.ev with substDue := due } })
  else s

/-- Entry into watching from ready: the cameras are switched on, the ports await their syncs, and each chip takes the tier its jobs
need (R29). -/
def State.startWatch (s : State) : State :=
  let s := (s.enter .watching).cameraOn 0 |>.cameraOn 1
  let s : State := { s with ports := s.ports.map (fun p => { p with awaited := s.timebase, sync := none }) }
  s.retier

/-- The refusal of watching for a breach. -/
def State.watchDeny (s : State) (b : WatchFlaw) : Deny :=
  Deny.raising { notNow b.index b.sub with value := b.value } s b.code b.unit noTenant b.detail

/-- Watching under autostart: entered, or refused with the same fault while the tray stays in ready (R61). -/
def State.autoWatch (s : State) : State := match s.watchBreach with
  | none => s.startWatch
  | some b =>
    let d := s.watchDeny b
    let s := match d.record with
      | some r => s.post r
      | none => s
    s.refuseLate d

end Sys2Proof.Machine
end

