-- ==== Sys2Proof/Machine/NetState.lean ====
section
/-! DEFINITION. The states of the two field networks: EtherCAT requests (Table 1.11, R443, R453), NMT commands (R52, R450), the
lowerings of R54, and what is lost on a network (R445, R448, R449). -/

namespace Sys2Proof.Machine

def State.modEcat (s : State) (f : Ecat → Ecat) : State := { s with ecat := f s.ecat }
def State.modCan (s : State) (f : Can → Can) : State := { s with can := f s.can }

/-! ### Mappings -/

/-- The bytes of a mapping. -/
def State.mapSize (s : State) (index : Nat) : Nat := ((s.mapEntries index).map (fun e => e % 256 / 8)).sum

/-- The mapping objects that an assignment object names. -/
def State.assigned (s : State) (index : Nat) : List Nat :=
  ((List.range (s.nat index 0)).map (fun i => s.nat index (i + 1))).filter (fun m => decide (m ≠ 0))

/-- The bytes that the assigned mappings take together. -/
def State.assignedSize (s : State) (index : Nat) : Nat := ((s.assigned index).map s.mapSize).sum

/-! ### EtherCAT -/

/-- The transfers of a network end, and the downloads into slots with them. -/
def State.dropTransfers (s : State) (n : Net) : State :=
  let b := s.box n
  let slots := b.foe.toList ++ (b.xfer.toList.filter (fun x => !x.upload && decide (0x4000 ≤ x.index ∧ x.index < 0x4100))).map
    (fun x => x.index - 0x4000)
  let s := slots.foldl (fun s k => s.modSlot k (fun l => { l with download := none })) s
  s.modBox n (fun b => { b with xfer := none, abandoned := false, foe := none, foeData := [], foeFirmware := false })

/-- Ready, watching, learning and safe-hold: the tray states in which process data is carried. -/
def State.carriesPdo (s : State) : Bool := s.tray = .ready || s.tray = .watching || s.tray = .learning || s.tray = .safeHold

/-- The tray states of Table 1.11. -/
def State.alAllowed (s : State) : AlState → Bool
  | .init => true
  | .preop => s.alive
  | .safeop | .op => s.carriesPdo
  | .boot => s.tray = .service

/-- The requests that a state admits: those of ETG.1000, and BOOT from PREOP, as R51 names tray states only and a session does not
outlive INIT (log entry 71). -/
def AlState.reaches : AlState → AlState → Bool
  | _, .init => true
  | .boot, t => t = .boot
  | .init, t => t = .preop || t = .boot
  | .preop, t => t = .preop || t = .safeop || t = .boot
  | .safeop, t | .op, t => t != .boot

/-- The SYNC0 cycle lies between 250 µs and 100 ms, in whole µs (R443). -/
def State.sync0Ok (s : State) : Bool :=
  let c := Config.sync0Cycle s.timebase
  decide (250000 ≤ c ∧ c ≤ 100000000 ∧ c % 1000 = 0)

/-- Why SAFEOP is refused on its way up: the sync modes and in DC mode the SYNC0 cycle, then the assigned outputs and inputs (R443,
R453). -/
def State.safeopFlaw (s : State) : Option Nat :=
  if s.nat 0x1C32 1 ≠ s.nat 0x1C33 1 ∨ (s.nat 0x1C32 1 = 2 ∧ s.sync0Ok = false) then some 0x0030
  else if 256 < s.assignedSize 0x1C12 then some 0x001D
  else if 1024 < s.assignedSize 0x1C13 then some 0x001E
  else none

/-- The slave controller enters a state. -/
def State.setAl (s : State) (a : AlState) : State :=
  let moved := a = .init || a = .boot || s.ecat.al = .boot
  let s := if moved then s.dropTransfers .ecat else s
  let s := if a = .init then s.endNetSession .ecat else s
  let loss := s.ecat.lossOpen && a != .op && a != .init
  let s := s.modEcat (fun e => { e with al := a, status := 0, error := false, lossOpen := loss, linkUp := true })
  if a = .op then s.takeMaster else s

/-- The slave controller refuses a request, or falls: the error indication with its status code. -/
def State.alError (s : State) (a : AlState) (code : Nat) : State := s.modEcat (fun e => { e with al := a, status := code, error := true })

/-- A request of the EtherCAT master. -/
def State.alRequest (s : State) (a : AlState) : State :=
  if !s.alive then s
  else if !s.alAllowed a || !s.ecat.al.reaches a then s.alError s.ecat.al 0x0011
  else if a = .safeop ∧ s.ecat.al = .preop then match s.safeopFlaw with
    | some code => s.alError .preop code
    | none => s.setAl a
  else s.setAl a

/-- The meaning of ESC_REQUEST_INIT. -/
def execEscRequestInit (s : State) : Host.Outcome State Fault Refusal := .next (s.alRequest .init)
/-- The meaning of ESC_REQUEST_PREOP. -/
def execEscRequestPreop (s : State) : Host.Outcome State Fault Refusal := .next (s.alRequest .preop)
/-- The meaning of ESC_REQUEST_SAFEOP. -/
def execEscRequestSafeop (s : State) : Host.Outcome State Fault Refusal := .next (s.alRequest .safeop)
/-- The meaning of ESC_REQUEST_OP. -/
def execEscRequestOp (s : State) : Host.Outcome State Fault Refusal := .next (s.alRequest .op)
/-- The meaning of ESC_REQUEST_BOOT. -/
def execEscRequestBoot (s : State) : Host.Outcome State Fault Refusal := .next (s.alRequest .boot)

/-- A fall from OP to SAFEOP for a loss of R445. -/
def State.fallFromOp (s : State) (status code : Nat) : State :=
  ((s.alError .safeop status).modEcat (fun e => { e with lossOpen := true })).raise code (netUnit .ecat) noTenant 0

/-- The meaning of SM2_WATCHDOG_EXPIRY. -/
def execSm2WatchdogExpiry (s : State) : Host.Outcome State Fault Refusal :=
  .next (if s.ecat.al = .op then s.fallFromOp 0x001B 0x8303 else s)

/-- The meaning of SYNC0_LOSS: in DC mode. -/
def execSync0Loss (s : State) : Host.Outcome State Fault Refusal :=
  .next (if s.ecat.al = .op ∧ s.nat 0x1C32 1 = 2 then s.fallFromOp 0x002C 0x8305 else s)

/-- The meaning of ETHERCAT_LINK_LOSS: no AL state changes by it, and each loss ends the session then open (R301). -/
def execEthercatLinkLoss (s : State) : Host.Outcome State Fault Refusal :=
  .next (if s.alive then
    ((s.modEcat (fun e => { e with linkUp := false })).endNetSession .ecat).raise 0x8304 (netUnit .ecat) noTenant 0 else s)

/-! ### CANopen FD -/

/-- The CAN FD node starts anew: boot-up message, then pre-operational. `config` takes OD 0x2020 into force (R447). -/
def State.startCan (s : State) (config : Bool) : State :=
  let c := s.can
  let c := if config then { c with node := s.nat 0x2020 1, arbRate := s.nat 0x2020 2, dataRate := s.nat 0x2020 3 } else c
  let fresh : Can := {
    nmt := .preop, node := c.node, arbRate := c.arbRate, dataRate := c.dataRate, bootUps := c.bootUps + 1,
    heartbeats := c.heartbeats }
  { s with can := fresh }

/-- NMT reset node and NMT reset communication end the CAN FD session (R301). -/
def State.resetCan (s : State) (config : Bool) : State :=
  if s.alive then ((s.dropTransfers .can).endNetSession .can).startCan config else s

/-- The meaning of NMT_RESET_NODE. -/
def execNmtResetNode (s : State) : Host.Outcome State Fault Refusal := .next (s.resetCan false)
/-- The meaning of NMT_RESET_COMMUNICATION. -/
def execNmtResetCommunication (s : State) : Host.Outcome State Fault Refusal := .next (s.resetCan true)

/-- The meaning of NMT_START_REMOTE (R52): refused in self-test and service with an emergency that carries the tray state. -/
def execNmtStartRemote (s : State) : Host.Outcome State Fault Refusal :=
  .next (if !s.alive then s
    else if s.carriesPdo then
      let s := s.modCan (fun c => { c with nmt := .operational })
      if s.controlling = .can then s.takeMaster else s
    else s.emergency 0xFF10 s.tray.code 0 0)

/-- The meaning of NMT_STOP. -/
def execNmtStop (s : State) : Host.Outcome State Fault Refusal :=
  .next (if s.alive then s.modCan (fun c => { c with nmt := .stopped }) else s)

/-- The meaning of NMT_ENTER_PREOP. -/
def execNmtEnterPreop (s : State) : Host.Outcome State Fault Refusal :=
  .next (if s.alive then s.modCan (fun c => { c with nmt := .preop }) else s)

/-- The heartbeat is due: one has not been sent since the node started, or OD 0x1017 ms have passed since the last; 0 ms is off
(R448). -/
def State.heartbeatDue (s : State) : Bool :=
  s.alive && !s.can.busOff && decide (s.nat 0x1017 0 ≠ 0) && (match s.can.beatAt with
    | some t => decide (t + 1000 * s.nat 0x1017 0 ≤ s.micros)
    | none => true)

/-- The meaning of CAN_HEARTBEAT_PRODUCE. -/
def execCanHeartbeatProduce (s : State) : Host.Outcome State Fault Refusal :=
  .next (if s.heartbeatDue then s.modCan (fun c => { c with heartbeats := c.heartbeats + 1, beatAt := some s.micros }) else s)

/-- The node and the time in ms of the heartbeat consumed (OD 0x1016:01). -/
def State.consumed (s : State) : Nat × Nat := (field (s.nat 0x1016 1) 23 16, field (s.nat 0x1016 1) 15 0)

/-- The meaning of HEARTBEAT_CONSUMER_RECEIVE: the consumer timer restarts. -/
def execHeartbeatConsumerReceive (node : Nat) (s : State) : Host.Outcome State Fault Refusal :=
  .next (if s.alive ∧ s.consumed.1 = node ∧ s.consumed.2 ≠ 0 then
    s.modCan (fun c => { c with hbHeard := some s.micros, hbLost := false }) else s)

/-- The meaning of HEARTBEAT_CONSUMER_TIMEOUT: once per loss; the NMT state stays. -/
def execHeartbeatConsumerTimeout (s : State) : Host.Outcome State Fault Refusal :=
  .next (match s.can.hbHeard with
    | some t => if s.consumed.2 ≠ 0 ∧ t + 1000 * s.consumed.2 ≤ s.micros then
        (s.modCan (fun c => { c with hbHeard := none, hbLost := true })).raise 0x8301 (netUnit .can) noTenant 0 else s
    | none => s)

/-- The meaning of CAN_BUS_OFF. -/
def execCanBusOff (s : State) : Host.Outcome State Fault Refusal :=
  .next (if s.alive then ((s.dropTransfers .can).endNetSession .can).modCan (fun c => { c with busOff := true }) else s)

/-- The meaning of CAN_BUS_OFF_RECOVERY (R449). -/
def execCanBusOffRecovery (s : State) : Host.Outcome State Fault Refusal :=
  .next (if s.can.busOff then
    ((s.modCan (fun c => { c with busOff := false, errorPassive := false })).bump 0x2020 4).raise 0x8302 (netUnit .can) noTenant 0
  else s)

/-- The meaning of CAN_ERROR_STATE_CHANGE (R470). -/
def execCanErrorStateChange (passive : Bool) (s : State) : Host.Outcome State Fault Refusal :=
  .next (if s.alive then s.modCan (fun c => { c with errorPassive := passive }) else s)

/-! ### Lowerings (R54) -/

/-- EtherCAT lowered by the tray, with AL status code 0x8001. -/
def State.lowerEcat (s : State) (a : AlState) : State := (s.setAl a).alError a 0x8001

/-- Entry to service takes SAFEOP, OP and operational down. -/
def State.lowerForService (s : State) : State :=
  let s := if s.ecat.al = .safeop ∨ s.ecat.al = .op then s.lowerEcat .preop else s
  if s.can.nmt = .operational then s.modCan (fun c => { c with nmt := .preop }) else s

/-- Leaving service takes BOOT down to INIT. -/
def State.lowerFromBoot (s : State) : State := if s.ecat.al = .boot then s.lowerEcat .init else s

end Sys2Proof.Machine
end

