-- ==== Sys2Proof/Machine/Power.lean ====
section
/-! DEFINITION. Supply, rails, start-up, firmware banks, debug port, fuses, the power-fail sequence and what each kind of reset keeps
(chapter 15). -/

namespace Sys2Proof.Machine

def State.modBoot (s : State) (f : Boot → Boot) : State := { s with boot := f s.boot }
def State.modStore (s : State) (f : Store → Store) : State := { s with store := f s.store }

/-! ### What a reset keeps (R471, R472, R315, R517) -/

/-- An entry that model flash keeps: the kept rows, and the state and placement of a slot that holds a model. -/
def State.keptEntry (s : State) (index sub : Nat) : Bool :=
  (match odRow index sub with
    | some r => r.saved = .kept
    | none => false)
  || (decide (0x4000 ≤ index ∧ index < 0x4100) && (s.model (index - 0x4000)).isSome && [4, 6, 7, 8, 9, 10, 12, 13].contains sub)

/-- The kept entries, and nothing else. -/
def State.keptOd (s : State) : OdStore := s.od.filter (fun c => s.keptEntry (c.1 / 256) (c.1 % 256))

/-- An owned slot without a model is empty. -/
def State.emptySlots (s : State) : State :=
  forEach 256 s fun s n => if (s.model n).isNone && s.nat (0x4000 + n) 1 != 0xFF then s.setNum (0x4000 + n) 4 1 else s

/-- Where the partitions of a failed chip lie once its spare has taken its role, be the spare loaded or not (R501). -/
def State.movedTo (s : State) (c : Nat) : Nat := ((List.range 16).find? (fun d => (s.chip d).spareFor = some c)).getD c

/-- A model as model flash holds it, with its placement. -/
def State.flashModel (s : State) (m : Model) : Model :=
  { m with placed := m.placed.map (fun p => { p with chip := s.movedTo p.chip }) }

/-- The tray in boot with all that a reset loses at its reset value: what stays is the fuses, boot flash, model flash, the kept
entries, and what the outside holds (wires, modules, the queue). `step` is the last step of Table 15.4 that counts as ended. -/
def State.reboot (s : State) (step : Nat) : State :=
  let shaft (x : Shaft) : Shaft := { a := x.a, b := x.b, z := x.z, faultA := x.faultA, faultB := x.faultB, faultZ := x.faultZ }
  let chip (x : Chip) : Chip := { failed := x.failed }
  let slot (x : Slot) : Slot := { model := x.model.map s.flashModel, unplaced := x.unplaced }
  let tenant (x : Tenant) : Tenant := { bundleKey := x.bundleKey }
  let mail (b : Mail) : Mail := { answer := b.answer, emcy := b.emcy }
  State.emptySlots {
    pending := s.pending, draws := s.draws, od := s.keptOd, tray := .boot,
    power := { step := step, inputClosed := true, holdUp := true, rails := s.power.rails, band := s.power.band,
               lowRaised := s.power.lowRaised, highRaised := s.power.highRaised, doSupplyMissing := s.power.doSupplyMissing,
               extOn := vset (vset s.power.extOn 13 false) 14 false, ranBefore := s.running },
    boot := { s.boot with stuck := false, restored := false, held := [], debugUnlocked := false, debugChallenge := none,
                          resetCause := none, fromState := s.tray.code, selfTestAt := 0 },
    ecat := { linkUp := s.ecat.linkUp }, mail := s.mail.map mail, shafts := s.shafts.map shaft, chips := s.chips.map chip,
    slots := s.slots.map slot, tenants := s.tenants.map tenant,
    learn := { ofRecord := s.learn.ofRecord, bound := s.learn.bound },
    parish := { module := s.parish.module },
    faults := { log := s.faults.log, hist := s.faults.hist },
    store := { flash := s.store.flash, stored := s.store.stored, loadComm := s.store.loadComm, loadApp := s.store.loadApp,
               readmit := s.store.flash.map Prod.fst } }

/-- The spare map and the warnings of OD 0x2100:04 go on counting. -/
def State.keepWarnings (s t : State) : State := t.set 0x2100 4 (s.get 0x2100 4)

/-- The latest 4 096 records. -/
def lastRecords (l : List Record) : List Record := l.drop (l.length - 4096)

/-- The fault log with the records that Reeve still holds (R500). -/
def State.wholeLog (s : State) : List Record := lastRecords (s.faults.log ++ s.boot.held)

/-- The log, histories and life that a start takes from boot flash: the newer valid record, else the older, else none (R515). -/
def Boot.loaded (b : Boot) : PfRecord :=
  let fresh : PfRecord := ⟨0, 0, 0, true, [], [], 0, 0⟩
  match b.pf with
  | some r => if r.valid then r else (match b.pfOlder with
      | some o => if o.valid then o else fresh
      | none => fresh)
  | none => fresh

/-- The record of boot flash as the tray writes it now (R514). -/
def State.pfRecord (s : State) (code : Nat) (valid : Bool) : PfRecord :=
  let old := s.boot.loaded
  if s.boot.pfOwed then { old with code := code, state := s.power.failState, stepNumber := s.power.step, valid := valid }
  else ⟨code, s.power.failState, s.power.step, valid, s.wholeLog, s.faults.hist, s.running, s.nat 0x2100 4⟩

/-- A record written into the older of the two areas. -/
def Boot.write (b : Boot) (r : PfRecord) : Boot :=
  { b with pf := some r, pfOlder := match b.pf with
    | some o => if o.valid then some o else b.pfOlder
    | none => b.pfOlder }

/-- A learning step in progress is abandoned, with ABORT to the leader (Table 15.7). -/
def State.abandonStep (s : State) : State :=
  if s.learn.phase = 0 then s
  else (if s.parish.leader = s.trayId ∨ s.inParish = false then s
    else s.sendTo mAbort s.parish.leader s.learn.step (leBytes 2 0x1003)).endStep

/-- A restart or an activation: the log is saved first, and the start begins at step 2 (Table 15.8). -/
def State.restartNow (s : State) : State :=
  let s := (s.abandonStep).enter .boot
  let t := { s with faults := { s.faults with log := s.wholeLog } }
  let t := t.modBoot (fun b => b.write (s.pfRecord 0 true))
  (s.keepWarnings (t.reboot 1)).modBoot (fun b => { b with fromState := 1 })

/-! ### Firmware images (R504, R508 to R512) -/

/-- The field of a firmware image that fails R504, in the order of its list: byte offset and value. -/
def State.imageFlaw (s : State) (b : List Byte) : Option (Nat × Nat) :=
  let len := leAt b 24 4
  let bad (c : Bool) (o n : Nat) : Option (Nat × Nat) := if c then some (o, leAt b o n) else none
  bad (slice b 0 4 != [0x48, 0x4F, 0x4C, 0x46]) 0 4 <|> bad (leAt b 4 4 != 0x48540016) 4 4
  <|> bad (decide (s.boot.fuses.revision < leAt b 28 4)) 28 4
  <|> bad (decide (byteAt b 20 < s.boot.fuses.security) || decide (64 < byteAt b 20)) 20 1
  <|> bad (decide (len = 0 ∨ 8388480 < len ∨ b.length ≠ 128 + len)) 24 4
  <|> bad (sha256 (slice b 128 len) != slice b 32 32) 32 4
  <|> bad (!ecdsaVerify s.boot.fuses.vendorKey (sha256 (slice b 0 64)) (slice b 64 64)) 64 4

/-- A bank holds an image that passes. -/
def State.bankOk (s : State) (n : Nat) : Bool := match vget s.boot.banks n with
  | .image b _ => (s.imageFlaw b).isNone
  | .empty => false

/-- A trial boot fails: at the second failure the other bank is active again (R511). -/
def Boot.trialFails (b : Boot) : Boot :=
  if !b.trial then b
  else if b.trialCount + 1 < 2 then { b with trialCount := b.trialCount + 1 }
  else { b with
    banks := vset b.banks b.active .empty, active := 1 - b.active, trial := false, trialCount := 0, restored := true }

/-- A downloaded image, in the inactive bank: its refusal, or none where it is marked pending (R508). -/
def State.imageDeny (s : State) (image : List Byte) : Option Deny := (s.imageFlaw image).map fun (o, _) =>
  Deny.raising { badValue 0x1F50 1 with word := o / 4, bits := 256 * 31 } s 0x8401 reeveUnit noTenant 0

/-- The inactive bank written. -/
def State.writeBank (s : State) (image : List Byte) : State :=
  let bank : Bank := if (s.imageFlaw image).isNone then .image image true else .empty
  s.modBoot fun b => { b with banks := vset b.banks (1 - b.active) bank }

/-- The meaning of FIRMWARE_DOWNLOAD_COMPLETE: the open firmware transfer of the network ends. -/
def execFirmwareDownloadComplete (n : Net) (image : List Byte) (s : State) : Host.Outcome State Fault Refusal :=
  let b := s.box n
  let byFoe := n = .ecat && b.foeFirmware
  let bySdo := (b.xfer.map (fun x => decide (x.index = 0x1F50 ∧ x.upload = false))).getD false
  .next (if byFoe || bySdo then
    let d := s.imageDeny image
    let s := (s.writeBank image).modBox n (fun b => { b with foeFirmware := false, xfer := if byFoe then b.xfer else none })
    match d with
    | none => s.answer n .ok
    | some d => if byFoe then (s.refuse n { d with abort := 0 }).answer n (.foeError 0x8000) else s.refuse n d
  else s)

/-- The bank that waits for its activation (R509). -/
def State.pendingBank (s : State) : Option Nat := (List.range 2).find? fun n => match vget s.boot.banks n with
  | .image _ p => p && decide (n ≠ s.boot.active)
  | .empty => false

/-- The activation of a pending bank (R509). -/
def State.activate (s : State) (n : Nat) : State :=
  let mark (b : Bank) : Bank := match b with
    | .image i _ => .image i false
    | .empty => .empty
  (s.modBoot fun b => { b with active := n, trial := true, trialCount := 0, banks := vset b.banks n (mark (vget b.banks n)) }).restartNow

/-- A trial boot confirmed (R510). -/
def State.confirm (s : State) : State :=
  if !s.boot.trial then s
  else
    let level := max s.boot.fuses.security s.boot.security
    let s := s.modBoot fun b => { b with trial := false, trialCount := 0, fuses := { b.fuses with security := level } }
    let other := 1 - s.boot.active
    let drop := match vget s.boot.banks other with
      | .image i _ => decide (byteAt i 20 < s.boot.security)
      | .empty => false
    let s := if drop then s.modBoot (fun b => { b with banks := vset b.banks other .empty }) else s
    s.raise 0x8411 reeveUnit noTenant 0

/-! ### Start-up (Table 15.4) -/

/-- Step 1 begins: the input switch soft-starts. -/
def State.beginStart (s : State) : State :=
  if s.tray = .off ∧ s.power.inputClosed = false then s.modPower (fun p => { p with inputClosed := true, step := 0 }) else s

/-- The meaning of SUPPLY_START. An overvoltage disconnect keeps the switch open (R493). -/
def execSupplyStart (s : State) : Host.Outcome State Fault Refusal := .next (if s.power.overvoltage then s else s.beginStart)

/-- The meaning of INPUT_SWITCH_CLOSE: the tray starts as after a power-on (R493). -/
def execInputSwitchClose (s : State) : Host.Outcome State Fault Refusal :=
  .next (if s.power.overvoltage then (s.modPower (fun p => { p with overvoltage := false })).beginStart else s)

/-- RAILS_RISE: steps 1 and 2 have ended; the tray is in boot, and the SFP+ supplies are on. -/
def State.railsRise (s : State) : State :=
  if (s.tray = .off ∧ s.power.inputClosed = true) ∨ (s.tray = .boot ∧ s.power.step = 1) then
    { s with tray := .boot }.modPower fun p => { p with
      step := 2, holdUp := true, rails := 7, extOn := vset (vset p.extOn 5 true) 6 true }
  else s

/-- The meaning of RAILS_RISE. -/
def execRailsRise (s : State) : Host.Outcome State Fault Refusal := .next s.railsRise

/-- A step of the start-up that ends after the one before it has ended. -/
def State.startStep (s : State) (was : Nat) (f : State → State) : State :=
  if (s.tray = .boot ∨ s.tray = .selfTest) ∧ s.power.step = was ∧ s.boot.stuck = false ∧ s.power.failing = none then f s else s

def State.stepIs (s : State) (n : Nat) : State := s.modPower (fun p => { p with step := n })

/-- The meaning of BOOT_ROM_START: the counter starts at 0, and the active bank is chosen. -/
def execBootRomStart (s : State) : Host.Outcome State Fault Refusal :=
  .next (s.startStep 2 fun s => ({ s with timebase := 0 }.modBoot (fun b => { b with booted := b.active })).stepIs 3)

/-- FIRMWARE_IMAGE_VERIFY: the image passes, or a trial fails, or the other bank is taken, or the tray stays in boot (R504, R511,
R512). -/
def State.verifyImage (s : State) : State :=
  let run (s : State) (n : Nat) : State :=
    let level := match vget s.boot.banks n with
      | .image i _ => byteAt i 20
      | .empty => 0
    (s.modBoot (fun b => { b with booted := n, security := level })).stepIs 4
  if s.bankOk s.boot.booted then run s s.boot.booted
  else if s.boot.trial then (s.modBoot Boot.trialFails).stepIs 2
  else if s.bankOk (1 - s.boot.booted) then run s (1 - s.boot.booted)
  else s.modBoot (fun b => { b with stuck := true })

/-- The meaning of FIRMWARE_IMAGE_VERIFY. -/
def execFirmwareImageVerify (s : State) : Host.Outcome State Fault Refusal := .next (s.startStep 3 State.verifyImage)

/-- The meaning of FIRMWARE_START. -/
def execFirmwareStart (s : State) : Host.Outcome State Fault Refusal := .next (s.startStep 4 (fun s => s.stepIs 5))

/-- The stored entries are loaded, but for a set marked for reset (R472). -/
def State.loadStored (s : State) : State :=
  let gone (k : Nat) : Bool := if k < 0x200000 then s.store.loadComm else s.store.loadApp
  let stored := s.store.stored.filter (fun c => !gone c.1)
  let s := s.modStore (fun x => { x with stored := stored, loadComm := false, loadApp := false })
  stored.foldl (fun s c => s.set (c.1 / 256) (c.1 % 256) c.2) s

/-- The record of the shutdown before this start (R515), and of a lockstep or watchdog reset (R409), before any other. -/
def State.shutdownRecords (s : State) : State :=
  let post (s : State) (code unit detail : Nat) : State := s.post ⟨noAngle, code, unit, noTenant, 0, detail⟩
  let s := match s.boot.pfOwed, s.boot.pf with
    | true, some r =>
      let l := s.boot.loaded
      let s := { s with faults := { s.faults with log := l.log, hist := l.hist } }
      let s := (s.modPower (fun p => { p with ranBefore := l.ran })).setNum 0x2100 4 l.warnings
      let s := post s r.code inputUnit (r.state + 256 * ofBool r.valid)
      if r.valid then s else post s 0x1005 inputUnit 0
    | _, _ => s
  let s := s.modBoot (fun b => { b with pfOwed := false })
  let s := match s.boot.resetCause with
    | some (code, state) => post s code reeveUnit state
    | none => s
  let s := if s.boot.fromState = 1 then s else post s 0x4000 0 (256 * s.boot.fromState + 1)
  s.modBoot (fun b => { b with resetCause := none, fromState := 1 })

/-- VALUES_LOADED: step 6. -/
def State.loadValues (s : State) : State :=
  let s := (s.loadStored).stepIs 6
  let s := if s.inParish then s.modParish Parish.fresh else s
  s.shutdownRecords

/-- The meaning of VALUES_LOADED. -/
def execValuesLoaded (s : State) : Host.Outcome State Fault Refusal := .next (s.startStep 5 State.loadValues)

/-- The detail of event 0x8410 (R505). -/
def State.bootDetail (s : State) : Nat :=
  s.boot.booted + 2 * ofBool s.boot.fuses.debugLock + 4 * ofBool s.boot.trial + 256 * s.boot.security

/-- SELF_TEST_START: the networks start, the encoder and sensor supplies are on, the shafts are taken into use, and the boot event
is written. -/
def State.beginSelfTest (s : State) : State :=
  let s := ((s.stepIs 7).enter .selfTest).startCan true
  let s := s.modPower fun p => { p with extOn := [7, 8, 9, 10, 11, 12].foldl (fun v c => vset v c true) p.extOn }
  let s := s.modBoot (fun b => { b with selfTestAt := s.micros })
  let s := s.raise 0x8410 reeveUnit noTenant s.bootDetail
  let s := if s.boot.restored then s.raise 0x8402 reeveUnit noTenant 0 else s
  let s := s.modBoot (fun b => { b with restored := false })
  ((List.range 4).foldl (fun s i => s.reconfigure i 0 (fun _ => false)) s).review

/-- The meaning of SELF_TEST_START. -/
def execSelfTestStart (s : State) : Host.Outcome State Fault Refusal := .next (s.startStep 6 State.beginSelfTest)

/-- The meaning of STOREHOUSE_INIT_COMPLETE: step 8. -/
def execStorehouseInitComplete (s : State) : Host.Outcome State Fault Refusal :=
  .next (if s.tray = .selfTest then s.modStore (fun x => { x with zeroed := true }) else s)

/-- The meaning of CHIP_RAILS_UP: step 9, every chip not marked failed. -/
def execChipRailsUp (s : State) : Host.Outcome State Fault Refusal :=
  .next (s.startStep 7 fun s => { s with
    chips := s.chips.map (fun (x : Chip) => if x.failed then x else { x with railsOn := true, tier := 1, target := 1 }) }.stepIs 9)

/-- The meaning of LINKS_TRAINED: step 10; the whole-chip tests of step 11 begin, at the Watch clock. -/
def execLinksTrained (s : State) : Host.Outcome State Fault Refusal :=
  .next (s.startStep 9 fun s => { s with
    chips := s.chips.map (fun (x : Chip) => if x.failed then x else { x with tier := 2, target := 2, whole := some [] }) }.stepIs 10)

/-- Step 12: every Granary and Loft is cleared once the tests of step 11 have ended, that of a chip whose rails cycle (R498)
among them, and every chip takes its tier (R502). -/
def State.clearChips (s : State) : State :=
  if s.chips.toList.any (fun x => x.whole.isSome || x.railCycle) then s
  else
    let s := { s with chips := s.chips.map (fun (x : Chip) => { x with granary := [], loft := [], regions := [] }) }
    (s.stepIs 12).retier

/-- The meaning of CHIP_CLEAR_COMPLETE: at start-up, or of the released regions of a slot on a chip (R296). -/
def execChipClearComplete (region : Option (Nat × Nat)) (s : State) : Host.Outcome State Fault Refusal :=
  .next (match region with
    | none => s.startStep 10 State.clearChips
    | some (c, slot) => s.modChip c fun x =>
        (x.regions.filter (fun r => r.released && decide (r.slot = slot))).foldl Chip.clearRegion x)

/-- The partitions of the chips that failed at step 11 go to spares, or their models are left without a placement (R501). -/
def State.replaceFailed (s : State) : State := forEach 16 s fun s c =>
  let held := (s.placedSlots.filter (fun p => p.2.chips.contains c)).map Prod.fst
  if !s.failed c || held.isEmpty then s
  else match s.firstSpare with
    | some d =>
      let s := s.dropSpare d
      let move (p : Placed) : Placed := if p.chip = c then { p with chip := d } else p
      let s := held.foldl (fun s n =>
        (s.modSlot n (fun x => { x with model := x.model.map (fun m => { m with placed := m.placed.map move }) })).showSlot n) s
      s.post ⟨s.stamp, 0x5F01, chipUnit c, noTenant, 2, d⟩
    | none =>
      held.foldl State.unplace (s.post ⟨s.stamp, 0x5F02, chipUnit c, noTenant, 2, 0⟩)

/-- FAULT_LOG_PLACED: step 13; the records held are appended in order, and step 14 begins. -/
def State.placeLog (s : State) : State :=
  if s.store.zeroed then
    let held := s.boot.held
    let s := ((s.modStore (fun x => { x with logPlaced := true })).modBoot (fun b => { b with held := [] })).stepIs 13
    ((held.foldl State.pushLog s).replaceFailed).retier
  else s

/-- The meaning of FAULT_LOG_PLACED. -/
def execFaultLogPlaced (s : State) : Host.Outcome State Fault Refusal := .next (s.startStep 12 State.placeLog)

/-- SELF_TEST_END: a trial boot is confirmed; the tray enters ready, and watching under autostart, or safe-hold (Table 1.10,
R43, R431). -/
def State.endSelfTest (s : State) : State :=
  if s.store.readmit ≠ [] then s
  else
    let s := (s.stepIs 15).confirm
    let lost := (List.range 256).filter (fun n => (s.slot n).unplaced)
    let s := lost.foldl (fun s n => s.raise 0x4B20 0 noTenant n) s
    match s.causes with
    | [] =>
      let s := (s.enter .ready).retier.review
      if s.flag 0x2000 2 then s.autoWatch.review else s
    | c :: _ => ((({ s with holdCause := c }.enter .safeHold).holdNotice c).retier).review

/-- The meaning of SELF_TEST_END. -/
def execSelfTestEnd (s : State) : Host.Outcome State Fault Refusal := .next (s.startStep 13 State.endSelfTest)

/-- The limit of a trial boot in µs from step 7 (R511): 60 s, and for each bundle of model flash its bound of R313. -/
def State.trialLimit (s : State) : Nat :=
  s.store.flash.foldl (fun n p => n + ceilDiv p.2.length 100 + 50000
    + ((s.model p.1).map (fun m => ceilDiv (m.placed.map Placed.footprint).sum 1970)).getD 0) 60000000

/-- A reset that begins at step 3, with the Storehouse in self-refresh: log and histories stay, and what Reeve held is lost. -/
def State.resetAtRom (s : State) (cause : Option (Nat × Nat)) : State :=
  let s := s.modBoot (fun b => if s.alive then b.trialFails else b)
  let restored := s.boot.restored
  (s.keepWarnings (s.reboot 2)).modBoot (fun b => { b with resetCause := cause, restored := restored })

/-- The meaning of TRIAL_BOOT_TIMEOUT. -/
def execTrialBootTimeout (s : State) : Host.Outcome State Fault Refusal :=
  .next (if s.boot.trial && s.tray = .selfTest && decide (s.boot.selfTestAt + s.trialLimit ≤ s.micros) then s.resetAtRom none else s)

/-- The meaning of REEVE_WATCHDOG. -/
def execReeveWatchdog (s : State) : Host.Outcome State Fault Refusal :=
  .next (if s.alive then s.resetAtRom (some (0x5F11, s.tray.code)) else s)

/-- The meaning of LOCKSTEP_MISMATCH. -/
def execLockstepMismatch (s : State) : Host.Outcome State Fault Refusal :=
  .next (if s.alive then s.resetAtRom (some (0x5F10, s.tray.code)) else s)

/-! ### Supply and rails (R492, R493, R498) -/

/-- The meaning of SUPPLY_OUT_OF_RANGE. -/
def execSupplyOutOfRange (high : Bool) (s : State) : Host.Outcome State Fault Refusal :=
  .next (if s.tray = .off then s
    else
      let was := if high then s.power.highRaised else s.power.lowRaised
      let s := s.modPower (fun p => { p with
        band := some high, highRaised := p.highRaised || high, lowRaised := p.lowRaised || !high })
      if was then s else s.raise (if high then 0x1002 else 0x1001) inputUnit noTenant 0)

/-- The meaning of SUPPLY_EPISODE_END. -/
def execSupplyEpisodeEnd (s : State) : Host.Outcome State Fault Refusal :=
  .next (s.modPower (fun p => { p with band := none, lowRaised := false, highRaised := false }))

/-- The power-fail sequence begins, and does what Table 15.7 lists up to 1 ms. -/
def State.powerFail (s : State) (code : Nat) : State :=
  if s.power.failing.isSome then s
  else if s.tray = .off then s.modPower (fun p => { p with inputClosed := false, step := 0 })
  else
    let s := (s.modPower (fun p => { p with failing := some code, failState := s.tray.code })).bump 0x2100 4
    let s := s.emergency 0x3000 code inputUnit noTenant
    let s := ((s.squashIf (fun _ => true)).clearSets).abandonStep
    let chip (x : Chip) : Chip := if x.failed then x else { x.dead with failed := false }
    let cam (x : Camera) : Camera := { x with power := false, enabled := false, resetN := false, pulse := false, capture := none }
    let s := { s with
      issues := [], pend := Vector.replicate 16 {}, chips := s.chips.map chip, cams := s.cams.map cam }
    (s.modPower (fun p => { p with extOn := Vector.replicate 18 false })).modParish (fun p => { p with
      lock := Vector.replicate 2 false })

/-- The meaning of POWER_FAIL_WARNING. -/
def execPowerFailWarning (s : State) : Host.Outcome State Fault Refusal := .next (s.powerFail 0x1003)

/-- The meaning of OVERVOLTAGE_DISCONNECT: the switch opens and stays open (R493). -/
def execOvervoltageDisconnect (s : State) : Host.Outcome State Fault Refusal :=
  .next ((s.powerFail 0x1004).modPower (fun p => { p with overvoltage := true, inputClosed := false }))

/-- POWER_FAIL_RECORD_WRITTEN: the rails fall, and the tray is off. A failed bank trial does not count (R511). -/
def State.powerOff (s : State) (valid : Bool) : State := match s.power.failing with
  | none => s
  | some code =>
    let t := s.reboot 0
    { t with
      tray := .off, power := { overvoltage := s.power.overvoltage, doSupplyMissing := s.power.doSupplyMissing }, faults := {},
      boot := { t.boot.write (s.pfRecord code valid) with pfOwed := true, fromState := 0, debugFailures := 0 } }

/-- The meaning of POWER_FAIL_RECORD_WRITTEN. -/
def execPowerFailRecordWritten (valid : Bool) (s : State) : Host.Outcome State Fault Refusal := .next (s.powerOff valid)

/-- RAIL_FAULT (R498): a tray rail starts the power-fail sequence; a chip rail cycles the chip's rails, and a second fault within
24 hours of running retires the chip. -/
def State.railFault (s : State) (rail chip : Nat) : State :=
  if s.tray = .off then s
  else if rail < 8 then (s.raise 0x1010 (railUnit rail 0) noTenant rail).powerFail 0x1003
  else
    let x := s.chip chip
    if !x.railsOn || x.failed || decide (x.tier = 0) then s
    else
      let s := s.raise 0x1010 (railUnit rail chip) noTenant (rail + 16 * chip)
      let again := (x.railFaultAt.map (fun t => decide (s.running < t + dayMicros))).getD false
      let s := s.modChip chip (fun x => { x with railFaultAt := some s.running })
      if again then s.retireChip chip 2
      else (s.modChip chip (fun x => { x.dead with
        failed := false, railCycle := true, spareFor := x.spareFor, pcieTest := x.pcieTest,
        tests := x.test.toList ++ x.tests ++ x.whole.getD [] })).endIssuesOn chip 0x1010 |>.loseCache chip

/-- The meaning of RAIL_FAULT. -/
def execRailFault (rail chip : Nat) (s : State) : Host.Outcome State Fault Refusal := .next (s.railFault rail chip)

/-- The meaning of CHIP_RAIL_CYCLE_COMPLETE: the whole-chip test starts, at the Watch clock, in place of the tests that the cycle found
pending; the images are reloaded. -/
def execChipRailCycleComplete (c : Nat) (s : State) : Host.Outcome State Fault Refusal :=
  .next (if (s.chip c).railCycle then s.modChip c (fun x => { x with
    railCycle := false, railsOn := true, tier := 2, target := 2, reloading := true, whole := some x.tests, tests := [] }) else s)

/-! ### Debug port and fuses (R503, R506, R507) -/

/-- What the debug port can offer (R506). -/
inductive PortInstr where
  | bypass | idcode | samplePreload | extest | provision
deriving DecidableEq, Repr

/-- What the debug port offers (R506, R507): boundary scan on an open port or after an unlock, the provisioning instructions on an
open port only. -/
def State.offers (s : State) : PortInstr → Bool
  | .bypass | .idcode => s.tray ≠ .off
  | .samplePreload | .extest => s.tray ≠ .off && (!s.boot.fuses.debugLock || s.boot.debugUnlocked)
  | .provision => s.tray ≠ .off && !s.boot.fuses.debugLock

/-- The meaning of DEBUG_CHALLENGE_READ: on a locked port, until 8 failures. -/
def execDebugChallengeRead (s : State) : Host.Outcome State Fault Refusal :=
  .next (if s.tray ≠ .off ∧ s.boot.fuses.debugLock = true ∧ s.boot.debugFailures < 8 then
    let (d, s) := s.draw
    s.modBoot (fun b => { b with debugChallenge := some ((List.range 16).map (Config.challengeByte d)) }) else s)

/-- A signature of the owner key over the challenge (R507). -/
def State.debugOk (s : State) (sig : List Byte) : Bool := match s.boot.debugChallenge with
  | none => false
  | some c => !s.boot.fuses.ownerKey.isEmpty
      && ecdsaVerify s.boot.fuses.ownerKey (sha256 ([0x48, 0x4F, 0x4C, 0x44] ++ leBytes 4 s.boot.fuses.serial ++ c)) sig

/-- The meaning of DEBUG_UNLOCK. -/
def execDebugUnlock (sig : List Byte) (s : State) : Host.Outcome State Fault Refusal :=
  .next (if s.tray = .off ∨ s.boot.fuses.debugLock = false then s
    else
      let good := s.debugOk sig
      let s := s.modBoot (fun b => { b with
        debugChallenge := none, debugUnlocked := b.debugUnlocked || good, debugFailures := b.debugFailures + ofBool (!good) })
      s.raise (if good then 0x8404 else 0x8403) reeveUnit noTenant 0)

/-- Bits blown into a fuse item that no blow clears; an item of zeros is empty. -/
def blow (size : Nat) (old data : List Byte) : List Byte :=
  let l := List.zipWith (fun a b => a ||| b) (padTo size old) (padTo size data)
  if allZero l then [] else l

/-- The number of blown bits. -/
def bitCount (b : List Byte) : Nat := (b.map (fun x => (bitsSet 8 x.toNat).length)).sum

/-- The meaning of FUSE_PROVISION: only while the port offers the provisioning instructions. -/
def execFuseProvision (item : Nat) (data : List Byte) (s : State) : Host.Outcome State Fault Refusal :=
  .next (if !s.offers .provision then s
    else s.modBoot fun b =>
      let f := b.fuses
      { b with fuses :=
          if item = 5 then { f with ownerKey := blow 64 f.ownerKey data }
          else if item = 6 then { f with wrapKey := blow 32 f.wrapKey data }
          else if item = 7 then { f with debugLock := bit (byteAt data 0) 0 }
          else { f with security := max f.security (min 64 (bitCount data)) } })

end Sys2Proof.Machine
end

