-- ==== Sys2Proof/Machine/TrayCommand.lean ====
section
/-! DEFINITION. The tray commands of OD 0x2001 (Table 1.9, R39 to R47, R53, R54), and the spare map (R20, R21, R432). -/

namespace Sys2Proof.Machine

/-! ### Effects -/

/-- Every model without a placement is tried again (R432). -/
def State.tryPlace (s : State) : State :=
  (((List.range 256).filter (fun n => (s.slot n).unplaced)).foldl (fun s n => (s.replace n).getD s) s).retier

/-- A tray of a parish gives up its seat as it leaves learning on command (R397). -/
def State.giveSeat (s : State) : State := if s.inParish then s.vacate else s

/-- Command 0x02 takes effect: ready. -/
def State.stopNow (s : State) : State :=
  let s := if s.tray = .learning then (s.leaveLearning).giveSeat else s
  ((({ s.leaveWatching with command := 0 }).enter .ready).retier).review

/-- Command 0x04 takes effect: watching. -/
def State.stopLearningNow (s : State) : State :=
  ((({ (s.leaveLearning).giveSeat with command := 0 }).enter .watching).retier).review

/-- A learning command takes effect now, or waits for the end of the step in progress (R45). -/
def State.orPending (s : State) (cmd : Nat) (now : State → State) : State :=
  if s.tray = .learning ∧ s.learn.phase ≠ 0 then { s with command := cmd } else now s

/-- Command 0x03: what the plan sets up, and learning. -/
def State.startLearn (s : State) : State := match s.learnPlan with
  | .ok t => (((t.enter .learning).beginLearning s.learn.q).retier).review
  | .error _ => s

/-- Command 0x05. -/
def State.serviceNow (s : State) : State := (((s.enter .service).lowerForService).retier).review

/-- Command 0x06: the activation of a pending bank, safe-hold while a cause is present, or ready. -/
def State.serviceEnd (s : State) : State := match s.pendingBank with
  | some n => s.activate n
  | none =>
    let s := match s.causes with
      | [] => s.enter .ready
      | c :: _ => ({ s with holdCause := c }.enter .safeHold).holdNotice c
    ((s.lowerFromBoot).retier).review

/-- Command 0x07: ready, with the error-reset emergency (R459). -/
def State.holdEnd (s : State) : State := ((((s.tryPlace).enter .ready).emergency 0 0 0 noTenant).retier).review

/-! ### Refusals -/

/-- The tray states in which a command is valid (Table 1.9). -/
def State.commandValid (s : State) (cmd : Nat) : Bool := match cmd with
  | 1 | 5 => s.tray = .ready
  | 2 => s.tray = .watching || s.tray = .learning
  | 3 => s.tray = .watching
  | 4 => s.tray = .learning
  | 6 => s.tray = .service
  | 7 => s.tray = .safeHold
  | _ => s.alive

/-- The controlling network carries process data (R53). -/
def State.controlRuns (s : State) : Bool := match s.controlling with
  | .ecat => s.ecat.al = .safeop || s.ecat.al = .op
  | .can => s.can.nmt = .operational

/-- What a command checks in a state in which it is valid. -/
def State.commandCheck (s : State) (cmd : Nat) : Option Deny := match cmd with
  | 1 => s.watchBreach.map s.watchDeny
  | 3 => match s.learnPlan with
    | .ok _ => none
    | .error (sub, code) => some ((notNow 0x5000 sub).raising s code 0 s.learnTenant 0)
  | 5 => if s.controlRuns then some (notNow 0x2001 0) else none
  | 7 => ((s.tryPlace).causes.head?).map fun c => { notNow 0x2001 0 with code := c }
  | _ => none

/-- Why a tray command is refused (R40, R44, R47, R53, R61). -/
def State.commandDeny (s : State) (cmd : Nat) : Option Deny :=
  if cmd = 0 ∨ 8 < cmd then some (badValue 0x2001 0)
  else if s.command ≠ 0 ∨ s.commandValid cmd = false then some (notNow 0x2001 0)
  else s.commandCheck cmd

/-- What a tray command does. -/
def State.commandDo (s : State) (cmd : Nat) : State := match cmd with
  | 1 => s.startWatch
  | 2 => s.orPending 2 State.stopNow
  | 3 => s.startLearn
  | 4 => s.orPending 4 State.stopLearningNow
  | 5 => s.serviceNow
  | 6 => s.serviceEnd
  | 7 => s.holdEnd
  | 8 => s.restartNow
  | _ => s

/-- A write of OD 0x2001:00. A refused command 0x07 has tried the placements all the same (R432). -/
def State.commandWrite (s : State) (n : Net) (cmd : Nat) : State :=
  let t := s.write n 0x2001 0 (leBytes 1 cmd) (fun s => s.commandDeny cmd) (fun s => s.commandDo cmd)
  if cmd = 7 ∧ s.tray = .safeHold ∧ (t.box n).answer = .abort abState ∧ t.faults.refusal.index = 0x2001 ∧ t.faults.refusal.code ≠ 0
  then t.tryPlace else t

/-- The meaning of START_WATCHING. -/
def execStartWatching (n : Net) (s : State) : Host.Outcome State Fault Refusal := .next (s.commandWrite n 1)
/-- The meaning of STOP. -/
def execStop (n : Net) (s : State) : Host.Outcome State Fault Refusal := .next (s.commandWrite n 2)
/-- The meaning of START_LEARNING. -/
def execStartLearning (n : Net) (s : State) : Host.Outcome State Fault Refusal := .next (s.commandWrite n 3)
/-- The meaning of STOP_LEARNING. -/
def execStopLearning (n : Net) (s : State) : Host.Outcome State Fault Refusal := .next (s.commandWrite n 4)
/-- The meaning of ENTER_SERVICE. -/
def execEnterService (n : Net) (s : State) : Host.Outcome State Fault Refusal := .next (s.commandWrite n 5)
/-- The meaning of LEAVE_SERVICE. -/
def execLeaveService (n : Net) (s : State) : Host.Outcome State Fault Refusal := .next (s.commandWrite n 6)
/-- The meaning of CLEAR_SAFE_HOLD. -/
def execClearSafeHold (n : Net) (s : State) : Host.Outcome State Fault Refusal := .next (s.commandWrite n 7)
/-- The meaning of RESTART. -/
def execRestart (n : Net) (s : State) : Host.Outcome State Fault Refusal := .next (s.commandWrite n 8)
/-- The meaning of TRAY_COMMAND_UNKNOWN. -/
def execTrayCommandUnknown (n : Net) (code : Nat) (s : State) : Host.Outcome State Fault Refusal := .next (s.commandWrite n code)

/-- PENDING_COMMAND_EFFECT: the step in progress has ended (R45). -/
def State.pendingEffect (s : State) : State :=
  if s.tray = .learning ∧ s.learn.phase = 0 then
    (if s.command = 2 then s.stopNow else if s.command = 4 then s.stopLearningNow else s)
  else s

/-- The meaning of PENDING_COMMAND_EFFECT. -/
def execPendingCommandEffect (s : State) : Host.Outcome State Fault Refusal := .next s.pendingEffect

/-! ### Spare map -/

/-- Three chips and more, a failed chip, or one with a resident model are no spares (R20). -/
def State.spareDeny (s : State) (value : Nat) : Option Deny :=
  let chips := bitsSet 16 value
  if 3 ≤ chips.length ∨ chips.any (fun c => s.failed c || s.hasResident c) = true then some (badValue 0x2011 1)
  else none

/-- A chip in Fallow at once, its contents lost. -/
def Chip.fallow (x : Chip) : Chip :=
  { x.lose with tier := 0, target := 0, rising := false, falling := false, dropTo := none, reloading := false }

/-- The spare map written: a designated chip enters Fallow, and in safe-hold the placements are tried again. -/
def State.setSpares (s : State) (value : Nat) : State :=
  let was := s.nat 0x2011 1
  let s := s.setNum 0x2011 1 value
  let s := ((bitsSet 16 value).filter (fun c => !bit was c)).foldl (fun s c => s.modChip c Chip.fallow) s
  if s.tray = .safeHold then s.tryPlace else s.retier

/-- The meaning of SPARE_MAP_WRITE. -/
def execSpareMapWrite (n : Net) (value : Nat) (s : State) : Host.Outcome State Fault Refusal :=
  .next (s.write n 0x2011 1 (leBytes (if value < 65536 then 2 else 4) value) (fun s => s.spareDeny value) (fun s => s.setSpares value))

end Sys2Proof.Machine
end

