-- ==== Sys2Proof/Machine/OdWrite.lean ====
section
/-! DEFINITION. Writes of the object dictionary: what each entry checks and what each entry does, single writes (R463), complete-access
writes (R466), mappings and communication objects (R452, R453), store and restore (R472), and control (R433). -/

namespace Sys2Proof.Machine

/-- The number that a write spells. -/
def entryNum (index sub : Nat) (data : List Byte) : Int := match odRow index sub with
  | some r => (match r.ty.decode data with | .num v => v | .bytes _ => 0)
  | none => 0

/-- A refusal for the state of a record, or none. -/
def stateRule (ok : Bool) (index sub : Nat) : Option Deny := if ok then none else some (notNow index sub)

/-- A refusal of a value, or none. -/
def valueRule (ok : Bool) (index sub : Nat) (_v : Int) : Option Deny :=
  if ok then none else some (badValue index sub)

/-! ### Store and restore (R472) -/

/-- The entries that a sub-index of OD 0x1010 and OD 0x1011 covers, by the key of the entry. -/
def inSet (sub k : Nat) : Bool := sub = 1 || (sub = 2) == decide (k < 0x200000)

/-- Why a write of OD 0x1010 or OD 0x1011 is refused. -/
def State.storeDeny (s : State) (index sub v : Nat) : Option Deny :=
  if v ≠ (if index = 0x1010 then 0x65766173 else 0x64616F6C) then some { abort := abStore, index, sub }
  else stateRule (s.tray = .ready || s.tray = .service) index sub

/-- The entries of a set saved as they now are; those at their default leave the saved set. -/
def State.saveSet (s : State) (sub : Nat) : State :=
  let wanted (c : Nat × OdVal) : Bool := inSet sub c.1 && (match odRow (c.1 / 256) (c.1 % 256) with
    | some r => r.saved == .store
    | none => false)
  let rest := s.store.stored.filter (fun c => !inSet sub c.1)
  s.modStore (fun x => { x with stored := (s.od.filter wanted).foldl (fun m c => insertKey c.1 c.2 m) rest })

/-- A set marked for its defaults at the next restart. -/
def State.markSet (s : State) (sub : Nat) : State :=
  s.modStore (fun x => { x with loadComm := x.loadComm || decide (sub ≠ 3), loadApp := x.loadApp || decide (sub ≠ 2) })

/-! ### Mappings, assignments, communication objects (R452 to R454) -/

/-- An abort of the mapping rules. -/
def mapFlaw (abort index sub : Nat) : Deny := { abort, index, sub }

/-- The CAN FD communication object of a mapping object is valid. -/
def State.canUses (s : State) (mapping : Nat) : Bool := !bit (s.cobId (mapping - 0x200)) 31

/-- EtherCAT assigns a mapping object. -/
def State.ecatUses (s : State) (mapping : Nat) : Bool := (s.assigned 0x1C12).contains mapping || (s.assigned 0x1C13).contains mapping

/-- Every network that uses a mapping is in PREOP or pre-operational. -/
def State.mapOpen (s : State) (mapping : Nat) : Bool :=
  (!s.ecatUses mapping || decide (s.ecat.al = .preop)) && (!s.canUses mapping || decide (s.can.nmt = .preop))

/-- An entry may be mapped by a session: its direction, its length, and the session's access to it. Objects 0x0005 to 0x0007 pad. -/
def State.mappable (s : State) (n : Net) (tx : Bool) (e : Nat) : Bool :=
  let index := field e 31 16
  let sub := field e 15 8
  let bits := field e 7 0
  if 5 ≤ index ∧ index ≤ 7 then decide (sub = 0) && decide (bits = 8 * 2 ^ (index - 5))
  else match odRow index sub with
    | none => false
    | some r =>
      let right := s.rightOn (s.session n) index sub
      r.pdo == (if tx then .tx else .rx) && decide (bits = r.ty.bits) && [8, 16, 32, 64].contains bits
        && (right == .rw || right == (if tx then .ro else .wo))

/-- Why a write of a mapping object is refused. -/
def State.mapDeny (s : State) (n : Net) (index sub v : Nat) : Option Deny :=
  let held := s.nat index 0
  let first := (List.range v).map (fun i => s.nat index (i + 1))
  if sub ≠ 0 ∧ v ≠ 0 ∧ s.mappable n (decide (0x1A00 ≤ index)) v = false then some (mapFlaw 0x06040041 index sub)
  else if sub = 0 ∧ first.contains 0 = true then some (mapFlaw 0x06040041 index 0)
  else if sub = 0 ∧ s.canUses index = true ∧ 64 < (first.map (fun e => e % 256 / 8)).sum then some (mapFlaw 0x06040042 index 0)
  else if s.mapOpen index = false ∨ (held ≠ 0 ∧ (sub ≠ 0 ∨ (v ≠ 0 ∧ v ≠ held))) then some (notNow index sub)
  else none

/-- Why a write of an assignment object is refused: EtherCAT alone uses it. -/
def State.assignDeny (s : State) (index sub v : Nat) : Option Deny :=
  let held := s.nat index 0
  if s.ecat.al ≠ .preop ∨ (held ≠ 0 ∧ (sub ≠ 0 ∨ (v ≠ 0 ∧ v ≠ held))) then some (notNow index sub) else none

/-- Why a write of a communication object is refused: a 29-bit identifier, or a mapping of more than 64 bytes. -/
def State.commDeny (s : State) (index sub v : Nat) : Option Deny :=
  if sub = 1 ∧ bit v 31 = false ∧ bit v 29 = true then some (badValue index 1)
  else if sub = 1 ∧ bit v 31 = false ∧ 64 < s.mapSize (index + 0x200) then some (mapFlaw 0x06040042 index 1)
  else none

/-! ### What each entry checks -/

/-- The communication profile. -/
def State.profileDeny (s : State) (n : Net) (index sub : Nat) (data : List Byte) : Option Deny :=
  let v := leNat data
  if index = 0x1010 ∨ index = 0x1011 then s.storeDeny index sub v
  else if (0x1400 ≤ index ∧ index ≤ 0x140F) ∨ (0x1800 ≤ index ∧ index ≤ 0x181F) then s.commDeny index sub v
  else if index = 0x1C12 ∨ index = 0x1C13 then s.assignDeny index sub v
  else if isMapping index then s.mapDeny n index sub v
  else if index = 0x1F50 then
    (if 8388608 < data.length then some { abort := abTooLong, index, sub }
      else (stateRule (decide (s.tray = .service)) index sub) <|> (s.imageDeny data))
  else none

/-- Why the enable of a camera is refused: its trigger is an angle event that R86 checks (R121). -/
def State.cameraDeny (s : State) (k : Nat) : Option Deny :=
  let i := camIndex k
  if s.flag i 1 then none
  else if s.kind (s.nat i 2) = 0 then some (badValue i 2)
  else if s.tooClose (s.camSeries k) (s.nat i 2) then some (badValue i 3)
  else none

/-- Sensor channels and cameras: ready and service only (R102). -/
def State.sourceDeny (s : State) (index sub : Nat) (data : List Byte) : Option Deny :=
  let v := leNat data
  let cci := decide (data.length % 4 = 0) && (List.range (data.length / 4)).all (fun i => decide (byteAt data (4 * i + 3) ≤ 1))
  let flaw := if 0x2310 ≤ index ∧ sub = 0x14 ∧ 256 < data.length then some { abort := abTooLong, index, sub }
    else if 0x2310 ≤ index ∧ sub = 0x14 then valueRule cci index sub 0
    else if 0x2310 ≤ index ∧ sub = 0x0B then valueRule (decide (v % 4 = 0)) index sub v
    else if 0x2310 ≤ index ∧ sub = 1 ∧ v ≠ 0 then s.cameraDeny (index - 0x2310) else none
  flaw <|> (stateRule (s.tray = .ready || s.tray = .service) index sub)

/-- OD 0x2021 (R433). -/
def State.controlDeny (s : State) : Option Deny := stateRule (decide (s.command = 0)) 0x2021 0

/-- The tray's own objects and the parish. -/
def State.trayDeny (s : State) (index sub : Nat) (data : List Byte) : Option Deny :=
  let v := leNat data
  if index = 0x2001 then s.commandDeny v
  else if index = 0x2002 then s.boundDeny sub v
  else if index = 0x2011 then s.spareDeny v
  else if index = 0x2020 ∧ sub = 2 then valueRule (decide (v ≤ s.nat 0x2020 3)) index sub v
  else if index = 0x2020 ∧ sub = 3 then valueRule (decide (s.nat 0x2020 2 ≤ v)) index sub v
  else if index = 0x2021 then s.controlDeny
  else if 0x2200 ≤ index ∧ index ≤ 0x2203 then s.shaftDeny (index - 0x2200) sub (entryNum index sub data)
  else if 0x2300 ≤ index ∧ index ≤ 0x2311 then s.sourceDeny index sub data
  else if index = 0x2800 ∧ sub = 1 ∧ v ≠ 0 then s.enableDeny
  else if index = 0x2800 then s.parishDeny sub
  else none

/-- A tenant block: the authentication response apart. -/
def State.tenantBlockDeny (s : State) (n : Net) (index sub : Nat) (data : List Byte) : Option Deny :=
  let t := (index - 0x3000) / 0x100
  let o := index % 0x100
  let v := leNat data
  let locked := stateRule (!s.flag index 1) index sub
  if o = 0 ∧ sub = 3 then s.tenantDeny t v
  else if o = 1 then s.quotaDeny t sub v
  else if o = 2 ∧ sub = 1 then keyDeny t data
  else if o = 2 ∧ sub = 8 then s.bundleKeyDeny n t data
  else if 0x10 ≤ o ∧ o ≤ 0x1F then (if sub ≠ 1 then locked else if v = 0 then none else s.eventDeny t (o - 0x10))
  else if 0x20 ≤ o ∧ o ≤ 0x2E then (if sub ≠ 1 then locked else if v = 0 then none else s.jobDeny t (o - 0x20))
  else if 0x40 ≤ o ∧ o ≤ 0x4F then (if sub ≠ 1 then locked else if v = 0 then none else s.setDeny t (o - 0x40))
  else none

/-- A download of `size` bytes into a slot is refused (R312, R439, R461): too long for CAN FD, too long or over the quota, or not in
the state of the slot. -/
def State.bundleDeny (s : State) (n : Net) (slot size : Nat) : Option Deny :=
  let i := 0x4000 + slot
  if n = .can ∧ 16777216 < size then some { abort := abTooLong, index := i, sub := 2 }
  else if s.bundleTooBig slot size then some { abort := abMemory, index := i, sub := 2 }
  else stateRule ([1, 2].contains (s.nat i 4) && (s.slot slot).download.isNone) i 2

/-- A slot, the learning configuration, labels, a token session, the digital outputs, replay. -/
def State.otherDeny (s : State) (n : Net) (index sub : Nat) (data : List Byte) : Option Deny :=
  let v := leNat data
  if 0x4000 ≤ index ∧ index < 0x4100 then
    let slot := index - 0x4000
    (if sub = 1 then stateRule (decide (s.nat index 4 ≤ 1)) index sub
      else if sub = 2 then s.bundleDeny n slot data.length
      else if sub = 3 then s.slotDeny slot v else none)
  else if index = 0x5000 then stateRule (decide (s.tray ≠ .learning)) index sub
  else if index = 0x5003 then s.labelDeny sub data
  else if 0x6100 ≤ index ∧ index < 0x6108 then
    (if sub = 1 then s.tokenCmdDeny n (index - 0x6100) v else s.tokenFieldDeny (index - 0x6100) sub data)
  else if index = 0x6200 ∧ 8 ≤ sub then s.grantDeny (sub - 8) v
  else if index = 0x7000 then s.replayDeny v
  else none

/-- What the entry itself has against a write of well-formed data. -/
def State.entryDeny (s : State) (n : Net) (index sub : Nat) (data : List Byte) : Option Deny :=
  if index < 0x2000 then s.profileDeny n index sub data
  else if index < 0x3000 then s.trayDeny index sub data
  else if index < 0x4000 then s.tenantBlockDeny n index sub data
  else s.otherDeny n index sub data

/-! ### What each entry does -/

/-- Control moves (R433, R436). The event names the port of the network that takes control (R549; DEDUCED, log entry 18). -/
def State.moveControl (s : State) (v : Nat) : State :=
  let old := s.nat 0x2021 0
  if v = old then s
  else
    let s := (s.setNum 0x2021 0 v).modOutputs (fun o => { o with holdMaster := true })
    s.raise 0x8320 (netUnit (if v = 0 then .ecat else .can)) noTenant (256 * old + v)

/-- The default effect of a write: the entry holds the value. -/
def State.keep (s : State) (index sub : Nat) (data : List Byte) : State := match odRow index sub with
  | some r => s.set index sub (r.ty.decode data)
  | none => s

/-- Tunings that wait to start, forced ones included, are cancelled (OD 0x2430:02 FALSE, chapter 12). -/
def State.dropTunings (s : State) : State :=
  { s with chips := s.chips.map (fun (x : Chip) => { x with clusters := x.clusters.map (fun (k : Cluster) => { k with
    tuneDue := none, tuneForced := none }) }) }

def State.profileSet (s : State) (index sub : Nat) (data : List Byte) : State :=
  if index = 0x1010 then s.saveSet sub
  else if index = 0x1011 then s.markSet sub
  else if index = 0x1F50 then s.writeBank data
  else s.keep index sub data

def State.traySet (s : State) (index sub : Nat) (data : List Byte) : State :=
  let v := leNat data
  if index = 0x2001 then s.commandDo v
  else if index = 0x2002 then (s.keep index sub data).retier
  else if index = 0x2011 then s.setSpares v
  else if index = 0x2021 then s.moveControl v
  else if 0x2200 ≤ index ∧ index ≤ 0x2203 then s.shaftSet (index - 0x2200) sub (entryNum index sub data)
  else if index = 0x2430 ∧ sub = 2 ∧ v = 0 then (s.keep index sub data).dropTunings
  else if index = 0x2400 then { s with faults := { s.faults with log := [] } }
  else if index = 0x2800 ∧ sub = 1 then s.setParish (decide (v ≠ 0))
  else if index = 0x2800 then (s.keep index sub data).review
  else s.keep index sub data

def State.tenantBlockSet (s : State) (n : Net) (index sub : Nat) (data : List Byte) : State :=
  let t := (index - 0x3000) / 0x100
  let o := index % 0x100
  let v := leNat data
  if o = 0 ∧ sub = 3 then s.tenantDo t v
  else if o = 2 ∧ sub = 3 then s.authJudge n t data
  else if o = 2 ∧ sub = 5 then s.endNetSession n
  else if o = 2 ∧ sub = 8 then s.bundleKeySet t data
  else if 0x10 ≤ o ∧ o ≤ 0x1F ∧ sub = 1 then (if v = 0 then s.eventOff t (o - 0x10) else s.eventOn t (o - 0x10))
  else if 0x20 ≤ o ∧ o ≤ 0x2E ∧ sub = 1 then (if v = 0 then s.jobStop t (o - 0x20) else s.jobStart t (o - 0x20))
  else if 0x40 ≤ o ∧ o ≤ 0x4F ∧ sub = 1 then (if v = 0 then s.setOff t (o - 0x40) else s.setOn t (o - 0x40))
  else if 0x40 ≤ o ∧ o ≤ 0x4F ∧ sub = 8 then s.setNum index 8 (v % 16 : Nat)
  else s.keep index sub data

def State.otherSet (s : State) (n : Net) (index sub : Nat) (data : List Byte) : State :=
  let v := leNat data
  if 0x4000 ≤ index ∧ index < 0x4100 ∧ sub = 1 then
    (s.keep index 1 data).setNum index 4 (if v = 0xFF then 0 else 1)
  else if 0x4000 ≤ index ∧ index < 0x4100 ∧ sub = 2 then s.stage (index - 0x4000) data
  else if 0x4000 ≤ index ∧ index < 0x4100 ∧ sub = 3 then s.slotDo (index - 0x4000) v
  else if index = 0x5003 then s.label sub data
  else if 0x6100 ≤ index ∧ index < 0x6108 ∧ sub = 1 then s.tokenCmd n (index - 0x6100) v
  else if index = 0x6200 ∧ sub = 1 then (s.setNum index 1 (v % 16 : Nat)).takeMaster
  else if index = 0x6200 ∧ sub = 6 then s.setNum index 6 (v % 16 : Nat)
  else if index = 0x7000 then s.replayDo v
  else s.keep index sub data

/-- What a write of an entry does. -/
def State.entrySet (s : State) (n : Net) (index sub : Nat) (data : List Byte) : State :=
  if index < 0x2000 then s.profileSet index sub data
  else if index < 0x3000 then s.traySet index sub data
  else if index < 0x4000 then s.tenantBlockSet n index sub data
  else s.otherSet n index sub data

/-! ### Single writes -/

/-- A firmware image written whole: the bank takes it or is marked empty, whichever way the check goes (R508). -/
def State.firmwareWrite (s : State) (n : Net) (data : List Byte) : State :=
  s.serve n fun s =>
    match (s.rightsDeny n 0x1F50 1) <|> (s.stateDeny n 0x1F50 1) <|> (s.profileDeny n 0x1F50 1 data) with
    | some d => if d.code = 0x8401 then (s.writeBank data).refuse n d else s.refuse n d
    | none => (s.writeBank data).answer n .ok

/-- The authentication response of a tenant. -/
def isResponse (index sub : Nat) : Bool := decide (0x3000 ≤ index ∧ index < 0x4000 ∧ index % 0x100 = 2 ∧ sub = 3)

/-- A write of one entry. -/
def State.odWrite (s : State) (n : Net) (index sub : Nat) (data : List Byte) : State :=
  if index = 0x2001 ∧ sub = 0 ∧ data.length = 1 then s.commandWrite n (leNat data)
  else if isResponse index sub then s.authResponse n ((index - 0x3000) / 0x100) data
  else if 0x4000 ≤ index ∧ index < 0x4100 ∧ sub = 3 ∧ data.length = 1 then s.slotWrite n (index - 0x4000) (leNat data)
  else if index = 0x7000 ∧ sub = 2 ∧ data.length = 8 then s.replayWrite n (leNat data)
  else if index = 0x1F50 ∧ sub = 1 then s.firmwareWrite n data
  else s.write n index sub data (fun s => s.entryDeny n index sub data) (fun s => s.entrySet n index sub data)

/-- The meaning of OD_WRITE. -/
def execOdWrite (n : Net) (index sub : Nat) (data : List Byte) (s : State) : Host.Outcome State Fault Refusal :=
  .next (s.odWrite n index sub data)

/-- The meaning of CONTROLLING_NETWORK_WRITE. -/
def execControllingNetworkWrite (n : Net) (v : Nat) (s : State) : Host.Outcome State Fault Refusal :=
  .next (s.write n 0x2021 0 (numBytes 0x2021 0 v) (fun s => s.controlDeny) (fun s => s.moveControl v))

/-- The meaning of PDO_MAPPING_WRITE: a mapping or assignment object. -/
def execPdoMappingWrite (n : Net) (index sub v : Nat) (s : State) : Host.Outcome State Fault Refusal :=
  .next (s.odWrite n index sub (numBytes index sub v))

/-- The meaning of TPDO_COMM_WRITE: a communication object. -/
def execTpdoCommWrite (n : Net) (index sub v : Nat) (s : State) : Host.Outcome State Fault Refusal :=
  .next (s.odWrite n index sub (numBytes index sub v))

/-- The meaning of STORE_PARAMETERS. -/
def execStoreParameters (n : Net) (sub v : Nat) (s : State) : Host.Outcome State Fault Refusal :=
  .next (s.write n 0x1010 sub (numBytes 0x1010 sub v) (fun s => s.storeDeny 0x1010 sub v) (fun s => s.saveSet sub))

/-- The meaning of RESTORE_DEFAULTS. -/
def execRestoreDefaults (n : Net) (sub v : Nat) (s : State) : Host.Outcome State Fault Refusal :=
  .next (s.write n 0x1011 sub (numBytes 0x1011 sub v) (fun s => s.storeDeny 0x1011 sub v) (fun s => s.markSet sub))

/-! ### Complete access (R466) -/

/-- An enable or command sub-index, applied last. -/
def isAction (index sub : Nat) : Bool :=
  let o := index % 0x100
  if isMapping index then decide (sub = 0)
  else if index = 0x1010 ∨ index = 0x1011 ∨ index = 0x1F50 then true
  else if index = 0x2400 then decide (sub = 4)
  else if index = 0x2800 ∨ (0x2300 ≤ index ∧ index ≤ 0x2311) ∨ (0x6100 ≤ index ∧ index < 0x6108) then decide (sub = 1)
  else if 0x3000 ≤ index ∧ index < 0x4000 then
    (o = 0 && sub = 3) || (o = 2 && (sub = 3 || sub = 5)) || (sub = 1 && o ≠ 0x2F && decide (0x10 ≤ o ∧ o ≤ 0x4F))
  else if 0x4000 ≤ index ∧ index < 0x4100 then decide (sub = 2 ∨ sub = 3)
  else decide (index = 0x2001 ∨ (index = 0x7000 ∧ sub = 2))

/-- The record with the new values of the parts that are no action, on which relations between parts are judged. -/
def State.asWritten (s : State) (index : Nat) (parts : List (Nat × List Byte)) : State :=
  (parts.filter (fun p => !isAction index p.1)).foldl (fun s p => s.keep index p.1 p.2) s

/-- Why a part is refused; sub-index 0x00 of a record must equal the count held. -/
def State.partDeny (s u : State) (n : Net) (index : Nat) (p : Nat × List Byte) : Option Deny :=
  match odObj index with
  | none => existsDeny index p.1
  | some o =>
    if p.1 = 0 ∧ (o.row 0).isNone = true then
      (if p.2 = leBytes 1 o.count then none else some { abort := abReadOnly, index, sub := 0 })
    else s.writeDeny n index p.1 p.2 (u.entryDeny n index p.1 p.2)

/-- A complete-access write: refused as a whole by its first refused part, or applied in ascending order with its actions last. -/
def State.completeWrite (s : State) (n : Net) (index : Nat) (parts : List (Nat × List Byte)) : State := s.serve n fun s =>
  let l := parts.foldl (fun m p => insertKey p.1 p.2 m) []
  let u := s.asWritten index l
  match (if (odObj index).isNone then existsDeny index 0 else none) <|> (l.findSome? (s.partDeny u n index)) with
  | some d => s.refuse n d
  | none =>
    let real := l.filter (fun p => (odRow index p.1).isSome)
    let s := (s.answer n .ok)
    let act (s : State) (p : Nat × List Byte) : State := s.entrySet n index p.1 p.2
    (real.filter (fun p => isAction index p.1)).foldl act ((real.filter (fun p => !isAction index p.1)).foldl act s)

/-- The meaning of COMPLETE_ACCESS_WRITE. -/
def execCompleteAccessWrite (n : Net) (index : Nat) (parts : List (Nat × List Byte)) (s : State) : Host.Outcome State Fault Refusal :=
  .next (s.completeWrite n index parts)

end Sys2Proof.Machine
end

