-- ==== Sys2Proof/Machine/Transfers.lean ====
section
/-! DEFINITION. SDO transfers of several requests (R435, R438, R439), FoE writes (R460, Table 13.9) and process data (R451, R457, R458,
R467, R469). -/

namespace Sys2Proof.Machine

/-! ### Segmented transfers -/

/-- The slot into whose bundle a download of an entry goes. -/
def bundleSlot (index sub : Nat) : Option Nat := if 0x4000 ≤ index ∧ index < 0x4100 ∧ sub = 2 then some (index - 0x4000) else none

/-- The open transfer of a network ends; a bundle download closes with it. `abandoned`: its later segments are still answered. -/
def State.endXfer (s : State) (n : Net) (abandoned : Bool) : State := match (s.box n).xfer with
  | none => s
  | some x =>
    let s := s.modBox n (fun b => { b with xfer := none, abandoned := abandoned })
    match (if x.upload then none else bundleSlot x.index x.sub) with
    | some slot => s.modSlot slot (fun l => { l with download := none })
    | none => s

/-- A transfer ends with an abort. -/
def State.abortXfer (s : State) (n : Net) (abort index sub : Nat) (abandoned : Bool) : State :=
  (s.endXfer n abandoned).refuse n { abort, index, sub }

/-- An upload: the value, or the first answer of a segmented one for a DOMAIN. -/
def State.upload (s : State) (n : Net) (index sub : Nat) : State := match s.readDeny n index sub with
  | some d => s.refuse n d
  | none =>
    let t := (index - 0x3000) / 0x100
    if 0x3000 ≤ index ∧ index < 0x4000 ∧ index % 0x100 = 2 ∧ sub = 2 then
      (if (s.tenant t).locked then s.refuse n { abort := abStore, index, sub } else s.drawChallenge n t)
    else
      let b := s.readBytes index sub
      if (odRow index sub).map Row.ty = some .domain then
        (s.modBox n fun m => { m with xfer := some {
          upload := true, index := index, sub := sub, size := b.length, data := b, toggle := false, tenant := s.session n,
          controlling := decide (n = s.controlling), last := s.micros } }).answer n (.data (leBytes 4 b.length))
      else s.answer n (.data b)

/-- Why a segmented download of an announced size is refused at its start; a size of 0 announces none. -/
def State.startDeny (s : State) (n : Net) (index sub size : Nat) : Option Deny :=
  let length := match (odRow index sub).map Row.ty with
    | none => none
    | some ty =>
      if size = 0 then none
      else if (ty.limit.map (fun m => decide (m < size))).getD false || decide (index = 0x1F50 ∧ 8388608 < size) then
        some { abort := abTooLong, index, sub }
      else if (ty.size.map (fun m => decide (size ≠ m))).getD false then some { abort := abLength, index, sub } else none
  (s.rightsDeny n index sub) <|> length <|> (s.stateDeny n index sub) <|> (match bundleSlot index sub with
    | some slot => s.bundleDeny n slot size
    | none => if index = 0x1F50 then stateRule (decide (s.tray = .service)) index sub else none)

/-- A segmented download opened. -/
def State.download (s : State) (n : Net) (index sub size : Nat) : State := match s.startDeny n index sub size with
  | some d => s.refuse n d
  | none =>
    let x : Xfer := {
      upload := false, index := index, sub := sub, size := size, data := [], toggle := false, tenant := s.session n,
      controlling := decide (n = s.controlling), last := s.micros }
    let s := s.modBox n fun b => { b with xfer := some x }
    let s := match bundleSlot index sub with
      | some slot => s.modSlot slot (fun l => { l with download := some n })
      | none => s
    s.answer n .ok

/-- The meaning of SDO_INITIATE. -/
def execSdoInitiate (n : Net) (up : Bool) (index sub size : Nat) (s : State) : Host.Outcome State Fault Refusal :=
  .next (s.serve n fun s => if up then s.upload n index sub else s.download n index sub size)

/-- A download whose data is whole: judged and applied with the rights of its start (R435). -/
def State.applyData (s : State) (n : Net) (index sub : Nat) (data : List Byte) : State :=
  let check := s.entryDeny n index sub data
  let early := check.filter (fun d => d.record.isNone && (decide (d.abort = abValue) || decide (d.abort = abStore)))
  match (valueDeny index sub data) <|> early <|> (s.stateDeny n index sub) <|> check with
  | some d => s.refuse n d
  | none => (s.answer n .ok).entrySet n index sub data

/-- The last segment of a download. A bundle and a firmware image wait for their store and their check. -/
def State.lastSegment (s : State) (n : Net) (x : Xfer) (data : List Byte) : State :=
  let all := x.data ++ data
  if x.size ≠ 0 ∧ all.length ≠ x.size then s.abortXfer n abLength x.index x.sub false
  else if (bundleSlot x.index x.sub).isSome || decide (x.index = 0x1F50) then
    (s.modBox n fun b => { b with xfer := some { x with data := all, whole := true, last := s.micros } }).answer n .none
  else (s.endXfer n false).applyData n x.index x.sub all

/-- The abort of a download that has grown to `len` bytes: beyond its announced size, a bundle beyond 1 GiB or the Storehouse quota
(R312) or beyond what CAN FD carries, a firmware image beyond its bank. -/
def State.overrun (s : State) (n : Net) (x : Xfer) (len : Nat) : Option Nat :=
  if x.size ≠ 0 ∧ x.size < len then some abTooLong
  else match bundleSlot x.index x.sub with
    | some slot => if n = .can ∧ 16777216 < len then some abTooLong else if s.bundleTooBig slot len then some abMemory else none
    | none => if x.index = 0x1F50 ∧ 8388608 < len then some abTooLong else none

/-- A segment of the open transfer. For an upload `data` stands for the room of the segment. -/
def State.segment (s : State) (n : Net) (toggle last : Bool) (data : List Byte) : State := match (s.box n).xfer with
  | none => s.refuse n { abort := 0x05040001, index := 0, sub := 0 }
  | some x =>
    if x.whole then s.refuse n { abort := 0x05040001, index := x.index, sub := x.sub }
    else if toggle ≠ x.toggle then s.abortXfer n 0x05030000 x.index x.sub false
    else if x.upload then
      let rest := x.data.drop data.length
      let s := s.answer n (.data (x.data.take data.length))
      if rest = [] then s.endXfer n false
      else s.modBox n fun b => { b with xfer := some { x with data := rest, toggle := !toggle, last := s.micros } }
    else match s.overrun n x (x.data.length + data.length) with
      | some abort => s.abortXfer n abort x.index x.sub false
      | none =>
        if last then s.lastSegment n x data
        else (s.modBox n fun b => { b with
          xfer := some { x with data := x.data ++ data, toggle := !toggle, last := s.micros } }).answer n .ok

/-- The meaning of SDO_SEGMENT. -/
def execSdoSegment (n : Net) (toggle last : Bool) (data : List Byte) (s : State) : Host.Outcome State Fault Refusal :=
  .next (if s.serves n then (s.touch n).segment n toggle last data else s)

/-- The meaning of SDO_SEGMENT_TIMEOUT: 1 s without a segment (R438). -/
def execSdoSegmentTimeout (n : Net) (s : State) : Host.Outcome State Fault Refusal :=
  .next (match (s.box n).xfer with
    | some x => if x.whole = false ∧ x.last + 1000000 ≤ s.micros then s.abortXfer n 0x05040000 x.index x.sub true else s
    | none => s)

/-! ### FoE (R460) -/

/-- The FoE error of a bundle write, and what OD 0x2401 shows for error 0x8000. -/
def State.foeFlaw (s : State) (slot : Nat) (data : List Byte) : Option Nat :=
  let i := 0x4000 + slot
  if s.ecat.al = .boot then some 0x8009
  else if 256 ≤ slot then some 0x8001
  else if (s.rightsDeny .ecat i 2).isSome then some 0x8002
  else if s.bundleTooBig slot data.length then some 0x8003
  else if (s.stateDeny .ecat i 2).isSome || (s.bundleDeny .ecat slot data.length).isSome || (s.box .ecat).foe.isSome
      || (s.box .ecat).foeFirmware then some 0x8000
  else none

/-- A refusal over FoE: OD 0x2401 holds the cause of error 0x8000. -/
def State.foeRefuse (s : State) (code index sub : Nat) : State :=
  let s := if code = 0x8000 then s.showRefusal { abort := 0, index, sub } 0 else s
  s.answer .ecat (.foeError code)

/-- The meaning of FOE_BUNDLE_WRITE: the transfer stays open until the bundle is stored (R312). -/
def execFoeBundleWrite (slot : Nat) (data : List Byte) (s : State) : Host.Outcome State Fault Refusal :=
  .next (if !s.alive || s.power.failing.isSome || decide (s.ecat.al = .init) then s
    else match s.foeFlaw slot data with
      | some code => s.foeRefuse code (0x4000 + slot) 2
      | none =>
        ((s.modBox .ecat fun b => { b with foe := some slot, foeData := data }).modSlot slot
          (fun l => { l with download := some .ecat })).answer .ecat .none)

/-- The FoE error of a firmware write. -/
def State.foeFirmwareFlaw (s : State) : Option Nat :=
  if s.ecat.al ≠ .boot then some 0x8008
  else if s.controlling ≠ .ecat ∨ s.session .ecat ≠ some 0 then some 0x8002
  else if (s.box .ecat).foe.isSome || (s.box .ecat).foeFirmware then some 0x8000
  else none

/-- The meaning of FOE_FIRMWARE_WRITE: EtherCAT alone has FoE. -/
def execFoeFirmwareWrite (n : Net) (s : State) : Host.Outcome State Fault Refusal :=
  .next (if n = .can || !s.alive || s.power.failing.isSome || decide (s.ecat.al = .init) then s
    else match s.foeFirmwareFlaw with
      | some code => s.foeRefuse code 0x1F50 1
      | none => (s.modBox .ecat fun b => { b with foeFirmware := true }).answer .ecat .ok)

/-! ### Process data -/

/-- The bytes of a mapping as it is latched now; padding is zero. -/
def State.mapImage (s : State) (index : Nat) : List Byte := (s.mapEntries index).flatMap fun e =>
  if field e 31 16 < 8 then List.replicate (e % 256 / 8) 0 else padTo (e % 256 / 8) (s.readBytes (field e 31 16) (field e 15 8))

/-- A received value of a mapped entry taken (R467). Of the entries that allow the direction there is one, OD 0x6200:01. -/
def State.takeEntry (s : State) (e : Nat) (b : List Byte) : State :=
  if e / 256 = 0x620001 then s.setNum 0x6200 1 (leNat b % 16 : Nat) else s

/-- The entries of a received image taken in order. -/
def State.takeImage (s : State) (entries : List Nat) (b : List Byte) : State := match entries with
  | [] => s
  | e :: rest => (s.takeEntry e (b.take (e % 256 / 8))).takeImage rest (b.drop (e % 256 / 8))

/-- A CAN FD communication object is valid, and the node is operational and on the bus. -/
def State.canRuns (s : State) (comm : Nat) : Bool := decide (s.can.nmt = .operational) && !s.can.busOff && !bit (s.cobId comm) 31

/-- An RxPDO is taken on a network in its present state. -/
def State.rxTaken (s : State) (n : Net) (mapping : Nat) : Bool := match n with
  | .ecat => decide (s.ecat.al = .op) && (s.assigned 0x1C12).contains (0x1600 + mapping)
  | .can => s.canRuns (0x1400 + mapping)

/-- RXPDO_RECEIVE: on the controlling network the mapped entries are written; data of the other network, or too short, is
discarded (R434, R451). -/
def State.rxPdo (s : State) (n : Net) (mapping : Nat) (data : List Byte) : State :=
  let m := 0x1600 + mapping
  if s.rxTaken n mapping && decide (n = s.controlling) && decide (s.mapSize m ≤ data.length) && s.power.failing.isNone then
    ((s.modOutputs (fun o => { o with holdMaster := false })).takeImage (s.mapEntries m) data).takeMaster
  else s

/-- The meaning of RXPDO_RECEIVE. -/
def execRxpdoReceive (n : Net) (mapping : Nat) (data : List Byte) (s : State) : Host.Outcome State Fault Refusal :=
  .next (s.rxPdo n mapping data)

def tpdoComm (i : Nat) : Nat := 0x1800 + i

/-- The type of a TPDO: sent on an event, or on a SYNC. -/
def State.tpdoByEvent (s : State) (i : Nat) : Bool := decide (254 ≤ s.nat (tpdoComm i) 2)

/-- TPDO `i` sent: its mapping latched now, its inhibit time started. -/
def State.sendTpdo (s : State) (i : Nat) : State :=
  let image := s.mapImage (0x1A00 + i)
  let inhibit := decide (s.nat (tpdoComm i) 3 ≠ 0)
  s.modCan fun c => { c with
    sent := insertKey i image c.sent, sentAt := vset c.sentAt i (some s.micros), updated := vset c.updated i false, inhibited := vset c.inhibited i inhibit,
    syncCount := vset c.syncCount i 0 }

/-- An event-driven TPDO with an update goes out unless it is inhibited (R458). -/
def State.sendDue (s : State) (i : Nat) : State :=
  if s.canRuns (tpdoComm i) && s.tpdoByEvent i && vget s.can.updated i && !vget s.can.inhibited i then s.sendTpdo i else s

/-- TXPDO_LATCH: the inputs of EtherCAT in SAFEOP and OP, or the event-driven TPDOs of CAN FD that have an update. -/
def State.txLatch (s : State) (n : Net) : State := match n with
  | .ecat =>
    if (s.ecat.al = .safeop ∨ s.ecat.al = .op) ∧ s.power.failing = none then
      s.modBox .ecat fun b => { b with image := (s.assigned 0x1C13).flatMap s.mapImage }
    else s
  | .can => if s.power.failing = none then forEach 32 s State.sendDue else s

/-- The meaning of TXPDO_LATCH. -/
def execTxpdoLatch (n : Net) (s : State) : Host.Outcome State Fault Refusal := .next (s.txLatch n)

/-- `n` µs have passed since a TPDO was sent, or it has not been sent yet. -/
def State.sentBefore (s : State) (i n : Nat) : Bool := match vget s.can.sentAt i with
  | some t => decide (t + n ≤ s.micros)
  | none => true

/-- The meaning of TPDO_INHIBIT_EXPIRY: once the inhibit time has passed since the last sending, the latest values go out where an
update came within it. -/
def execTpdoInhibitExpiry (i : Nat) (s : State) : Host.Outcome State Fault Refusal :=
  .next (if s.sentBefore i (100 * s.nat (tpdoComm i) 3) then
    (s.modCan fun c => { c with inhibited := vset c.inhibited i false }).sendDue i else s)

/-- The event timer of a TPDO has run out: it is event-driven, and its time has passed since the last sending. -/
def State.eventDue (s : State) (i : Nat) : Bool :=
  s.canRuns (tpdoComm i) && s.tpdoByEvent i && decide (s.nat (tpdoComm i) 5 ≠ 0) && s.sentBefore i (1000 * s.nat (tpdoComm i) 5)

/-- The meaning of TPDO_EVENT_TIMER: sent, or at the end of its inhibit time. -/
def execTpdoEventTimer (i : Nat) (s : State) : Host.Outcome State Fault Refusal :=
  .next (if s.eventDue i then (s.modCan fun c => { c with updated := vset c.updated i true }).sendDue i else s)

/-- A SYNC for one TPDO: type 0 goes out after an update, types 1 to 240 on every n-th SYNC (R469). -/
def State.syncTpdo (s : State) (i : Nat) : State :=
  let ty := s.nat (tpdoComm i) 2
  let c := vget s.can.syncCount i + 1
  if !s.canRuns (tpdoComm i) || decide (240 < ty) then s
  else if ty = 0 then (if vget s.can.updated i then s.sendTpdo i else s)
  else if ty ≤ c then s.sendTpdo i
  else s.modCan fun x => { x with syncCount := vset x.syncCount i c }

/-- The meaning of CAN_SYNC_RECEIVE. -/
def execCanSyncReceive (s : State) : Host.Outcome State Fault Refusal := .next (forEach 32 s State.syncTpdo)

end Sys2Proof.Machine
end

