-- ==== Sys2Proof/Machine/Dispatch.lean ====
section
/-! DEFINITION. The meaning of each command: one arm per row of the opcode table, in the table's order. -/

namespace Sys2Proof.Machine

def exec (i : Instr) (s : State) : Host.Outcome State Fault Refusal :=
  match i with
  | .supplyStart => Sys2Proof.Machine.execSupplyStart s
  | .railsRise => Sys2Proof.Machine.execRailsRise s
  | .bootRomStart => Sys2Proof.Machine.execBootRomStart s
  | .firmwareImageVerify => Sys2Proof.Machine.execFirmwareImageVerify s
  | .firmwareStart => Sys2Proof.Machine.execFirmwareStart s
  | .valuesLoaded => Sys2Proof.Machine.execValuesLoaded s
  | .selfTestStart => Sys2Proof.Machine.execSelfTestStart s
  | .storehouseInitComplete => Sys2Proof.Machine.execStorehouseInitComplete s
  | .chipRailsUp => Sys2Proof.Machine.execChipRailsUp s
  | .linksTrained => Sys2Proof.Machine.execLinksTrained s
  | .chipClearComplete region => Sys2Proof.Machine.execChipClearComplete region s
  | .faultLogPlaced => Sys2Proof.Machine.execFaultLogPlaced s
  | .selfTestEnd => Sys2Proof.Machine.execSelfTestEnd s
  | .trialBootTimeout => Sys2Proof.Machine.execTrialBootTimeout s
  | .startWatching net => Sys2Proof.Machine.execStartWatching net s
  | .stop net => Sys2Proof.Machine.execStop net s
  | .startLearning net => Sys2Proof.Machine.execStartLearning net s
  | .stopLearning net => Sys2Proof.Machine.execStopLearning net s
  | .pendingCommandEffect => Sys2Proof.Machine.execPendingCommandEffect s
  | .enterService net => Sys2Proof.Machine.execEnterService net s
  | .leaveService net => Sys2Proof.Machine.execLeaveService net s
  | .clearSafeHold net => Sys2Proof.Machine.execClearSafeHold net s
  | .restart net => Sys2Proof.Machine.execRestart net s
  | .trayCommandUnknown net code => Sys2Proof.Machine.execTrayCommandUnknown net code s
  | .reeveWatchdog => Sys2Proof.Machine.execReeveWatchdog s
  | .lockstepMismatch => Sys2Proof.Machine.execLockstepMismatch s
  | .spareMapWrite net value => Sys2Proof.Machine.execSpareMapWrite net value s
  | .tierBoundsWrite net sub value => Sys2Proof.Machine.execTierBoundsWrite net sub value s
  | .tierStepComplete chip => Sys2Proof.Machine.execTierStepComplete chip s
  | .downwardTierStart chip => Sys2Proof.Machine.execDownwardTierStart chip s
  | .fallowReloadComplete chip => Sys2Proof.Machine.execFallowReloadComplete chip s
  | .bellwetherCheckComplete chip pass => Sys2Proof.Machine.execBellwetherCheckComplete chip pass s
  | .escRequestInit => Sys2Proof.Machine.execEscRequestInit s
  | .escRequestPreop => Sys2Proof.Machine.execEscRequestPreop s
  | .escRequestSafeop => Sys2Proof.Machine.execEscRequestSafeop s
  | .escRequestOp => Sys2Proof.Machine.execEscRequestOp s
  | .escRequestBoot => Sys2Proof.Machine.execEscRequestBoot s
  | .nmtStartRemote => Sys2Proof.Machine.execNmtStartRemote s
  | .nmtStop => Sys2Proof.Machine.execNmtStop s
  | .nmtEnterPreop => Sys2Proof.Machine.execNmtEnterPreop s
  | .nmtResetNode => Sys2Proof.Machine.execNmtResetNode s
  | .nmtResetCommunication => Sys2Proof.Machine.execNmtResetCommunication s
  | .shaftConfigWrite net shaft sub value => Sys2Proof.Machine.execShaftConfigWrite net shaft sub value s
  | .countedEdge shaft a b z => Sys2Proof.Machine.execCountedEdge shaft a b z s
  | .noGoodReference shaft => Sys2Proof.Machine.execNoGoodReference shaft s
  | .illegalTransition shaft a b => Sys2Proof.Machine.execIllegalTransition shaft a b s
  | .encoderPairFault shaft pair => Sys2Proof.Machine.execEncoderPairFault shaft pair s
  | .encoderInputReturn shaft pair => Sys2Proof.Machine.execEncoderInputReturn shaft pair s
  | .inputLossExtrapolationEnd shaft => Sys2Proof.Machine.execInputLossExtrapolationEnd shaft s
  | .standstillTimeout shaft => Sys2Proof.Machine.execStandstillTimeout shaft s
  | .eventHoldRelease ev => Sys2Proof.Machine.execEventHoldRelease ev s
  | .timeSubstituteFire ev => Sys2Proof.Machine.execTimeSubstituteFire ev s
  | .angleEventEnable net t e => Sys2Proof.Machine.execAngleEventEnable net t e s
  | .angleEventDisable net t e => Sys2Proof.Machine.execAngleEventDisable net t e s
  | .angleMessageSend chip shaft => Sys2Proof.Machine.execAngleMessageSend chip shaft s
  | .angleMessageReceive chip msg => Sys2Proof.Machine.execAngleMessageReceive chip msg s
  | .mirrorStale chip => Sys2Proof.Machine.execMirrorStale chip s
  | .mirrorStaleFault chip => Sys2Proof.Machine.execMirrorStaleFault chip s
  | .tdmFrameReceive port slots bitClocks => Sys2Proof.Machine.execTdmFrameReceive port slots bitClocks s
  | .tdmClockLoss port => Sys2Proof.Machine.execTdmClockLoss port s
  | .tdmRateMeasurement port rate => Sys2Proof.Machine.execTdmRateMeasurement port rate s
  | .resamplerFrameComplete group => Sys2Proof.Machine.execResamplerFrameComplete group s
  | .stripTransferComplete chip => Sys2Proof.Machine.execStripTransferComplete chip s
  | .cameraResetRelease cam => Sys2Proof.Machine.execCameraResetRelease cam s
  | .cciSetupSend cam nack => Sys2Proof.Machine.execCciSetupSend cam nack s
  | .triggerPulseEnd cam => Sys2Proof.Machine.execTriggerPulseEnd cam s
  | .csiFrameStart cam vc => Sys2Proof.Machine.execCsiFrameStart cam vc s
  | .csiLongPacket cam vc dt ecc crcOk payload => Sys2Proof.Machine.execCsiLongPacket cam vc dt ecc crcOk payload s
  | .csiFrameEnd cam vc => Sys2Proof.Machine.execCsiFrameEnd cam vc s
  | .captureTimeout cam => Sys2Proof.Machine.execCaptureTimeout cam s
  | .jobEnable net t j => Sys2Proof.Machine.execJobEnable net t j s
  | .jobDisable net t j => Sys2Proof.Machine.execJobDisable net t j s
  | .pendingIssue t => Sys2Proof.Machine.execPendingIssue t s
  | .speculativeIssue t j => Sys2Proof.Machine.execSpeculativeIssue t j s
  | .descriptorIssue chip issue => Sys2Proof.Machine.execDescriptorIssue chip issue s
  | .bankRoundComplete chip cluster bank upset => Sys2Proof.Machine.execBankRoundComplete chip cluster bank upset s
  | .descriptorComplete chip engine upset => Sys2Proof.Machine.execDescriptorComplete chip engine upset s
  | .handOffArrive issue handOff => Sys2Proof.Machine.execHandOffArrive issue handOff s
  | .wakeJobComplete issue => Sys2Proof.Machine.execWakeJobComplete issue s
  | .wakeHoldOverLapse t j => Sys2Proof.Machine.execWakeHoldOverLapse t j s
  | .jobComplete issue => Sys2Proof.Machine.execJobComplete issue s
  | .modelImageLoadComplete chip slot => Sys2Proof.Machine.execModelImageLoadComplete chip slot s
  | .weightPieceArrive chip issue => Sys2Proof.Machine.execWeightPieceArrive chip issue s
  | .tenantCreate net t => Sys2Proof.Machine.execTenantCreate net t s
  | .tenantSuspend net t => Sys2Proof.Machine.execTenantSuspend net t s
  | .tenantResume net t => Sys2Proof.Machine.execTenantResume net t s
  | .tenantDelete net t => Sys2Proof.Machine.execTenantDelete net t s
  | .quotaWrite net t sub value => Sys2Proof.Machine.execQuotaWrite net t sub value s
  | .publicKeyWrite net t key => Sys2Proof.Machine.execPublicKeyWrite net t key s
  | .challengeRead net t => Sys2Proof.Machine.execChallengeRead net t s
  | .challengeExpiry net t => Sys2Proof.Machine.execChallengeExpiry net t s
  | .authResponseWrite net t sig => Sys2Proof.Machine.execAuthResponseWrite net t sig s
  | .authLockEnd t => Sys2Proof.Machine.execAuthLockEnd t s
  | .endSession net t value => Sys2Proof.Machine.execEndSession net t value s
  | .sessionIdleTimeout net => Sys2Proof.Machine.execSessionIdleTimeout net s
  | .bundleKeyWrite net t wrapped => Sys2Proof.Machine.execBundleKeyWrite net t wrapped s
  | .bundleDownloadComplete slot => Sys2Proof.Machine.execBundleDownloadComplete slot s
  | .slotAdmit net slot => Sys2Proof.Machine.execSlotAdmit net slot s
  | .admissionComplete slot => Sys2Proof.Machine.execAdmissionComplete slot s
  | .slotEvict net slot => Sys2Proof.Machine.execSlotEvict net slot s
  | .slotMakeResident net slot => Sys2Proof.Machine.execSlotMakeResident net slot s
  | .slotMakeNonResident net slot => Sys2Proof.Machine.execSlotMakeNonResident net slot s
  | .slotDiscardStaged net slot => Sys2Proof.Machine.execSlotDiscardStaged net slot s
  | .sessionOpen net n => Sys2Proof.Machine.execSessionOpen net n s
  | .sessionGenerate net n => Sys2Proof.Machine.execSessionGenerate net n s
  | .sessionStop net n => Sys2Proof.Machine.execSessionStop net n s
  | .sessionResetContext net n => Sys2Proof.Machine.execSessionResetContext net n s
  | .sessionClose net n => Sys2Proof.Machine.execSessionClose net n s
  | .tokenStepIssue slot entry => Sys2Proof.Machine.execTokenStepIssue slot entry s
  | .tokenStepComplete issue => Sys2Proof.Machine.execTokenStepComplete issue s
  | .labelWrite net sub data => Sys2Proof.Machine.execLabelWrite net sub data s
  | .gradientPartFold layer shard => Sys2Proof.Machine.execGradientPartFold layer shard s
  | .parishEnable net => Sys2Proof.Machine.execParishEnable net s
  | .helloSend => Sys2Proof.Machine.execHelloSend s
  | .helloReceive hdr digest role trayState => Sys2Proof.Machine.execHelloReceive hdr digest role trayState s
  | .heartbeatSend => Sys2Proof.Machine.execHeartbeatSend s
  | .heartbeatReceive hdr trayState seat leader phase outcome checkpoint digest parishDigest => Sys2Proof.Machine.execHeartbeatReceive hdr trayState seat leader phase outcome checkpoint digest parishDigest s
  | .peerHealthTimeout peer => Sys2Proof.Machine.execPeerHealthTimeout peer s
  | .leaderRecovery => Sys2Proof.Machine.execLeaderRecovery s
  | .seatFillTimeout => Sys2Proof.Machine.execSeatFillTimeout s
  | .ferryLinkChange port modulePresent blockLock duplicate => Sys2Proof.Machine.execFerryLinkChange port modulePresent blockLock duplicate s
  | .mootFrameReject port d => Sys2Proof.Machine.execMootFrameReject port d s
  | .ackReceive hdr map => Sys2Proof.Machine.execAckReceive hdr map s
  | .ackTimer peer => Sys2Proof.Machine.execAckTimer peer s
  | .mootRetransmitTimer peer seq => Sys2Proof.Machine.execMootRetransmitTimer peer seq s
  | .bidReceive hdr => Sys2Proof.Machine.execBidReceive hdr s
  | .startReceive hdr seatMap q r => Sys2Proof.Machine.execStartReceive hdr seatMap q r s
  | .partReceive hdr pre data => Sys2Proof.Machine.execPartReceive hdr pre data s
  | .fuseReceive hdr part => Sys2Proof.Machine.execFuseReceive hdr part s
  | .decideReceive hdr d => Sys2Proof.Machine.execDecideReceive hdr d s
  | .shadowReceive hdr pre data => Sys2Proof.Machine.execShadowReceive hdr pre data s
  | .readyReceive hdr digest => Sys2Proof.Machine.execReadyReceive hdr digest s
  | .commitReceive hdr => Sys2Proof.Machine.execCommitReceive hdr s
  | .rollbackReceive hdr target seatMap => Sys2Proof.Machine.execRollbackReceive hdr target seatMap s
  | .abortReceive hdr code => Sys2Proof.Machine.execAbortReceive hdr code s
  | .adoptReceive hdr seat => Sys2Proof.Machine.execAdoptReceive hdr seat s
  | .rowsReceive hdr pre data => Sys2Proof.Machine.execRowsReceive hdr pre data s
  | .restoreReceive hdr pre data => Sys2Proof.Machine.execRestoreReceive hdr pre data s
  | .ckptReceive hdr pre data => Sys2Proof.Machine.execCkptReceive hdr pre data s
  | .ckptDoneReceive hdr => Sys2Proof.Machine.execCkptDoneReceive hdr s
  | .stepTimeout => Sys2Proof.Machine.execStepTimeout s
  | .replayStart net step => Sys2Proof.Machine.execReplayStart net step s
  | .replayReceive hdr step ckpt kind result => Sys2Proof.Machine.execReplayReceive hdr step ckpt kind result s
  | .replayComplete diff => Sys2Proof.Machine.execReplayComplete diff s
  | .targetedTestComplete u e => Sys2Proof.Machine.execTargetedTestComplete u e s
  | .wholeChipTestComplete chip bad => Sys2Proof.Machine.execWholeChipTestComplete chip bad s
  | .spareLoadComplete chip => Sys2Proof.Machine.execSpareLoadComplete chip s
  | .granaryEccError chip bank row uncorrectable issue => Sys2Proof.Machine.execGranaryEccError chip bank row uncorrectable issue s
  | .loftEccError chip bank word uncorrectable issue => Sys2Proof.Machine.execLoftEccError chip bank word uncorrectable issue s
  | .storehouseEccError page uncorrectable issue => Sys2Proof.Machine.execStorehouseEccError page uncorrectable issue s
  | .storehouseErrorQuiet => Sys2Proof.Machine.execStorehouseErrorQuiet s
  | .bywayFlitError chip axis issue => Sys2Proof.Machine.execBywayFlitError chip axis issue s
  | .pcieLinkError chip issue => Sys2Proof.Machine.execPcieLinkError chip issue s
  | .bywayHandoffTimer chip axis issue ceiling => Sys2Proof.Machine.execBywayHandoffTimer chip axis issue ceiling s
  | .pcieDmaTimer chip issue ceiling => Sys2Proof.Machine.execPcieDmaTimer chip issue ceiling s
  | .almanacRelock chip => Sys2Proof.Machine.execAlmanacRelock chip s
  | .marginTuningStart chip cluster => Sys2Proof.Machine.execMarginTuningStart chip cluster s
  | .marginTuningForce chip cluster => Sys2Proof.Machine.execMarginTuningForce chip cluster s
  | .marginTuningComplete chip cluster trim => Sys2Proof.Machine.execMarginTuningComplete chip cluster trim s
  | .commonsSelfCheck chip cluster bank matches_ => Sys2Proof.Machine.execCommonsSelfCheck chip cluster bank matches_ s
  | .telemetrySample chip idleCycle => Sys2Proof.Machine.execTelemetrySample chip idleCycle s
  | .faultLogClear net value => Sys2Proof.Machine.execFaultLogClear net value s
  | .controllingNetworkWrite net value => Sys2Proof.Machine.execControllingNetworkWrite net value s
  | .odWrite net index sub data => Sys2Proof.Machine.execOdWrite net index sub data s
  | .completeAccessWrite net index parts => Sys2Proof.Machine.execCompleteAccessWrite net index parts s
  | .sdoInitiate net upload index sub size => Sys2Proof.Machine.execSdoInitiate net upload index sub size s
  | .sdoSegment net toggle last data => Sys2Proof.Machine.execSdoSegment net toggle last data s
  | .sdoSegmentTimeout net => Sys2Proof.Machine.execSdoSegmentTimeout net s
  | .foeBundleWrite slot data => Sys2Proof.Machine.execFoeBundleWrite slot data s
  | .firmwareDownloadComplete net image => Sys2Proof.Machine.execFirmwareDownloadComplete net image s
  | .pdoMappingWrite net index sub value => Sys2Proof.Machine.execPdoMappingWrite net index sub value s
  | .tpdoCommWrite net index sub value => Sys2Proof.Machine.execTpdoCommWrite net index sub value s
  | .rxpdoReceive net mapping data => Sys2Proof.Machine.execRxpdoReceive net mapping data s
  | .txpdoLatch net => Sys2Proof.Machine.execTxpdoLatch net s
  | .tpdoInhibitExpiry n => Sys2Proof.Machine.execTpdoInhibitExpiry n s
  | .tpdoEventTimer n => Sys2Proof.Machine.execTpdoEventTimer n s
  | .canSyncReceive => Sys2Proof.Machine.execCanSyncReceive s
  | .sm2WatchdogExpiry => Sys2Proof.Machine.execSm2WatchdogExpiry s
  | .sync0Loss => Sys2Proof.Machine.execSync0Loss s
  | .ethercatLinkLoss => Sys2Proof.Machine.execEthercatLinkLoss s
  | .canHeartbeatProduce => Sys2Proof.Machine.execCanHeartbeatProduce s
  | .heartbeatConsumerReceive node => Sys2Proof.Machine.execHeartbeatConsumerReceive node s
  | .heartbeatConsumerTimeout => Sys2Proof.Machine.execHeartbeatConsumerTimeout s
  | .canBusOff => Sys2Proof.Machine.execCanBusOff s
  | .canBusOffRecovery => Sys2Proof.Machine.execCanBusOffRecovery s
  | .storeParameters net sub value => Sys2Proof.Machine.execStoreParameters net sub value s
  | .restoreDefaults net sub value => Sys2Proof.Machine.execRestoreDefaults net sub value s
  | .outputSetEnable net t o => Sys2Proof.Machine.execOutputSetEnable net t o s
  | .outputSetDisable net t o => Sys2Proof.Machine.execOutputSetDisable net t o s
  | .digitalOutputOverload n => Sys2Proof.Machine.execDigitalOutputOverload n s
  | .digitalOutputRetry n holds => Sys2Proof.Machine.execDigitalOutputRetry n holds s
  | .doSupplyLoss => Sys2Proof.Machine.execDoSupplyLoss s
  | .doSupplyReturn => Sys2Proof.Machine.execDoSupplyReturn s
  | .externalSupplyTrip connector => Sys2Proof.Machine.execExternalSupplyTrip connector s
  | .externalSupplyRetry connector holds => Sys2Proof.Machine.execExternalSupplyRetry connector holds s
  | .plateTemperatureSample plate dies reeve => Sys2Proof.Machine.execPlateTemperatureSample plate dies reeve s
  | .supplyOutOfRange high => Sys2Proof.Machine.execSupplyOutOfRange high s
  | .supplyEpisodeEnd => Sys2Proof.Machine.execSupplyEpisodeEnd s
  | .overvoltageDisconnect => Sys2Proof.Machine.execOvervoltageDisconnect s
  | .railFault rail chip => Sys2Proof.Machine.execRailFault rail chip s
  | .powerFailWarning => Sys2Proof.Machine.execPowerFailWarning s
  | .powerFailRecordWritten valid => Sys2Proof.Machine.execPowerFailRecordWritten valid s
  | .debugChallengeRead => Sys2Proof.Machine.execDebugChallengeRead s
  | .debugUnlock sig => Sys2Proof.Machine.execDebugUnlock sig s
  | .fuseProvision item data => Sys2Proof.Machine.execFuseProvision item data s
  | .interpolationUpdate ticks => Sys2Proof.Machine.execInterpolationUpdate ticks s
  | .downwardTierComplete chip => Sys2Proof.Machine.execDownwardTierComplete chip s
  | .gleanerScrubAccess chip loft bank singleBit => Sys2Proof.Machine.execGleanerScrubAccess chip loft bank singleBit s
  | .storehousePatrolScrub reserve page error => Sys2Proof.Machine.execStorehousePatrolScrub reserve page error s
  | .inputSwitchClose => Sys2Proof.Machine.execInputSwitchClose s
  | .chipRailCycleComplete chip => Sys2Proof.Machine.execChipRailCycleComplete chip s
  | .foeFirmwareWrite net => Sys2Proof.Machine.execFoeFirmwareWrite net s
  | .canErrorStateChange passive => Sys2Proof.Machine.execCanErrorStateChange passive s
  | .checkpointOfRecordWritten => Sys2Proof.Machine.execCheckpointOfRecordWritten s
  | .neighborDiscoveryReceive port peer duplicate => Sys2Proof.Machine.execNeighborDiscoveryReceive port peer duplicate s

end Sys2Proof.Machine
end

