-- ==== Sys2Proof/Safety.lean ====
section
/-! DEFINITION. What counts as a safe step and a sound state, and the words in which statements say what a command leaves
unchanged: the pieces of the state, and the request that a network accepts. -/

namespace Sys2Proof.Machine

/-- A step that ends in a next state: no fault, no refusal. -/
def SafeStep (s : State) : Prop := ∃ t, step s = .next t

/-- The pieces of the state: one for each of its fields. -/
inductive Piece where
  | pending | timebase | draws | od | tray | holdCause | command | power | boot | ecat
  | can | mail | shafts | events | groups | channels | ports | cams | jobs | pend
  | sets | issues | nextIssue | chips | slots | tenants | tokens | learn | parish | faults
  | store | outputs | loadFrom
deriving DecidableEq, Repr

/-- A piece is the same in two states. -/
def Piece.same (s t : State) : Piece → Prop
  | .pending => t.pending = s.pending
  | .timebase => t.timebase = s.timebase
  | .draws => t.draws = s.draws
  | .od => t.od = s.od
  | .tray => t.tray = s.tray
  | .holdCause => t.holdCause = s.holdCause
  | .command => t.command = s.command
  | .power => t.power = s.power
  | .boot => t.boot = s.boot
  | .ecat => t.ecat = s.ecat
  | .can => t.can = s.can
  | .mail => t.mail = s.mail
  | .shafts => t.shafts = s.shafts
  | .events => t.events = s.events
  | .groups => t.groups = s.groups
  | .channels => t.channels = s.channels
  | .ports => t.ports = s.ports
  | .cams => t.cams = s.cams
  | .jobs => t.jobs = s.jobs
  | .pend => t.pend = s.pend
  | .sets => t.sets = s.sets
  | .issues => t.issues = s.issues
  | .nextIssue => t.nextIssue = s.nextIssue
  | .chips => t.chips = s.chips
  | .slots => t.slots = s.slots
  | .tenants => t.tenants = s.tenants
  | .tokens => t.tokens = s.tokens
  | .learn => t.learn = s.learn
  | .parish => t.parish = s.parish
  | .faults => t.faults = s.faults
  | .store => t.store = s.store
  | .outputs => t.outputs = s.outputs
  | .loadFrom => t.loadFrom = s.loadFrom

/-- `t` differs from `s` at most in the pieces listed. -/
def Keeps (l : List Piece) (s t : State) : Prop := ∀ p, p ∉ l → p.same s t

/-- Two states whose dictionaries agree outside the objects that `p` names. -/
def sameEntries (p : Nat → Bool) (s t : State) : Prop := ∀ i j, j < 256 → p i = false → t.get i j = s.get i j

/-- Two states whose chips agree, but for chip `c`. -/
def sameChips (c : Nat) (s t : State) : Prop := ∀ d, d ≠ c → t.chip d = s.chip d

/-- The state in which a request on a network is judged: its idle limit has begun anew, and an open segmented transfer is
abandoned (R301, R439). -/
def State.asked (s : State) (n : Net) : State := (s.touch n).abandonXfer n

/-- A write that a network carries and that nothing refuses (Table 14.1). -/
def State.accepts (s : State) (n : Net) (index sub : Nat) (data : List Byte) (check : State → Option Deny) : Prop :=
  s.serves n = true ∧ (s.asked n).writeDeny n index sub data (check (s.asked n)) = none

/-- A write that a network carries and that is refused for `d`. -/
def State.rejects (s : State) (n : Net) (index sub : Nat) (data : List Byte) (check : State → Option Deny) (d : Deny) : Prop :=
  s.serves n = true ∧ (s.asked n).writeDeny n index sub data (check (s.asked n)) = some d

/-- A tray command (Table 1.9) that a network carries and that nothing refuses. -/
def State.takes (s : State) (n : Net) (cmd : Nat) : Prop :=
  s.accepts n 0x2001 0 (leBytes 1 cmd) (fun s => s.commandDeny cmd)

/-- The network answered a request without an abort. -/
def State.answered (s : State) (n : Net) : Prop := (s.box n).answer = .ok

/-- An entry whose write does nothing but hold the value: it is no command, no enable, no bundle, label, image, key or response, and no
entry whose value the tray acts on at once. -/
def plainEntry (index sub : Nat) : Bool :=
  let o := index % 0x100
  if index < 0x2000 then decide (index ≠ 0x1010 ∧ index ≠ 0x1011 ∧ index ≠ 0x1F50)
  else if index < 0x3000 then
    !([0x2001, 0x2002, 0x2011, 0x2021, 0x2200, 0x2201, 0x2202, 0x2203, 0x2400, 0x2800].contains index)
      && !(decide (index = 0x2430 ∧ sub = 2))
  else if index < 0x4000 then
    !(decide (o = 0 ∧ sub = 3)) && !(decide (o = 2) && [3, 5, 8].contains sub)
      && !(decide (0x10 ≤ o ∧ o ≤ 0x4F ∧ o ≠ 0x2F ∧ sub = 1)) && !(decide (0x40 ≤ o ∧ o ≤ 0x4F ∧ sub = 8))
  else if index < 0x4100 then decide (4 ≤ sub)
  else decide (index ≠ 0x5003 ∧ index ≠ 0x7000) && !(decide (0x6100 ≤ index ∧ index < 0x6108 ∧ sub = 1))
    && !(decide (index = 0x6200) && [1, 6].contains sub)

/-- The last record that was written between two states: the last one of the log, or the last one held before step 13 (R428, R500). -/
def State.wrote (s t : State) (r : Record) : Prop :=
  (s.store.logPlaced = true → t.faults.last = some r)
  ∧ (s.store.logPlaced = false → s.boot.held.length < 256 → t.boot.held = s.boot.held ++ [r])

/-- The descriptor at `idx` may be issued next (R95, R198, R230, R266, R268, R321, R364): its row is not under test, its check and tag
are right, it may run in the issue's state, and its barrier, its strips, its streamed pieces, new rows, the mirror and its queue allow
it. -/
def State.ready (s : State) (i : Issue) (p : PartRun) (idx : Nat) : Prop :=
  let d := s.descAt p.chip i.slot p.part idx
  s.underTest (s.descRow i p idx) = false ∧ d.checkOk = true ∧ d.tenantTag = i.tenant
  ∧ (d.speculable = true ∨ (i.st = .committed ∧ i.waitsSlot = false)) ∧ p.barrierMet d.barrier d.pass = true
  ∧ s.stripsReady i p d = true ∧ s.pieceWaits i p idx = false ∧ s.layerWaits i p d = false ∧ s.specWaits i p.chip = false
  ∧ s.credit p.chip d.unitOf = true

/-- The next frame in sequence of a healthy peer, over a port that is up, with nothing held (R380). -/
def State.hears (s : State) (h : MootHdr) : Prop :=
  s.inParish = true ∧ bit s.members h.src = true ∧ h.src ≠ s.trayId ∧ h.src < 64 ∧ h.port < 2 ∧ s.portUp h.port = true
  ∧ h.unsequenced = false ∧ h.seq < 2 ^ 32 ∧ (s.peer h.src).nextExpect = h.seq ∧ (s.peer h.src).held = []
  ∧ (s.peer h.src).digestOk = true ∧ (s.peer h.src).healthy = true

/-- An unsequenced frame of a healthy peer, over a port that is up (R378, R380). -/
def State.hearsPlain (s : State) (h : MootHdr) : Prop :=
  s.inParish = true ∧ bit s.members h.src = true ∧ h.src ≠ s.trayId ∧ h.src < 64 ∧ h.port < 2 ∧ s.portUp h.port = true
  ∧ h.unsequenced = true ∧ (s.peer h.src).digestOk = true ∧ (s.peer h.src).healthy = true

/-- What a frame that ends a learning step, or starts one, may change. -/
def stepPieces : List Piece := [.boot, .cams, .chips, .draws, .faults, .groups, .issues, .jobs, .learn, .mail, .nextIssue, .od,
  .parish, .pend, .slots]

/-- What a change in the view of the parish may change: beside the parish its objects and records. -/
def viewPieces : List Piece := [.boot, .faults, .mail, .od, .parish]

/-- The frame comes from another tray of the parish over a port that is up (R377, R378). -/
def State.admits (s : State) (h : MootHdr) : Prop :=
  s.inParish = true ∧ bit s.members h.src = true ∧ h.src ≠ s.trayId ∧ h.src < 64 ∧ h.port < 2 ∧ s.portUp h.port = true

/-- The step in progress has not been applied on this tray (R388, R390). -/
def State.unapplied (s : State) : Prop := s.parish.appliedStep ≠ s.learn.step ∨ s.parish.applied = 0

/-- No update of this tray is complete, so that it has no READY to send (R388). -/
def State.notReady (s : State) : Prop := s.learn.phase ≠ 6 ∨ s.learn.updates ≠ []

/-- The start-up stands after step `n` of Table 15.4, and goes on. -/
def State.atStep (s : State) (n : Nat) : Prop :=
  (s.tray = .boot ∨ s.tray = .selfTest) ∧ s.power.step = n ∧ s.boot.stuck = false ∧ s.power.failing = none

/-- The canonical forms of the dictionary and of every chip's memories. -/
def State.canonical (s : State) : Prop :=
  s.od.wf = true ∧ ∀ x ∈ s.chips.toList, Memory.wf x.granary = true ∧ Memory.wf x.loft = true

end Sys2Proof.Machine
end

