-- ==== Sys2Proof/Certificates/Slice0/Obligations.lean ====
section
/-! DEFINITION. The statements for the provers. Each is a closed proposition; its docstring is the statement that OBLIGATIONS.json
carries. -/

open Sys2Proof Sys2Proof.Machine

/-- A step of a state with the command c at the front of its queue is exec of c on that state with the rest of the queue. -/
def Obligations.StepRunsFront : Prop := ∀ (s : State) (c : Instr) (rest : List Instr), s.pending = c :: rest → step s = exec c { s with pending := rest }

/-- The model's choice (log entry 2): a step of a state whose queue is empty answers that state. -/
def Obligations.EmptyQueueIdles : Prop := ∀ s : State, s.pending = [] → step s = .next s

/-- At reset the tray is off with its input switch open and no step of Table 15.4 ended, its queue, its fault log and its model
flash are empty, no network has a session, no issue and no model exists, every chip is powered down and none is failed, and
every entry of the dictionary is at its default. The values that the spec gives no reset for are those of log entries 6 to 9. -/
def Obligations.ResetState : Prop :=   State.reset.tray = .off ∧ State.reset.power.inputClosed = false ∧ State.reset.power.step = 0 ∧ State.reset.pending = []
  ∧ State.reset.faults.log = [] ∧ State.reset.store.flash = [] ∧ State.reset.issues = [] ∧ State.reset.command = 0
  ∧ (∀ n, State.reset.session n = none) ∧ (∀ n, State.reset.model n = none)
  ∧ (∀ c, (State.reset.chip c).failed = false ∧ (State.reset.chip c).railsOn = false ∧ (State.reset.chip c).tier = 0
      ∧ (State.reset.chip c).granary = [] ∧ (State.reset.chip c).loft = [])
  ∧ (∀ i j, j < 256 → State.reset.get i j = odDefault i j) ∧ State.reset.canonical

/-- With the tray off and its switch open, the supply closes the input switch, unless an overvoltage disconnect holds it; the
close after such a disconnect clears it. The rails rise to step 2 with the SFP+ supplies on, and the tray is in boot. The boot
ROM starts the counter at 0 and chooses the active bank at step 3, and the firmware starts at step 5. Nothing else changes. -/
def Obligations.SupplyAndBootSteps : Prop := ∀ s : State,
  (s.tray = .off → s.power.inputClosed = false → s.power.overvoltage = false →
    exec .supplyStart s = .next { s with power := { s.power with inputClosed := true, step := 0 } })
  ∧ (s.power.overvoltage = true → exec .supplyStart s = .next s)
  ∧ (s.tray = .off → s.power.inputClosed = false → s.power.overvoltage = true →
    exec .inputSwitchClose s = .next { s with power := { s.power with overvoltage := false, inputClosed := true, step := 0 } })
  ∧ ((s.tray = .off ∧ s.power.inputClosed = true) ∨ (s.tray = .boot ∧ s.power.step = 1) →
    exec .railsRise s = .next { s with tray := .boot, power := { s.power with
      step := 2, holdUp := true, rails := 7, extOn := vset (vset s.power.extOn 5 true) 6 true } })
  ∧ (s.atStep 2 → exec .bootRomStart s = .next { s with
      timebase := 0, boot := { s.boot with booted := s.boot.active }, power := { s.power with step := 3 } })
  ∧ (s.atStep 4 → exec .firmwareStart s = .next { s with power := { s.power with step := 5 } })

/-- At step 3, a chosen bank whose image passes R504 is booted with its security version; a bank that does not pass fails a
trial boot, whose first failure counts 1 and starts again at step 2; without a trial the other bank is booted where its image
passes, and the tray stays in boot where neither does. -/
def Obligations.FirmwareVerified : Prop := ∀ s : State, s.atStep 3 →
  (∀ b i p, s.bankOk s.boot.booted = true → s.boot.booted = b → vget s.boot.banks b = .image i p →
    exec .firmwareImageVerify s = .next { s with
      boot := { s.boot with booted := b, security := byteAt i 20 }, power := { s.power with step := 4 } })
  ∧ (s.bankOk s.boot.booted = false → s.boot.trial = true → s.boot.trialCount = 0 →
    exec .firmwareImageVerify s = .next { s with
      boot := { s.boot with trialCount := 1 }, power := { s.power with step := 2 } })
  ∧ (∀ b i p, s.bankOk s.boot.booted = false → s.boot.trial = false → s.bankOk (1 - s.boot.booted) = true →
      1 - s.boot.booted = b → vget s.boot.banks b = .image i p →
    exec .firmwareImageVerify s = .next { s with
      boot := { s.boot with booted := b, security := byteAt i 20 }, power := { s.power with step := 4 } })
  ∧ (s.bankOk s.boot.booted = false → s.boot.trial = false → s.bankOk (1 - s.boot.booted) = false →
    exec .firmwareImageVerify s = .next { s with boot := { s.boot with stuck := true } })

/-- In self-test the Storehouse is marked zeroed. At step 9 every chip that is not failed has its rails on in Drowse, and at
step 10 it runs at the Watch clock with its whole-chip test under way; failed chips do not change, and nothing but the chips and
the step number does. -/
def Obligations.ChipsComeUp : Prop := ∀ s : State,
  (s.tray = .selfTest → exec .storehouseInitComplete s = .next { s with store := { s.store with zeroed := true } })
  ∧ (s.atStep 7 → ∃ t, exec .chipRailsUp s = .next t ∧ t.power = { s.power with step := 9 } ∧ Keeps [.power, .chips] s t
      ∧ ∀ c < 16, t.chip c = if (s.chip c).failed then s.chip c
          else { s.chip c with railsOn := true, tier := 1, target := 1 })
  ∧ (s.atStep 9 → ∃ t, exec .linksTrained s = .next t ∧ t.power = { s.power with step := 10 } ∧ Keeps [.power, .chips] s t
      ∧ ∀ c < 16, t.chip c = if (s.chip c).failed then s.chip c
          else { s.chip c with tier := 2, target := 2, whole := some [] })

/-- Step 6 gives every entry that is stored its stored value, but for a set marked by a restore, clears those marks, takes the log
of a valid shutdown record, and holds the records of the last shutdown, of a reset and of the change to boot, in this order, so
that none is owed. Step 7 enters self-test, brings the CAN node to pre-operational with its boot-up message, and switches the encoder
and sensor supplies on. Step 12 clears every Granary and Loft, and later the clear of a released region zeroes exactly that
region. Step 13 places the log in the zeroed Storehouse and holds no record back any more. -/
def Obligations.SelfTestSteps : Prop := ∀ s : State,
  (s.atStep 5 → s.store.stored.wf = true → ∃ t, exec .valuesLoaded s = .next t ∧ t.power.step = 6 ∧ t.boot.pfOwed = false
      ∧ t.boot.resetCause = none ∧ t.store.loadComm = false ∧ t.store.loadApp = false
      ∧ (∀ i sub, sub < 256 → i ≠ 0x2100 → i ≠ 0x2400 → t.get i sub = match lookupKey (odKey i sub) s.store.stored with
          | some v => if (if i < 0x2000 then s.store.loadComm else s.store.loadApp) then s.get i sub else v
          | none => s.get i sub)
      ∧ (∀ r, s.boot.pfOwed = true → s.boot.pf = some r → r.valid = true → s.store.logPlaced = false → s.boot.held = [] →
          t.faults.log = r.log ∧ t.boot.held = [⟨noAngle, r.code, inputUnit, noTenant, 0, r.state + 256⟩]
            ++ (s.boot.resetCause.toList.map fun p => ⟨noAngle, p.1, reeveUnit, noTenant, 0, p.2⟩)
            ++ (if s.boot.fromState = 1 then [] else [⟨noAngle, 0x4000, 0, noTenant, 0, 256 * s.boot.fromState + 1⟩]))
      ∧ (s.boot.pfOwed = false → s.store.logPlaced = false → s.boot.held = [] →
          t.faults.log = s.faults.log ∧ t.boot.held = (s.boot.resetCause.toList.map fun p => ⟨noAngle, p.1, reeveUnit, noTenant, 0, p.2⟩)
            ++ (if s.boot.fromState = 1 then [] else [⟨noAngle, 0x4000, 0, noTenant, 0, 256 * s.boot.fromState + 1⟩]))
      ∧ Keeps [.od, .power, .boot, .mail, .parish, .faults, .store] s t)
  ∧ (s.atStep 6 → ∃ t, exec .selfTestStart s = .next t ∧ t.tray = .selfTest ∧ t.power.step = 7
      ∧ (∀ c, 7 ≤ c → c ≤ 12 → vget t.power.extOn c = true) ∧ t.can.nmt = .preop ∧ t.can.bootUps = s.can.bootUps + 1
      ∧ t.boot.restored = false ∧ t.boot.fuses = s.boot.fuses ∧ t.boot.banks = s.boot.banks
      ∧ Keeps [.boot, .cams, .can, .chips, .draws, .events, .faults, .groups, .issues, .jobs, .learn, .mail, .nextIssue, .od, .parish,
          .pend, .power, .sets, .shafts, .tray] s t)
  ∧ (s.atStep 10 → (∀ c < 16, (s.chip c).whole = none ∧ (s.chip c).railCycle = false) → ∃ t, exec (.chipClearComplete none) s = .next t ∧ t.power.step = 12
      ∧ (∀ c < 16, (t.chip c).granary = [] ∧ (t.chip c).loft = [] ∧ (t.chip c).regions = []) ∧ Keeps [.power, .chips] s t)
  ∧ (∀ c r, c < 16 → (s.chip c).regions = [r] → r.released = true → ∃ t, exec (.chipClearComplete (some (c, r.slot))) s = .next t
      ∧ (t.chip c).regions = [] ∧ (∀ a, r.granBase ≤ a → a < r.granBase + r.granSize → memRead (t.chip c).granary a = 0)
      ∧ (∀ a, r.loftBase ≤ a → a < r.loftBase + r.loftSize → memRead (t.chip c).loft a = 0)
      ∧ (∀ a, a < r.granBase ∨ r.granBase + r.granSize ≤ a → memRead (t.chip c).granary a = memRead (s.chip c).granary a)
      ∧ (∀ a, a < r.loftBase ∨ r.loftBase + r.loftSize ≤ a → memRead (t.chip c).loft a = memRead (s.chip c).loft a)
      ∧ sameChips c s t ∧ Keeps [.chips] s t)
  ∧ (s.atStep 12 → s.store.zeroed = true → (∀ c < 16, (s.chip c).failed = false) →
      ∃ t, exec .faultLogPlaced s = .next t ∧ t.store.logPlaced = true ∧ t.power.step = 13 ∧ t.boot.held = []
        ∧ (s.faults.log.length + s.boot.held.length ≤ 4096 → t.faults.log = s.faults.log ++ s.boot.held)
        ∧ Keeps [.od, .power, .boot, .chips, .faults, .store] s t)

/-- At step 14, once every bundle of model flash has been admitted again, the end of self-test confirms a trial boot and enters
ready, where no cause of safe-hold is present and autostart is off, or safe-hold for the first cause of Table 12.10. -/
def Obligations.SelfTestEnds : Prop := ∀ s : State, s.atStep 13 → s.store.readmit = [] →
  (s.causes = [] → s.flag 0x2000 2 = false → ∃ t, exec .selfTestEnd s = .next t ∧ t.tray = .ready ∧ t.power.step = 15
      ∧ t.boot.trial = false ∧ t.shafts = s.shafts ∧ t.tenants = s.tenants)
  ∧ (∀ c l, s.causes = c :: l → ∃ t, exec .selfTestEnd s = .next t ∧ t.tray = .safeHold ∧ t.holdCause = c ∧ t.power.step = 15
      ∧ t.boot.trial = false ∧ t.shafts = s.shafts ∧ t.tenants = s.tenants)

/-- A watchdog or lockstep reset of a living tray outside a trial boot starts again at step 3 with the tray in boot, keeps
fuses, banks, fault log and model flash, ends every session, loses the records held in Reeve, and notes its code with the state
before. A trial whose limit has passed does the same: its first failure is counted, and its second makes the other bank active
and empties its own. -/
def Obligations.ResetsAtTheBootRom : Prop := ∀ s : State,
  (s.alive = true → s.boot.trial = false →
    (∃ t, exec .reeveWatchdog s = .next t ∧ t.boot.resetCause = some (0x5F11, s.tray.code) ∧ t.tray = .boot ∧ t.power.step = 2
      ∧ t.boot.fuses = s.boot.fuses ∧ t.boot.banks = s.boot.banks ∧ t.boot.held = [] ∧ t.faults.log = s.faults.log
      ∧ t.store.flash = s.store.flash ∧ t.pending = s.pending ∧ ∀ n, t.session n = none)
    ∧ ∃ t, exec .lockstepMismatch s = .next t ∧ t.boot.resetCause = some (0x5F10, s.tray.code) ∧ t.tray = .boot ∧ t.power.step = 2
      ∧ t.boot.fuses = s.boot.fuses ∧ t.boot.banks = s.boot.banks ∧ t.boot.held = [] ∧ t.faults.log = s.faults.log
      ∧ t.store.flash = s.store.flash ∧ t.pending = s.pending ∧ ∀ n, t.session n = none)
  ∧ (s.boot.trial = true → s.tray = .selfTest → s.boot.selfTestAt + s.trialLimit ≤ s.micros →
    (s.boot.trialCount = 0 → ∃ t, exec .trialBootTimeout s = .next t ∧ t.tray = .boot ∧ t.power.step = 2 ∧ t.boot.trial = true
      ∧ t.boot.trialCount = 1 ∧ t.boot.banks = s.boot.banks ∧ t.boot.active = s.boot.active ∧ t.store.flash = s.store.flash)
    ∧ (s.boot.trialCount = 1 → ∃ t, exec .trialBootTimeout s = .next t ∧ t.tray = .boot ∧ t.power.step = 2 ∧ t.boot.trial = false
      ∧ t.boot.banks = vset s.boot.banks s.boot.active .empty ∧ t.boot.active = 1 - s.boot.active))

/-- A supply outside its range marks the band and raises 0x1002 or 0x1001 once in an episode, whose end clears both marks. The
warning and an overvoltage disconnect begin the power-fail sequence with codes 0x1003 and 0x1004: every issue ends, every
external supply and digital output is off, and no chip that is not failed has rails. When the record is written the tray is off
with that record in boot flash; fuses, banks and model flash stay. -/
def Obligations.SupplyEvents : Prop := ∀ s : State,
  (∀ high, s.tray ≠ .off → (if high then s.power.highRaised else s.power.lowRaised) = false →
      ∃ t, exec (.supplyOutOfRange high) s = .next t ∧ t.power.band = some high
      ∧ t.power.highRaised = (s.power.highRaised || high) ∧ t.power.lowRaised = (s.power.lowRaised || !high)
      ∧ s.wrote t ⟨s.stamp, if high then 0x1002 else 0x1001, inputUnit, noTenant, 0, 0⟩
      ∧ Keeps [.power, .od, .boot, .mail, .faults] s t)
  ∧ exec .supplyEpisodeEnd s = .next { s with power := { s.power with band := none, lowRaised := false, highRaised := false } }
  ∧ (s.tray ≠ .off → s.power.failing = none →
      (∃ t, exec .powerFailWarning s = .next t ∧ t.power.failing = some 0x1003 ∧ t.power.failState = s.tray.code ∧ t.issues = []
        ∧ (∀ c < 18, vget t.power.extOn c = false) ∧ (∀ i < 4, t.level i = false)
        ∧ ∀ c < 16, (s.chip c).failed = false → (t.chip c).railsOn = false ∧ (t.chip c).failed = false)
      ∧ ∃ t, exec .overvoltageDisconnect s = .next t ∧ t.power.failing = some 0x1004 ∧ t.power.overvoltage = true
        ∧ t.power.inputClosed = false ∧ t.issues = [])
  ∧ (∀ valid code, s.power.failing = some code → ∃ t, exec (.powerFailRecordWritten valid) s = .next t ∧ t.tray = .off
      ∧ t.boot.pf = some (s.pfRecord code valid) ∧ t.boot.pfOwed = true ∧ t.boot.fuses = s.boot.fuses
      ∧ t.boot.banks = s.boot.banks ∧ t.store.flash = s.store.flash ∧ t.faults = {} ∧ t.pending = s.pending)

/-- A fault of rails 1 to 7 raises 0x1010 and begins the power-fail sequence. A first fault of rails 8 and 9 of a chip in use
raises it with the chip in detail bits [7:4], switches the chip's rails off and starts their cycle, and leaves the other chips;
the end of the cycle brings the chip up at the Watch clock with its reload under way and its whole-chip test in the place of the
tests that were pending. -/
def Obligations.RailFaults : Prop := ∀ s : State,
  (∀ rail c, rail < 8 → s.tray ≠ .off → s.power.failing = none → s.store.logPlaced = true →
    ∃ t, exec (.railFault rail c) s = .next t ∧ t.power.failing = some 0x1003
      ∧ t.faults.last = some ⟨s.stamp, 0x1010, railUnit rail 0, noTenant, 0, rail⟩)
  ∧ (∀ rail c, 8 ≤ rail → c < 16 → s.tray ≠ .off → (s.chip c).railsOn = true → (s.chip c).failed = false → (s.chip c).tier ≠ 0 →
      (s.chip c).railFaultAt = none → s.issues = [] → s.learn.copies = [] →
      ∃ t, exec (.railFault rail c) s = .next t ∧ (t.chip c).railCycle = true ∧ (t.chip c).railsOn = false
        ∧ (t.chip c).railFaultAt = some s.running ∧ sameChips c s t ∧ t.power = s.power
        ∧ s.wrote t ⟨s.stamp, 0x1010, railUnit rail c, noTenant, 0, rail + 16 * c⟩)
  ∧ (∀ c, c < 16 → (s.chip c).railCycle = true → exec (.chipRailCycleComplete c) s = .next { s with chips := (vset s.chips c
      { s.chip c with
        railCycle := false, railsOn := true, tier := 2, target := 2, reloading := true, whole := some (s.chip c).tests, tests := [] }) })

/-- On a locked port with fewer than 8 failures a challenge of 16 fresh bytes is held. A response ends the challenge, opens the
port where the owner key verifies it and counts a failure where not, and writes 0x8404 or 0x8403. With the lock fuse blown
provisioning changes nothing; unblown, it only blows bits of the item named, and the security version never falls. -/
def Obligations.DebugPort : Prop := ∀ s : State, s.tray ≠ .off →
  (s.boot.fuses.debugLock = true → s.boot.debugFailures < 8 → exec .debugChallengeRead s = .next { s with
      draws := s.draws + 1,
      boot := { s.boot with debugChallenge := some ((List.range 16).map (Config.challengeByte s.draws)) } })
  ∧ (∀ sig, s.boot.fuses.debugLock = true → ∃ t, exec (.debugUnlock sig) s = .next t
      ∧ t.boot.debugChallenge = none ∧ t.boot.debugUnlocked = (s.boot.debugUnlocked || s.debugOk sig)
      ∧ t.boot.debugFailures = s.boot.debugFailures + (if s.debugOk sig then 0 else 1) ∧ t.boot.fuses = s.boot.fuses
      ∧ s.wrote t ⟨s.stamp, if s.debugOk sig then 0x8404 else 0x8403, reeveUnit, noTenant, 0, 0⟩
      ∧ Keeps [.od, .boot, .mail, .faults] s t)
  ∧ (∀ item data, s.boot.fuses.debugLock = true → exec (.fuseProvision item data) s = .next s)
  ∧ (∀ data, s.boot.fuses.debugLock = false →
      exec (.fuseProvision 5 data) s = .next { s with boot := { s.boot with fuses := { s.boot.fuses with
        ownerKey := blow 64 s.boot.fuses.ownerKey data } } }
      ∧ exec (.fuseProvision 6 data) s = .next { s with boot := { s.boot with fuses := { s.boot.fuses with
        wrapKey := blow 32 s.boot.fuses.wrapKey data } } }
      ∧ exec (.fuseProvision 7 data) s = .next { s with boot := { s.boot with fuses := { s.boot.fuses with
        debugLock := bit (byteAt data 0) 0 } } }
      ∧ exec (.fuseProvision 8 data) s = .next { s with boot := { s.boot with fuses := { s.boot.fuses with
        security := max s.boot.fuses.security (min 64 (bitCount data)) } } })

/-- The end of an SDO firmware download writes the inactive bank as pending where the image passes R504 and answers without an
abort; where it does not, the bank is empty, the answer is abort 0x0609 0030, and the refusal shows 0x8401 with the first
failing word. The active bank does not change. An FoE firmware write that is allowed opens the transfer. -/
def Obligations.FirmwareDownload : Prop := ∀ (s : State) (image : List Byte),
  (∀ n x, (s.box n).xfer = some x → x.index = 0x1F50 → x.upload = false → (s.box n).foeFirmware = false → s.boot.active < 2 →
    (s.imageFlaw image = none → ∃ t, exec (.firmwareDownloadComplete n image) s = .next t
      ∧ vget t.boot.banks (1 - s.boot.active) = .image image true ∧ vget t.boot.banks s.boot.active = vget s.boot.banks s.boot.active
      ∧ (t.box n).xfer = none ∧ t.answered n ∧ Keeps [.boot, .mail] s t)
    ∧ (∀ o v, s.imageFlaw image = some (o, v) → ∃ t, exec (.firmwareDownloadComplete n image) s = .next t
      ∧ vget t.boot.banks (1 - s.boot.active) = .empty ∧ vget t.boot.banks s.boot.active = vget s.boot.banks s.boot.active
      ∧ (t.box n).xfer = none ∧ (t.box n).answer = .abort 0x06090030
      ∧ t.faults.refusal.code = 0x8401 ∧ t.faults.refusal.word = o / 4))
  ∧ (s.ecat.al = .boot → s.alive = true → s.power.failing = none → s.foeFirmwareFlaw = none →
      ∃ t, exec (.foeFirmwareWrite .ecat) s = .next t ∧ (t.box .ecat).foeFirmware = true ∧ Keeps [.mail] s t)

/-- A command 0x01 that nothing refuses is valid in ready alone, enters watching and is answered without an abort; shafts, jobs,
issues, tenants and the networks' states do not change. A command 0x03 that nothing refuses is valid in watching alone and
enters learning. -/
def Obligations.WatchingAndLearningEntered : Prop := ∀ (s : State) (n : Net),
  (s.takes n 1 → ∃ t, exec (.startWatching n) s = .next t ∧ s.tray = .ready ∧ t.tray = .watching ∧ t.answered n
      ∧ Keeps [.od, .tray, .power, .boot, .mail, .cams, .ports, .chips, .slots, .faults] s t)
  ∧ (s.takes n 3 → ∃ t, exec (.startLearning n) s = .next t ∧ s.tray = .watching ∧ t.tray = .learning ∧ t.answered n
      ∧ t.boot.banks = s.boot.banks ∧ t.shafts = s.shafts ∧ t.jobs = s.jobs ∧ t.tenants = s.tenants)

/-- A command 0x02 that nothing refuses takes the tray to ready at once, with its cameras off and no trigger pending, unless a
learning step is in progress: then it is shown as pending and nothing else changes. The same holds of command 0x04, which takes
the tray to watching. The pending command takes effect once no step is in progress, and until then nothing changes. -/
def Obligations.WorkStopped : Prop := ∀ (s : State) (n : Net),
  (s.takes n 2 → (s.tray = .watching ∨ s.learn.phase = 0) → ∃ t, exec (.stop n) s = .next t ∧ t.tray = .ready ∧ t.command = 0
      ∧ t.answered n ∧ (∀ k < 2, (t.cam k).power = false) ∧ (∀ k < 16, (t.pendOf k).queue = [])
      ∧ t.shafts = s.shafts ∧ t.tenants = s.tenants)
  ∧ (s.takes n 2 → s.tray = .learning → s.learn.phase ≠ 0 →
      exec (.stop n) s = .next ({ s.asked n with command := 2 }.answer n .ok))
  ∧ (s.takes n 4 → s.learn.phase = 0 → ∃ t, exec (.stopLearning n) s = .next t ∧ s.tray = .learning ∧ t.tray = .watching
      ∧ t.command = 0 ∧ t.answered n ∧ t.shafts = s.shafts ∧ t.tenants = s.tenants)
  ∧ (s.takes n 4 → s.learn.phase ≠ 0 → exec (.stopLearning n) s = .next ({ s.asked n with command := 4 }.answer n .ok))
  ∧ (s.tray = .learning → s.learn.phase = 0 → s.command = 2 → ∃ t, exec .pendingCommandEffect s = .next t ∧ t.tray = .ready
      ∧ t.command = 0 ∧ t.shafts = s.shafts ∧ t.tenants = s.tenants)
  ∧ (s.tray = .learning → s.learn.phase = 0 → s.command = 4 → ∃ t, exec .pendingCommandEffect s = .next t ∧ t.tray = .watching
      ∧ t.command = 0 ∧ t.shafts = s.shafts ∧ t.tenants = s.tenants)
  ∧ (s.learn.phase ≠ 0 → exec .pendingCommandEffect s = .next s)

/-- A command that nothing refuses has the effect of Table 1.9. 0x05 enters service and leaves neither network with process
data. 0x06 leaves service: without a pending bank for ready, where no cause of safe-hold is present, and never in EtherCAT BOOT;
with one it activates that bank as a trial with count 0 and restarts. 0x07 takes safe-hold to ready. 0x08 restarts with fuses,
banks and model flash kept. -/
def Obligations.ServiceAndHold : Prop := ∀ (s : State) (n : Net),
  (s.takes n 5 → ∃ t, exec (.enterService n) s = .next t ∧ s.tray = .ready ∧ t.tray = .service ∧ t.answered n
      ∧ t.can.nmt ≠ .operational ∧ t.ecat.al ≠ .safeop ∧ t.ecat.al ≠ .op ∧ t.shafts = s.shafts ∧ t.tenants = s.tenants)
  ∧ (s.takes n 6 → s.pendingBank = none → s.causes = [] → ∃ t, exec (.leaveService n) s = .next t ∧ s.tray = .service
      ∧ t.tray = .ready ∧ t.answered n ∧ t.ecat.al ≠ .boot ∧ t.shafts = s.shafts ∧ t.tenants = s.tenants)
  ∧ (∀ b, s.takes n 6 → s.pendingBank = some b → ∃ t, exec (.leaveService n) s = .next t ∧ t.tray = .boot ∧ t.boot.active = b
      ∧ t.boot.trial = true ∧ t.boot.trialCount = 0 ∧ t.power.step = 1 ∧ t.boot.fuses = s.boot.fuses)
  ∧ (s.takes n 7 → ∃ t, exec (.clearSafeHold n) s = .next t ∧ s.tray = .safeHold ∧ t.tray = .ready ∧ t.answered n
      ∧ t.shafts = s.shafts ∧ t.tenants = s.tenants)
  ∧ (s.takes n 8 → ∃ t, exec (.restart n) s = .next t ∧ t.tray = .boot ∧ t.power.step = 1 ∧ t.issues = []
      ∧ t.boot.fuses = s.boot.fuses ∧ t.boot.banks = s.boot.banks ∧ t.store.flash = s.store.flash)

/-- Where the network serves requests and the session may write OD 0x2001: a command code not listed in Table 1.9 ends with SDO
abort 0x0609 0030, and a listed command that is not valid in the present state, or that arrives while another command is
pending, ends with SDO abort 0x0800 0022. In either case neither the tray state nor the pending command changes. -/
def Obligations.CommandsRefused : Prop := ∀ (s : State) (n : Net), s.serves n = true → s.rightsDeny n 0x2001 0 = none →
  (∀ code, (code = 0 ∨ 8 < code) → code < 256 →
    ∃ t, exec (.trayCommandUnknown n code) s = .next t ∧ (t.box n).answer = .abort 0x06090030 ∧ t.tray = s.tray
      ∧ t.command = s.command ∧ Keeps [.mail, .slots, .faults] s t)
  ∧ (∀ p ∈ [(1, Instr.startWatching n), (2, .stop n), (3, .startLearning n), (4, .stopLearning n), (5, .enterService n),
        (6, .leaveService n), (7, .clearSafeHold n), (8, .restart n)],
      (s.command ≠ 0 ∨ s.commandValid p.1 = false) →
      ∃ t, exec p.2 s = .next t ∧ (t.box n).answer = .abort 0x08000022 ∧ t.tray = s.tray ∧ t.command = s.command
        ∧ Keeps [.mail, .slots, .faults] s t)

/-- An accepted write of OD 0x2011:01 outside safe-hold stores the map, and a newly designated chip is in Fallow; an accepted
write of OD 0x2002:01 or :02 stores the bound and leaves the other. No other object of the dictionary changes, and beside the
dictionary only the chips' tiers and the mailbox do. -/
def Obligations.SparesAndBounds : Prop := ∀ (s : State) (n : Net),
  (∀ v, s.accepts n 0x2011 1 (leBytes 2 v) (fun s => s.spareDeny v) → v < 65536 → s.tray ≠ .safeHold →
    ∃ t, exec (.spareMapWrite n v) s = .next t ∧ t.nat 0x2011 1 = v ∧ t.answered n
      ∧ (∀ c < 16, bit v c = true → bit (s.nat 0x2011 1) c = false → (t.chip c).tier = 0)
      ∧ sameEntries (fun i => decide (i = 0x2011)) s t ∧ Keeps [.od, .mail, .chips, .slots] s t)
  ∧ (∀ sub v, s.accepts n 0x2002 sub (leBytes 1 v) (fun s => s.boundDeny sub v) → v < 256 → (sub = 1 ∨ sub = 2) →
    ∃ t, exec (.tierBoundsWrite n sub v) s = .next t ∧ t.nat 0x2002 sub = v ∧ t.nat 0x2002 (3 - sub) = s.nat 0x2002 (3 - sub)
      ∧ t.answered n ∧ sameEntries (fun i => decide (i = 0x2002)) s t ∧ Keeps [.od, .mail, .chips, .slots] s t)

/-- A write of one tier bound that would make the floor higher than the ceiling as then held, or of a code above 4, by a session
that may write it, ends with SDO abort 0x0609 0030 and leaves the dictionary and every chip unchanged. -/
def Obligations.TierBoundsRefused : Prop := ∀ (s : State) (n : Net) (sub v : Nat), v < 256 →
  s.serves n = true → s.rightsDeny n 0x2002 sub = none →
  ((sub = 1 ∧ v < s.nat 0x2002 2) ∨ (sub = 2 ∧ s.nat 0x2002 1 < v) ∨ ((sub = 1 ∨ sub = 2) ∧ 4 < v)) →
    ∃ t, exec (.tierBoundsWrite n sub v) s = .next t ∧ (t.box n).answer = .abort 0x06090030 ∧ t.od = s.od ∧ t.chips = s.chips

/-- An upward step takes the chip one tier up: from Fallow to Drowse with its reload begun. A downward transition waits while a
committed round runs in a cluster that goes off, and then starts for Fallow from Drowse alone; its end reaches that tier, and in
Fallow Granary and Loft are lost. The end of a reload clears its mark. A known-answer check that passes lets the chip take wake
jobs; one that fails puts a Bellwether that has not been retired under test. No other chip changes but by the reload. -/
def Obligations.TierSteps : Prop := ∀ (s : State) (c : Nat), c < 16 →
  ((s.chip c).rising = true → (s.chip c).tier = 0 → exec (.tierStepComplete c) s = .next { s with chips := (vset s.chips c
      { s.chip c with rising := false, tier := 1, reloading := true, bellOk := false }) })
  ∧ ((s.chip c).rising = true → (s.chip c).tier ≠ 0 → ∃ t, exec (.tierStepComplete c) s = .next t
      ∧ (t.chip c).tier = (s.chip c).tier + 1 ∧ sameChips c s t ∧ Keeps [.chips, .issues] s t)
  ∧ ((s.chip c).falling = true → (s.chip c).dropTo = none → (s.chip c).holdsDown (s.chip c).nextDown = false →
      ∃ t, exec (.downwardTierStart c) s = .next t ∧ (t.chip c).dropTo = some (s.chip c).nextDown
        ∧ (t.chip c).tier = (s.chip c).tier ∧ sameChips c s t ∧ Keeps [.chips] s t)
  ∧ ((s.chip c).holdsDown (s.chip c).nextDown = true → exec (.downwardTierStart c) s = .next s)
  ∧ (∀ k, (s.chip c).dropTo = some k → ∃ t, exec (.downwardTierComplete c) s = .next t ∧ (t.chip c).tier = k
      ∧ (t.chip c).dropTo = none ∧ (k = 0 → (t.chip c).granary = [] ∧ (t.chip c).loft = []) ∧ sameChips c s t
      ∧ Keeps [.chips, .issues] s t)
  ∧ ((s.chip c).reloading = true → ∃ t, exec (.fallowReloadComplete c) s = .next t ∧ (t.chip c).reloading = false
      ∧ (t.chip c).tier = (s.chip c).tier ∧ Keeps [.chips, .issues, .learn, .slots] s t)
  ∧ ((s.chip c).tier ≠ 0 → (s.chip c).failed = false → (s.chip c).bellOk = false →
      (∃ t, exec (.bellwetherCheckComplete c true) s = .next t ∧ (t.chip c).bellOk = true ∧ sameChips c s t ∧ Keeps [.chips] s t)
      ∧ (s.isRetired (.bellwether c) = false →
          ∃ t, exec (.bellwetherCheckComplete c false) s = .next t ∧ t.underTest (.bellwether c) = true
            ∧ (t.chip c).bellOk = false ∧ sameChips c s t ∧ Keeps [.chips] s t))

/-- A request that the tray state and the present AL state admit is taken: INIT ends the session and the open transfers, PREOP,
BOOT and OP are entered, and so is SAFEOP, from PREOP where the sync modes agree, in DC mode with a SYNC0 cycle that R443 allows, and
the mappings fit; where they do not, PREOP stays with the AL status code of the flaw. In OP the levels of the field master are taken
where EtherCAT has control and no move of control holds them. Any other request ends with AL status code 0x0011 and the controller stays in its state. Which requests a present
state admits is log entry 71. -/
def Obligations.EtherCatStates : Prop := ∀ s : State, s.alive = true →
  (∃ t, exec .escRequestInit s = .next t ∧ t.ecat.al = .init ∧ t.ecat.error = false ∧ t.session .ecat = none
      ∧ (t.box .ecat).xfer = none ∧ t.box .can = s.box .can ∧ Keeps [.ecat, .mail, .slots] s t)
  ∧ (s.ecat.al.reaches .preop = true → ∃ t, exec .escRequestPreop s = .next t ∧ t.ecat.al = .preop ∧ t.ecat.error = false
      ∧ t.session .ecat = s.session .ecat ∧ t.box .can = s.box .can ∧ Keeps [.ecat, .mail, .slots] s t)
  ∧ (s.carriesPdo = true → (s.ecat.al = .preop ∧ s.safeopFlaw = none ∨ s.ecat.al = .safeop ∨ s.ecat.al = .op) →
      ∃ t, exec .escRequestSafeop s = .next t ∧ t.ecat.al = .safeop ∧ t.ecat.error = false ∧ Keeps [.ecat] s t)
  ∧ (∀ code, s.carriesPdo = true → s.ecat.al = .preop → s.safeopFlaw = some code →
      exec .escRequestSafeop s = .next { s with ecat := { s.ecat with status := code, error := true } })
  ∧ (s.carriesPdo = true → (s.ecat.al = .safeop ∨ s.ecat.al = .op) → ∃ t, exec .escRequestOp s = .next t ∧ t.ecat.al = .op
      ∧ t.ecat.error = false
      ∧ (s.controlling = .ecat → s.outputs.holdMaster = false → t.outputs = { s.outputs with master := s.nat 0x6200 1 })
      ∧ Keeps [.ecat, .outputs] s t)
  ∧ (s.tray = .service → s.ecat.al.reaches .boot = true → ∃ t, exec .escRequestBoot s = .next t ∧ t.ecat.al = .boot
      ∧ t.ecat.error = false ∧ t.session .ecat = s.session .ecat ∧ t.box .can = s.box .can ∧ Keeps [.ecat, .mail, .slots] s t)
  ∧ (∀ p ∈ [(AlState.preop, Instr.escRequestPreop), (.safeop, .escRequestSafeop), (.op, .escRequestOp), (.boot, .escRequestBoot)],
      (s.alAllowed p.1 = false ∨ s.ecat.al.reaches p.1 = false) →
      exec p.2 s = .next { s with ecat := { s.ecat with status := 0x0011, error := true } })

/-- Operational is entered in ready, watching, learning and safe-hold, and in self-test and service the NMT state stays. Stop
and pre-operational set the NMT state and nothing else. The two resets end the session and open transfers of CAN FD, send one
boot-up message and enter pre-operational; only the reset of communication takes the CAN configuration into force. -/
def Obligations.CanNodeStates : Prop := ∀ s : State, s.alive = true →
  (s.carriesPdo = true → ∃ t, exec .nmtStartRemote s = .next t ∧ t.can = { s.can with nmt := .operational }
      ∧ Keeps [.can, .outputs] s t)
  ∧ (s.carriesPdo = false → ∃ t, exec .nmtStartRemote s = .next t ∧ t.can = s.can ∧ Keeps [.mail] s t)
  ∧ exec .nmtStop s = .next { s with can := { s.can with nmt := .stopped } }
  ∧ exec .nmtEnterPreop s = .next { s with can := { s.can with nmt := .preop } }
  ∧ (∃ t, exec .nmtResetNode s = .next t ∧ t.can.nmt = .preop ∧ t.can.bootUps = s.can.bootUps + 1 ∧ t.can.node = s.can.node
      ∧ t.can.arbRate = s.can.arbRate ∧ t.can.dataRate = s.can.dataRate ∧ t.session .can = none ∧ (t.box .can).xfer = none ∧ t.box .ecat = s.box .ecat ∧ t.tray = s.tray
      ∧ Keeps [.can, .mail, .slots] s t)
  ∧ (∃ t, exec .nmtResetCommunication s = .next t ∧ t.can.nmt = .preop ∧ t.can.bootUps = s.can.bootUps + 1
      ∧ t.can.node = s.nat 0x2020 1 ∧ t.can.arbRate = s.nat 0x2020 2 ∧ t.can.dataRate = s.nat 0x2020 3 ∧ t.session .can = none ∧ (t.box .can).xfer = none ∧ t.box .ecat = s.box .ecat
      ∧ Keeps [.can, .mail, .slots] s t)

/-- In OP the expiry of the SM2 watchdog takes the controller to SAFEOP with AL status code 0x001B and writes 0x8303, and in DC
mode the loss of SYNC0 with 0x002C and 0x8305. Link loss ends the EtherCAT session and writes 0x8304 without a change of AL
state. Heartbeats are counted and a consumed one restarts its timer; a consumer timeout writes 0x8301 and keeps the NMT state, and
bus-off ends the CAN FD session; its recovery counts the event and writes 0x8302. The error state is held. -/
def Obligations.NetworkLosses : Prop := ∀ s : State, s.alive = true →
  (s.ecat.al = .op → ∃ t, exec .sm2WatchdogExpiry s = .next t ∧ t.ecat = { s.ecat with
        al := .safeop, status := 0x001B, error := true, lossOpen := true }
      ∧ s.wrote t ⟨s.stamp, 0x8303, netUnit .ecat, noTenant, 0, 0⟩ ∧ Keeps [.ecat, .od, .boot, .mail, .faults] s t)
  ∧ (s.ecat.al = .op → s.nat 0x1C32 1 = 2 → ∃ t, exec .sync0Loss s = .next t ∧ t.ecat = { s.ecat with
        al := .safeop, status := 0x002C, error := true, lossOpen := true }
      ∧ s.wrote t ⟨s.stamp, 0x8305, netUnit .ecat, noTenant, 0, 0⟩ ∧ Keeps [.ecat, .od, .boot, .mail, .faults] s t)
  ∧ (∃ t, exec .ethercatLinkLoss s = .next t ∧ t.ecat = { s.ecat with linkUp := false }
      ∧ t.session .ecat = none ∧ t.session .can = s.session .can ∧ s.wrote t ⟨s.stamp, 0x8304, netUnit .ecat, noTenant, 0, 0⟩
      ∧ Keeps [.ecat, .od, .boot, .mail, .faults] s t)
  ∧ (s.can.busOff = false → s.nat 0x1017 0 ≠ 0 → (∀ m, s.can.beatAt = some m → m + 1000 * s.nat 0x1017 0 ≤ s.micros) →
      exec .canHeartbeatProduce s = .next { s with can := { s.can with
        heartbeats := s.can.heartbeats + 1, beatAt := some s.micros } })
  ∧ (∀ m, s.can.beatAt = some m → s.micros < m + 1000 * s.nat 0x1017 0 → exec .canHeartbeatProduce s = .next s)
  ∧ (∀ node, s.consumed.1 = node → s.consumed.2 ≠ 0 → exec (.heartbeatConsumerReceive node) s = .next { s with can := { s.can with
      hbHeard := some s.micros, hbLost := false } })
  ∧ (∀ h, s.can.hbHeard = some h → s.consumed.2 ≠ 0 → h + 1000 * s.consumed.2 ≤ s.micros →
      ∃ t, exec .heartbeatConsumerTimeout s = .next t ∧ t.can = { s.can with hbHeard := none, hbLost := true }
        ∧ s.wrote t ⟨s.stamp, 0x8301, netUnit .can, noTenant, 0, 0⟩ ∧ Keeps [.can, .od, .boot, .mail, .faults] s t)
  ∧ (∃ t, exec .canBusOff s = .next t ∧ t.can = { s.can with busOff := true } ∧ t.session .can = none
      ∧ t.box .ecat = s.box .ecat ∧ Keeps [.can, .mail, .slots] s t)
  ∧ (s.can.busOff = true → ∃ t, exec .canBusOffRecovery s = .next t ∧ t.can = { s.can with busOff := false, errorPassive := false }
      ∧ t.nat 0x2020 4 = (s.nat 0x2020 4 + 1) % 2 ^ 32 ∧ s.wrote t ⟨s.stamp, 0x8302, netUnit .can, noTenant, 0, 0⟩
      ∧ Keeps [.can, .od, .boot, .mail, .faults] s t)
  ∧ (∀ p, exec (.canErrorStateChange p) s = .next { s with can := { s.can with errorPassive := p } })

/-- An accepted write of a field of OD 0x2200 + i stores the value and keeps the levels of the shaft's inputs. A shaft of its own
encoder, or none, is left without a reference, at speed 0, without overspeed and within tracking. No shaft changes but that one and those
derived from shaft 0, and neither the tray state nor the networks' states, the tenants nor the tokens do. -/
def Obligations.ShaftConfigured : Prop := ∀ (s : State) (n : Net) (i sub : Nat) (v : Int), i < 4 → 1 ≤ sub → sub ≤ 14 →
  s.accepts n (0x2200 + i) sub (fieldBytes (0x2200 + i) sub v) (fun s => s.shaftDeny i sub v) →
  ∃ t, exec (.shaftConfigWrite n i sub v) s = .next t ∧ t.num (0x2200 + i) sub = v ∧ t.answered n
    ∧ (t.kind i ≠ 4 → (t.shaft i).referenced = false ∧ (t.shaft i).speed = 0 ∧ (t.shaft i).overspeed = false ∧ (t.shaft i).beyond = false)
    ∧ (t.shaft i).a = (s.shaft i).a ∧ (t.shaft i).b = (s.shaft i).b ∧ (t.shaft i).z = (s.shaft i).z
    ∧ (∀ j < 4, j ≠ i → s.kind j ≠ 4 → t.shaft j = s.shaft j)
    ∧ Keeps [.boot, .cams, .chips, .draws, .events, .faults, .groups, .issues, .jobs, .learn, .mail, .nextIssue, .od, .parish, .pend,
        .sets, .shafts, .slots] s t

/-- Levels count as they stand behind the edge filter of the shaft. On a shaft that is not in input loss, an edge in a sensed direction
moves the edge count by one in that direction, keeps the levels, stamps the time and publishes a new prediction epoch; the angle of a
quadrature shaft that is not referenced moves by its pitch where Z is low. No other shaft changes but those derived from shaft 0. A
change that is no counted edge keeps the levels and nothing else, and so does every change during input loss. An illegal
transition of kind 1, up to the fourth in one revolution, is noted and moves neither count nor direction; the fifth makes the angle
uncertain. -/
def Obligations.CountedEdges : Prop := ∀ (s : State) (i : Nat) (a b z : Level), i < 4 → s.alive = true →
  ∀ la lb lz : Bool, s.filtered i (s.shaft i).a a = la → s.filtered i (s.shaft i).b b = lb → s.filtered i (s.shaft i).z z = lz →
  (∀ fwd, (s.shaft i).inputLoss = false → s.edgeSense i (s.shaft i) la lb = some fwd → ∃ t, exec (.countedEdge i a b z) s = .next t
      ∧ (t.shaft i).edges = (s.shaft i).edges + (if fwd then 1 else -1) ∧ (t.shaft i).backward = !fwd
      ∧ (t.shaft i).a = la ∧ (t.shaft i).b = lb ∧ (t.shaft i).z = lz ∧ (t.shaft i).edgeTime = s.timebase
      ∧ (t.shaft i).traj.epoch = ((s.shaft i).traj.epoch + 1) % 65536
      ∧ (s.kind i = 1 → s.cfg i 4 = 1 → lz = false → (s.shaft i).counted = true → (s.shaft i).referenced = false →
          (s.shaft i).beyond = false →
          (t.shaft i).angle = (s.shaft i).edgeAngle + (edgeStep (s.edgesPer i) 0 (s.shaft i).edge fwd).2)
      ∧ (∀ j < 4, j ≠ i → s.kind j ≠ 4 → t.shaft j = s.shaft j)
      ∧ Keeps [.boot, .cams, .chips, .draws, .events, .faults, .groups, .issues, .jobs, .learn, .loadFrom, .mail, .nextIssue, .od,
          .parish, .pend, .sets, .shafts] s t)
  ∧ ((s.shaft i).inputLoss = true ∨ s.edgeSense i (s.shaft i) la lb = none ∧ (s.kind i ≠ 1 ∨ la = (s.shaft i).a ∨ lb = (s.shaft i).b) →
      exec (.countedEdge i a b z) s = .next { s with shafts := (vset s.shafts i { s.shaft i with a := la, b := lb, z := lz }) })
  ∧ (s.kind i = 1 → (s.shaft i).inputLoss = false → la ≠ (s.shaft i).a → lb ≠ (s.shaft i).b →
      (s.shaft i).illegalFrom = (s.shaft i).edges.fdiv (max 1 (s.edgesPer i)) →
      ((s.shaft i).illegal < 4 → exec (.illegalTransition i a b) s = .next { s with shafts := (vset s.shafts i
        { s.shaft i with a := la, b := lb, illegal := (s.shaft i).illegal + 1 }) }
        ∧ exec (.countedEdge i a b z) s = .next { s with shafts := (vset s.shafts i
        { s.shaft i with a := la, b := lb, z := lz, illegal := (s.shaft i).illegal + 1 }) })
      ∧ ((s.shaft i).illegal = 4 → (s.shaft i).illegalRaised = false → ∃ t, exec (.illegalTransition i a b) s = .next t
        ∧ (t.shaft i).uncertain = true ∧ (t.shaft i).edges = (s.shaft i).edges ∧ (t.shaft i).backward = (s.shaft i).backward
        ∧ (t.shaft i).angle = (s.shaft i).angle ∧ (∀ j < 4, j ≠ i → s.kind j ≠ 4 → t.shaft j = s.shaft j)
        ∧ Keeps [.boot, .cams, .chips, .draws, .events, .faults, .groups, .issues, .jobs, .learn, .mail,
            .nextIssue, .od, .parish, .pend, .sets, .shafts] s t))

/-- In kind 1 every edge of A or B alone is a counted edge. Its direction is forward where A leads B: A rises while B is low, B
rises while A is high, A falls while B is high, B falls while A is low. The other four edges are backward, and the invert flag
swaps the two. -/
def Obligations.QuadratureDirection : Prop := ∀ (s : State) (i : Nat) (x : Shaft), s.kind i = 1 →
  (∀ b, x.a = false → x.b = b → s.edgeSense i x true b = some (b == s.flag (0x2200 + i) 8))
  ∧ (∀ b, x.a = true → x.b = b → s.edgeSense i x false b = some (b != s.flag (0x2200 + i) 8))
  ∧ (∀ a, x.b = false → x.a = a → s.edgeSense i x a true = some (a != s.flag (0x2200 + i) 8))
  ∧ (∀ a, x.b = true → x.a = a → s.edgeSense i x a false = some (a == s.flag (0x2200 + i) 8))

/-- A timeout of a running encoder shaft, and the end of a revolution of extrapolation, put it into standstill with speed 0
where its angle stands. Eight revolutions after the last good reference, or after its count began, the angle of an encoder shaft whose
reference source is at hand becomes uncertain. A fault on A of a watched shaft puts it into input loss, uncertain and without a
reference, and the return of the last lost pair ends the loss. A fault on a pair that the kind does not use changes nothing but the
record of that pair. No shaft changes but that one and those derived from shaft 0. -/
def Obligations.ShaftTimers : Prop := ∀ (s : State) (i : Nat), i < 4 →
  (s.alive = true → 1 ≤ s.kind i → s.kind i ≤ 3 → (s.shaft i).standstill = false → (s.shaft i).inputLoss = false →
      120000000 * s.pitchesAhead i ≤ (s.micros - (s.shaft i).edgeTime / 100) * s.edgesPer i →
      ∃ t, exec (.standstillTimeout i) s = .next t ∧ (t.shaft i).standstill = true ∧ (t.shaft i).speed = 0
        ∧ (t.shaft i).hist = [] ∧ (t.shaft i).angle = (s.shaft i).angle ∧ (∀ j < 4, j ≠ i → s.kind j ≠ 4 → t.shaft j = s.shaft j)
        ∧ Keeps [.boot, .cams, .chips, .draws, .events, .faults, .groups, .issues, .jobs, .learn, .mail, .nextIssue, .od, .parish,
          .pend, .sets, .shafts] s t)
  ∧ (1 ≤ s.kind i → s.kind i ≤ 3 → s.cfg i 4 ≠ 0 → (s.cfg i 4 = 1 → (s.shaft i).faultZ = false) → (s.shaft i).inputLoss = false →
      (s.shaft i).noRefRaised = false → 8 * turn.natAbs ≤ ((s.shaft i).angle - (s.shaft i).goodRef).natAbs →
      ∃ t, exec (.noGoodReference i) s = .next t ∧ (t.shaft i).uncertain = true ∧ (t.shaft i).noRefRaised = true
        ∧ (t.shaft i).angle = (s.shaft i).angle ∧ (∀ j < 4, j ≠ i → s.kind j ≠ 4 → t.shaft j = s.shaft j)
        ∧ Keeps [.boot, .cams, .chips, .draws, .events, .faults, .groups, .issues, .jobs, .learn, .mail, .nextIssue, .od, .parish,
          .pend, .sets, .shafts] s t)
  ∧ (s.alive = true → s.watches i .a = true → (s.shaft i).faultA = false → (s.shaft i).inputLoss = false →
      ∃ t, exec (.encoderPairFault i .a) s = .next t ∧ (t.shaft i).faultA = true ∧ (t.shaft i).inputLoss = true
        ∧ (t.shaft i).referenced = false ∧ (t.shaft i).uncertain = true ∧ (t.shaft i).angle = (s.shaft i).angle
        ∧ (∀ j < 4, j ≠ i → s.kind j ≠ 4 → t.shaft j = s.shaft j)
        ∧ Keeps [.boot, .cams, .chips, .draws, .events, .faults, .groups, .issues, .jobs, .learn, .mail, .nextIssue, .od, .parish,
          .pend, .sets, .shafts] s t)
  ∧ (∀ p, s.watches i p = false → exec (.encoderPairFault i p) s = .next { s with shafts := (vset s.shafts i ((s.shaft i).setFault p true)) })
  ∧ (1 ≤ s.kind i → s.kind i ≤ 3 → (s.shaft i).inputLoss = true → (s.shaft i).faultB = false → ∃ t, exec (.encoderInputReturn i .a) s = .next t
        ∧ (t.shaft i).inputLoss = false ∧ (t.shaft i).faultA = false ∧ (t.shaft i).counted = false
        ∧ (t.shaft i).angle = (s.shaft i).angle ∧ (t.shaft i).referenced = (s.shaft i).referenced
        ∧ (∀ j < 4, j ≠ i → s.kind j ≠ 4 → t.shaft j = s.shaft j)
        ∧ Keeps [.boot, .cams, .chips, .draws, .events, .faults, .groups, .issues, .jobs, .learn, .mail, .nextIssue, .od, .parish,
          .pend, .sets, .shafts] s t)
  ∧ ((s.shaft i).inputLoss = true → (s.shaft i).standstill = false → 1 ≤ s.kind i → s.kind i ≤ 3 →
      turn.natAbs ≤ ((s.shaft i).covered (s.timebase - (s.shaft i).lossAt)).natAbs →
      ∃ t, exec (.inputLossExtrapolationEnd i) s = .next t ∧ (t.shaft i).standstill = true ∧ (t.shaft i).speed = 0
        ∧ (t.shaft i).inputLoss = true
        ∧ (t.shaft i).angle = (s.shaft i).lossFrom + clampInt (-turn) turn ((s.shaft i).covered (s.timebase - (s.shaft i).lossAt))
        ∧ (∀ j < 4, j ≠ i → s.kind j ≠ 4 → t.shaft j = s.shaft j)
        ∧ Keeps [.boot, .cams, .chips, .draws, .events, .faults, .groups, .issues, .jobs, .learn, .mail, .nextIssue, .od, .parish,
          .pend, .sets, .shafts] s t)

/-- For a periodic series with pn and pd at least 1, a forward movement from a mark to an angle crosses an angle of the series
exactly when one lies above the mark and at or below the angle. The one reported is the last: its k gives phase + floor(k × 2^24
× pn / pd), the angle for k + 1 lies beyond, and the count is the number of integers k whose angle lies in the movement. -/
def Obligations.SeriesCrossings : Prop := ∀ (q : Series) (mark angle : Int), 1 ≤ q.pn → 1 ≤ q.pd →
  (∀ k, q.at_ k = q.phase + floorDiv (k * turn * q.pn) q.pd)
  ∧ (q.crossed false mark angle = none ↔ ∀ k, q.at_ k ≤ angle → q.at_ k ≤ mark)
  ∧ (∀ k a n, q.crossed false mark angle = some (k, a, n) →
      a = q.at_ k ∧ mark < a ∧ a ≤ angle ∧ angle < q.at_ (k + 1) ∧ 1 ≤ n ∧ q.at_ (k - n) ≤ mark ∧ mark < q.at_ (k - n + 1))

/-- The angle of a derived shaft is floor(A0 × num / den) + offset, with A0 × num negated by the invert flag: with den at least
1 it is the one integer whose distance to the offset, times den, is at most that product and exceeds it less den. On an update
of shaft 0 the shaft takes that angle. -/
def Obligations.DerivedShaftAngle : Prop := ∀ (s : State) (i : Nat) (a0 : Int), 1 ≤ s.cfg i 7 →
  ((s.derived i a0 - s.cfg i 5) * s.cfg i 7 ≤ (if s.flag (0x2200 + i) 8 then -(a0 * s.cfg i 6) else a0 * s.cfg i 6)
    ∧ (if s.flag (0x2200 + i) 8 then -(a0 * s.cfg i 6) else a0 * s.cfg i 6) < (s.derived i a0 - s.cfg i 5 + 1) * s.cfg i 7)
  ∧ (∀ restart band frames, 1 ≤ i → i < 4 → ((s.followOne restart band frames i).shaft i).angle = s.derived i (s.shaft 0).angle)

/-- An accepted enable sets OD 3x1n:01 and holds nothing back, and an accepted disable clears it and discards what was held. The
release of a held crossing fires it, and a substitution that fell due at standstill in an earlier microsecond fires at the present
angle, both outside the 10 µs of the last fire. Outside learning either counts the fire of a tenant's event in :0A with its angle in
:0B where the angle is certain; of a camera it opens a capture, or is counted as coalesced into the open one. Neither moves a mark. -/
def Obligations.AngleEvents : Prop := ∀ (s : State),
  (∀ n t e, t < 16 → e < 16 → s.accepts n (blk t (0x10 + e)) 1 [1] (fun s => s.eventDeny t e) →
      ∃ r, exec (.angleEventEnable n t e) s = .next r ∧ r.flag (blk t (0x10 + e)) 1 = true ∧ r.answered n
      ∧ (s.flag (blk t (0x10 + e)) 1 = false → (r.ev t e).held = none ∧ (r.ev t e).inert = false)
      ∧ sameEntries (fun i => decide (i = blk t (0x10 + e))) s r ∧ Keeps [.od, .events, .mail, .slots] s r)
  ∧ (∀ n t e, t < 16 → e < 16 → s.accepts n (blk t (0x10 + e)) 1 [0] (fun _ => none) →
      ∃ r, exec (.angleEventDisable n t e) s = .next r
      ∧ r.flag (blk t (0x10 + e)) 1 = false ∧ r.answered n ∧ (r.ev t e).held = none ∧ (r.ev t e).substDue = none
      ∧ sameEntries (fun i => decide (i = blk t (0x10 + e))) s r ∧ Keeps [.od, .events, .mail, .slots] s r)
  ∧ (∀ t e c, t < 16 → e < 16 → (s.ev t e).held = some c → s.evBusy (.tenant t e) = false → s.evOn (.tenant t e) = true →
      s.tray ≠ .learning → (s.shaft (s.evShaft (.tenant t e))).uncertain = false →
      ∃ r, exec (.eventHoldRelease (.tenant t e)) s = .next r
        ∧ r.nat (blk t (0x10 + e)) 10 = (s.nat (blk t (0x10 + e)) 10 + 1) % 2 ^ 32 ∧ r.num (blk t (0x10 + e)) 11 = c.angle
        ∧ (r.ev t e).held = none ∧ (r.ev t e).lastFire = some s.timebase
        ∧ Keeps [.boot, .cams, .chips, .draws, .events, .faults, .groups, .issues, .jobs, .learn, .mail, .nextIssue, .od, .parish, .pend] s r)
  ∧ (∀ t e due, t < 16 → e < 16 → (s.ev t e).substDue = some due → due < s.micros → s.evPolicy (.tenant t e) = 1 →
      s.evOn (.tenant t e) = true → s.evBusy (.tenant t e) = false → s.tray ≠ .learning →
      (s.shaft (s.evShaft (.tenant t e))).standstill = true → (s.shaft (s.evShaft (.tenant t e))).armed = true →
      (s.shaft (s.evShaft (.tenant t e))).uncertain = false → ∃ r, exec (.timeSubstituteFire (.tenant t e)) s = .next r
        ∧ r.nat (blk t (0x10 + e)) 10 = (s.nat (blk t (0x10 + e)) 10 + 1) % 2 ^ 32
        ∧ r.num (blk t (0x10 + e)) 11 = (s.shaft (s.evShaft (.tenant t e))).angle
        ∧ (r.ev t e).substDue = some (due + s.evInterval (.tenant t e))
        ∧ Keeps [.boot, .cams, .chips, .draws, .events, .faults, .groups, .issues, .jobs, .learn, .mail, .nextIssue, .od, .parish, .pend] s r)
  ∧ (∀ k c, k < 2 → (s.cam k).ev.held = some c → s.evBusy (.camera k) = false → s.evOn (.camera k) = true →
      ∃ r, exec (.eventHoldRelease (.camera k)) s = .next r ∧ (r.cam k).ev.held = none ∧ (r.cam k).ev.lastFire = some s.timebase
        ∧ ((s.cam k).capture = none → (r.cam k).pulse = true ∧ (r.cam k).capture.map (fun o => (o.k, o.angle)) = some (c.k, c.angle))
        ∧ (∀ o, (s.cam k).capture = some o → r.nat (camIndex k) 23 = (s.bump (camIndex k) 23).nat (camIndex k) 23)
        ∧ (∀ j < 2, j ≠ k → r.cam j = s.cam j) ∧ Keeps [.cams, .od] s r)
  ∧ (∀ k due, k < 2 → (s.cam k).ev.substDue = some due → due < s.micros → s.evPolicy (.camera k) = 1 → s.evOn (.camera k) = true →
      s.evBusy (.camera k) = false → (s.shaft (s.evShaft (.camera k))).standstill = true →
      (s.shaft (s.evShaft (.camera k))).armed = true → ∃ r, exec (.timeSubstituteFire (.camera k)) s = .next r
        ∧ (r.cam k).ev.substDue = some (due + s.evInterval (.camera k)) ∧ (r.cam k).ev.lastFire = some s.timebase
        ∧ ((s.cam k).capture = none → (r.cam k).pulse = true
          ∧ (r.cam k).capture.map Capture.angle = some (s.shaft (s.evShaft (.camera k))).angle)
        ∧ (∀ j < 2, j ≠ k → r.cam j = s.cam j) ∧ Keeps [.cams, .od] s r)

/-- A message of a configured shaft, or of shaft 0, is laid out as Table 2.7 with its check, and raises the sequence number by
one. A mirror takes a message whose length and check are right and whose sequence number follows the last one of that shaft, or
that is the first of that shaft, and is no longer stale. It discards one whose check is wrong, and one that leaves a gap in the
sequence, of which it keeps the sequence number alone. Without a message for 64 µs it is stale, and after 1 ms it raises 0x2401
once. -/
def Obligations.AngleMessages : Prop := ∀ (s : State) (c i : Nat), c < 16 → i < 4 →
  (s.alive = true → (s.kind i ≠ 0 ∨ i = 0) → ∃ t, exec (.angleMessageSend c i) s = .next t
      ∧ vget (t.chip c).mirror.lastSent i = s.angleBody c i ++ leBytes 2 (crc16 (s.angleBody c i))
      ∧ vget (t.chip c).mirror.seqOut i = (vget (s.chip c).mirror.seqOut i + 1) % 256 ∧ sameChips c s t ∧ Keeps [.chips] s t)
  ∧ (s.alive = true → s.kind i = 0 → i ≠ 0 → exec (.angleMessageSend c i) s = .next s)
  ∧ (∀ b, b.length = 32 → crc16 (b.take 30) = leAt b 30 2 → ((vget (s.chip c).mirror.shafts (byteAt b 26 % 4)).valid = false
        ∨ (mirrorOf b).seq = ((vget (s.chip c).mirror.shafts (byteAt b 26 % 4)).seq + 1) % 256) →
      ∃ t, exec (.angleMessageReceive c b) s = .next t ∧ vget (t.chip c).mirror.shafts (byteAt b 26 % 4) = mirrorOf b
      ∧ (t.chip c).mirror.stale = false ∧ (t.chip c).mirror.staleRaised = false ∧ (t.chip c).mirror.lastValid = s.timebase
      ∧ (∀ j, j ≠ byteAt b 26 % 4 → vget (t.chip c).mirror.shafts j = vget (s.chip c).mirror.shafts j)
      ∧ sameChips c s t ∧ Keeps [.chips] s t)
  ∧ (∀ b, b.length = 32 → crc16 (b.take 30) = leAt b 30 2 → (vget (s.chip c).mirror.shafts (byteAt b 26 % 4)).valid = true →
      (mirrorOf b).seq ≠ ((vget (s.chip c).mirror.shafts (byteAt b 26 % 4)).seq + 1) % 256 →
      exec (.angleMessageReceive c b) s = .next { s with chips := (vset s.chips c { s.chip c with mirror := { (s.chip c).mirror with
        shafts := vset (s.chip c).mirror.shafts (byteAt b 26 % 4)
          { vget (s.chip c).mirror.shafts (byteAt b 26 % 4) with seq := (mirrorOf b).seq } } }) })
  ∧ (∀ b, (b.length ≠ 32 ∨ crc16 (b.take 30) ≠ leAt b 30 2) → exec (.angleMessageReceive c b) s = .next s)
  ∧ (s.mirrorQuiet c 6400 = true → exec (.mirrorStale c) s = .next { s with chips := (vset s.chips c
      { s.chip c with mirror := { (s.chip c).mirror with stale := true } }) })
  ∧ (s.mirrorQuiet c 6400 = false → exec (.mirrorStale c) s = .next s)
  ∧ (s.mirrorQuiet c 100000 = true → (s.chip c).mirror.staleRaised = false → ∃ t, exec (.mirrorStaleFault c) s = .next t
      ∧ s.wrote t ⟨s.stamp, 0x2401, chipUnit c, noTenant, 0, 0⟩ ∧ (t.chip c).mirror.stale = true
      ∧ (t.chip c).mirror.staleRaised = true ∧ sameChips c s t ∧ Keeps [.od, .boot, .mail, .chips, .faults] s t)
  ∧ ((s.mirrorQuiet c 100000 = false ∨ (s.chip c).mirror.staleRaised = true) → exec (.mirrorStaleFault c) s = .next s)

/-- For a shaft whose angle fits 64 bits, with the timebase below 2^64, the message that the master sends is 32 bytes long,
passes its check, and is read by a mirror as the same angle, speed, acceleration, timebase, status, sequence number and
prediction epoch. Rounding of speed and acceleration is log entry 4, and a value beyond its field shows the limit (log entry
77). -/
def Obligations.AngleMessageRoundTrip : Prop := ∀ (s : State) (c i : Nat), i < 4 → -(2 ^ 63 : Int) ≤ (s.shaft i).angle → (s.shaft i).angle < 2 ^ 63 → s.timebase < 2 ^ 64 →
  vget (s.chip c).mirror.seqOut i < 256 → (s.shaft i).traj.epoch < 65536 →
  let b := s.angleBody c i ++ leBytes 2 (crc16 (s.angleBody c i))
  b.length = 32 ∧ crc16 (b.take 30) = leAt b 30 2 ∧ byteAt b 26 = i
  ∧ mirrorOf b = ⟨true, vget (s.chip c).mirror.seqOut i, (s.shaft i).angle,
      satInt32 (reported 0x2F04 ((s.shaft i).speed * 6553600) (s.shaft i).speedDen),
      satInt32 (reported 0x2F08 ((s.shaft i).accel * 167772160000) (s.shaft i).accelDen), s.timebase,
      (s.shaft i).status (s.kind i), (s.shaft i).traj.epoch⟩

/-- From step 3 of the start-up on, an update of n ticks of 10 ns advances the timebase by n and changes neither the tray state,
the power, the networks' states, the slots, the tenants, the outputs nor the commands that wait. Before that, and while the tray
is off, it changes nothing. -/
def Obligations.TimePasses : Prop := ∀ (s : State) (n : Nat),
  (s.tray ≠ .off → 3 ≤ s.power.step → ∃ t, exec (.interpolationUpdate n) s = .next t ∧ t.timebase = s.timebase + n
      ∧ Keeps [.boot, .cams, .chips, .draws, .events, .faults, .groups, .issues, .jobs, .learn, .loadFrom, .mail, .nextIssue, .od, .parish,
        .pend, .sets, .shafts, .timebase] s t)
  ∧ ((s.tray = .off ∨ s.power.step < 3) → exec (.interpolationUpdate n) s = .next s)

/-- While watching or learning, on a port with enabled channels: a frame of the right length, or any frame in master role, gives
each of the port's channels the sample of its slot with its time, ends bridging and clock loss, and counts one more good frame up
to 16. A first frame of the wrong length in slave role is bridged with the last sample of each channel and writes 0x3003. In slave
role the loss of the clock marks the port, loses its good frames and ends the frames under way of its channels' groups, with
0x3002; before more than 2 frame periods have passed, and in master role, nothing changes. A measured rate is shown in each channel,
and in slave role marks the port where it lies more than 0.5 percent off. -/
def Obligations.SerialAudio : Prop := ∀ (s : State) (p : Nat), p < 2 → s.runs = true → s.portChannels p ≠ [] →
  (∀ slots bits, (s.masterPort p = true ∨ bits = s.nat (0x2300 + (s.portChannels p).headD 0) 6 * s.nat (0x2300 + (s.portChannels p).headD 0) 5) →
      ∃ t, exec (.tdmFrameReceive p slots bits) s = .next t
      ∧ t.tdm p = { s.tdm p with
          sync := some s.timebase, bad := 0, slip := false, bridged := false, clockLoss := false, good := min 16 ((s.tdm p).good + 1) }
      ∧ (∀ c ∈ s.portChannels p, (t.chan c).samples.head? = some (s.sampleTime c (s.tdm p).sync,
          slotSample (s.nat (0x2300 + c) 4) (s.nat (0x2300 + c) 5) ((slots[s.nat (0x2300 + c) 3]?).getD 0)))
      ∧ (∀ c, c < 8 → c ∉ s.portChannels p → t.chan c = s.chan c) ∧ (∀ q, q ≠ p → t.tdm q = s.tdm q)
      ∧ Keeps [.ports, .channels, .chips, .draws, .faults, .groups, .issues, .jobs, .boot, .mail, .od] s t)
  ∧ (∀ slots bits, s.masterPort p = false →
      bits ≠ s.nat (0x2300 + (s.portChannels p).headD 0) 6 * s.nat (0x2300 + (s.portChannels p).headD 0) 5 → (s.tdm p).bad = 0 →
      ∃ t, exec (.tdmFrameReceive p slots bits) s = .next t
      ∧ t.tdm p = { s.tdm p with
          bad := 1, slip := true, sync := some s.timebase, good := if (s.tdm p).good < 16 then 0 else (s.tdm p).good, bridged := true }
      ∧ (∀ c ∈ s.portChannels p, (t.chan c).samples.head? = some (s.sampleTime c (s.tdm p).sync,
          (((s.chan c).samples.head?).map Prod.snd).getD 0))
      ∧ s.wrote t ⟨s.stamp, 0x3003, portUnit p, noTenant, 0, s.portDetail p⟩
      ∧ Keeps [.ports, .channels, .groups, .od, .boot, .mail, .faults] s t)
  ∧ (s.masterPort p = false → (s.tdm p).clockLoss = false → s.portQuiet p = true → ∃ t, exec (.tdmClockLoss p) s = .next t
      ∧ t.tdm p = { s.tdm p with clockLoss := true, good := 0 }
      ∧ (∀ c ∈ s.portChannels p, (t.group (s.nat (0x2300 + c) 14)).runs = [])
      ∧ ((∀ c ∈ s.portChannels p, (s.group (s.nat (0x2300 + c) 14)).runs = []) →
          s.wrote t ⟨s.stamp, 0x3002, portUnit p, noTenant, 0, s.portDetail p⟩)
      ∧ Keeps [.boot, .chips, .draws, .faults, .groups, .issues, .jobs, .mail, .od, .ports] s t)
  ∧ ((s.masterPort p = true ∨ s.portQuiet p = false) → exec (.tdmClockLoss p) s = .next s)
  ∧ (∀ rate, s.masterPort p = true → ∃ t, exec (.tdmRateMeasurement p rate) s = .next t
      ∧ (∀ c ∈ s.portChannels p, t.nat (0x2300 + c) 22 = rate % 2 ^ 32) ∧ Keeps [.od] s t)
  ∧ (∀ rate : Nat, s.masterPort p = false → ∃ t, exec (.tdmRateMeasurement p rate) s = .next t
      ∧ (∀ c ∈ s.portChannels p, t.nat (0x2300 + c) 22 = rate % 2 ^ 32)
      ∧ (t.tdm p).rateLoss = decide (100 * s.nat (0x2300 + (s.portChannels p).headD 0) 7
          < 200 * ((rate : Int) - (100 * s.nat (0x2300 + (s.portChannels p).headD 0) 7 : Nat)).natAbs)
      ∧ Keeps [.boot, .chips, .draws, .faults, .groups, .issues, .jobs, .mail, .od, .ports] s t)

/-- The oldest frame of a group ends only once it has passed its last position: where no channel of the group is lost it leaves the
frames under way and is counted on each channel of its group; where one is lost it leaves them and is counted there as not
analysed. A strip transfer whose issue has ended leaves the queue of its chip, one whose data is there is noted with its issue
and leaves it, and the next strips that wait take its place. A transfer for a job that waits for a complete frame leaves the queue
too, once its data is there and no issue of that job is left unfinished, or its frame is no longer under way; it waits while one
is left. -/
def Obligations.FramesComplete : Prop := ∀ s : State,
  (∀ g, g < 8 → (s.group g).runs = [] → exec (.resamplerFrameComplete g) s = .next s)
  ∧ (∀ g r rest, (s.group g).runs = r :: rest → r.last = none → exec (.resamplerFrameComplete g) s = .next s)
  ∧ (∀ g r rest v, g < 8 → (s.group g).runs = r :: rest → r.last = some v → (s.groupChannels g).any s.chanLost = false →
      ∃ t, exec (.resamplerFrameComplete g) s = .next t ∧ (t.group g).runs = rest
        ∧ (∀ c ∈ s.groupChannels g, t.nat (0x2300 + c) 18 = (s.nat (0x2300 + c) 18 + 1) % 2 ^ 32)
        ∧ Keeps [.boot, .cams, .chips, .draws, .faults, .groups, .issues, .jobs, .mail, .nextIssue, .od, .pend] s t)
  ∧ (∀ g r rest v, g < 8 → (s.group g).runs = r :: rest → r.last = some v → (s.groupChannels g).any s.chanLost = true →
      ∃ t, exec (.resamplerFrameComplete g) s = .next t ∧ (t.group g).runs = rest
        ∧ (∀ c ∈ s.groupChannels g, t.nat (0x2300 + c) 19 = (s.nat (0x2300 + c) 19 + 1) % 2 ^ 32)
        ∧ Keeps [.boot, .chips, .draws, .faults, .groups, .issues, .jobs, .mail, .od] s t)
  ∧ (∀ c, (s.chip c).strips = [] → exec (.stripTransferComplete c) s = .next s)
  ∧ (∀ c id n rest, c < 16 → (s.chip c).strips = (.issue id, n) :: rest → s.issue id = none →
      exec (.stripTransferComplete c) s = .next { s with chips := (vset s.chips c { s.chip c with strips := rest }.feedStrips) })
  ∧ (∀ c id n rest i p b, c < 16 → (s.chip c).strips = (.issue id, n) :: rest → s.issue id = some i → i.part c = some p →
      p.copy.isSome = true → s.stripData i.kind i.index i.k n = some b → ∃ t, exec (.stripTransferComplete c) s = .next t
        ∧ (t.chip c).strips = rest ++ (s.chip c).stripsWait.take (16 - rest.length)
        ∧ t.issue id = some { i with stripsIn := (c, n) :: i.stripsIn } ∧ sameChips c s t ∧ Keeps [.chips, .issues] s t)
  ∧ (∀ c t j k n rest m, c < 16 → (s.chip c).strips = (.job t j k, n) :: rest → s.jobModel t j = some m →
      s.underWay (s.jobDesc t j).kind (s.jobDesc t j).index k = false →
      exec (.stripTransferComplete c) s = .next { s with chips := (vset s.chips c { s.chip c with strips := rest }.feedStrips) })
  ∧ (∀ c t j k n rest m b, c < 16 → (s.chip c).strips = (.job t j k, n) :: rest → s.jobModel t j = some m →
      s.underWay (s.jobDesc t j).kind (s.jobDesc t j).index k = true →
      (∀ o ∈ s.issues, o.tenant = t → o.job = j → o.finished = true) →
      s.stripData (s.jobDesc t j).kind (s.jobDesc t j).index k n = some b → ∃ r, exec (.stripTransferComplete c) s = .next r
        ∧ (r.chip c).strips = rest ++ (s.chip c).stripsWait.take (16 - rest.length) ∧ sameChips c s r ∧ Keeps [.chips] s r)
  ∧ (∀ c t j k n m o, (s.chip c).strips = [(.job t j k, n)] → s.jobModel t j = some m →
      s.underWay (s.jobDesc t j).kind (s.jobDesc t j).index k = true → o ∈ s.issues → o.tenant = t → o.job = j → o.finished = false →
      exec (.stripTransferComplete c) s = .next s)

/-- Reset is released where CAM_12V is on, and there alone. The setup list of an enabled camera out of reset is sent in order; a
negative acknowledge of a write marks the camera failed after the entries up to it and raises 0x3106 with the entry number, and of a
wait there is none. To a camera that is off or in reset nothing is sent. The trigger switch opens once the pulse has lasted its
width, and not before. Nothing of the other camera changes. -/
def Obligations.CameraControl : Prop := ∀ (s : State) (k : Nat), k < 2 →
  ((s.cam k).power = true → exec (.cameraResetRelease k) s = .next { s with cams := (vset s.cams k { s.cam k with resetN := true }) })
  ∧ ((s.cam k).power = false → exec (.cameraResetRelease k) s = .next s)
  ∧ ((s.cam k).enabled = true → (s.cam k).resetN = true →
      exec (.cciSetupSend k none) s = .next { s with cams := (vset s.cams k { s.cam k with cci := cciSteps (s.bytes (camIndex k) 20) }) })
  ∧ (∀ n, (s.cam k).enabled = true → (s.cam k).resetN = true → 4 * n < (s.bytes (camIndex k) 20).length →
      byteAt (s.bytes (camIndex k) 20) (4 * n + 3) = 0 → ∃ t, exec (.cciSetupSend k (some n)) s = .next t
      ∧ t.cam k = { s.cam k with cci := cciSteps ((s.bytes (camIndex k) 20).take (4 * (n + 1))), failed := true }
      ∧ (∀ j, j ≠ k → t.cam j = s.cam j) ∧ s.wrote t ⟨s.stamp, 0x3106, camUnit k, noTenant, 0, 4096 * (8 + k) + n % 4096⟩
      ∧ Keeps [.cams, .od, .boot, .mail, .faults] s t)
  ∧ (∀ n, byteAt (s.bytes (camIndex k) 20) (4 * n + 3) ≠ 0 → exec (.cciSetupSend k (some n)) s = .next s)
  ∧ (∀ nack, ((s.cam k).enabled = false ∨ (s.cam k).resetN = false) → exec (.cciSetupSend k nack) s = .next s)
  ∧ ((s.cam k).pulseAt + 100 * s.nat (camIndex k) 8 ≤ s.timebase →
      exec (.triggerPulseEnd k) s = .next { s with cams := (vset s.cams k { s.cam k with pulse := false }) })
  ∧ (s.timebase < (s.cam k).pulseAt + 100 * s.nat (camIndex k) 8 → exec (.triggerPulseEnd k) s = .next s)

/-- A frame start on virtual channel 0 begins an open capture that is not late, and one that no capture waits for is only
counted as discarded. A row of the right type and length with a good check, of a frame begun, not late and not yet full, appends
the cropped row or nothing. The frame end of a full frame that is not late closes the capture and counts it. A late capture closes
at its timeout and is counted as failed; before that, and with no capture open, the timeout changes nothing. Any packet on another
virtual channel is only counted. -/
def Obligations.CameraFrames : Prop := ∀ (s : State) (k : Nat), k < 2 →
  (∀ o, (s.cam k).capture = some o → o.started = false → s.captureLate k o = false → ∃ t, exec (.csiFrameStart k 0) s = .next t
      ∧ (t.cam k).capture = some { o with started := true }
      ∧ (s.ringTaken (8 + k) < 8 → t.cams = (vset s.cams k { s.cam k with capture := some { o with started := true } })
          ∧ Keeps [.cams, .chips] s t)
      ∧ Keeps [.boot, .cams, .chips, .draws, .faults, .groups, .issues, .jobs, .mail, .od, .pend] s t)
  ∧ ((∀ o, (s.cam k).capture = some o → o.started = true ∨ s.captureLate k o = true) → ∃ t, exec (.csiFrameStart k 0) s = .next t
      ∧ t.nat (camIndex k) 22 = (s.nat (camIndex k) 22 + 1) % 2 ^ 32 ∧ Keeps [.od] s t)
  ∧ (∀ o payload, (s.cam k).capture = some o → o.started = true → s.captureLate k o = false →
      payload.length * 8 = s.nat (camIndex k) 11 * pixelBits (s.nat (camIndex k) 10) → o.rows < s.nat (camIndex k) 12 →
      ∃ t d, exec (.csiLongPacket k 0 (dataType (s.nat (camIndex k) 10)) .ok true payload) s = .next t
        ∧ (t.cam k).capture = some { o with rows := o.rows + 1, data := o.data ++ d }
        ∧ (o.rows < s.nat (camIndex k) 15 ∨ s.nat (camIndex k) 15 + s.nat (camIndex k) 17 ≤ o.rows → d = [])
        ∧ (s.nat (camIndex k) 15 ≤ o.rows → o.rows < s.nat (camIndex k) 15 + s.nat (camIndex k) 17 →
            d = (List.range (s.nat (camIndex k) 16)).flatMap (fun n => pixelBytes (s.nat (camIndex k) 10) (s.nat (camIndex k) 18)
              (pixelAt (s.nat (camIndex k) 10) payload (s.nat (camIndex k) 14 + n))))
        ∧ (∀ j, j ≠ k → t.cam j = s.cam j) ∧ Keeps [.cams] s t)
  ∧ (∀ o, (s.cam k).capture = some o → o.started = true → s.captureLate k o = false → o.rows = s.nat (camIndex k) 12 →
      ∃ t, exec (.csiFrameEnd k 0) s = .next t ∧ (t.cam k).capture = none
        ∧ t.nat (camIndex k) 21 = (s.nat (camIndex k) 21 + 1) % 2 ^ 32
        ∧ Keeps [.boot, .cams, .chips, .draws, .faults, .groups, .issues, .jobs, .mail, .nextIssue, .od, .pend] s t)
  ∧ (∀ o, (s.cam k).capture = some o → s.captureLate k o = true → ∃ t, exec (.captureTimeout k) s = .next t
      ∧ (t.cam k).capture = none ∧ t.nat (camIndex k) 22 = (s.nat (camIndex k) 22 + 1) % 2 ^ 32
      ∧ Keeps [.boot, .cams, .chips, .draws, .faults, .issues, .jobs, .mail, .od] s t)
  ∧ ((∀ o, (s.cam k).capture = some o → s.captureLate k o = false) → exec (.captureTimeout k) s = .next s)
  ∧ (∀ vc, vc ≠ 0 → exec (.csiFrameStart k vc) s = .next { s with cams := (vset s.cams k { s.cam k with otherVc := (s.cam k).otherVc + 1 }) }
      ∧ exec (.csiFrameEnd k vc) s = .next { s with cams := (vset s.cams k { s.cam k with otherVc := (s.cam k).otherVc + 1 }) }
      ∧ ∀ dt crc payload, exec (.csiLongPacket k vc dt .ok crc payload) s
        = .next { s with cams := (vset s.cams k { s.cam k with otherVc := (s.cam k).otherVc + 1 }) })

/-- An accepted enable of a job sets OD 3x2n:01, and where the job was disabled it has no drop counted, no on-time issue and no
hold-over. An accepted disable clears it, and leaves no trigger of the job pending and no hold-over. Neither changes an issue that
has been made, a shaft, nor any other object of the dictionary. -/
def Obligations.JobsEnabled : Prop := ∀ (s : State) (n : Net) (t j : Nat), t < 16 → j < 15 →
  (s.accepts n (blk t (0x20 + j)) 1 [1] (fun s => s.jobDeny t j) → ∃ r, exec (.jobEnable n t j) s = .next r
      ∧ r.flag (blk t (0x20 + j)) 1 = true ∧ r.answered n
      ∧ (s.jobOn t j = false → (r.job t j).drops = 0 ∧ (r.job t j).onTime = false ∧ (r.job t j).holdOver = none)
      ∧ sameEntries (fun i => decide (i = blk t (0x20 + j))) s r ∧ Keeps [.chips, .jobs, .mail, .od, .slots] s r)
  ∧ (s.accepts n (blk t (0x20 + j)) 1 [0] (fun _ => none) → ∃ r, exec (.jobDisable n t j) s = .next r
      ∧ r.flag (blk t (0x20 + j)) 1 = false ∧ r.answered n
      ∧ (s.jobOn t j = true → (∀ q ∈ (r.pendOf t).queue, q.job ≠ j) ∧ (r.job t j).holdOver = none)
      ∧ sameEntries (fun i => decide (i = blk t (0x20 + j))) s r ∧ Keeps [.cams, .chips, .groups, .jobs, .mail, .od, .pend, .slots] s r)

/-- The oldest pending trigger of a tenant whose committed slots are free, and which no earlier trigger outranks, becomes a
committed issue with its k and angle, and leaves the queue; the issues made before it stay in their order. A job that is enabled
with its source, with speculate set, on a shaft that runs forward, armed, referenced and within tracking, whose predicted angle has
reached the trigger angle less the lead, becomes a speculative issue that expects the next k, where a speculative slot is free, no
mirror of its chips is stale, and no issue or trigger of that k is there or was squashed. -/
def Obligations.IssuesMade : Prop := ∀ s : State,
  (∀ t tr rest m, t < 16 → (s.pendOf t).queue = tr :: rest → s.jobModel t tr.job = some m → s.canIssue t tr.job = true →
      s.outranked t tr.order m.chips = false → ∃ r x, exec (.pendingIssue t) s = .next r ∧ r.issues.getLast? = some x
      ∧ r.issues.map Issue.id = s.issues.map Issue.id ++ [s.nextIssue]
      ∧ ((∀ i ∈ s.issues, i.waitsSlot = false) → r.issues = s.issues ++ [x])
      ∧ x.tenant = t ∧ x.job = tr.job ∧ x.k = tr.k ∧ x.angle = tr.angle ∧ x.st = .committed ∧ x.id = s.nextIssue
      ∧ x.slot = (s.jobDesc t tr.job).slot ∧ x.entry = (s.jobDesc t tr.job).entry
      ∧ (r.pendOf t).queue = rest ∧ (∀ u, u ≠ t → r.pendOf u = s.pendOf u) ∧ r.nextIssue = s.nextIssue + 1
      ∧ Keeps [.cams, .chips, .groups, .issues, .jobs, .nextIssue, .od, .pend] s r)
  ∧ (∀ t, (s.pendOf t).queue = [] → exec (.pendingIssue t) s = .next s)
  ∧ (∀ t tr rest, (s.pendOf t).queue = tr :: rest → s.canIssue t tr.job = false → exec (.pendingIssue t) s = .next s)
  ∧ (∀ t j k a sh m, s.expected t j = some (k, a, sh) → s.jobModel t j = some m → s.listens t j = true → (s.jobDesc t j).speculate = true →
      s.jobOn t j = true → s.sourceOn t j = true → (s.job t j).noSpec.contains k = false →
      (s.shaft sh).armed = true → (s.shaft sh).referenced = true → (s.shaft sh).standstill = false → (s.shaft sh).reverse = false →
      (s.shaft sh).beyond = false → (s.shaft sh).inputLoss = false → m.chips.any (fun c => (s.chip c).mirror.stale) = false →
      (s.shaft sh).traj.reaches s.timebase (a - (s.jobDesc t j).lead) = true →
      (∀ i ∈ s.issues, ¬ (i.tenant = t ∧ i.job = j ∧ i.k = k)) → (∀ q ∈ (s.pendOf t).queue, ¬ (q.job = j ∧ q.k = k)) →
      s.slotFree true t m.chips = true → ∃ r x, exec (.speculativeIssue t j) s = .next r ∧ r.issues = s.issues ++ [x]
      ∧ x.tenant = t ∧ x.job = j ∧ x.k = k ∧ x.angle = a ∧ x.shaft = sh ∧ x.st = .speculative ∧ x.id = s.nextIssue
      ∧ r.nextIssue = s.nextIssue + 1 ∧ Keeps [.od, .issues, .nextIssue, .chips] s r)

/-- The next descriptor of a loaded chain that passes its check and tag, may run, meets its barrier and has its strips, pieces,
rows and credit is appended to the chain's issued ones. A round of a bank that ends well counts its units as completed, and an error
in one puts the unit that it names under test with no change of any issue. A descriptor of the Smithy, the Bellwether or the move
engine that ends well has completed, and an error of the Smithy puts it under test. A round or descriptor whose buffers reach beyond
the Loft stops at an absent address. -/
def Obligations.DescriptorsRun : Prop := ∀ (s : State) (c : Nat), c < 16 →
  (∀ id i p idx, s.issue id = some i → i.part c = some p → (s.chip c).works = true → p.complete = false → p.loaded = true →
      p.next = some idx → s.ready i p idx → ∃ t i' p', exec (.descriptorIssue c id) s = .next t ∧ t.issue id = some i'
        ∧ i'.part c = some p' ∧ (p'.descs.map DescRun.idx) = (p.descs.map DescRun.idx) ++ [idx]
        ∧ p'.next = (if (s.descAt c i.slot p.part idx).last then none else some (s.descAt c i.slot p.part idx).next)
        ∧ sameChips c s t ∧ Keeps [.issues, .chips] s t)
  ∧ (∀ k b r i p run g, k < 8 → b < 16 → (vget (vget (s.chip c).clusters k).banks b).round = some r → (s.chip c).works = true →
      (s.chip c).dropTo = none → s.roundWaits c k b = false → s.rowWaits c r.issue = false → s.issue r.issue = some i →
      i.part c = some p → i.micro = none → p.descs[r.ord]? = some run →
      s.groupOf i p (r.ord + (s.descAt c i.slot p.part run.idx).passes - 1) = g →
      s.piecesShort i p (r.ord + (s.descAt c i.slot p.part run.idx).passes - 1) = false →
      (vget (vget (s.chip c).clusters k).banks b).epoch = (g.getLastD ⟨[]⟩).epoch → r.zbFault g (s.ctx i p run.idx) = none →
      (g.any (s.beyond i p (kernelOf g)) = false →
        ∃ t i' p', exec (.bankRoundComplete c k b .none) s = .next t ∧ t.issue r.issue = some i' ∧ i'.part c = some p'
        ∧ (p'.descs[r.ord]?).map DescRun.fin = some (run.fin + r.units) ∧ sameChips c s t ∧ Keeps [.issues, .chips] s t)
      ∧ (g.any (s.beyond i p (kernelOf g)) = true → exec (.bankRoundComplete c k b .none) s = .fault .absentAddress))
  ∧ (∀ k b r i p run u unit code detail, (vget (vget (s.chip c).clusters k).banks b).round = some r → (s.chip c).works = true →
      (s.chip c).dropTo = none → s.roundWaits c k b = false → s.rowWaits c r.issue = false → s.issue r.issue = some i →
      i.part c = some p → p.descs[r.ord]? = some run →
      s.piecesShort i p (r.ord + (s.descAt c i.slot p.part run.idx).passes - 1) = false →
      upsetUnit u c k b (vget (s.chip c).clusters k) r (s.groupOf i p (r.ord + (s.descAt c i.slot p.part run.idx).passes - 1))
        (s.ctx i p run.idx) = some (unit, code, detail) → s.isRetired unit = false →
      ∃ t, exec (.bankRoundComplete c k b u) s = .next t ∧ t.underTest unit = true ∧ t.issues = s.issues ∧ sameChips c s t
        ∧ Keeps [.chips] s t)
  ∧ (∀ e id q ord i p run d, 1 ≤ e → e ≤ 3 → (s.chip c).running e = some (id, q, ord) → (s.chip c).works = true →
      (e = 1 → s.underTest (.smithy c) = false ∧ 2 ≤ (s.chip c).tier) → (e = 2 → s.underTest (.bellwether c) = false) →
      s.rowWaits c id = false → s.issue id = some i → i.part c = some p → i.micro = none → (e = 1 → s.piecesShort i p ord = false) →
      p.descs[ord]? = some run → s.descAt c i.slot p.part run.idx = d →
      (s.beyond i p (kernelOf (s.groupOf i p ord)) d = false →
        (e = 1 → d.op ≠ opUpdate → (smithyRun (s.groupOf i p ord) d (s.ctx i p run.idx)).zb = none) →
        (e = 2 → d.op ≠ opUpdate ∧ (bellwetherRun d (s.ctx i p run.idx)).zb = none) →
        (e = 3 → d.op = opPrefetch → d.inMap.zbFault (fun a => memRead (s.window c 0) (64 * d.inHandle + a)) = none) →
        ∃ t i' p', exec (.descriptorComplete c e .none) s = .next t ∧ t.issue id = some i' ∧ i'.part c = some p'
        ∧ (p'.descs[ord]?).map DescRun.complete = some true ∧ sameChips c s t
        ∧ Keeps [.issues, .chips, .learn, .od, .boot, .mail, .faults] s t
        ∧ (e ≠ 3 → d.op ≠ opUpdate → Keeps [.issues, .chips] s t))
      ∧ (s.beyond i p (kernelOf (s.groupOf i p ord)) d = true → exec (.descriptorComplete c e .none) s = .fault .absentAddress))
  ∧ (∀ u id q ord i p run, (u = .smithyInt ∨ u = .smithySig) → (s.chip c).run1 = some (id, q, ord) → (s.chip c).works = true →
      s.underTest (.smithy c) = false → 2 ≤ (s.chip c).tier → s.rowWaits c id = false → s.issue id = some i → i.part c = some p →
      s.piecesShort i p ord = false → p.descs[ord]? = some run → (s.chip c).smithyAgain = false → s.isRetired (.smithy c) = false →
      ∃ t, exec (.descriptorComplete c 1 u) s = .next t ∧ t.underTest (.smithy c) = true ∧ t.issues = s.issues
        ∧ (t.chip c).run1 = (s.chip c).run1 ∧ (t.chip c).smithyAgain = true ∧ sameChips c s t ∧ Keeps [.chips] s t)

/-- A hand-off that belongs to the entries an issue runs, whose source chain is complete, over a route that stands, is noted as
arrived, with a scratch copy held at its destination. The next streamed piece that a loaded chain needs is counted where a half of
the double buffer is free. A model image that a chip waits for enters its pool where the pool can make room for it, and waits where
it cannot. -/
def Obligations.ChainsFed : Prop := ∀ s : State,
  (∀ id n i m h a b k, s.issue id = some i → s.model i.slot = some m → m.variant.handOffs[n]? = some h → s.handsOver m i h = true →
      i.parts.find? (fun p => decide (p.part = h.src)) = some a → i.parts.find? (fun p => decide (p.part = h.dst)) = some b →
      a.complete = true → i.arrived.contains n = false → s.routed a.chip b.chip = true →
      (b.copy = some k ∨ (b.copy = none ∧ s.freeCopy i b = some k)) →
      ∃ t, exec (.handOffArrive id n) s = .next t ∧ (t.issue id).map Issue.arrived = some (n :: i.arrived)
        ∧ ((t.issue id).bind (fun i => i.part b.chip)).map PartRun.copy = some (some k)
        ∧ Keeps [.issues, .chips, .od, .boot, .mail, .faults] s t)
  ∧ (∀ c id i p m piece, c < 16 → s.issue id = some i → i.part c = some p → s.model i.slot = some m → p.loaded = true →
      (s.piecesOf i p (s.chainFrom c i.slot p.part (m.variant.entryOn (s.entryOf m i p.part) p.part).first
        (m.variant.part p.part).descCount))[p.pieces]? = some piece → s.piecesHeld c i.slot < 2 →
      ∃ t p', exec (.weightPieceArrive c id) s = .next t ∧ (t.issue id).bind (fun i => i.part c) = some p'
        ∧ p'.pieces = p.pieces + 1 ∧ sameChips c s t ∧ Keeps [.issues, .chips] s t)
  ∧ (∀ c id i, s.issue id = some i → 2 ≤ s.piecesHeld c i.slot → exec (.weightPieceArrive c id) s = .next s)
  ∧ (∀ c slot l, c < 16 → (s.chip c).loading.contains slot = true →
      evictPool (s.imageSize c) (s.imageUsed c) (s.poolSize c 256) (s.imageSize c slot) ((s.chip c).pool.length + 1) (s.chip c).pool
        = some l → ∃ t, exec (.modelImageLoadComplete c slot) s = .next t ∧ (t.chip c).pool = slot :: l
        ∧ (t.chip c).loading.contains slot = false ∧ Keeps [.chips, .od, .boot, .mail, .faults] s t)
  ∧ (∀ c slot, c < 16 → (s.chip c).loading.contains slot = true →
      evictPool (s.imageSize c) (s.imageUsed c) (s.poolSize c 256) (s.imageSize c slot) ((s.chip c).pool.length + 1) (s.chip c).pool
        = none → ∃ t, exec (.modelImageLoadComplete c slot) s = .next t ∧ (t.chip c).pool = (s.chip c).pool
        ∧ (t.chip c).loading = (s.chip c).loading ∧ Keeps [.chips, .od, .boot, .mail, .faults] s t)

/-- A committed issue whose chains have ended, which comes next in the order of its job, and whose chips have room for a result
record completes: it is removed, so that no issue of its number is left unless that number was still to be given, and is counted in
the job's completed count, with the angle of shaft 0 beside it. A wake job completes likewise, counts its wake word as woken or not,
and gives every gated job whose output fired a hold-over from the present angle. A hold-over lapses once its shaft has turned its
revolutions either way, and not before. -/
def Obligations.JobsComplete : Prop := ∀ s : State,
  (∀ id i, s.issue id = some i → s.ripe i = true → s.isWakeJob i.tenant i.job = false → i.tenant < 16 → i.job < 15 →
      ∃ t, exec (.jobComplete id) s = .next t ∧ (∀ x ∈ t.issues, x.id = id → s.nextIssue ≤ id)
        ∧ t.nat (blk i.tenant (0x20 + i.job)) 4 = (s.nat (blk i.tenant (0x20 + i.job)) 4 + 1) % 2 ^ 32
        ∧ t.num (blk i.tenant (0x20 + i.job)) 8 = (s.shaft 0).angle
        ∧ Keeps [.boot, .cams, .can, .chips, .draws, .faults, .groups, .issues, .jobs, .learn, .mail, .nextIssue, .od, .pend, .sets] s t)
  ∧ (∀ id i p d wake, s.issue id = some i → s.ripe i = true → s.isWakeJob i.tenant i.job = true → i.tenant < 16 → i.job < 15 →
      s.streamOf i = some (p, d) → leNat ((List.range 2).map (fun a => s.loftByte i p (64 * d.outHandle + a))) = wake →
      ∃ t, exec (.wakeJobComplete id) s = .next t ∧ (∀ x ∈ t.issues, x.id = id → s.nextIssue ≤ id)
        ∧ t.nat (blk i.tenant (0x20 + i.job)) 4 = (s.nat (blk i.tenant (0x20 + i.job)) 4 + 1) % 2 ^ 32
        ∧ t.nat (blk i.tenant 0x2F) (if wake = 0 then 8 else 7) = (s.nat (blk i.tenant 0x2F) (if wake = 0 then 8 else 7) + 1) % 2 ^ 32
        ∧ (∀ g ∈ s.gatedJobs i.tenant i.job, bit wake (s.jobDesc i.tenant g).gateOutput = true → (t.job i.tenant g).holdOver
            = some ((s.shaft i.shaft).angle, Network.holdOver ⟨s.granByte p.chip i.slot p.part, 32 * d.weightBase⟩, i.shaft))
        ∧ Keeps [.boot, .cams, .can, .chips, .draws, .faults, .groups, .issues, .jobs, .learn, .mail, .nextIssue, .od, .pend, .sets] s t)
  ∧ (∀ id i, s.issue id = some i → s.ripe i = false →
      exec (.jobComplete id) s = .next s ∧ exec (.wakeJobComplete id) s = .next s)
  ∧ (∀ t j a turns sh, t < 16 → j < 15 → (s.job t j).holdOver = some (a, turns, sh) →
      (turns * 2 ^ 24 ≤ ((s.shaft sh).angle - a).natAbs →
        ∃ r, exec (.wakeHoldOverLapse t j) s = .next r ∧ (r.job t j).holdOver = none ∧ Keeps [.jobs, .chips] s r)
      ∧ (((s.shaft sh).angle - a).natAbs < turns * 2 ^ 24 → exec (.wakeHoldOverLapse t j) s = .next s))

/-- A tenant command that nothing refuses has the effect of Table 9.2. Create takes a free tenant to active. Suspend ends the
sessions of the tenant and stops its running token sessions, at once or at the end of the step under way; its issues stay. Resume
returns it to active. Delete frees it, ends its issues and its sessions, closes its token sessions, empties and frees its slots, and
returns every object of its block to its default. An accepted quota is held; one below what is held ends with SDO abort 0x0800 0022,
and OD 0x2401 gives the amount held, in 32 bits. An accepted public key of 64 bytes is held, and it is a point of the curve. -/
def Obligations.TenantsManaged : Prop := ∀ (s : State) (n : Net) (t : Nat), t < 16 →
  (s.accepts n (blk t 0) 3 (leBytes 1 1) (fun s => s.tenantDeny t 1) → ∃ r, exec (.tenantCreate n t) s = .next r
      ∧ s.tenantState t = 0 ∧ t ≠ 0 ∧ r.tenantState t = 1 ∧ r.answered n ∧ sameEntries (fun i => decide (i = blk t 0)) s r
      ∧ Keeps [.od, .mail, .slots] s r)
  ∧ (s.accepts n (blk t 0) 3 (leBytes 1 2) (fun s => s.tenantDeny t 2) → ∃ r, exec (.tenantSuspend n t) s = .next r
      ∧ s.tenantState t = 1 ∧ r.tenantState t = 2 ∧ r.answered n ∧ r.session .ecat ≠ some t ∧ r.session .can ≠ some t
      ∧ (∀ k < 8, s.nat (0x6100 + k) 2 = t → s.nat (0x6100 + k) 3 = 2 →
          if (s.token k).outstanding then (r.token k).stopAsked = true ∧ r.nat (0x6100 + k) 3 = 2
          else r.nat (0x6100 + k) 3 = 1 ∧ r.nat (0x6100 + k) 16 = 4)
      ∧ (∀ m u, u ≠ t → s.session m = some u → r.session m = some u)
      ∧ sameEntries (fun i => decide (i = blk t 0 ∨ (0x6100 ≤ i ∧ i < 0x6108))) s r ∧ Keeps [.od, .tokens, .chips, .mail, .slots] s r)
  ∧ (s.accepts n (blk t 0) 3 (leBytes 1 3) (fun s => s.tenantDeny t 3) → ∃ r, exec (.tenantResume n t) s = .next r
      ∧ s.tenantState t = 2 ∧ r.tenantState t = 1 ∧ r.answered n ∧ sameEntries (fun i => decide (i = blk t 0)) s r
      ∧ Keeps [.od, .chips, .mail, .slots] s r)
  ∧ (s.accepts n (blk t 0) 3 (leBytes 1 4) (fun s => s.tenantDeny t 4) → ∃ r, exec (.tenantDelete n t) s = .next r
      ∧ s.tenantState t = 2 ∧ r.tenantState t = 0 ∧ r.answered n ∧ r.session .ecat ≠ some t ∧ r.session .can ≠ some t
      ∧ (∀ i ∈ r.issues, i.tenant ≠ t)
      ∧ (∀ k < 256, s.nat (0x4000 + k) 1 = t → r.nat (0x4000 + k) 1 = 0xFF ∧ r.nat (0x4000 + k) 4 = 0 ∧ r.model k = none
          ∧ (r.slot k).staged = none ∧ lookupKey k r.store.flash = none)
      ∧ (∀ k < 256, s.nat (0x4000 + k) 1 ≠ t → r.nat (0x4000 + k) 1 = s.nat (0x4000 + k) 1 ∧ r.model k = s.model k)
      ∧ (∀ k < 8, s.nat (0x6100 + k) 2 = t → s.nat (0x6100 + k) 3 ≠ 0 → r.nat (0x6100 + k) 3 = 0)
      ∧ (∀ i j, i < 256 → j < 256 → r.get (blk t i) j = odDefault (blk t i) j)
      ∧ Keeps [.cams, .chips, .draws, .events, .groups, .issues, .jobs, .mail, .od, .pend, .sets, .slots, .store, .tenants, .tokens] s r)
  ∧ (∀ sub v : Nat, s.accepts n (blk t 1) sub (numBytes (blk t 1) sub v) (fun s => s.quotaDeny t sub v) →
      ∃ r, exec (.quotaWrite n t sub v) s = .next r ∧ r.nat (blk t 1) sub = v ∧ ((s.asked n).quotaHeld t sub v).2 = false
        ∧ r.answered n ∧ sameEntries (fun i => decide (i = blk t 1)) s r ∧ Keeps [.od, .mail, .slots] s r)
  ∧ (∀ sub v : Nat, s.serves n = true →
      (s.asked n).writeDeny n (blk t 1) sub (numBytes (blk t 1) sub v) none = none → ((s.asked n).quotaHeld t sub v).2 = true →
      ∃ r, exec (.quotaWrite n t sub v) s = .next r ∧ (r.box n).answer = .abort 0x08000022
        ∧ r.faults.refusal.value = ((s.asked n).quotaHeld t sub v).1 % 2 ^ 32 ∧ Keeps [.mail, .slots, .faults] s r)
  ∧ (∀ key, s.accepts n (blk t 2) 1 key (fun _ => keyDeny t key) → ∃ r, exec (.publicKeyWrite n t key) s = .next r
      ∧ r.bytes (blk t 2) 1 = key ∧ key.length = 64 ∧ onCurve (beNat (key.take 32)) (beNat (key.drop 32)) = true ∧ r.answered n
      ∧ sameEntries (fun i => decide (i = blk t 2)) s r ∧ Keeps [.od, .mail, .slots] s r)

/-- Bytes 0 to 11 of a bundle key write are the nonce, 12 to 43 the AES-256-GCM ciphertext and 44 to 59 the tag, the additional
data is the byte of the tenant and the wrapping key stands in the fuses. Where nothing else refuses the write and the tag is
right, the unwrapped key is held and the write is answered; where the tag fails, the write ends with SDO abort 0x0609 0030,
fault 0x8204 is raised, and the previous key stays. -/
def Obligations.BundleKeysUnwrapped : Prop := ∀ (s : State) (n : Net) (t : Nat) (w : List Byte), t < 16 → s.serves n = true → w.length = 60 →
  (s.asked n).writeDeny n (blk t 2) 8 w none = none →
  (∀ key, gcmOpen s.boot.fuses.wrapKey (w.take 12) (leBytes 1 t) (slice w 12 32) (slice w 44 16) = some key →
    ∃ r, exec (.bundleKeyWrite n t w) s = .next r ∧ r.answered n ∧ (r.tenant t).bundleKey = key ∧ r.bytes (blk t 2) 8 = w
      ∧ (∀ u, u ≠ t → r.tenant u = s.tenant u) ∧ Keeps [.od, .tenants, .mail, .slots] s r)
  ∧ (gcmOpen s.boot.fuses.wrapKey (w.take 12) (leBytes 1 t) (slice w 12 32) (slice w 44 16) = none →
    ∃ r, exec (.bundleKeyWrite n t w) s = .next r ∧ (r.box n).answer = .abort 0x06090030 ∧ r.faults.refusal.code = 0x8204
      ∧ (∃ u d, s.wrote r ⟨s.stamp, 0x8204, u, t, 0, d⟩) ∧ sameEntries (fun i => decide (i = 0x2400)) s r
      ∧ Keeps [.od, .boot, .mail, .slots, .faults] s r)

/-- A challenge read that nothing refuses, for a tenant whose challenges are not locked, answers 16 fresh bytes, whose values
are free, and holds them with their time; it expires after 10 s. A response that the tenant's key verifies opens the session of
the network and consumes the challenge. A write that ends the session closes it, and so does the idle limit of its tenant. -/
def Obligations.SessionsOpenAndEnd : Prop := ∀ (s : State) (n : Net) (t : Nat), t < 16 →
  (s.serves n = true → (s.asked n).readDeny n (blk t 2) 2 = none → (s.tenant t).locked = false →
    ∃ r, exec (.challengeRead n t) s = .next r ∧ (r.box n).answer = .data ((List.range 16).map (Config.challengeByte s.draws))
      ∧ vget (r.tenant t).challenge n.num = some ((List.range 16).map (Config.challengeByte s.draws), s.micros)
      ∧ r.draws = s.draws + 1 ∧ (∀ u, u ≠ t → r.tenant u = s.tenant u) ∧ Keeps [.draws, .tenants, .mail, .slots] s r)
  ∧ (∀ c a, vget (s.tenant t).challenge n.num = some (c, a) → a + 10000000 ≤ s.micros →
    ∃ r, exec (.challengeExpiry n t) s = .next r ∧ vget (r.tenant t).challenge n.num = none
      ∧ vget (r.tenant t).challenge n.other.num = vget (s.tenant t).challenge n.other.num ∧ (∀ u, u ≠ t → r.tenant u = s.tenant u)
      ∧ Keeps [.tenants] s r)
  ∧ (∀ c a, vget (s.tenant t).challenge n.num = some (c, a) → s.micros < a + 10000000 → exec (.challengeExpiry n t) s = .next s)
  ∧ (∀ sig, s.serves n = true → (s.asked n).rightsDeny n (blk t 2) 3 = none → valueDeny (blk t 2) 3 sig = none →
      s.authOk n t sig = true → ∃ r, exec (.authResponseWrite n t sig) s = .next r ∧ r.session n = some t ∧ r.answered n
      ∧ vget (r.tenant t).challenge n.num = none ∧ r.session n.other = s.session n.other
      ∧ (∀ u, u ≠ t → r.tenant u = s.tenant u) ∧ Keeps [.tenants, .mail, .slots] s r)
  ∧ (∀ v, s.accepts n (blk t 2) 5 (numBytes (blk t 2) 5 v) (fun _ => none) → ∃ r, exec (.endSession n t v) s = .next r ∧ r.session n = none
      ∧ r.session n.other = s.session n.other ∧ r.answered n ∧ Keeps [.mail, .slots] s r)
  ∧ (∀ x, (s.box n).session = some x → x.last + 1000000 * s.nat (blk x.tenant 2) 6 ≤ s.micros →
    ∃ r, exec (.sessionIdleTimeout n) s = .next r ∧ r.session n = none ∧ r.box n.other = s.box n.other ∧ Keeps [.mail] s r)
  ∧ (∀ x, (s.box n).session = some x → s.micros < x.last + 1000000 * s.nat (blk x.tenant 2) 6 →
    exec (.sessionIdleTimeout n) s = .next s)

/-- A response that the tray takes, with a missing or expired challenge, an empty key or a failed verification, ends with SDO
abort 0x0800 0020, consumes the challenge, increments :07 and raises fault 0x8101. Where it is the eighth failure of the tenant
within 60 s, challenges of the tenant are locked and fault 0x8102 follows; it does not while they are locked. A challenge read
of a locked tenant ends with SDO abort 0x0800 0020. The lock stands for 60 s. -/
def Obligations.AuthenticationFailures : Prop := ∀ (s : State) (n : Net) (t : Nat), t < 16 →
  (∀ sig, s.serves n = true → (s.asked n).rightsDeny n (blk t 2) 3 = none → valueDeny (blk t 2) 3 sig = none →
    (vget (s.tenant t).challenge n.num = none ∨ ∃ c a, vget (s.tenant t).challenge n.num = some (c, a) ∧ (a + 10000000 ≤ s.micros
      ∨ s.authKey t = [] ∨ ecdsaVerify (s.authKey t) (sha256 (s.authMessage n t c)) sig = false)) →
    ∃ r, exec (.authResponseWrite n t sig) s = .next r ∧ (r.box n).answer = .abort 0x08000020
      ∧ vget (r.tenant t).challenge n.num = none ∧ r.nat (blk t 2) 7 = (s.nat (blk t 2) 7 + 1) % 2 ^ 32
      ∧ r.faults.refusal.code = 0x8101 ∧ r.session n = s.session n ∧ (∀ u, u ≠ t → r.tenant u = s.tenant u)
      ∧ sameEntries (fun i => decide (i = blk t 2 ∨ i = 0x2400)) s r ∧ Keeps [.od, .boot, .mail, .slots, .faults, .tenants] s r
      ∧ ((s.tenant t).locked = false → 7 ≤ ((s.tenant t).failTimes.filter (fun m => decide (s.micros < m + 60000000))).length →
          (r.tenant t).locked = true ∧ (s.store.logPlaced = true → ∃ a u d, r.faults.last = some ⟨a, 0x8102, u, t, 0, d⟩))
      ∧ (((s.tenant t).locked = true ∨ ((s.tenant t).failTimes.filter (fun m => decide (s.micros < m + 60000000))).length < 7) →
          (r.tenant t).locked = (s.tenant t).locked
          ∧ (s.store.logPlaced = true → ∃ a u d, r.faults.last = some ⟨a, 0x8101, u, t, 0, d⟩)))
  ∧ (s.serves n = true → (s.asked n).readDeny n (blk t 2) 2 = none → (s.tenant t).locked = true →
    ∃ r, exec (.challengeRead n t) s = .next r ∧ (r.box n).answer = .abort 0x08000020 ∧ Keeps [.mail, .slots, .faults] s r)
  ∧ ((s.tenant t).locked = true → (s.tenant t).failTimes.headD 0 + 60000000 ≤ s.micros →
    ∃ r, exec (.authLockEnd t) s = .next r ∧ (r.tenant t).locked = false
      ∧ (∀ u, u ≠ t → r.tenant u = s.tenant u) ∧ Keeps [.tenants] s r)
  ∧ (s.micros < (s.tenant t).failTimes.headD 0 + 60000000 → exec (.authLockEnd t) s = .next s)

/-- A bundle that has come whole, over FoE or in a segmented download, is stored, its slot is staged and the network is
answered. An accepted admit shows admitting. The end of an admission whose checks pass leaves the slot resident or non-resident, as
asked, with its bundle in model flash; one whose checks fail leaves it staged with the fault in :0F and OD 0x2401, and no chip
changed. At self-test a model of model flash is admitted again with its residence and its placement where its bundle opens and its
descriptors pass. Evict is refused while an enabled job or open token session names the slot; otherwise it releases the slot on
every chip, deletes bundle and images, and leaves the slot empty. An accepted make-resident takes a slot from non-resident to
resident and make-non-resident back, and discard returns a staged slot to empty. -/
def Obligations.SlotsAdmitAndEvict : Prop := ∀ (s : State) (k : Nat), k < 256 →
  (∀ n, (s.slot k).download = some n → (s.box n).foe = some k → ∃ t, exec (.bundleDownloadComplete k) s = .next t
      ∧ (t.slot k).staged = some (s.box n).foeData ∧ t.nat (0x4000 + k) 4 = 2 ∧ (t.slot k).download = none ∧ t.answered n
      ∧ (t.box n).foe = none ∧ sameEntries (fun i => decide (i = 0x4000 + k)) s t ∧ Keeps [.od, .slots, .mail] s t)
  ∧ (∀ n x, (s.slot k).download = some n → (s.box n).foe ≠ some k → (s.box n).xfer = some x → x.whole = true → x.index = 0x4000 + k →
      ∃ t, exec (.bundleDownloadComplete k) s = .next t ∧ (t.slot k).staged = some x.data ∧ t.nat (0x4000 + k) 4 = 2
      ∧ (t.slot k).download = none ∧ t.answered n ∧ (t.box n).xfer = none ∧ sameEntries (fun i => decide (i = 0x4000 + k)) s t
      ∧ Keeps [.od, .slots, .mail] s t)
  ∧ (∀ n, s.accepts n (0x4000 + k) 3 (leBytes 1 1) (fun s => s.slotDeny k 1) → ∃ t, exec (.slotAdmit n k) s = .next t
      ∧ s.nat (0x4000 + k) 4 = 2 ∧ t.nat (0x4000 + k) 4 = 3 ∧ t.answered n ∧ sameEntries (fun i => decide (i = 0x4000 + k)) s t
      ∧ Keeps [.od, .slots, .mail] s t)
  ∧ (∀ m, s.tray ≠ .selfTest → s.nat (0x4000 + k) 4 = 3 →
      s.judge k ((s.slot k).staged.getD []) (s.flag (0x4000 + k) 5) = .ok m → ∃ t, exec (.admissionComplete k) s = .next t
      ∧ t.nat (0x4000 + k) 4 = (if s.flag (0x4000 + k) 5 then 5 else 4) ∧ t.model k = some m
      ∧ lookupKey k t.store.flash = some m.bundle ∧ (∀ j, j ≠ k → t.slot j = s.slot j)
      ∧ sameEntries (fun i => decide (i = 0x4000 + k ∨ i = 0x2400)) s t ∧ Keeps [.boot, .chips, .faults, .mail, .od, .slots, .store] s t)
  ∧ (∀ f, s.tray ≠ .selfTest → s.nat (0x4000 + k) 4 = 3 →
      s.judge k ((s.slot k).staged.getD []) (s.flag (0x4000 + k) 5) = .error f → ∃ t, exec (.admissionComplete k) s = .next t
      ∧ t.nat (0x4000 + k) 4 = 2 ∧ t.nat (0x4000 + k) 15 = f.code ∧ t.faults.refusal.code = f.code
      ∧ sameEntries (fun i => decide (i = 0x4000 + k ∨ i = 0x2400)) s t ∧ Keeps [.boot, .faults, .mail, .od] s t)
  ∧ (∀ m secs, s.tray = .selfTest → s.power.step = 13 → s.store.readmit.head? = some k → s.model k = some m →
      (s.slot k).unplaced = false → s.openBundle k m.bundle = .ok secs →
      tableFault m.variant (s.nat (0x4000 + k) 1) k m.placed = none → ∃ t, exec (.admissionComplete k) s = .next t
      ∧ t.store.readmit = s.store.readmit.drop 1 ∧ t.model k = some m ∧ t.nat (0x4000 + k) 4 = (if s.resident k then 5 else 4)
      ∧ (t.slot k).unplaced = false ∧ (∀ j, j ≠ k → t.slot j = s.slot j)
      ∧ Keeps [.boot, .chips, .faults, .mail, .od, .slots, .store] s t)
  ∧ (∀ n, s.accepts n (0x4000 + k) 3 (leBytes 1 2) (fun s => s.slotDeny k 2) → ∃ t, exec (.slotEvict n k) s = .next t
      ∧ t.nat (0x4000 + k) 4 = 1 ∧ t.model k = none ∧ (t.slot k).staged = none ∧ lookupKey k t.store.flash = none
      ∧ (∀ c < 16, (t.chip c).hasImage k = false ∧ (t.chip c).region k = none) ∧ t.answered n
      ∧ Keeps [.cams, .chips, .draws, .groups, .issues, .jobs, .mail, .od, .slots, .store, .tokens] s t)
  ∧ (∀ n, s.serves n = true → (s.asked n).writeDeny n (0x4000 + k) 3 (leBytes 1 2) none = none → s.slotNamed k = true →
      ∃ t, exec (.slotEvict n k) s = .next t ∧ (t.box n).answer = .abort 0x08000022 ∧ Keeps [.mail, .slots, .faults] s t)
  ∧ (∀ n, s.accepts n (0x4000 + k) 3 (leBytes 1 3) (fun s => s.slotDeny k 3) → ∃ t, exec (.slotMakeResident n k) s = .next t
      ∧ s.nat (0x4000 + k) 4 = 4 ∧ t.nat (0x4000 + k) 4 = 5 ∧ t.answered n ∧ Keeps [.od, .chips, .slots, .mail] s t)
  ∧ (∀ n, s.accepts n (0x4000 + k) 3 (leBytes 1 4) (fun s => s.slotDeny k 4) → ∃ t, exec (.slotMakeNonResident n k) s = .next t
      ∧ s.nat (0x4000 + k) 4 = 5 ∧ t.nat (0x4000 + k) 4 = 4 ∧ t.answered n ∧ Keeps [.od, .chips, .slots, .mail] s t)
  ∧ (∀ n, s.accepts n (0x4000 + k) 3 (leBytes 1 5) (fun s => s.slotDeny k 5) → ∃ t, exec (.slotDiscardStaged n k) s = .next t
      ∧ s.nat (0x4000 + k) 4 = 2 ∧ t.nat (0x4000 + k) 4 = 1 ∧ (t.slot k).staged = none ∧ t.answered n
      ∧ Keeps [.od, .slots, .mail] s t)

/-- An accepted open gives a closed session to the tenant of the network, idle at position 0. An accepted generate sets it
running with its prompt taken: the first token is fed, or the latest one where the prompt is empty. Stop ends a running one at once
with end reason 4, or at the end of the step under way. Reset puts the position at 0 and zeroes the cache; so does close with no step
under way, which gives the cache back and leaves no owner, and a close during a step waits for its end. Ready sessions of a slot and
entry, up to B, form one committed issue with the step table as its input, and each of them has a step outstanding. The end of a step
raises the position of each of its sessions by 1. A prompt token that is left is fed next; a generated token is appended to :0C, and it
is fed next unless the context is full, it is the stop token, the limit is reached or a stop waits, with end reasons 3, 2, 1 and 4. -/
def Obligations.TokenSessions : Prop := ∀ (s : State) (i : Nat), i < 8 →
  (∀ n u, s.accepts n (tokIndex i) 1 (leBytes 1 1) (fun s => s.tokenCmdDeny n i 1) → s.session n = some u →
      ∃ t, exec (.sessionOpen n i) s = .next t ∧ s.nat (tokIndex i) 3 = 0 ∧ t.nat (tokIndex i) 3 = 1 ∧ t.nat (tokIndex i) 2 = u
      ∧ t.nat (tokIndex i) 13 = 0 ∧ t.answered n ∧ sameEntries (fun j => decide (j = tokIndex i)) s t
      ∧ Keeps [.od, .tokens, .mail, .slots] s t)
  ∧ (∀ n, s.accepts n (tokIndex i) 1 (leBytes 1 2) (fun s => s.tokenCmdDeny n i 2) → ∃ t, exec (.sessionGenerate n i) s = .next t
      ∧ s.nat (tokIndex i) 3 = 1 ∧ t.nat (tokIndex i) 3 = 2 ∧ (t.token i).ready = true ∧ (t.token i).outstanding = false
      ∧ (t.token i).feed = (s.promptOf i).headD (s.nat (tokIndex i) 14) ∧ (t.token i).prompt = (s.promptOf i).drop 1
      ∧ t.bytes (tokIndex i) 11 = [] ∧ t.bytes (tokIndex i) 12 = [] ∧ t.answered n
      ∧ sameEntries (fun j => decide (j = tokIndex i)) s t ∧ Keeps [.od, .tokens, .chips, .mail, .slots] s t)
  ∧ (∀ n, s.accepts n (tokIndex i) 1 (leBytes 1 3) (fun s => s.tokenCmdDeny n i 3) →
      ∃ t, exec (.sessionStop n i) s = .next t ∧ t.answered n ∧ sameEntries (fun j => decide (j = tokIndex i)) s t
      ∧ (if s.nat (tokIndex i) 3 ≠ 2 then t.od = s.od ∧ t.tokens = s.tokens
        else if (s.token i).outstanding then (t.token i).stopAsked = true ∧ t.nat (tokIndex i) 3 = 2
        else t.nat (tokIndex i) 3 = 1 ∧ t.nat (tokIndex i) 16 = 4) ∧ Keeps [.od, .tokens, .chips, .mail, .slots] s t)
  ∧ (∀ n, s.accepts n (tokIndex i) 1 (leBytes 1 4) (fun s => s.tokenCmdDeny n i 4) → ∃ t, exec (.sessionResetContext n i) s = .next t
      ∧ t.nat (tokIndex i) 3 = 1 ∧ t.nat (tokIndex i) 13 = 0 ∧ t.answered n
      ∧ (∀ c < 16, ∀ r a, (s.chip c).region (0x100 + i) = some r → r.loftBase ≤ a → a < r.loftBase + r.loftSize →
          memRead (t.chip c).loft a = 0)
      ∧ sameEntries (fun j => decide (j = tokIndex i)) s t ∧ Keeps [.od, .chips, .mail, .slots] s t)
  ∧ (∀ n, s.accepts n (tokIndex i) 1 (leBytes 1 5) (fun s => s.tokenCmdDeny n i 5) → (s.token i).outstanding = false →
      ∃ t, exec (.sessionClose n i) s = .next t ∧ t.nat (tokIndex i) 3 = 0 ∧ t.nat (tokIndex i) 2 = 0xFF
      ∧ t.nat (tokIndex i) 13 = 0 ∧ (t.token i).cache = [] ∧ t.answered n
      ∧ (∀ c < 16, (t.chip c).region (0x100 + i) = none ∧ ∀ r a, (s.chip c).region (0x100 + i) = some r → r.loftBase ≤ a →
          a < r.loftBase + r.loftSize → memRead (t.chip c).loft a = 0)
      ∧ sameEntries (fun j => decide (j = tokIndex i)) s t ∧ Keeps [.od, .tokens, .chips, .mail, .slots] s t)
  ∧ (∀ n, s.accepts n (tokIndex i) 1 (leBytes 1 5) (fun s => s.tokenCmdDeny n i 5) → (s.token i).outstanding = true →
      ∃ t, exec (.sessionClose n i) s = .next t ∧ t.answered n ∧ t.token i = { s.token i with closeAsked := true }
      ∧ Keeps [.tokens, .mail, .slots] s t)
  ∧ (∀ slot e m rows, s.model slot = some m → rows = (s.readyTokens slot e).take m.variant.batch → rows ≠ [] → s.runs = true →
      (s.slot slot).unplaced = false → m.variant.vocab ≠ 0 → s.slotFree false (s.nat (0x4000 + slot) 1) m.chips = true →
      ∃ t x, exec (.tokenStepIssue slot e) s = .next t ∧ t.issues = s.issues ++ [x] ∧ x.kind = 4 ∧ x.st = .committed ∧ x.rows = rows
      ∧ x.tenant = s.nat (0x4000 + slot) 1 ∧ x.slot = slot ∧ x.entry = e ∧ x.frameData = s.stepTable rows m.variant.batch ∧ t.nextIssue = s.nextIssue + 1
      ∧ (∀ k ∈ rows, (t.token k).outstanding = true ∧ (t.token k).ready = false)
      ∧ Keeps [.issues, .nextIssue, .tokens, .od] s t)
  ∧ (∀ id x, s.issue id = some x → x.finished = true → x.kind = 4 → x.rows.Nodup → (∀ k ∈ x.rows, k < 8) →
      ∃ t, exec (.tokenStepComplete id) s = .next t ∧ t.issue id = none
      ∧ (∀ r k : Nat, x.rows[r]? = some k →
          (t.token k).outstanding = false
          ∧ ((s.token k).closeAsked = true → t.nat (tokIndex k) 3 = 0 ∧ t.nat (tokIndex k) 2 = 0xFF ∧ t.nat (tokIndex k) 13 = 0)
          ∧ ((s.token k).closeAsked = false → t.nat (tokIndex k) 13 = s.nat (tokIndex k) 13 + 1
            ∧ (∀ p rest, (s.token k).prompt = p :: rest → if (s.token k).stopAsked then t.nat (tokIndex k) 3 = 1 ∧ t.nat (tokIndex k) 16 = 4
                else (t.token k).feed = p ∧ (t.token k).prompt = rest ∧ (t.token k).ready = true)
            ∧ ((s.token k).prompt = [] → t.bytes (tokIndex k) 12 = s.bytes (tokIndex k) 12 ++ leBytes 2 (x.tokenOf r)
              ∧ t.nat (tokIndex k) 14 = x.tokenOf r ∧ t.nat (tokIndex k) 15 = (s.nat (tokIndex k) 15 + 1) % 2 ^ 32
              ∧ (let stop := if s.num (tokIndex k) 10 < 0 then ((s.model (s.nat (tokIndex k) 4)).map (fun m => m.variant.stopToken)).getD 0
                  else s.nat (tokIndex k) 10
                if 1024 ≤ s.nat (tokIndex k) 13 + 1 then t.nat (tokIndex k) 3 = 3 ∧ t.nat (tokIndex k) 16 = 3
                else if x.tokenOf r = stop then t.nat (tokIndex k) 3 = 1 ∧ t.nat (tokIndex k) 16 = 2
                else if s.nat (tokIndex k) 9 ≤ (s.token k).made + 1 then t.nat (tokIndex k) 3 = 1 ∧ t.nat (tokIndex k) 16 = 1
                else if (s.token k).stopAsked then t.nat (tokIndex k) 3 = 1 ∧ t.nat (tokIndex k) 16 = 4
                else (t.token k).feed = x.tokenOf r ∧ (t.token k).ready = true))))
      ∧ Keeps [.boot, .cams, .can, .chips, .draws, .faults, .groups, .issues, .jobs, .mail, .nextIssue, .od, .pend, .sets, .tokens] s t)

/-- The next frame in sequence of a healthy peer is taken. With a BID the leader notes the tray, and with one of every seat it
starts the step's timer and enters phase 3. START takes the seat map, sets Q and r and enters phase 3. The chunks of a PART of a
layer of the model are kept until it is whole and then decoded. The owner's next part is summed into its shard, and after its last
one, with no pass under way, a tray that does not lead enters phase 4. FUSE is noted by the leader, and with one of every seat in
phase 4, without overflow or non-finite value, it decides for the update. DECIDE with outcome 1 enters phase 6 with one update per
owned shard; another outcome ends the step with that outcome shown and the shards as committed. A whole SHADOW is kept for its
owner. READY is noted by the leader, with one of every seat it commits, and COMMIT ends the step with the shadows committed and the shards
as committed before in their place. A label
is attached to the sample that OD 0x5003:01 names. -/
def Obligations.LearningFrames : Prop := ∀ (s : State),
  (∀ h, s.hears h → s.leads = true → s.nearStep h.step = true → s.notReady → (s.learn.phase ≠ 1 ∨
      ∃ p ∈ s.seats, p.2 ≠ h.src ∧ s.parish.bids.contains p.2 = false) → ∃ t, exec (.bidReceive h) s = .next t
      ∧ t.parish.bids = h.src :: s.parish.bids.filter (· != h.src) ∧ Keeps [.od, .parish] s t)
  ∧ (∀ h, s.hears h → s.leads = true → s.learn.phase = 1 → s.learn.step = h.step →
      (∀ p ∈ s.seats, p.2 = h.src ∨ s.parish.bids.contains p.2 = true) → ∃ t, exec (.bidReceive h) s = .next t
      ∧ t.learn.phase = 3 ∧ t.learn.q = s.replicas ∧ t.learn.r = s.nat 0x5000 20 ∧ t.parish.timerFrom = some s.micros
      ∧ Keeps [.od, .parish, .learn, .issues, .nextIssue] s t)
  ∧ (∀ h map q r, s.hears h → s.inStep h.step = true → (s.learn.phase = 1 ∨ s.learn.phase = 2) →
      ∃ t, exec (.startReceive h map q r) s = .next t ∧ t.learn.phase = 3 ∧ t.learn.q = q ∧ t.learn.r = r
      ∧ t.parish.seatMap = Vector.ofFn (fun i : Fin 64 => (map[i.val]?).getD 0xFF)
      ∧ Keeps [.od, .parish, .learn, .issues, .nextIssue] s t)
  ∧ (∀ h p data q r same chunks, s.hears h → s.nearStep h.step = true → s.notReady → s.layerRec p.layer = some (q, r) →
      same = (fun x : StagedPart => decide (x.layer = p.layer ∧ x.shard = p.shard ∧ x.replica = p.replica)) →
      ((s.learn.staged.find? same).map StagedPart.whole).getD false = false →
      chunks = insertKey p.offset data (((s.learn.staged.find? same).map StagedPart.chunks).getD []) →
      ∃ t, exec (.partReceive h p data) s = .next t ∧ Keeps [.od, .parish, .learn] s t ∧ t.learn.folds = s.learn.folds
      ∧ t.learn.staged.find? same = some (if p.total ≤ (chunks.map (fun c => c.2.length)).sum
          then ⟨p.layer, p.shard, p.replica, p.total, [],
            decodePart (s.nat 0x5000 9) (shardLen r.rowSets s.learn.q p.shard) (chunks.flatMap Prod.snd), true⟩
          else ⟨p.layer, p.shard, p.replica, p.total, chunks, [], false⟩))
  ∧ (∀ layer shard f x, s.learn.folds.find? (fun g => decide (g.layer = layer ∧ g.shard = shard)) = some f →
      s.learn.staged.find? (fun x => decide (x.layer = layer ∧ x.shard = shard ∧ x.replica = f.next) && x.whole) = some x →
      (s.learn.phase ≠ 3 ∨ s.issues.any (fun i => i.micro.isSome) = true ∨ s.parish.fuseSent = true
        ∨ ((∃ o ∈ s.owned, o.2.1.layer = layer ∧ o.2.2.1 = shard)
          ∧ ∀ g ∈ s.learn.folds, g.layer = layer → g.shard = shard → g.next + 1 < s.learn.q)) →
      ∃ t, exec (.gradientPartFold layer shard) s = .next t
      ∧ (t.learn.folds.find? (fun g => decide (g.layer = layer ∧ g.shard = shard))).map (fun g => (g.next, g.sum))
        = some (f.next + 1, if f.next = 0 then x.decoded else (f.sum.zip x.decoded).map (fun p => add32 p.1 p.2))
      ∧ Keeps [.learn] s t)
  ∧ (∀ layer shard f x, s.learn.folds.find? (fun g => decide (g.layer = layer ∧ g.shard = shard)) = some f →
      s.learn.staged.find? (fun x => decide (x.layer = layer ∧ x.shard = shard ∧ x.replica = f.next) && x.whole) = some x →
      s.learn.phase = 3 → s.issues.any (fun i => i.micro.isSome) = false → s.parish.fuseSent = false → s.leads = false →
      s.learn.q ≤ f.next + 1 → (∀ o ∈ s.owned, (o.2.1.layer = layer ∧ o.2.2.1 = shard)
        ∨ ∃ g ∈ s.learn.folds, g.layer = o.2.1.layer ∧ g.shard = o.2.2.1 ∧ s.learn.q ≤ g.next) →
      ∃ t, exec (.gradientPartFold layer shard) s = .next t ∧ t.learn.phase = 4 ∧ t.parish.fuseSent = true
      ∧ Keeps [.learn, .parish, .od] s t)
  ∧ (∀ layer shard, s.learn.folds.find? (fun g => decide (g.layer = layer ∧ g.shard = shard)) = none →
      exec (.gradientPartFold layer shard) s = .next s)
  ∧ (∀ h f, s.hears h → s.leads = true → s.inStep h.step = true → s.notReady → (s.learn.phase ≠ 4 ∨
        ∃ p ∈ s.seats, p.2 ≠ h.src ∧ ∀ x ∈ s.parish.fuses, x.1 ≠ p.2) →
      ∃ t, exec (.fuseReceive h f) s = .next t ∧ t.parish.fuses = (h.src, f) :: s.parish.fuses.filter (fun r => decide (r.1 ≠ h.src))
      ∧ Keeps [.od, .parish] s t)
  ∧ (∀ h f all total, s.hears h → s.leads = true → s.learn.phase = 4 → s.learn.step = h.step → s.owned ≠ [] →
      all = (h.src, f) :: s.parish.fuses.filter (fun r => decide (r.1 ≠ h.src)) → (∀ p ∈ s.seats, ∃ x ∈ all, x.1 = p.2) →
      total = (s.seats.map Prod.snd).foldl (fun a t =>
        a.fold (((all.find? (fun r => decide (r.1 = t))).map Prod.snd).getD FusePart.zero) t) FusePart.zero →
      total.overflow = 0 → total.nonFinite = 0 → ∃ t, exec (.fuseReceive h f) s = .next t ∧ t.learn.phase = 6
      ∧ t.learn.decided = some ⟨1, total.sigma, sqrt32 total.sigma, 0, 0, 0xFFFFFFFF⟩ ∧ Keeps [.od, .parish, .learn] s t)
  ∧ (∀ h d, s.hears h → s.inStep h.step = true → 3 ≤ s.learn.phase → s.learn.phase ≤ 5 → d.outcome = 1 →
      (s.owned ≠ [] ∨ s.leads = false) → ∃ t, exec (.decideReceive h d) s = .next t ∧ t.learn.phase = 6 ∧ t.learn.decided = some d
      ∧ t.learn.updates = s.owned.map (fun o => (o.2.2.2, o.2.1.layer, o.2.2.1)) ∧ t.learn.shadow = s.learn.shadow
      ∧ t.learn.committed = s.learn.committed ∧ Keeps [.od, .parish, .learn] s t)
  ∧ (∀ h d, s.hears h → s.inStep h.step = true → 3 ≤ s.learn.phase → s.learn.phase ≤ 5 → d.outcome ≠ 1 → s.unapplied →
      ∃ t, exec (.decideReceive h d) s = .next t ∧ t.learn.phase = 0
      ∧ t.nat 0x5002 1 = s.learn.step ∧ t.nat 0x5002 5 = d.outcome ∧ t.num 0x5001 1 = max (s.lossK - 1) (-16)
      ∧ t.learn.committed = s.learn.committed ∧ t.learn.residuals = s.learn.residuals ∧ Keeps stepPieces s t)
  ∧ (∀ h p data, s.hears h → s.inStep h.step = true → s.notReady → ∃ t, exec (.shadowReceive h p data) s = .next t
      ∧ (∀ b, (s.storeChunk mShadow p data).2 = some b →
          (findShard t.learn.shadow p.layer p.shard 1).map (fun x => (x.lat, x.mom)) = some (shardVals b))
      ∧ ((s.storeChunk mShadow p data).2 = none → t.learn.shadow = s.learn.shadow)
      ∧ t.learn.committed = s.learn.committed ∧ Keeps [.od, .parish, .learn] s t)
  ∧ (∀ p data ty, (∀ x ∈ s.learn.chunks, ¬ (x.type = ty ∧ x.layer = p.layer ∧ x.shard = p.shard ∧ x.content = p.content)) →
      (s.storeChunk ty p data).2 = if p.total ≤ data.length then some data else none)
  ∧ (∀ h digest, s.hears h → s.leads = true → s.inStep h.step = true → s.notReady → (s.learn.phase ≠ 6 ∨ s.parish.committedSent = true ∨
        ∃ p ∈ s.seats, p.2 ≠ h.src ∧ ∀ x ∈ s.parish.readies, x.1 ≠ p.2) → ∃ t, exec (.readyReceive h digest) s = .next t
      ∧ t.parish.readies = (h.src, digest) :: s.parish.readies.filter (fun r => decide (r.1 ≠ h.src)) ∧ Keeps [.od, .parish] s t)
  ∧ (∀ h digest, s.hears h → s.leads = true → s.inStep h.step = true → s.learn.phase = 6 → s.parish.committedSent = false → s.unapplied →
      (∀ p ∈ s.seats, p.2 = h.src ∨ ∃ x ∈ s.parish.readies, x.1 = p.2) → ∃ t, exec (.readyReceive h digest) s = .next t
      ∧ t.learn.phase = 0 ∧ t.nat 0x5002 1 = h.step ∧ t.nat 0x5002 5 = 1 ∧ t.parish.applied = 1
      ∧ t.learn.committed = s.learn.shadow.foldl putShard s.learn.committed ∧ t.learn.shadow = s.learn.committed
      ∧ Keeps stepPieces s t)
  ∧ (∀ h, s.hears h → s.inStep h.step = true → s.unapplied → ∃ t, exec (.commitReceive h) s = .next t
      ∧ t.learn.phase = 0 ∧ t.nat 0x5002 1 = h.step ∧ t.nat 0x5002 5 = 1 ∧ t.parish.applied = 1 ∧ t.parish.appliedStep = h.step
      ∧ t.learn.committed = s.learn.shadow.foldl putShard s.learn.committed ∧ t.learn.shadow = s.learn.committed
      ∧ Keeps stepPieces s t)
  ∧ (∀ n data, s.accepts n 0x5003 2 data (fun s => s.labelDeny 2 data) → ∃ t, exec (.labelWrite n 2 data) s = .next t
      ∧ t.learn.ring = s.learn.ring.map (fun x => if x.number = s.nat 0x5003 1 then { x with label := some data } else x)
      ∧ t.answered n ∧ Keeps [.learn, .mail, .slots] s t)
  ∧ (∀ n data, s.accepts n 0x5003 1 data (fun s => s.labelDeny 1 data) → ∃ t, exec (.labelWrite n 1 data) s = .next t
      ∧ t.nat 0x5003 1 = leAt data 0 4 ∧ t.answered n ∧ Keeps [.od, .mail, .slots] s t)

/-- A ROLLBACK to the step before the one in progress, which no healthy tray has reported as committed, an ABORT at the leader before
COMMIT, and the step timeout, once its count without the pauses for retransmissions has reached the nominal value, and at four times
that in any case, end the step with outcome 4, the shards as committed; before its time the timeout changes nothing. ADOPT gives the seat to this tray where it holds none. The rows of a whole ROWS or RESTORE are
noted for every chip of their layer, and a shard of RESTORE or CKPT is kept in the shard list or the journal. CKPT_DONE of every
seat completes the leader's checkpoint. A complete checkpoint that waits for model flash is the checkpoint of record once written.
An accepted replay is in progress on this tray, and so is one that REPLAY starts where its records and checkpoint are there. A
REPLAY result other than matched shows its code, and a replay that ends shows 2, or 3 with the first difference, on a tray alone or
one that does not lead. -/
def Obligations.StepsRolledBack : Prop := ∀ (s : State),
  (∀ h target map, s.hears h → s.inStep h.step = true → target + 1 = h.step → s.outcomeOf h.step ≠ some 1 →
      ∃ t, exec (.rollbackReceive h target map) s = .next t
      ∧ t.learn.phase = 0 ∧ t.nat 0x5002 5 = 4 ∧ t.nat 0x5002 1 = s.nat 0x5002 1 ∧ t.learn.committed = s.learn.committed
      ∧ t.learn.residuals = s.learn.residuals ∧ t.parish.applied = 4 ∧ Keeps stepPieces s t)
  ∧ (∀ h code, s.hears h → s.leads = true → s.inStep h.step = true → s.parish.committedSent = false →
      ∃ t, exec (.abortReceive h code) s = .next t ∧ t.learn.phase = 0 ∧ t.nat 0x5002 5 = 4 ∧ t.learn.committed = s.learn.committed
      ∧ Keeps stepPieces s t)
  ∧ (∀ m, s.parish.timerFrom = some m → s.leads = true → s.learn.phase ≠ 0 → s.parish.committedSent = false →
      (m + 4000 * s.nat 0x2800 10 ≤ s.micros
        ∨ (s.parish.pauseFrom = none ∧ m + 1000 * s.nat 0x2800 10 + s.parish.paused ≤ s.micros)) → ∃ t, exec .stepTimeout s = .next t ∧ t.learn.phase = 0 ∧ t.nat 0x5002 5 = 4
      ∧ t.learn.committed = s.learn.committed ∧ Keeps [.boot, .chips, .faults, .issues, .learn, .mail, .od, .parish] s t)
  ∧ (∀ m, s.parish.timerFrom = some m → s.micros < m + 4000 * s.nat 0x2800 10 →
      (s.parish.pauseFrom ≠ none ∨ s.micros < m + 1000 * s.nat 0x2800 10 + s.parish.paused) → exec .stepTimeout s = .next s)
  ∧ (∀ h seat, s.hears h → s.trayId < 64 → s.notReady → s.ownSeat = 0xFF → seat < 64 →
      ∃ t, exec (.adoptReceive h seat) s = .next t ∧ vget t.parish.seatMap seat = s.trayId ∧ bit t.parish.vacant seat = false
      ∧ t.learn.committed = [] ∧ t.learn.residuals = [] ∧ Keeps stepPieces s t)
  ∧ (∀ h p data q r m b, s.hears h → s.notReady → s.layerRec p.layer = some (q, r) → s.learnModel = some m →
      ((s.storeChunk mRows p data).2 = some b → ∃ t, exec (.rowsReceive h p data) s = .next t
        ∧ (∀ c ∈ s.holders q, (c, p.layer, p.shard) ∈ t.learn.rowsIn) ∧ Keeps [.od, .parish, .learn, .chips, .slots] s t)
      ∧ ((s.storeChunk mRestore p data).2 = some b → p.content = 1 → ∃ t, exec (.restoreReceive h p data) s = .next t
        ∧ (∀ c ∈ s.holders q, (c, p.layer, p.shard) ∈ t.learn.rowsIn) ∧ Keeps [.od, .parish, .learn, .chips, .slots] s t))
  ∧ (∀ h p data, s.hears h → s.notReady → (s.storeChunk mRows p data).2 = none → ∃ t, exec (.rowsReceive h p data) s = .next t
      ∧ t.learn.rowsIn = s.learn.rowsIn ∧ Keeps [.od, .parish, .learn] s t)
  ∧ (∀ h p data b, s.hears h → s.notReady → (s.storeChunk mRestore p data).2 = some b → p.content ≠ 1 →
      ∃ t, exec (.restoreReceive h p data) s = .next t
      ∧ (findShard t.learn.committed p.layer p.shard 0).map (fun x => (x.lat, x.mom)) = some (shardVals b)
      ∧ t.nat 0x5002 1 = h.step ∧ Keeps [.boot, .chips, .faults, .learn, .mail, .od, .parish, .slots] s t)
  ∧ (∀ h p data b, s.hears h → s.notReady → (s.storeChunk mCkpt p data).2 = some b → ∃ t, exec (.ckptReceive h p data) s = .next t
      ∧ (∃ c ∈ t.learn.checkpoints, c.step = h.step
          ∧ (findShard c.shards p.layer p.shard 0).map (fun x => (x.lat, x.mom)) = some (shardVals b))
      ∧ t.learn.committed = s.learn.committed ∧ Keeps [.learn, .od, .parish] s t)
  ∧ (∀ h, s.hears h → s.notReady → s.leads = true → (∀ p ∈ s.seats, p.2 = h.src ∨ s.parish.ckptDones.contains p.2 = true) →
      ∃ t, exec (.ckptDoneReceive h) s = .next t ∧ t.nat 0x2801 6 = h.step ∧ t.learn.writingRecord = true ∧ t.parish.ckptDones = []
      ∧ (∀ c ∈ t.learn.checkpoints, c.step = h.step → c.complete = true) ∧ Keeps [.od, .parish, .learn] s t)
  ∧ (∀ h, s.hears h → s.notReady → s.leads = true → (∃ p ∈ s.seats, p.2 ≠ h.src ∧ s.parish.ckptDones.contains p.2 = false) →
      ∃ t, exec (.ckptDoneReceive h) s = .next t ∧ t.parish.ckptDones = h.src :: s.parish.ckptDones.filter (· != h.src)
      ∧ Keeps [.od, .parish] s t)
  ∧ (s.learn.writingRecord = true → exec .checkpointOfRecordWritten s = .next { s with learn := { s.learn with
      ofRecord := s.lastCkpt, writingRecord := false } })
  ∧ (s.learn.writingRecord = false → exec .checkpointOfRecordWritten s = .next s)
  ∧ (∀ n step, s.accepts n 0x7000 2 (leBytes 8 step) (fun s => s.replayDeny step) → ∃ t, exec (.replayStart n step) s = .next t
      ∧ t.learn.replaying = some step ∧ t.nat 0x7000 1 = 1 ∧ t.answered n ∧ t.learn.committed = s.learn.committed
      ∧ Keeps [.learn, .mail, .od, .parish, .slots] s t)
  ∧ (∀ h step ckpt result, s.hears h → s.notReady → (s.replayBase step).isSome = true → s.tray = .ready →
      ∃ t, exec (.replayReceive h step ckpt 1 result) s = .next t ∧ t.learn.replaying = some step ∧ t.nat 0x7000 1 = 1
      ∧ Keeps [.learn, .od, .parish] s t)
  ∧ (∀ h step ckpt result, s.hears h → s.notReady → (s.replayBase step = none ∨ s.tray ≠ .ready) →
      ∃ t, exec (.replayReceive h step ckpt 1 result) s = .next t ∧ t.nat 0x7000 1 = 4 ∧ Keeps [.od, .parish] s t)
  ∧ (∀ h step ckpt result, s.hears h → s.notReady → (result = 3 ∨ result = 4) → s.nat 0x7000 1 = 1 →
      ∃ t, exec (.replayReceive h step ckpt 2 result) s = .next t ∧ t.nat 0x7000 1 = result ∧ Keeps [.od, .parish] s t)
  ∧ (∀ n, s.learn.replaying = some n → ((s.inParish = false ∧ s.nat 0x7000 1 = 1) ∨ s.leads = false) →
      (∃ t, exec (.replayComplete none) s = .next t ∧ t.learn.replaying = none ∧ t.nat 0x7000 1 = 2
        ∧ Keeps [.od, .parish, .learn, .draws] s t)
      ∧ ∀ step tray chip desc, ∃ t, exec (.replayComplete (some (step, tray, chip, desc))) s = .next t ∧ t.learn.replaying = none
        ∧ t.nat 0x7000 1 = 3 ∧ t.nat 0x7000 3 = step ∧ t.nat 0x7000 4 = tray + 2 ^ 8 * chip + 2 ^ 16 * desc
        ∧ Keeps [.boot, .draws, .faults, .learn, .mail, .od, .parish] s t)
  ∧ (∀ diff, s.learn.replaying = none → exec (.replayComplete diff) s = .next s)

/-- An accepted enable sets OD 0x2800:01 with nothing heard yet, and changes no entry where the parish is enabled already. A link
change sets the module and lock of its port; a duplicate address marks the port down, with fault 0x6304 where it is newly found.
Neighbor discovery without a duplicate resolves the neighbour. A healthy peer not heard for more than 16 heartbeat intervals is
lost, and none before. 2 heartbeat intervals after recovery began, the leader rolls a step in progress back where no healthy tray
has applied it, and commits it where one has; an open seat that a healthy spare can take and whose shards have a source goes to that
spare. Before its time neither recovery nor the filling of seats does anything. 10 s after the first HELLO the lowest open seat goes
to the healthy spare of the lowest ID. -/
def Obligations.ParishSeats : Prop := ∀ (s : State),
  (∀ n, s.accepts n 0x2800 1 [1] State.enableDeny →
      (s.inParish = false → ∃ t, exec (.parishEnable n) s = .next t
        ∧ t.inParish = true ∧ t.answered n ∧ (∀ p < 64, (t.peer p).heard = none ∧ (t.peer p).healthy = false)
        ∧ t.parish.module = s.parish.module ∧ t.parish.lock = s.parish.lock ∧ Keeps [.boot, .faults, .mail, .od, .parish, .slots] s t)
      ∧ (s.inParish = true → ∃ t, exec (.parishEnable n) s = .next t ∧ t.answered n ∧ Keeps [.mail, .slots] s t))
  ∧ (∀ q m l, q < 2 → ∃ t, exec (.ferryLinkChange q m l true) s = .next t
      ∧ vget t.parish.module q = m ∧ vget t.parish.lock q = l ∧ vget t.parish.dup q = true ∧ t.portUp q = false
      ∧ (vget s.parish.dup q = false → s.wrote t ⟨s.stamp, 0x6304, ferryUnit q, noTenant, 0, 0⟩)
      ∧ (vget s.parish.dup q = true → Keeps [.parish] s t) ∧ Keeps viewPieces s t)
  ∧ (∀ q m l, q < 2 → ∃ t, exec (.ferryLinkChange q m l false) s = .next t ∧ t.portUp q = (m && l)
      ∧ (∀ r, r ≠ q → t.portUp r = s.portUp r) ∧ Keeps [.parish] s t)
  ∧ (∀ q peer, ∃ t, exec (.neighborDiscoveryReceive q peer false) s = .next t ∧ (q, peer) ∈ t.parish.neighbours
      ∧ (∀ x ∈ s.parish.neighbours, x ∈ t.parish.neighbours) ∧ Keeps [.parish] s t)
  ∧ (∀ q peer, q < 2 → ∃ t, exec (.neighborDiscoveryReceive q peer true) s = .next t ∧ t.portUp q = false
      ∧ (vget s.parish.dup q = false → s.wrote t ⟨s.stamp, 0x6304, ferryUnit q, noTenant, 0, 0⟩) ∧ Keeps viewPieces s t)
  ∧ (∀ p m, p < 64 → p ≠ s.trayId → (s.peer p).heard = some m → s.inParish = true → m + 16 * s.beat < s.micros →
      (s.peer p).healthy = true → ∃ t, exec (.peerHealthTimeout p) s = .next t ∧ (t.peer p).healthy = false ∧ (t.peer p).lost = true
      ∧ (t.peer p).unacked = [] ∧ Keeps viewPieces s t)
  ∧ (∀ p m, (s.peer p).heard = some m → (s.micros ≤ m + 16 * s.beat ∨ (s.peer p).healthy = false) →
      exec (.peerHealthTimeout p) s = .next s)
  ∧ (s.parish.recoverFrom = none → exec .leaderRecovery s = .next s)
  ∧ (∀ m, s.parish.recoverFrom = some m → s.micros < m + 2 * s.beat → exec .leaderRecovery s = .next s)
  ∧ (∀ m, s.parish.recoverFrom = some m → s.inParish = true → s.leads = true → m + 2 * s.beat ≤ s.micros →
      (s.stepInView = none → s.openSeats = [] → exec .leaderRecovery s = .next { s with parish := { s.parish with recoverFrom := none } })
      ∧ (s.learn.phase ≠ 0 → s.openSeats = [] → s.outcomeOf s.learn.step = none → ∃ t, exec .leaderRecovery s = .next t
          ∧ t.learn.phase = 0 ∧ t.nat 0x5002 5 = 4 ∧ t.learn.committed = s.learn.committed ∧ t.parish.recoverFrom = none
          ∧ Keeps stepPieces s t)
      ∧ (s.learn.phase ≠ 0 → s.openSeats = [] → s.outcomeOf s.learn.step = some 1 → s.unapplied → ∃ t, exec .leaderRecovery s = .next t
          ∧ t.learn.phase = 0 ∧ t.nat 0x5002 5 = 1 ∧ t.nat 0x5002 1 = s.learn.step
          ∧ t.learn.committed = s.learn.shadow.foldl putShard s.learn.committed ∧ t.parish.recoverFrom = none ∧ Keeps stepPieces s t)
      ∧ (∀ seat x rest, s.stepInView = none → s.openSeats = [seat] → s.freeSpares = x :: rest → x ≠ s.trayId → s.sourceLeft seat = true →
          ∃ t, exec .leaderRecovery s = .next t ∧ vget t.parish.seatMap seat = x ∧ bit t.parish.vacant seat = false
          ∧ t.parish.recoverFrom = none ∧ Keeps viewPieces s t))
  ∧ (s.parish.firstHello = none → exec .seatFillTimeout s = .next s)
  ∧ (∀ m, s.parish.firstHello = some m → (s.micros < m + 10000000 ∨ s.parish.started = true) → exec .seatFillTimeout s = .next s)
  ∧ (∀ m i x, s.parish.firstHello = some m → s.inParish = true → m + 10000000 ≤ s.micros → s.parish.started = false →
      i ∈ bitsSet 64 (s.nat 0x2800 5) → vget s.parish.seatMap i = 0xFF → bit s.parish.dropped i = false → s.healthy i = false →
      (∀ j ∈ bitsSet 64 (s.nat 0x2800 5), j < i → vget s.parish.seatMap j ≠ 0xFF ∨ bit s.parish.dropped j = true ∨ s.healthy j = true) →
      s.freeSpares.head? = some x → ∃ t, exec .seatFillTimeout s = .next t ∧ vget t.parish.seatMap i = x
      ∧ (s.tray ≠ .learning → Keeps viewPieces s t) ∧ Keeps [.boot, .chips, .faults, .learn, .mail, .od, .parish, .slots] s t)

/-- HELLO goes out in ready, watching and learning once 100 ms have passed since the last one, and a heartbeat once its interval
has: a frame to each other tray on each port that is up. A HELLO of a healthy peer with the right digest notes its tray state, and
loses the peer where that is none of ready, watching and learning; one that makes a peer healthy starts the numbering anew. A HELLO
with a wrong digest is not taken, makes the peer unhealthy, and raises event 0x7201 once. A heartbeat of a healthy peer notes its
phase and outcome, the leader's also its parish digest, and one that gives up a seat leaves it vacant. An ACK removes the frames
below its sequence and those of its map. An acknowledgement that has been owed for 20 µs goes out. A frame whose 200 µs have passed
is marked sent again, on the other port where it qualifies, and after 8 times its peer is lost; before that nothing changes. A
datagram that fails a check is counted. -/
def Obligations.MootFrames : Prop := ∀ (s : State),
  (s.inParish = true → s.selfHealthy = true → s.elapsed 100000 s.parish.helloAt = true → ∃ t, exec .helloSend s = .next t
      ∧ t.parish.helloAt = some s.micros ∧ t.parish.firstHello = some (s.parish.firstHello.getD s.micros)
      ∧ t.parish.sent.length = s.parish.sent.length + s.others.length * ((List.range 2).filter s.portUp).length
      ∧ Keeps viewPieces s t)
  ∧ ((s.inParish = false ∨ s.selfHealthy = false ∨ s.elapsed 100000 s.parish.helloAt = false) → exec .helloSend s = .next s)
  ∧ (s.inParish = true → s.alive = true → s.elapsed s.beat s.parish.beatAt = true → ∃ t, exec .heartbeatSend s = .next t
      ∧ t.parish.beatAt = some s.micros ∧ (∀ p ∈ s.others, (t.peer p).ackOwed = false)
      ∧ (s.parish.giveUp = true → s.learn.phase = 0 → t.parish.giveUp = false)
      ∧ t.parish.sent.length = s.parish.sent.length + s.others.length * ((List.range 2).filter s.portUp).length
      ∧ Keeps viewPieces s t)
  ∧ (s.elapsed s.beat s.parish.beatAt = false → exec .heartbeatSend s = .next s)
  ∧ (∀ h role tray, s.hearsPlain h → s.notReady → ∃ t, exec (.helloReceive h s.configDigest role tray) s = .next t
      ∧ (t.peer h.src).trayState = tray ∧ (t.peer h.src).healthy = decide (3 ≤ tray ∧ tray ≤ 5)
      ∧ (t.peer h.src).heard = some s.micros ∧ (3 ≤ tray → tray ≤ 5 → Keeps [.od, .parish] s t) ∧ Keeps viewPieces s t)
  ∧ (∀ h role tray, s.admits h → h.unsequenced = true → s.notReady → (s.peer h.src).healthy = false → 3 ≤ tray → tray ≤ 5 →
      ∃ t, exec (.helloReceive h s.configDigest role tray) s = .next t ∧ (t.peer h.src).healthy = true
      ∧ (t.peer h.src).trayState = tray ∧ (t.peer h.src).nextSend = 0 ∧ (t.peer h.src).nextExpect = 0 ∧ (t.peer h.src).unacked = []
      ∧ Keeps viewPieces s t)
  ∧ (∀ h digest role tray, s.admits h → s.notReady → digest ≠ s.configDigest → ∃ t, exec (.helloReceive h digest role tray) s = .next t
      ∧ (t.peer h.src).digestOk = false ∧ (t.peer h.src).healthy = false ∧ (t.peer h.src).trayState = (s.peer h.src).trayState
      ∧ (t.peer h.src).heard = (s.peer h.src).heard
      ∧ ((s.peer h.src).digestRaised = false → (s.peer h.src).healthy = false →
          s.wrote t ⟨s.stamp, 0x7201, 0, noTenant, 0, h.src⟩)
      ∧ ((s.peer h.src).digestRaised = true → (s.peer h.src).healthy = false → Keeps [.od, .parish] s t) ∧ Keeps viewPieces s t)
  ∧ (∀ h tray seat leader phase outcome ckpt pd, s.hearsPlain h → s.notReady → 3 ≤ tray → tray ≤ 5 →
      ((seat = 0xFF ∧ (s.peer h.src).seat = 0xFF) ∨ (seat < 64 ∧ vget s.parish.seatMap seat = h.src)) →
      ∃ t, exec (.heartbeatReceive h tray seat leader phase outcome ckpt s.configDigest pd) s = .next t
      ∧ (t.peer h.src).phase = phase ∧ (t.peer h.src).outcome = outcome ∧ (t.peer h.src).outcomeStep = h.step
      ∧ (t.peer h.src).checkpoint = ckpt ∧ (t.peer h.src).seat = seat ∧ vget (t.peer h.src).heardPort h.port = some s.micros
      ∧ (h.src ≠ s.parish.leader → Keeps [.od, .parish] s t)
      ∧ (h.src = s.parish.leader → pd ≠ 0 → t.parish.parishDigest = pd ∧ t.nat 0x2801 8 = pd) ∧ Keeps [.od, .parish, .learn] s t)
  ∧ (∀ h tray leader phase outcome ckpt pd, s.hearsPlain h → s.notReady → 3 ≤ tray → tray ≤ 5 → (s.peer h.src).seat < 64 →
      vget s.parish.seatMap (s.peer h.src).seat = h.src →
      ∃ t, exec (.heartbeatReceive h tray 0xFF leader phase outcome ckpt s.configDigest pd) s = .next t
      ∧ bit t.parish.vacant (s.peer h.src).seat = true ∧ Keeps [.boot, .faults, .learn, .mail, .od, .parish] s t)
  ∧ (∀ h map, s.hearsPlain h → s.notReady → ∃ t, exec (.ackReceive h map) s = .next t ∧ Keeps [.od, .parish] s t
      ∧ ((∀ u ∈ (s.peer h.src).unacked, u.out.isSome = true) → ∀ u ∈ (t.peer h.src).unacked, u ∈ (s.peer h.src).unacked
        ∧ (u.frame.seq + 2 ^ 32 - h.ack) % 2 ^ 32 < 2 ^ 31
        ∧ ∀ i < 32, bit map i = true → (u.frame.seq + 2 ^ 32 - h.ack) % 2 ^ 32 ≠ i + 1))
  ∧ (∀ p, p < 64 → (s.peer p).ackOwed = true → (s.peer p).ackFrom + 20 ≤ s.micros → ∃ t, exec (.ackTimer p) s = .next t
      ∧ (t.peer p).ackOwed = false
      ∧ t.parish.sent.length = s.parish.sent.length + (if s.portsTo p = [] then 0 else 1) ∧ Keeps [.od, .parish] s t)
  ∧ (∀ p, ((s.peer p).ackOwed = false ∨ s.micros < (s.peer p).ackFrom + 20) → exec (.ackTimer p) s = .next s)
  ∧ (∀ p seq u m, p < 64 → (s.peer p).unacked.find? (fun u => decide (u.frame.seq = seq) && u.out.isSome) = some u → u.out = some m →
      (m + 200 ≤ s.micros → u.resent < 8 → ∃ t, exec (.mootRetransmitTimer p seq) s = .next t
        ∧ (t.peer p).unacked = (s.peer p).unacked.map (fun x => if x = u then { x with
            resent := x.resent + 1, port := if (s.portsTo p).contains (1 - u.port) then 1 - u.port else u.port,
            out := some s.micros } else x)
        ∧ t.parish.sent.length = s.parish.sent.length + (if s.portsTo p = [] then 0 else 1) ∧ Keeps [.od, .parish] s t)
      ∧ (m + 200 ≤ s.micros → 8 ≤ u.resent → (s.peer p).healthy = true → ∃ t, exec (.mootRetransmitTimer p seq) s = .next t
        ∧ (t.peer p).healthy = false ∧ (t.peer p).lost = true ∧ (t.peer p).unacked = [] ∧ Keeps viewPieces s t)
      ∧ (s.micros < m + 200 → exec (.mootRetransmitTimer p seq) s = .next s))
  ∧ (∀ q d, s.portUp q = true → s.datagramOk d = false → exec (.mootFrameReject q d) s = .next (s.bump 0x2810 (5 + 6 * q)))
  ∧ (∀ q d, (s.datagramOk d = true ∨ s.portUp q = false) → exec (.mootFrameReject q d) s = .next s)

/-- The targeted test of an on-chip unit, of a link with no transfer that waits, or of a page, or a whole-chip test of one
replaced test, that finds no bad unit and fewer than three recent transients, is counted and records verdict 1, and retires nothing. A
spare that has loaded, above Fallow, no longer stands for another chip and holds its partitions. A relock of the Almanac is noted in a
gap after 1 s and at 1.2 s at the latest, and none happens within 1 s. A margin tuning that is due, or becomes due at the end of its
interval, starts where it is free to, is otherwise due and counted as deferred, is forced after 10 s, and its end sets a trim between
-25 and 25, or records 0x5601 where it found none. A self-check of a bank that the open gap has not seen checked notes the gap, and one
that differs puts the bank under test. Telemetry is counted at the end of its interval as taken in an idle cycle, and as skipped
otherwise. -/
def Obligations.TestsAndBackgroundWork : Prop := ∀ (s : State) (c : Nat), c < 16 →
  (∀ u t, u.onChip = true → u.chip = some c → (s.chip c).test = some t → t.unit = u → 2 ≤ (s.chip c).tier →
      (s.recentTransients u).length < 3 → ∃ r, exec (.targetedTestComplete u .pass) s = .next r
      ∧ r.nat 0x2410 1 = (s.bump 0x2410 1).nat 0x2410 1 ∧ r.nat 0x2410 2 = (s.bump 0x2410 2).nat 0x2410 2
      ∧ s.wrote r (t.record 1) ∧ r.faults.retired = s.faults.retired
      ∧ Keeps [.boot, .chips, .faults, .issues, .mail, .od] s r)
  ∧ (∀ a t, a < 2 → vget (s.chip c).linkTest a = some t → t.unit = .byway c a → t.issue = none → (s.recentTransients t.unit).length < 3 →
      ∃ r, exec (.targetedTestComplete (.byway c a) .pass) s = .next r ∧ vget (r.chip c).linkTest a = none
      ∧ (vget (r.chip c).links a).retries = 0 ∧ r.nat 0x2410 1 = (s.bump 0x2410 1).nat 0x2410 1 ∧ s.wrote r (t.record 1)
      ∧ r.faults.retired = s.faults.retired ∧ sameChips c s r ∧ Keeps [.boot, .chips, .faults, .mail, .od] s r)
  ∧ (∀ t, (s.chip c).pcieTest = some t → t.unit = .pcie c → t.issue = none → (s.recentTransients t.unit).length < 3 →
      ∃ r, exec (.targetedTestComplete (.pcie c) .pass) s = .next r ∧ (r.chip c).pcieTest = none ∧ (r.chip c).pcieRetries = 0
      ∧ r.nat 0x2410 1 = (s.bump 0x2410 1).nat 0x2410 1 ∧ s.wrote r (t.record 1)
      ∧ r.faults.retired = s.faults.retired ∧ sameChips c s r ∧ Keeps [.boot, .chips, .faults, .mail, .od] s r)
  ∧ (∀ u t, u.chip = none → s.faults.pageTests.find? (fun t => decide (t.unit = u)) = some t → (s.recentTransients u).length < 3 →
      ∃ r, exec (.targetedTestComplete u .pass) s = .next r ∧ r.underTest u = false
      ∧ r.nat 0x2410 1 = (s.bump 0x2410 1).nat 0x2410 1 ∧ s.wrote r (t.record 1)
      ∧ r.faults.retired = s.faults.retired ∧ r.faults.remapped = s.faults.remapped ∧ Keeps [.boot, .faults, .mail, .od] s r)
  ∧ (∀ t, (s.chip c).whole = some [t] → (2 ≤ (s.chip c).tier ∨ s.tray = .selfTest) → (s.recentTransients t.unit).length < 3 →
      ∃ r, exec (.wholeChipTestComplete c []) s = .next r ∧ (r.chip c).whole = none
      ∧ r.nat 0x2410 1 = (s.bump 0x2410 1).nat 0x2410 1 ∧ s.wrote r (t.record 1)
      ∧ r.faults.retired = s.faults.retired ∧ Keeps [.boot, .chips, .faults, .issues, .mail, .od] s r)
  ∧ (∀ old, (s.chip c).spareFor = some old → (s.chip c).tier ≠ 0 → ∃ r, exec (.spareLoadComplete c) s = .next r
      ∧ (r.chip c).spareFor = none ∧ (r.chip c).reloading = false
      ∧ (∀ k < 256, (r.model k).map Model.placed = (s.model k).map fun m => m.placed.map fun p => if p.chip = old then { p with chip := c } else p)
      ∧ Keeps [.boot, .chips, .faults, .issues, .learn, .mail, .od, .slots, .tokens] s r)
  ∧ ((s.chip c).attended = true → ((1000000 ≤ s.micros - (s.chip c).mirror.lockedAt ∧ s.mayStart c = true)
        ∨ 1200000 ≤ s.micros - (s.chip c).mirror.lockedAt) →
      exec (.almanacRelock c) s = .next { s with chips := (vset s.chips c
        { s.chip c with mirror := { (s.chip c).mirror with lockedAt := s.micros } }) })
  ∧ (s.micros - (s.chip c).mirror.lockedAt < 1000000 → exec (.almanacRelock c) s = .next s)
  ∧ (∀ k, k < 8 → (s.chip c).attended = true → s.flag 0x2430 2 = true → (vget (s.chip c).clusters k).tuning = false →
      k < tierClusters (s.chip c).tier →
      ((vget (s.chip c).clusters k).tuneDue.isSome = true
        ∨ ((vget (s.chip c).clusters k).tuneNext).getD (1000000 * s.nat 0x2430 1) ≤ s.micros) →
      ((s.mayStart c = true ∨ ∃ m, (vget (s.chip c).clusters k).tuneForced = some m ∧ m + 1000000 ≤ s.micros) →
        (vget (s.chip c).clusters k).rounds = [] → ∃ r, exec (.marginTuningStart c k) s = .next r
        ∧ (vget (r.chip c).clusters k).tuning = true ∧ sameChips c s r ∧ Keeps [.chips] s r)
      ∧ (((vget (s.chip c).clusters k).rounds ≠ [] ∨ (s.mayStart c = false ∧ (vget (s.chip c).clusters k).tuneForced = none)) →
        (vget (s.chip c).clusters k).tuneDue = none →
        ∃ r, exec (.marginTuningStart c k) s = .next r ∧ (vget (r.chip c).clusters k).tuneDue = some s.micros
        ∧ (vget (r.chip c).clusters k).tuneNext = some (s.micros + 1000000 * s.nat 0x2430 1)
        ∧ r.nat 0x2430 7 = (s.bump 0x2430 7).nat 0x2430 7 ∧ sameChips c s r ∧ Keeps [.chips, .od] s r))
  ∧ (∀ k, (vget (s.chip c).clusters k).tuneDue = none →
      s.micros < ((vget (s.chip c).clusters k).tuneNext).getD (1000000 * s.nat 0x2430 1) →
      exec (.marginTuningStart c k) s = .next s)
  ∧ (∀ k m, k < 8 → (vget (s.chip c).clusters k).tuneDue = some m → m + 10000000 ≤ s.micros →
      (vget (s.chip c).clusters k).tuneForced = none → (s.chip c).attended = true → ∃ r, exec (.marginTuningForce c k) s = .next r
      ∧ (vget (r.chip c).clusters k).tuneForced = some s.micros ∧ r.nat 0x2430 8 = (s.bump 0x2430 8).nat 0x2430 8
      ∧ sameChips c s r ∧ Keeps [.chips, .od] s r)
  ∧ (∀ k v, k < 8 → (vget (s.chip c).clusters k).tuning = true → ∃ r, exec (.marginTuningComplete c k (some v)) s = .next r
      ∧ (vget (r.chip c).clusters k).tuning = false ∧ (vget (r.chip c).clusters k).trim = clampInt (-25) 25 v
      ∧ Keeps [.chips, .issues] s r)
  ∧ (∀ k, k < 8 → (vget (s.chip c).clusters k).tuning = true → ∃ r, exec (.marginTuningComplete c k none) s = .next r
      ∧ (vget (r.chip c).clusters k).tuning = false ∧ sameChips c s r ∧ Keeps [.boot, .chips, .faults, .mail, .od] s r
      ∧ ((∀ t, s.isRetired (.tile c k t) = false) → s.wrote r ⟨s.stamp, 0x5601, clusterUnit c k, noTenant, 0, 0⟩
        ∧ ∀ t, t < 8 → t ∉ (vget (s.chip c).clusters k).tilesBad → r.underTest (.tile c k t) = true))
  ∧ (∀ k b, k < 8 → b < 2 → (s.chip c).attended = true → s.flag 0x2430 3 = true → s.mayStart c = true →
      (vget (vget (s.chip c).clusters k).commons b).live = true →
      (s.openGap c = none ∨ (vget (vget (s.chip c).clusters k).commons b).checkedIn ≠ s.openGap c) →
      (∃ r, exec (.commonsSelfCheck c k b true) s = .next r
        ∧ (vget (vget (r.chip c).clusters k).commons b).checkedIn = s.openGap c
        ∧ (vget (vget (r.chip c).clusters k).commons b).live = true ∧ (r.chip c).test = (s.chip c).test
        ∧ (r.chip c).tests = (s.chip c).tests ∧ sameChips c s r ∧ Keeps [.chips] s r)
      ∧ (s.isRetired (.commonsBank c k b) = false →
        ∃ r, exec (.commonsSelfCheck c k b false) s = .next r ∧ r.underTest (.commonsBank c k b) = true ∧ sameChips c s r
        ∧ Keeps [.chips] s r))
  ∧ (∀ k b same g, s.openGap c = some g → (vget (vget (s.chip c).clusters k).commons b).checkedIn = some g →
      exec (.commonsSelfCheck c k b same) s = .next s)
  ∧ ((s.chip c).attended = true → ((s.chip c).telemetryNext).getD (1000 * s.nat 0x2430 4) ≤ s.micros →
      (∃ r, exec (.telemetrySample c true) s = .next r
        ∧ (r.chip c).telemetry = ((s.chip c).telemetry + 1) % 2 ^ 32
        ∧ (r.chip c).telemetryNext = some (s.micros + 1000 * s.nat 0x2430 4) ∧ sameChips c s r ∧ Keeps [.chips] s r)
      ∧ ∃ r, exec (.telemetrySample c false) s = .next r ∧ (r.chip c).telemetry = (s.chip c).telemetry
        ∧ (r.chip c).telemetryNext = some (s.micros + 1000 * s.nat 0x2430 4)
        ∧ r.nat 0x2430 9 = (s.bump 0x2430 9).nat 0x2430 9 ∧ sameChips c s r ∧ Keeps [.chips, .od] s r)
  ∧ (∀ idle, s.micros < ((s.chip c).telemetryNext).getD (1000 * s.nat 0x2430 4) → exec (.telemetrySample c idle) s = .next s)

/-- An error in a memory of a powered chip, or in the Storehouse, puts a unit that is not retired under test, and one that is
retired records verdict 4; lost Loft data ends the issue that read it, zeroes a token cache and puts its session at position 0. A CRC
error on a link is retried 8 times and a PCIe error 3 times, and one more puts the link under test. A timer of a hand-off or a DMA
that is due ends the issue: after its nominal value without the pauses for link tests, or after four times that. Scrub accesses are counted, an error that one meets puts its unit under test, and the patrol goes on by a page. A
burst of Storehouse errors ends after 60 s. Writing the log's clear empties it. The plate temperature is shown; above 75 degrees it
caps the tray, at or below 70 not, and above 85 it is critical. A plate sensor that fails is marked; 25 degrees less than the Reeve's
reading stand for it where no chip has one, and with no reading at all the tray is capped. -/
def Obligations.MemoryAndLinkErrors : Prop := ∀ (s : State),
  (∀ c b w unc issue, c < 16 → (s.chip c).powered = true → s.isRetired (.granaryRow c b w) = false →
      ∃ r, exec (.granaryEccError c b w unc issue) s = .next r ∧ r.underTest (.granaryRow c b w) = true ∧ sameChips c s r
      ∧ Keeps [.chips] s r)
  ∧ (∀ c b w unc issue, c < 16 → (s.chip c).powered = true → s.isRetired (.granaryRow c b w) = true →
      ∃ r v, exec (.granaryEccError c b w unc issue) s = .next r ∧ s.wrote r v ∧ v.verdict = 4 ∧ v.code = (if unc then 0x5502 else 0x5501)
      ∧ v.unit = (UnitRef.granaryRow c b w).id ∧ sameChips c s r ∧ Keeps [.boot, .chips, .faults, .mail, .od] s r)
  ∧ (∀ c b w issue, c < 16 → (s.chip c).powered = true → s.isRetired (.loftBank c b) = true →
      ∃ r v, exec (.loftEccError c b w false issue) s = .next r ∧ s.wrote r v ∧ v.verdict = 4 ∧ v.code = 0x5511
      ∧ v.unit = (UnitRef.loftBank c b).id ∧ sameChips c s r ∧ Keeps [.boot, .chips, .faults, .mail, .od] s r)
  ∧ (∀ c b w issue, c < 16 → (s.chip c).powered = true → s.isRetired (.loftBank c b) = false →
      ∃ r, exec (.loftEccError c b w false issue) s = .next r ∧ r.underTest (.loftBank c b) = true ∧ sameChips c s r
      ∧ Keeps [.chips] s r)
  ∧ (∀ c b w id i, c < 16 → (s.chip c).powered = true → s.issue id = some i → i.micro = none →
      ∃ r, exec (.loftEccError c b w true (some id)) s = .next r ∧ r.issue id = none)
  ∧ (∀ c b w x k, c < 16 → k < 8 → (s.chip c).powered = true → s.isRetired (.loftBank c b) = false →
      (s.chip c).regions.find? (fun r => decide (r.loftBase ≤ 32 * (32 * (Config.loftPlace b w % 8192) + b % 32)
        ∧ 32 * (32 * (Config.loftPlace b w % 8192) + b % 32) < r.loftBase + r.loftSize) && !r.released) = some x → x.slot = 0x100 + k →
      ∃ r, exec (.loftEccError c b w true none) s = .next r ∧ r.nat (0x6100 + k) 13 = 0
      ∧ (∀ a, x.loftBase ≤ a → a < x.loftBase + x.loftSize → memRead (r.chip c).loft a = 0)
      ∧ Keeps [.chips, .od, .tokens] s r)
  ∧ (∀ p issue, s.alive = true → s.isRetired (.page p) = false → ∃ r, exec (.storehouseEccError p false issue) s = .next r
      ∧ r.underTest (.page p) = true ∧ Keeps [.faults] s r)
  ∧ (∀ p issue, s.alive = true → ∃ r, exec (.storehouseEccError p true issue) s = .next r ∧ r.faults.storeErrors.head? = some s.micros
      ∧ (∀ id i, issue = some id → s.issue id = some i → i.micro = none → r.issue id = none))
  ∧ (∀ m, s.faults.burst = some m → m + 60000000 ≤ s.micros →
      exec .storehouseErrorQuiet s = .next { s with faults := { s.faults with burst := none } })
  ∧ (∀ m, s.faults.burst = some m → s.micros < m + 60000000 → exec .storehouseErrorQuiet s = .next s)
  ∧ (∀ c a issue, c < 16 → a < 2 → s.alive = true → (vget (s.chip c).links a).down = false →
      ((vget (s.chip c).links a).retries < 8 → ∃ r, exec (.bywayFlitError c a issue) s = .next r
        ∧ (vget (r.chip c).links a).retries = (vget (s.chip c).links a).retries + 1 ∧ sameChips c s r ∧ Keeps [.chips] s r)
      ∧ (8 ≤ (vget (s.chip c).links a).retries → s.isRetired (.byway c a) = false → ∃ r, exec (.bywayFlitError c a issue) s = .next r
        ∧ r.underTest (.byway c a) = true ∧ (vget (r.chip c).links a).retries = 0 ∧ sameChips c s r ∧ Keeps [.chips] s r))
  ∧ (∀ c issue, c < 16 → s.alive = true → (s.chip c).failed = false →
      ((s.chip c).pcieRetries < 3 → ∃ r, exec (.pcieLinkError c issue) s = .next r
        ∧ (r.chip c).pcieRetries = (s.chip c).pcieRetries + 1 ∧ sameChips c s r ∧ Keeps [.chips] s r)
      ∧ (3 ≤ (s.chip c).pcieRetries → s.isRetired (.pcie c) = false → ∃ r, exec (.pcieLinkError c issue) s = .next r
        ∧ r.underTest (.pcie c) = true ∧ (r.chip c).pcieRetries = 0 ∧ sameChips c s r ∧ Keeps [.chips] s r))
  ∧ (∀ c a id i k, c < 16 → a < 2 → s.issue id = some i → i.micro = none → s.handOffDue c a id k = true →
      ∃ r, exec (.bywayHandoffTimer c a id k) s = .next r
      ∧ r.issue id = none ∧ Keeps [.boot, .cams, .chips, .draws, .faults, .groups, .issues, .jobs, .mail, .od, .tokens] s r)
  ∧ (∀ c a id k, s.handOffDue c a id k = false → exec (.bywayHandoffTimer c a id k) s = .next s)
  ∧ (∀ c a id i m h src n, s.issue id = some i → s.model i.slot = some m → m.variant.handOffs[n]? = some h → s.handsOver m i h = true →
      i.parts.find? (fun p => decide (p.part = h.src)) = some src → src.complete = true → i.arrived.contains n = false →
      (src.endedAt + 4000 ≤ s.micros → s.handOffDue c a id true = true)
      ∧ (vget (s.chip c).linkTest a = none → (vget (s.chip c).links a).tested = [] → src.endedAt + 1000 ≤ s.micros →
          s.handOffDue c a id false = true))
  ∧ (∀ c id k, s.dmaDue c id k = false → exec (.pcieDmaTimer c id k) s = .next s)
  ∧ (∀ c id i m, s.issue id = some i → (s.chip c).loading.contains i.slot = true → lookupKey i.slot (s.chip c).loadFrom = some m →
      s.dmaDue c id true = decide (m + 2000 ≤ s.micros))
  ∧ (∀ c id i k, c < 16 → s.issue id = some i → i.micro = none → s.dmaDue c id k = true →
      ∃ r, exec (.pcieDmaTimer c id k) s = .next r ∧ r.issue id = none
      ∧ (r.chip c).loading.contains i.slot = false
      ∧ Keeps [.boot, .cams, .chips, .draws, .faults, .groups, .issues, .jobs, .mail, .od, .tokens] s r)
  ∧ (∀ c b, c < 16 → b < 32 → (s.chip c).attended = true → ∃ r, exec (.gleanerScrubAccess c true b none) s = .next r
      ∧ (vget (r.chip c).scrubL b).accesses = (vget (s.chip c).scrubL b).accesses + 1 ∧ (r.chip c).scrubG = (s.chip c).scrubG
      ∧ (r.chip c).loft = (s.chip c).loft ∧ sameChips c s r ∧ Keeps [.chips, .od] s r)
  ∧ (∀ c b, c < 16 → b < 64 → (s.chip c).attended = true → ∃ r, exec (.gleanerScrubAccess c false b none) s = .next r
      ∧ (vget (r.chip c).scrubG b).accesses = (vget (s.chip c).scrubG b).accesses + 1 ∧ (r.chip c).scrubL = (s.chip c).scrubL
      ∧ (r.chip c).granary = (s.chip c).granary ∧ sameChips c s r ∧ Keeps [.chips, .od] s r)
  ∧ (∀ c loft b a, c < 16 → (s.chip c).attended = true → s.isRetired (if loft then .loftBank c b else .granaryRow c b a) = false →
      ∃ r, exec (.gleanerScrubAccess c loft b (some a)) s = .next r
      ∧ r.underTest (if loft then .loftBank c b else .granaryRow c b a) = true ∧ sameChips c s r ∧ Keeps [.chips, .od] s r)
  ∧ (∀ res p, s.alive = true → s.isRetired (if res then .reserve p else .page p) = false →
      ∃ r, exec (.storehousePatrolScrub res p (some false)) s = .next r ∧ r.store = { s.store with patrol := p + 1 }
      ∧ r.underTest (if res then .reserve p else .page p) = true ∧ Keeps [.store, .faults] s r)
  ∧ (∀ b p, s.alive = true → exec (.storehousePatrolScrub b p none) s = .next { s with store := { s.store with patrol := p + 1 } })
  ∧ (∀ n v, s.accepts n 0x2400 4 (numBytes 0x2400 4 v) (fun _ => none) → ∃ r, exec (.faultLogClear n v) s = .next r ∧ r.faults.log = []
      ∧ r.answered n ∧ Keeps [.faults, .mail, .slots] s r)
  ∧ (∀ t dies reeve, s.alive = true → -500 ≤ t → t ≤ 1250 → ∃ r, exec (.plateTemperatureSample (.value t) dies reeve) s = .next r
      ∧ r.faults.plate = t ∧ r.faults.plateFailed = false ∧ (t ≤ 700 → r.faults.capped = false)
      ∧ (s.faults.plate ≤ 750 → 750 < t → r.faults.capped = true)
      ∧ (s.faults.plate ≤ 850 → 850 < t → r.faults.plateCritical = true)
      ∧ (t ≤ 850 → Keeps [.boot, .chips, .faults, .mail, .od] s r))
  ∧ (∀ p dies reeve, s.alive = true → readingOf p = none → (∀ d ∈ dies, readingOf d = none) →
      ∃ r, exec (.plateTemperatureSample p dies reeve) s = .next r ∧ r.faults.plateFailed = true
      ∧ (∀ v, readingOf reeve = some v → r.faults.plate = v - 250)
      ∧ (readingOf reeve = none → r.faults.capped = true ∧ r.faults.plate = -32768))

/-- A write that nothing refuses of an entry with no effect of its own (a learning configuration, a sensor channel, a camera, a
mapping, a tenant's fields and the like) holds the value and changes no other entry; one that is refused without a record changes no
entry. A complete-access write of such entries holds them all, or none where one is refused. A move of control holds the field master's
levels and records 0x8320 (naming the network that takes control: log entry 18); a write of the network that has control changes
nothing. Switching margin tuning off cancels the tunings that wait to start, and switching it on changes no cluster. A write of a mapping, an assignment or a communication object holds the number written. A store saves the storable entries of
its set as they are, and leaves the rest; a restore marks its set for the next restart. -/
def Obligations.ObjectWrites : Prop := ∀ (s : State) (n : Net),
  (∀ index sub data, plainEntry index sub = true → sub < 256 →
      s.accepts n index sub data (fun s => s.entryDeny n index sub data) → ∃ r, exec (.odWrite n index sub data) s = .next r
      ∧ (odRow index sub).map (fun x => x.ty.decode data) = some (r.get index sub) ∧ r.answered n
      ∧ (∀ i j, j < 256 → (i ≠ index ∨ j ≠ sub) → r.get i j = s.get i j) ∧ Keeps [.od, .mail, .slots] s r)
  ∧ (s.accepts n 0x2430 2 [0] (fun s => s.entryDeny n 0x2430 2 [0]) → ∃ r, exec (.odWrite n 0x2430 2 [0]) s = .next r
      ∧ r.flag 0x2430 2 = false ∧ r.answered n ∧ (∀ c k, c < 16 → k < 8 → (vget (r.chip c).clusters k).tuneDue = none
        ∧ (vget (r.chip c).clusters k).tuneForced = none ∧ (vget (r.chip c).clusters k).tuning = (vget (s.chip c).clusters k).tuning)
      ∧ sameEntries (fun i => decide (i = 0x2430)) s r ∧ Keeps [.od, .mail, .slots, .chips] s r)
  ∧ (s.accepts n 0x2430 2 [1] (fun s => s.entryDeny n 0x2430 2 [1]) → ∃ r, exec (.odWrite n 0x2430 2 [1]) s = .next r
      ∧ r.flag 0x2430 2 = true ∧ r.answered n ∧ sameEntries (fun i => decide (i = 0x2430)) s r ∧ Keeps [.od, .mail, .slots] s r)
  ∧ (∀ index sub data d, plainEntry index sub = true →
      s.rejects n index sub data (fun s => s.entryDeny n index sub data) d → d.record = none →
      ∃ r, exec (.odWrite n index sub data) s = .next r ∧ (r.box n).answer = .abort d.abort ∧ Keeps [.mail, .slots, .faults] s r)
  ∧ (∀ (index : Nat) (parts : List (Nat × List Byte)), (odObj index).isSome = true → s.serves n = true →
      parts.Pairwise (fun p q => p.1 < q.1) →
      (∀ p ∈ parts, 1 ≤ p.1 ∧ p.1 < 256 ∧ plainEntry index p.1 = true
        ∧ (s.asked n).partDeny ((s.asked n).asWritten index parts) n index p = none) →
      ∃ r, exec (.completeAccessWrite n index parts) s = .next r ∧ r.answered n
      ∧ (∀ p ∈ parts, (odRow index p.1).map (fun o => o.ty.decode p.2) = some (r.get index p.1))
      ∧ (∀ i j, j < 256 → (i ≠ index ∨ ∀ p ∈ parts, p.1 ≠ j) → r.get i j = s.get i j) ∧ Keeps [.od, .mail, .slots] s r)
  ∧ (∀ (index : Nat) (parts : List (Nat × List Byte)) (d : Deny), (odObj index).isSome = true → s.serves n = true →
      parts.Pairwise (fun p q => p.1 < q.1) → d.record = none →
      parts.findSome? ((s.asked n).partDeny ((s.asked n).asWritten index parts) n index) = some d →
      ∃ r, exec (.completeAccessWrite n index parts) s = .next r ∧ (r.box n).answer = .abort d.abort
      ∧ Keeps [.mail, .slots, .faults] s r)
  ∧ (∀ v, s.accepts n 0x2021 0 (numBytes 0x2021 0 v) (fun s => s.controlDeny) →
      (v ≠ s.nat 0x2021 0 → ∃ r, exec (.controllingNetworkWrite n v) s = .next r ∧ r.nat 0x2021 0 = v ∧ r.outputs.holdMaster = true
        ∧ r.outputs.master = s.outputs.master ∧ r.answered n
        ∧ s.wrote r ⟨s.stamp, 0x8320, netUnit (if v = 0 then .ecat else .can), noTenant, 0, 256 * s.nat 0x2021 0 + v⟩
        ∧ sameEntries (fun i => decide (i = 0x2021 ∨ i = 0x2400)) s r ∧ Keeps [.od, .outputs, .boot, .mail, .slots, .faults] s r)
      ∧ (v = s.nat 0x2021 0 → ∃ r, exec (.controllingNetworkWrite n v) s = .next r ∧ r.answered n ∧ Keeps [.mail, .slots] s r))
  ∧ (∀ index sub v, (0x1600 ≤ index ∧ index ≤ 0x160F ∨ 0x1A00 ≤ index ∧ index ≤ 0x1A1F ∨ index = 0x1C12 ∨ index = 0x1C13) → sub < 256 →
      s.accepts n index sub (numBytes index sub v) (fun s => s.entryDeny n index sub (numBytes index sub v)) →
      ∃ r, exec (.pdoMappingWrite n index sub v) s = .next r ∧ r.nat index sub = v ∧ r.answered n
      ∧ (∀ i j, j < 256 → (i ≠ index ∨ j ≠ sub) → r.get i j = s.get i j) ∧ Keeps [.od, .mail, .slots] s r)
  ∧ (∀ index sub v, (0x1400 ≤ index ∧ index ≤ 0x140F ∨ 0x1800 ≤ index ∧ index ≤ 0x181F) → sub < 256 →
      s.accepts n index sub (numBytes index sub v) (fun s => s.entryDeny n index sub (numBytes index sub v)) →
      ∃ r, exec (.tpdoCommWrite n index sub v) s = .next r ∧ r.nat index sub = v ∧ r.answered n
      ∧ (∀ i j, j < 256 → (i ≠ index ∨ j ≠ sub) → r.get i j = s.get i j) ∧ Keeps [.od, .mail, .slots] s r)
  ∧ (∀ sub v, s.accepts n 0x1010 sub (numBytes 0x1010 sub v) (fun s => s.storeDeny 0x1010 sub v) → s.od.wf = true →
      ∃ r, exec (.storeParameters n sub v) s = .next r ∧ r.answered n ∧ Keeps [.store, .mail, .slots] s r
      ∧ (∀ k, inSet sub k = false → lookupKey k r.store.stored = lookupKey k s.store.stored)
      ∧ (∀ k x, inSet sub k = true → odRow (k / 256) (k % 256) = some x → x.saved = .store →
          lookupKey k r.store.stored = lookupKey k s.od))
  ∧ (∀ sub v, s.accepts n 0x1011 sub (numBytes 0x1011 sub v) (fun s => s.storeDeny 0x1011 sub v) →
      ∃ r, exec (.restoreDefaults n sub v) s = .next r ∧ r.answered n ∧ r.store.loadComm = (s.store.loadComm || decide (sub ≠ 3))
      ∧ r.store.loadApp = (s.store.loadApp || decide (sub ≠ 2)) ∧ r.od = s.od ∧ Keeps [.store, .mail, .slots] s r)

/-- An upload of a DOMAIN entry that may be read answers its length and opens a transfer; any other readable entry answers its
value, and a challenge is drawn as CHALLENGE_READ draws it. A download that may start opens a transfer. An upload or a download that is
refused answers its abort. A segment in turn is appended or sent and the toggle changes. The last one of a download hands a bundle or a
firmware image over whole, and gives an entry with no effect of its own its value; a total other than the size announced ends it with
0x0607 0010. A download that outgrows what it may hold ends with its abort, and a wrong toggle bit ends a transfer with 0x0503 0000; a
segment with no open transfer is answered 0x0504 0001. After 1 s without a segment the transfer ends with 0x0504 0000, and not before.
A bundle over FoE that nothing refuses opens the download of its slot, and any other is answered with its FoE error. -/
def Obligations.SegmentedTransfers : Prop := ∀ (s : State) (n : Net),
  (∀ index sub size, s.serves n = true → (s.asked n).readDeny n index sub = none → ¬ (0x3000 ≤ index ∧ index < 0x4000 ∧ index % 0x100 = 2 ∧ sub = 2) →
      ∃ r, exec (.sdoInitiate n true index sub size) s = .next r ∧ Keeps [.mail, .slots] s r
      ∧ (if (odRow index sub).map Row.ty = some .domain then
          (r.box n).answer = .data (leBytes 4 ((s.asked n).readBytes index sub).length)
          ∧ (r.box n).xfer.map (fun x => (x.upload, x.index, x.sub, x.data, x.toggle))
            = some (true, index, sub, (s.asked n).readBytes index sub, false)
        else (r.box n).answer = .data ((s.asked n).readBytes index sub)))
  ∧ (∀ t size, t < 16 → exec (.sdoInitiate n true (blk t 2) 2 size) s = exec (.challengeRead n t) s)
  ∧ (∀ index sub size d, s.serves n = true → (s.asked n).readDeny n index sub = some d →
      ∃ r, exec (.sdoInitiate n true index sub size) s = .next r ∧ (r.box n).answer = .abort d.abort ∧ Keeps [.mail, .slots, .faults] s r)
  ∧ (∀ index sub size d, s.serves n = true → (s.asked n).startDeny n index sub size = some d → d.record = none →
      ∃ r, exec (.sdoInitiate n false index sub size) s = .next r ∧ (r.box n).answer = .abort d.abort ∧ Keeps [.mail, .slots, .faults] s r)
  ∧ (∀ index sub size, s.serves n = true → (s.asked n).startDeny n index sub size = none →
      ∃ r, exec (.sdoInitiate n false index sub size) s = .next r ∧ r.answered n ∧ Keeps [.mail, .slots] s r
      ∧ (r.box n).xfer.map (fun x => (x.upload, x.index, x.sub, x.size, x.data, x.whole))
        = some (false, index, sub, size, [], false))
  ∧ (∀ toggle data x, s.serves n = true → (s.box n).xfer = some x → x.whole = false → x.toggle = toggle → x.upload = false →
      s.overrun n x (x.data.length + data.length) = none → ∃ r, exec (.sdoSegment n toggle false data) s = .next r ∧ r.answered n
      ∧ (r.box n).xfer = some { x with data := x.data ++ data, toggle := !toggle, last := s.micros } ∧ Keeps [.mail] s r)
  ∧ (∀ toggle last data x abort, s.serves n = true → (s.box n).xfer = some x → x.whole = false → x.toggle = toggle → x.upload = false →
      s.overrun n x (x.data.length + data.length) = some abort → ∃ r, exec (.sdoSegment n toggle last data) s = .next r
      ∧ (r.box n).answer = .abort abort ∧ (r.box n).xfer = none ∧ Keeps [.mail, .slots, .faults] s r)
  ∧ (∀ toggle data x, s.serves n = true → (s.box n).xfer = some x → x.whole = false → x.toggle = toggle → x.upload = false →
      s.overrun n x (x.data.length + data.length) = none →
      (x.size ≠ 0 → (x.data ++ data).length ≠ x.size → ∃ r, exec (.sdoSegment n toggle true data) s = .next r
        ∧ (r.box n).answer = .abort 0x06070010 ∧ (r.box n).xfer = none ∧ Keeps [.mail, .slots, .faults] s r)
      ∧ ((x.size = 0 ∨ (x.data ++ data).length = x.size) → ((bundleSlot x.index x.sub).isSome = true ∨ x.index = 0x1F50) →
        ∃ r, exec (.sdoSegment n toggle true data) s = .next r ∧ (r.box n).answer = .none
        ∧ (r.box n).xfer = some { x with data := x.data ++ data, whole := true, last := s.micros } ∧ Keeps [.mail] s r)
      ∧ ((x.size = 0 ∨ (x.data ++ data).length = x.size) → plainEntry x.index x.sub = true → x.sub < 256 →
        valueDeny x.index x.sub (x.data ++ data) = none → s.stateDeny n x.index x.sub = none →
        s.entryDeny n x.index x.sub (x.data ++ data) = none → ∃ r, exec (.sdoSegment n toggle true data) s = .next r ∧ r.answered n
        ∧ (odRow x.index x.sub).map (fun o => o.ty.decode (x.data ++ data)) = some (r.get x.index x.sub) ∧ (r.box n).xfer = none
        ∧ (∀ i j, j < 256 → (i ≠ x.index ∨ j ≠ x.sub) → r.get i j = s.get i j) ∧ Keeps [.od, .mail] s r))
  ∧ (∀ toggle last data, s.serves n = true → ((s.box n).xfer = none ∨ ∃ x, (s.box n).xfer = some x ∧ x.whole = true) →
      ∃ r, exec (.sdoSegment n toggle last data) s = .next r ∧ (r.box n).answer = .abort 0x05040001 ∧ (r.box n).xfer = (s.box n).xfer
      ∧ Keeps [.mail, .faults] s r)
  ∧ (∀ toggle last data x, s.serves n = true → (s.box n).xfer = some x → x.whole = false → x.toggle = toggle → x.upload = true →
      ∃ r, exec (.sdoSegment n toggle last data) s = .next r ∧ (r.box n).answer = .data (x.data.take data.length)
      ∧ (r.box n).xfer.map (fun y => (y.data, y.toggle)) = (if x.data.length ≤ data.length then none else some (x.data.drop data.length, !toggle)) ∧ Keeps [.mail] s r)
  ∧ (∀ toggle last data x, s.serves n = true → (s.box n).xfer = some x → x.whole = false → x.toggle ≠ toggle →
      ∃ r, exec (.sdoSegment n toggle last data) s = .next r ∧ (r.box n).answer = .abort 0x05030000 ∧ (r.box n).xfer = none
      ∧ Keeps [.mail, .slots, .faults] s r)
  ∧ (∀ x, (s.box n).xfer = some x → x.whole = false → x.last + 1000000 ≤ s.micros → ∃ r, exec (.sdoSegmentTimeout n) s = .next r
      ∧ (r.box n).answer = .abort 0x05040000 ∧ (r.box n).xfer = none ∧ Keeps [.mail, .slots, .faults] s r)
  ∧ ((s.box n).xfer = none → exec (.sdoSegmentTimeout n) s = .next s)
  ∧ (∀ x, (s.box n).xfer = some x → (x.whole = true ∨ s.micros < x.last + 1000000) → exec (.sdoSegmentTimeout n) s = .next s)
  ∧ (∀ slot data, s.alive = true → s.power.failing = none → s.ecat.al ≠ .init →
      (s.foeFlaw slot data = none → ∃ r, exec (.foeBundleWrite slot data) s = .next r ∧ (r.box .ecat).foe = some slot
        ∧ (r.box .ecat).foeData = data ∧ (r.slot slot).download = some .ecat ∧ (r.box .ecat).answer = .none ∧ Keeps [.mail, .slots] s r)
      ∧ (∀ code, s.foeFlaw slot data = some code → ∃ r, exec (.foeBundleWrite slot data) s = .next r
        ∧ (r.box .ecat).answer = .foeError code ∧ r.slots = s.slots ∧ Keeps [.mail, .faults] s r))

/-- An RxPDO taken on the controlling network writes the four bits of OD 0x6200:01 from the last entry that maps it, and the
field master's levels follow; data that is too short or that the network does not take, or of the other network, is discarded. EtherCAT
latches its assigned inputs in SAFEOP and OP alone. An event-driven TPDO with an update is sent at a latch unless it is inhibited, and at
the end of its inhibit time, and its event timer sends it unless it is inhibited; with no update nothing is sent. At a SYNC a TPDO of type
1 to 240 is sent at every n-th one and counted at the others, one of type 0 is sent where it has an update, and no other is sent. -/
def Obligations.ProcessData : Prop := ∀ (s : State),
  (∀ n m data, s.rxTaken n m = true → n = s.controlling → s.mapSize (0x1600 + m) ≤ data.length → s.power.failing = none →
      ∃ r, exec (.rxpdoReceive n m data) s = .next r
      ∧ (∀ pre e post, s.mapEntries (0x1600 + m) = pre ++ e :: post → e / 256 = 0x620001 → (∀ d ∈ post, d / 256 ≠ 0x620001) →
          r.nat 0x6200 1 = leNat (slice data (pre.map (fun d => d % 256 / 8)).sum (e % 256 / 8)) % 16)
      ∧ ((∀ e ∈ s.mapEntries (0x1600 + m), e / 256 ≠ 0x620001) → r.nat 0x6200 1 = s.nat 0x6200 1)
      ∧ r.outputs.master = r.nat 0x6200 1 ∧ r.outputs.holdMaster = false
      ∧ sameEntries (fun i => decide (i = 0x6200)) s r ∧ Keeps [.od, .outputs] s r)
  ∧ (∀ n m data, (s.rxTaken n m = false ∨ n ≠ s.controlling ∨ data.length < s.mapSize (0x1600 + m)) → exec (.rxpdoReceive n m data) s = .next s)
  ∧ ((s.ecat.al = .safeop ∨ s.ecat.al = .op) → s.power.failing = none → ∃ r, exec (.txpdoLatch .ecat) s = .next r
      ∧ (r.box .ecat).image = (s.assigned 0x1C13).flatMap s.mapImage ∧ r.box .can = s.box .can ∧ Keeps [.mail] s r)
  ∧ (s.ecat.al ≠ .safeop → s.ecat.al ≠ .op → exec (.txpdoLatch .ecat) s = .next s)
  ∧ ((∀ i < 32, vget s.can.updated i = false) → exec (.txpdoLatch .can) s = .next s)
  ∧ (s.power.failing = none → ∃ r, exec (.txpdoLatch .can) s = .next r ∧ Keeps [.can] s r
      ∧ ∀ i, i < 32 → if s.canRuns (tpdoComm i) && s.tpdoByEvent i && vget s.can.updated i && !vget s.can.inhibited i then
          lookupKey i r.can.sent = some (s.mapImage (0x1A00 + i)) ∧ vget r.can.updated i = false
        else lookupKey i r.can.sent = lookupKey i s.can.sent ∧ vget r.can.updated i = vget s.can.updated i)
  ∧ (∀ i, i < 32 → s.canRuns (tpdoComm i) = true → s.tpdoByEvent i = true → vget s.can.updated i = true →
      (∀ m, vget s.can.sentAt i = some m → m + 100 * s.nat (tpdoComm i) 3 ≤ s.micros) → ∃ r, exec (.tpdoInhibitExpiry i) s = .next r ∧ lookupKey i r.can.sent = some (s.mapImage (0x1A00 + i))
      ∧ vget r.can.updated i = false ∧ (∀ j, j ≠ i → lookupKey j r.can.sent = lookupKey j s.can.sent) ∧ Keeps [.can] s r)
  ∧ (∀ i m, vget s.can.sentAt i = some m → s.micros < m + 100 * s.nat (tpdoComm i) 3 → exec (.tpdoInhibitExpiry i) s = .next s)
  ∧ (∀ i, i < 32 → (vget s.can.updated i = false ∨ s.canRuns (tpdoComm i) = false ∨ s.tpdoByEvent i = false) →
      (∀ m, vget s.can.sentAt i = some m → m + 100 * s.nat (tpdoComm i) 3 ≤ s.micros) → exec (.tpdoInhibitExpiry i) s = .next { s with can := { s.can with
      inhibited := (vset s.can.inhibited i false) } })
  ∧ (∀ i, i < 32 → s.canRuns (tpdoComm i) = true → s.tpdoByEvent i = true → s.nat (tpdoComm i) 5 ≠ 0 →
      (∀ m, vget s.can.sentAt i = some m → m + 1000 * s.nat (tpdoComm i) 5 ≤ s.micros) → ∃ r, exec (.tpdoEventTimer i) s = .next r
      ∧ (vget s.can.inhibited i = false → lookupKey i r.can.sent = some (s.mapImage (0x1A00 + i)) ∧ vget r.can.updated i = false)
      ∧ (vget s.can.inhibited i = true → r.can.sent = s.can.sent ∧ vget r.can.updated i = true) ∧ Keeps [.can] s r)
  ∧ (∀ i, (s.canRuns (tpdoComm i) = false ∨ s.tpdoByEvent i = false ∨ s.nat (tpdoComm i) 5 = 0) → exec (.tpdoEventTimer i) s = .next s)
  ∧ (∀ i m, vget s.can.sentAt i = some m → s.micros < m + 1000 * s.nat (tpdoComm i) 5 → exec (.tpdoEventTimer i) s = .next s)
  ∧ (∃ r, exec .canSyncReceive s = .next r ∧ Keeps [.can] s r
      ∧ ∀ i, i < 32 →
        if s.canRuns (tpdoComm i) = false ∨ 240 < s.nat (tpdoComm i) 2 ∨ (s.nat (tpdoComm i) 2 = 0 ∧ vget s.can.updated i = false) then
          lookupKey i r.can.sent = lookupKey i s.can.sent ∧ vget r.can.syncCount i = vget s.can.syncCount i
        else if s.nat (tpdoComm i) 2 ≤ vget s.can.syncCount i + 1 then
          lookupKey i r.can.sent = some (s.mapImage (0x1A00 + i)) ∧ vget r.can.syncCount i = 0
        else vget r.can.syncCount i = vget s.can.syncCount i + 1)

/-- An accepted enable of an output set sets its :01, and a disable clears it with the valid bit. An output at level 1 that is
overloaded switches itself off with 0x1201, once while its bit stands, and a retry that holds clears the bit. Loss of the
outputs' supply records 0x1202 once and leaves no overload bit set, and its return clears the mark. A supply that trips is switched off, with 0x1203 where it
had not tripped before; a retry that holds switches it on again. -/
def Obligations.OutputsAndSupplies : Prop := ∀ (s : State),
  (∀ n t o, t < 16 → o < 16 → s.accepts n (blk t (0x40 + o)) 1 [1] (fun s => s.setDeny t o) → ∃ r, exec (.outputSetEnable n t o) s = .next r
      ∧ r.flag (blk t (0x40 + o)) 1 = true ∧ (s.flag (blk t (0x40 + o)) 1 = false → t < 16 → r.outSet t o = {}) ∧ r.answered n
      ∧ sameEntries (fun i => decide (i = blk t (0x40 + o))) s r
      ∧ Keeps [.od, .sets, .mail, .slots] s r)
  ∧ (∀ n t o, t < 16 → o < 16 → s.accepts n (blk t (0x40 + o)) 1 [0] (fun _ => none) → ∃ r, exec (.outputSetDisable n t o) s = .next r
      ∧ r.flag (blk t (0x40 + o)) 1 = false ∧ (r.outSet t o).valid = false ∧ (r.outSet t o).alarm = false ∧ r.answered n
      ∧ sameEntries (fun i => decide (i = blk t (0x40 + o) ∨ (0x6000 ≤ i ∧ i < 0x6010))) s r
      ∧ Keeps [.od, .sets, .mail, .slots] s r)
  ∧ (∀ i, i < 4 → s.level i = true → vget s.outputs.overload i = false → s.power.doSupplyMissing = false →
      ∃ r, exec (.digitalOutputOverload i) s = .next r ∧ r.outputs = { s.outputs with overload := (vset s.outputs.overload i true) }
      ∧ r.nat 0x6200 12 = (s.bump 0x6200 12).nat 0x6200 12
      ∧ s.wrote r ⟨s.stamp, 0x1201, outputUnit i, noTenant, 0, i⟩ ∧ sameEntries (fun i => decide (i = 0x6200 ∨ i = 0x2400)) s r
      ∧ Keeps [.outputs, .od, .boot, .mail, .faults] s r)
  ∧ (∀ i, vget s.outputs.overload i = true → exec (.digitalOutputOverload i) s = .next s)
  ∧ (∀ i, s.level i = true → s.power.doSupplyMissing = false → exec (.digitalOutputRetry i true) s = .next { s with
      outputs := { s.outputs with overload := (vset s.outputs.overload i false) } })
  ∧ (∀ i, exec (.digitalOutputRetry i false) s = .next s)
  ∧ (s.alive = true → s.power.doSupplyMissing = false → ∃ r, exec .doSupplyLoss s = .next r
      ∧ r.power = { s.power with doSupplyMissing := true } ∧ r.outputs = { s.outputs with overload := Vector.replicate 4 false }
      ∧ s.wrote r ⟨s.stamp, 0x1202, inputUnit, noTenant, 0, 0⟩ ∧ sameEntries (fun i => decide (i = 0x2400)) s r
      ∧ Keeps [.power, .outputs, .od, .boot, .mail, .faults] s r)
  ∧ (s.power.doSupplyMissing = true → exec .doSupplyLoss s = .next s)
  ∧ exec .doSupplyReturn s = .next { s with power := { s.power with doSupplyMissing := false } }
  ∧ (∀ c, c < 18 → vget s.power.extOn c = true → ∃ r, exec (.externalSupplyTrip c) s = .next r ∧ vget r.power.extOn c = false
      ∧ vget r.power.extTripped c = true ∧ (∀ d, d ≠ c → vget r.power.extOn d = vget s.power.extOn d)
      ∧ (vget s.power.extTripped c = false → s.wrote r ⟨s.stamp, 0x1203, suppliesUnit, noTenant, 0, c⟩)
      ∧ (∀ k, k < 2 → c = 13 + k → (r.cam k).power = false)
      ∧ (vget s.power.extTripped c = true → Keeps [.power, .cams] s r)
      ∧ Keeps [.power, .cams, .od, .boot, .mail, .faults] s r)
  ∧ (∀ c, c < 18 → vget s.power.extTripped c = true → ∃ r, exec (.externalSupplyRetry c true) s = .next r ∧ vget r.power.extOn c = true
      ∧ vget r.power.extTripped c = false ∧ (∀ d, d ≠ c → vget r.power.extOn d = vget s.power.extOn d) ∧ Keeps [.power, .cams] s r)
  ∧ (∀ c, vget s.power.extOn c = false → exec (.externalSupplyTrip c) s = .next s)
  ∧ (∀ c, exec (.externalSupplyRetry c false) s = .next s)
  ∧ (∀ c, vget s.power.extTripped c = false → exec (.externalSupplyRetry c true) s = .next s)

/-- Every step that answers a next state keeps the canonical form of the stored dictionary: keys strictly rising, and no entry
equal to its default, so that equal dictionaries are equal lists. The form is the model's own (log entry 5), and the reset state
has it. -/
def Obligations.DictionaryCanonical : Prop := ∀ s t : State, s.od.wf = true → step s = .next t → t.od.wf = true
end

