-- ==== Sys2Proof/Laws/State.lean ====
section
/-! SUPPORT. One lemma per field for each plain update of the state, so that no proof unfolds a record update. -/

namespace Sys2Proof.Machine

section
variable (s : State)

/-! modLearn -/
@[simp] theorem State.modLearn_pending (f : Learn → Learn) : (s.modLearn f).pending = s.pending := rfl
@[simp] theorem State.modLearn_timebase (f : Learn → Learn) : (s.modLearn f).timebase = s.timebase := rfl
@[simp] theorem State.modLearn_draws (f : Learn → Learn) : (s.modLearn f).draws = s.draws := rfl
@[simp] theorem State.modLearn_od (f : Learn → Learn) : (s.modLearn f).od = s.od := rfl
@[simp] theorem State.modLearn_tray (f : Learn → Learn) : (s.modLearn f).tray = s.tray := rfl
@[simp] theorem State.modLearn_holdCause (f : Learn → Learn) : (s.modLearn f).holdCause = s.holdCause := rfl
@[simp] theorem State.modLearn_command (f : Learn → Learn) : (s.modLearn f).command = s.command := rfl
@[simp] theorem State.modLearn_power (f : Learn → Learn) : (s.modLearn f).power = s.power := rfl
@[simp] theorem State.modLearn_boot (f : Learn → Learn) : (s.modLearn f).boot = s.boot := rfl
@[simp] theorem State.modLearn_ecat (f : Learn → Learn) : (s.modLearn f).ecat = s.ecat := rfl
@[simp] theorem State.modLearn_can (f : Learn → Learn) : (s.modLearn f).can = s.can := rfl
@[simp] theorem State.modLearn_mail (f : Learn → Learn) : (s.modLearn f).mail = s.mail := rfl
@[simp] theorem State.modLearn_shafts (f : Learn → Learn) : (s.modLearn f).shafts = s.shafts := rfl
@[simp] theorem State.modLearn_events (f : Learn → Learn) : (s.modLearn f).events = s.events := rfl
@[simp] theorem State.modLearn_groups (f : Learn → Learn) : (s.modLearn f).groups = s.groups := rfl
@[simp] theorem State.modLearn_channels (f : Learn → Learn) : (s.modLearn f).channels = s.channels := rfl
@[simp] theorem State.modLearn_ports (f : Learn → Learn) : (s.modLearn f).ports = s.ports := rfl
@[simp] theorem State.modLearn_cams (f : Learn → Learn) : (s.modLearn f).cams = s.cams := rfl
@[simp] theorem State.modLearn_jobs (f : Learn → Learn) : (s.modLearn f).jobs = s.jobs := rfl
@[simp] theorem State.modLearn_pend (f : Learn → Learn) : (s.modLearn f).pend = s.pend := rfl
@[simp] theorem State.modLearn_sets (f : Learn → Learn) : (s.modLearn f).sets = s.sets := rfl
@[simp] theorem State.modLearn_issues (f : Learn → Learn) : (s.modLearn f).issues = s.issues := rfl
@[simp] theorem State.modLearn_nextIssue (f : Learn → Learn) : (s.modLearn f).nextIssue = s.nextIssue := rfl
@[simp] theorem State.modLearn_chips (f : Learn → Learn) : (s.modLearn f).chips = s.chips := rfl
@[simp] theorem State.modLearn_slots (f : Learn → Learn) : (s.modLearn f).slots = s.slots := rfl
@[simp] theorem State.modLearn_tenants (f : Learn → Learn) : (s.modLearn f).tenants = s.tenants := rfl
@[simp] theorem State.modLearn_tokens (f : Learn → Learn) : (s.modLearn f).tokens = s.tokens := rfl
@[simp] theorem State.modLearn_learn (f : Learn → Learn) : (s.modLearn f).learn = f s.learn := rfl
@[simp] theorem State.modLearn_parish (f : Learn → Learn) : (s.modLearn f).parish = s.parish := rfl
@[simp] theorem State.modLearn_faults (f : Learn → Learn) : (s.modLearn f).faults = s.faults := rfl
@[simp] theorem State.modLearn_store (f : Learn → Learn) : (s.modLearn f).store = s.store := rfl
@[simp] theorem State.modLearn_outputs (f : Learn → Learn) : (s.modLearn f).outputs = s.outputs := rfl
@[simp] theorem State.modLearn_loadFrom (f : Learn → Learn) : (s.modLearn f).loadFrom = s.loadFrom := rfl

/-! modParish -/
@[simp] theorem State.modParish_pending (f : Parish → Parish) : (s.modParish f).pending = s.pending := rfl
@[simp] theorem State.modParish_timebase (f : Parish → Parish) : (s.modParish f).timebase = s.timebase := rfl
@[simp] theorem State.modParish_draws (f : Parish → Parish) : (s.modParish f).draws = s.draws := rfl
@[simp] theorem State.modParish_od (f : Parish → Parish) : (s.modParish f).od = s.od := rfl
@[simp] theorem State.modParish_tray (f : Parish → Parish) : (s.modParish f).tray = s.tray := rfl
@[simp] theorem State.modParish_holdCause (f : Parish → Parish) : (s.modParish f).holdCause = s.holdCause := rfl
@[simp] theorem State.modParish_command (f : Parish → Parish) : (s.modParish f).command = s.command := rfl
@[simp] theorem State.modParish_power (f : Parish → Parish) : (s.modParish f).power = s.power := rfl
@[simp] theorem State.modParish_boot (f : Parish → Parish) : (s.modParish f).boot = s.boot := rfl
@[simp] theorem State.modParish_ecat (f : Parish → Parish) : (s.modParish f).ecat = s.ecat := rfl
@[simp] theorem State.modParish_can (f : Parish → Parish) : (s.modParish f).can = s.can := rfl
@[simp] theorem State.modParish_mail (f : Parish → Parish) : (s.modParish f).mail = s.mail := rfl
@[simp] theorem State.modParish_shafts (f : Parish → Parish) : (s.modParish f).shafts = s.shafts := rfl
@[simp] theorem State.modParish_events (f : Parish → Parish) : (s.modParish f).events = s.events := rfl
@[simp] theorem State.modParish_groups (f : Parish → Parish) : (s.modParish f).groups = s.groups := rfl
@[simp] theorem State.modParish_channels (f : Parish → Parish) : (s.modParish f).channels = s.channels := rfl
@[simp] theorem State.modParish_ports (f : Parish → Parish) : (s.modParish f).ports = s.ports := rfl
@[simp] theorem State.modParish_cams (f : Parish → Parish) : (s.modParish f).cams = s.cams := rfl
@[simp] theorem State.modParish_jobs (f : Parish → Parish) : (s.modParish f).jobs = s.jobs := rfl
@[simp] theorem State.modParish_pend (f : Parish → Parish) : (s.modParish f).pend = s.pend := rfl
@[simp] theorem State.modParish_sets (f : Parish → Parish) : (s.modParish f).sets = s.sets := rfl
@[simp] theorem State.modParish_issues (f : Parish → Parish) : (s.modParish f).issues = s.issues := rfl
@[simp] theorem State.modParish_nextIssue (f : Parish → Parish) : (s.modParish f).nextIssue = s.nextIssue := rfl
@[simp] theorem State.modParish_chips (f : Parish → Parish) : (s.modParish f).chips = s.chips := rfl
@[simp] theorem State.modParish_slots (f : Parish → Parish) : (s.modParish f).slots = s.slots := rfl
@[simp] theorem State.modParish_tenants (f : Parish → Parish) : (s.modParish f).tenants = s.tenants := rfl
@[simp] theorem State.modParish_tokens (f : Parish → Parish) : (s.modParish f).tokens = s.tokens := rfl
@[simp] theorem State.modParish_learn (f : Parish → Parish) : (s.modParish f).learn = s.learn := rfl
@[simp] theorem State.modParish_parish (f : Parish → Parish) : (s.modParish f).parish = f s.parish := rfl
@[simp] theorem State.modParish_faults (f : Parish → Parish) : (s.modParish f).faults = s.faults := rfl
@[simp] theorem State.modParish_store (f : Parish → Parish) : (s.modParish f).store = s.store := rfl
@[simp] theorem State.modParish_outputs (f : Parish → Parish) : (s.modParish f).outputs = s.outputs := rfl
@[simp] theorem State.modParish_loadFrom (f : Parish → Parish) : (s.modParish f).loadFrom = s.loadFrom := rfl

/-! modBoot -/
@[simp] theorem State.modBoot_pending (f : Boot → Boot) : (s.modBoot f).pending = s.pending := rfl
@[simp] theorem State.modBoot_timebase (f : Boot → Boot) : (s.modBoot f).timebase = s.timebase := rfl
@[simp] theorem State.modBoot_draws (f : Boot → Boot) : (s.modBoot f).draws = s.draws := rfl
@[simp] theorem State.modBoot_od (f : Boot → Boot) : (s.modBoot f).od = s.od := rfl
@[simp] theorem State.modBoot_tray (f : Boot → Boot) : (s.modBoot f).tray = s.tray := rfl
@[simp] theorem State.modBoot_holdCause (f : Boot → Boot) : (s.modBoot f).holdCause = s.holdCause := rfl
@[simp] theorem State.modBoot_command (f : Boot → Boot) : (s.modBoot f).command = s.command := rfl
@[simp] theorem State.modBoot_power (f : Boot → Boot) : (s.modBoot f).power = s.power := rfl
@[simp] theorem State.modBoot_boot (f : Boot → Boot) : (s.modBoot f).boot = f s.boot := rfl
@[simp] theorem State.modBoot_ecat (f : Boot → Boot) : (s.modBoot f).ecat = s.ecat := rfl
@[simp] theorem State.modBoot_can (f : Boot → Boot) : (s.modBoot f).can = s.can := rfl
@[simp] theorem State.modBoot_mail (f : Boot → Boot) : (s.modBoot f).mail = s.mail := rfl
@[simp] theorem State.modBoot_shafts (f : Boot → Boot) : (s.modBoot f).shafts = s.shafts := rfl
@[simp] theorem State.modBoot_events (f : Boot → Boot) : (s.modBoot f).events = s.events := rfl
@[simp] theorem State.modBoot_groups (f : Boot → Boot) : (s.modBoot f).groups = s.groups := rfl
@[simp] theorem State.modBoot_channels (f : Boot → Boot) : (s.modBoot f).channels = s.channels := rfl
@[simp] theorem State.modBoot_ports (f : Boot → Boot) : (s.modBoot f).ports = s.ports := rfl
@[simp] theorem State.modBoot_cams (f : Boot → Boot) : (s.modBoot f).cams = s.cams := rfl
@[simp] theorem State.modBoot_jobs (f : Boot → Boot) : (s.modBoot f).jobs = s.jobs := rfl
@[simp] theorem State.modBoot_pend (f : Boot → Boot) : (s.modBoot f).pend = s.pend := rfl
@[simp] theorem State.modBoot_sets (f : Boot → Boot) : (s.modBoot f).sets = s.sets := rfl
@[simp] theorem State.modBoot_issues (f : Boot → Boot) : (s.modBoot f).issues = s.issues := rfl
@[simp] theorem State.modBoot_nextIssue (f : Boot → Boot) : (s.modBoot f).nextIssue = s.nextIssue := rfl
@[simp] theorem State.modBoot_chips (f : Boot → Boot) : (s.modBoot f).chips = s.chips := rfl
@[simp] theorem State.modBoot_slots (f : Boot → Boot) : (s.modBoot f).slots = s.slots := rfl
@[simp] theorem State.modBoot_tenants (f : Boot → Boot) : (s.modBoot f).tenants = s.tenants := rfl
@[simp] theorem State.modBoot_tokens (f : Boot → Boot) : (s.modBoot f).tokens = s.tokens := rfl
@[simp] theorem State.modBoot_learn (f : Boot → Boot) : (s.modBoot f).learn = s.learn := rfl
@[simp] theorem State.modBoot_parish (f : Boot → Boot) : (s.modBoot f).parish = s.parish := rfl
@[simp] theorem State.modBoot_faults (f : Boot → Boot) : (s.modBoot f).faults = s.faults := rfl
@[simp] theorem State.modBoot_store (f : Boot → Boot) : (s.modBoot f).store = s.store := rfl
@[simp] theorem State.modBoot_outputs (f : Boot → Boot) : (s.modBoot f).outputs = s.outputs := rfl
@[simp] theorem State.modBoot_loadFrom (f : Boot → Boot) : (s.modBoot f).loadFrom = s.loadFrom := rfl

/-! modPower -/
@[simp] theorem State.modPower_pending (f : Power → Power) : (s.modPower f).pending = s.pending := rfl
@[simp] theorem State.modPower_timebase (f : Power → Power) : (s.modPower f).timebase = s.timebase := rfl
@[simp] theorem State.modPower_draws (f : Power → Power) : (s.modPower f).draws = s.draws := rfl
@[simp] theorem State.modPower_od (f : Power → Power) : (s.modPower f).od = s.od := rfl
@[simp] theorem State.modPower_tray (f : Power → Power) : (s.modPower f).tray = s.tray := rfl
@[simp] theorem State.modPower_holdCause (f : Power → Power) : (s.modPower f).holdCause = s.holdCause := rfl
@[simp] theorem State.modPower_command (f : Power → Power) : (s.modPower f).command = s.command := rfl
@[simp] theorem State.modPower_power (f : Power → Power) : (s.modPower f).power = f s.power := rfl
@[simp] theorem State.modPower_boot (f : Power → Power) : (s.modPower f).boot = s.boot := rfl
@[simp] theorem State.modPower_ecat (f : Power → Power) : (s.modPower f).ecat = s.ecat := rfl
@[simp] theorem State.modPower_can (f : Power → Power) : (s.modPower f).can = s.can := rfl
@[simp] theorem State.modPower_mail (f : Power → Power) : (s.modPower f).mail = s.mail := rfl
@[simp] theorem State.modPower_shafts (f : Power → Power) : (s.modPower f).shafts = s.shafts := rfl
@[simp] theorem State.modPower_events (f : Power → Power) : (s.modPower f).events = s.events := rfl
@[simp] theorem State.modPower_groups (f : Power → Power) : (s.modPower f).groups = s.groups := rfl
@[simp] theorem State.modPower_channels (f : Power → Power) : (s.modPower f).channels = s.channels := rfl
@[simp] theorem State.modPower_ports (f : Power → Power) : (s.modPower f).ports = s.ports := rfl
@[simp] theorem State.modPower_cams (f : Power → Power) : (s.modPower f).cams = s.cams := rfl
@[simp] theorem State.modPower_jobs (f : Power → Power) : (s.modPower f).jobs = s.jobs := rfl
@[simp] theorem State.modPower_pend (f : Power → Power) : (s.modPower f).pend = s.pend := rfl
@[simp] theorem State.modPower_sets (f : Power → Power) : (s.modPower f).sets = s.sets := rfl
@[simp] theorem State.modPower_issues (f : Power → Power) : (s.modPower f).issues = s.issues := rfl
@[simp] theorem State.modPower_nextIssue (f : Power → Power) : (s.modPower f).nextIssue = s.nextIssue := rfl
@[simp] theorem State.modPower_chips (f : Power → Power) : (s.modPower f).chips = s.chips := rfl
@[simp] theorem State.modPower_slots (f : Power → Power) : (s.modPower f).slots = s.slots := rfl
@[simp] theorem State.modPower_tenants (f : Power → Power) : (s.modPower f).tenants = s.tenants := rfl
@[simp] theorem State.modPower_tokens (f : Power → Power) : (s.modPower f).tokens = s.tokens := rfl
@[simp] theorem State.modPower_learn (f : Power → Power) : (s.modPower f).learn = s.learn := rfl
@[simp] theorem State.modPower_parish (f : Power → Power) : (s.modPower f).parish = s.parish := rfl
@[simp] theorem State.modPower_faults (f : Power → Power) : (s.modPower f).faults = s.faults := rfl
@[simp] theorem State.modPower_store (f : Power → Power) : (s.modPower f).store = s.store := rfl
@[simp] theorem State.modPower_outputs (f : Power → Power) : (s.modPower f).outputs = s.outputs := rfl
@[simp] theorem State.modPower_loadFrom (f : Power → Power) : (s.modPower f).loadFrom = s.loadFrom := rfl

/-! modStore -/
@[simp] theorem State.modStore_pending (f : Store → Store) : (s.modStore f).pending = s.pending := rfl
@[simp] theorem State.modStore_timebase (f : Store → Store) : (s.modStore f).timebase = s.timebase := rfl
@[simp] theorem State.modStore_draws (f : Store → Store) : (s.modStore f).draws = s.draws := rfl
@[simp] theorem State.modStore_od (f : Store → Store) : (s.modStore f).od = s.od := rfl
@[simp] theorem State.modStore_tray (f : Store → Store) : (s.modStore f).tray = s.tray := rfl
@[simp] theorem State.modStore_holdCause (f : Store → Store) : (s.modStore f).holdCause = s.holdCause := rfl
@[simp] theorem State.modStore_command (f : Store → Store) : (s.modStore f).command = s.command := rfl
@[simp] theorem State.modStore_power (f : Store → Store) : (s.modStore f).power = s.power := rfl
@[simp] theorem State.modStore_boot (f : Store → Store) : (s.modStore f).boot = s.boot := rfl
@[simp] theorem State.modStore_ecat (f : Store → Store) : (s.modStore f).ecat = s.ecat := rfl
@[simp] theorem State.modStore_can (f : Store → Store) : (s.modStore f).can = s.can := rfl
@[simp] theorem State.modStore_mail (f : Store → Store) : (s.modStore f).mail = s.mail := rfl
@[simp] theorem State.modStore_shafts (f : Store → Store) : (s.modStore f).shafts = s.shafts := rfl
@[simp] theorem State.modStore_events (f : Store → Store) : (s.modStore f).events = s.events := rfl
@[simp] theorem State.modStore_groups (f : Store → Store) : (s.modStore f).groups = s.groups := rfl
@[simp] theorem State.modStore_channels (f : Store → Store) : (s.modStore f).channels = s.channels := rfl
@[simp] theorem State.modStore_ports (f : Store → Store) : (s.modStore f).ports = s.ports := rfl
@[simp] theorem State.modStore_cams (f : Store → Store) : (s.modStore f).cams = s.cams := rfl
@[simp] theorem State.modStore_jobs (f : Store → Store) : (s.modStore f).jobs = s.jobs := rfl
@[simp] theorem State.modStore_pend (f : Store → Store) : (s.modStore f).pend = s.pend := rfl
@[simp] theorem State.modStore_sets (f : Store → Store) : (s.modStore f).sets = s.sets := rfl
@[simp] theorem State.modStore_issues (f : Store → Store) : (s.modStore f).issues = s.issues := rfl
@[simp] theorem State.modStore_nextIssue (f : Store → Store) : (s.modStore f).nextIssue = s.nextIssue := rfl
@[simp] theorem State.modStore_chips (f : Store → Store) : (s.modStore f).chips = s.chips := rfl
@[simp] theorem State.modStore_slots (f : Store → Store) : (s.modStore f).slots = s.slots := rfl
@[simp] theorem State.modStore_tenants (f : Store → Store) : (s.modStore f).tenants = s.tenants := rfl
@[simp] theorem State.modStore_tokens (f : Store → Store) : (s.modStore f).tokens = s.tokens := rfl
@[simp] theorem State.modStore_learn (f : Store → Store) : (s.modStore f).learn = s.learn := rfl
@[simp] theorem State.modStore_parish (f : Store → Store) : (s.modStore f).parish = s.parish := rfl
@[simp] theorem State.modStore_faults (f : Store → Store) : (s.modStore f).faults = s.faults := rfl
@[simp] theorem State.modStore_store (f : Store → Store) : (s.modStore f).store = f s.store := rfl
@[simp] theorem State.modStore_outputs (f : Store → Store) : (s.modStore f).outputs = s.outputs := rfl
@[simp] theorem State.modStore_loadFrom (f : Store → Store) : (s.modStore f).loadFrom = s.loadFrom := rfl

/-! modFaults -/
@[simp] theorem State.modFaults_pending (f : Faults → Faults) : (s.modFaults f).pending = s.pending := rfl
@[simp] theorem State.modFaults_timebase (f : Faults → Faults) : (s.modFaults f).timebase = s.timebase := rfl
@[simp] theorem State.modFaults_draws (f : Faults → Faults) : (s.modFaults f).draws = s.draws := rfl
@[simp] theorem State.modFaults_od (f : Faults → Faults) : (s.modFaults f).od = s.od := rfl
@[simp] theorem State.modFaults_tray (f : Faults → Faults) : (s.modFaults f).tray = s.tray := rfl
@[simp] theorem State.modFaults_holdCause (f : Faults → Faults) : (s.modFaults f).holdCause = s.holdCause := rfl
@[simp] theorem State.modFaults_command (f : Faults → Faults) : (s.modFaults f).command = s.command := rfl
@[simp] theorem State.modFaults_power (f : Faults → Faults) : (s.modFaults f).power = s.power := rfl
@[simp] theorem State.modFaults_boot (f : Faults → Faults) : (s.modFaults f).boot = s.boot := rfl
@[simp] theorem State.modFaults_ecat (f : Faults → Faults) : (s.modFaults f).ecat = s.ecat := rfl
@[simp] theorem State.modFaults_can (f : Faults → Faults) : (s.modFaults f).can = s.can := rfl
@[simp] theorem State.modFaults_mail (f : Faults → Faults) : (s.modFaults f).mail = s.mail := rfl
@[simp] theorem State.modFaults_shafts (f : Faults → Faults) : (s.modFaults f).shafts = s.shafts := rfl
@[simp] theorem State.modFaults_events (f : Faults → Faults) : (s.modFaults f).events = s.events := rfl
@[simp] theorem State.modFaults_groups (f : Faults → Faults) : (s.modFaults f).groups = s.groups := rfl
@[simp] theorem State.modFaults_channels (f : Faults → Faults) : (s.modFaults f).channels = s.channels := rfl
@[simp] theorem State.modFaults_ports (f : Faults → Faults) : (s.modFaults f).ports = s.ports := rfl
@[simp] theorem State.modFaults_cams (f : Faults → Faults) : (s.modFaults f).cams = s.cams := rfl
@[simp] theorem State.modFaults_jobs (f : Faults → Faults) : (s.modFaults f).jobs = s.jobs := rfl
@[simp] theorem State.modFaults_pend (f : Faults → Faults) : (s.modFaults f).pend = s.pend := rfl
@[simp] theorem State.modFaults_sets (f : Faults → Faults) : (s.modFaults f).sets = s.sets := rfl
@[simp] theorem State.modFaults_issues (f : Faults → Faults) : (s.modFaults f).issues = s.issues := rfl
@[simp] theorem State.modFaults_nextIssue (f : Faults → Faults) : (s.modFaults f).nextIssue = s.nextIssue := rfl
@[simp] theorem State.modFaults_chips (f : Faults → Faults) : (s.modFaults f).chips = s.chips := rfl
@[simp] theorem State.modFaults_slots (f : Faults → Faults) : (s.modFaults f).slots = s.slots := rfl
@[simp] theorem State.modFaults_tenants (f : Faults → Faults) : (s.modFaults f).tenants = s.tenants := rfl
@[simp] theorem State.modFaults_tokens (f : Faults → Faults) : (s.modFaults f).tokens = s.tokens := rfl
@[simp] theorem State.modFaults_learn (f : Faults → Faults) : (s.modFaults f).learn = s.learn := rfl
@[simp] theorem State.modFaults_parish (f : Faults → Faults) : (s.modFaults f).parish = s.parish := rfl
@[simp] theorem State.modFaults_faults (f : Faults → Faults) : (s.modFaults f).faults = f s.faults := rfl
@[simp] theorem State.modFaults_store (f : Faults → Faults) : (s.modFaults f).store = s.store := rfl
@[simp] theorem State.modFaults_outputs (f : Faults → Faults) : (s.modFaults f).outputs = s.outputs := rfl
@[simp] theorem State.modFaults_loadFrom (f : Faults → Faults) : (s.modFaults f).loadFrom = s.loadFrom := rfl

/-! modOutputs -/
@[simp] theorem State.modOutputs_pending (f : Outputs → Outputs) : (s.modOutputs f).pending = s.pending := rfl
@[simp] theorem State.modOutputs_timebase (f : Outputs → Outputs) : (s.modOutputs f).timebase = s.timebase := rfl
@[simp] theorem State.modOutputs_draws (f : Outputs → Outputs) : (s.modOutputs f).draws = s.draws := rfl
@[simp] theorem State.modOutputs_od (f : Outputs → Outputs) : (s.modOutputs f).od = s.od := rfl
@[simp] theorem State.modOutputs_tray (f : Outputs → Outputs) : (s.modOutputs f).tray = s.tray := rfl
@[simp] theorem State.modOutputs_holdCause (f : Outputs → Outputs) : (s.modOutputs f).holdCause = s.holdCause := rfl
@[simp] theorem State.modOutputs_command (f : Outputs → Outputs) : (s.modOutputs f).command = s.command := rfl
@[simp] theorem State.modOutputs_power (f : Outputs → Outputs) : (s.modOutputs f).power = s.power := rfl
@[simp] theorem State.modOutputs_boot (f : Outputs → Outputs) : (s.modOutputs f).boot = s.boot := rfl
@[simp] theorem State.modOutputs_ecat (f : Outputs → Outputs) : (s.modOutputs f).ecat = s.ecat := rfl
@[simp] theorem State.modOutputs_can (f : Outputs → Outputs) : (s.modOutputs f).can = s.can := rfl
@[simp] theorem State.modOutputs_mail (f : Outputs → Outputs) : (s.modOutputs f).mail = s.mail := rfl
@[simp] theorem State.modOutputs_shafts (f : Outputs → Outputs) : (s.modOutputs f).shafts = s.shafts := rfl
@[simp] theorem State.modOutputs_events (f : Outputs → Outputs) : (s.modOutputs f).events = s.events := rfl
@[simp] theorem State.modOutputs_groups (f : Outputs → Outputs) : (s.modOutputs f).groups = s.groups := rfl
@[simp] theorem State.modOutputs_channels (f : Outputs → Outputs) : (s.modOutputs f).channels = s.channels := rfl
@[simp] theorem State.modOutputs_ports (f : Outputs → Outputs) : (s.modOutputs f).ports = s.ports := rfl
@[simp] theorem State.modOutputs_cams (f : Outputs → Outputs) : (s.modOutputs f).cams = s.cams := rfl
@[simp] theorem State.modOutputs_jobs (f : Outputs → Outputs) : (s.modOutputs f).jobs = s.jobs := rfl
@[simp] theorem State.modOutputs_pend (f : Outputs → Outputs) : (s.modOutputs f).pend = s.pend := rfl
@[simp] theorem State.modOutputs_sets (f : Outputs → Outputs) : (s.modOutputs f).sets = s.sets := rfl
@[simp] theorem State.modOutputs_issues (f : Outputs → Outputs) : (s.modOutputs f).issues = s.issues := rfl
@[simp] theorem State.modOutputs_nextIssue (f : Outputs → Outputs) : (s.modOutputs f).nextIssue = s.nextIssue := rfl
@[simp] theorem State.modOutputs_chips (f : Outputs → Outputs) : (s.modOutputs f).chips = s.chips := rfl
@[simp] theorem State.modOutputs_slots (f : Outputs → Outputs) : (s.modOutputs f).slots = s.slots := rfl
@[simp] theorem State.modOutputs_tenants (f : Outputs → Outputs) : (s.modOutputs f).tenants = s.tenants := rfl
@[simp] theorem State.modOutputs_tokens (f : Outputs → Outputs) : (s.modOutputs f).tokens = s.tokens := rfl
@[simp] theorem State.modOutputs_learn (f : Outputs → Outputs) : (s.modOutputs f).learn = s.learn := rfl
@[simp] theorem State.modOutputs_parish (f : Outputs → Outputs) : (s.modOutputs f).parish = s.parish := rfl
@[simp] theorem State.modOutputs_faults (f : Outputs → Outputs) : (s.modOutputs f).faults = s.faults := rfl
@[simp] theorem State.modOutputs_store (f : Outputs → Outputs) : (s.modOutputs f).store = s.store := rfl
@[simp] theorem State.modOutputs_outputs (f : Outputs → Outputs) : (s.modOutputs f).outputs = f s.outputs := rfl
@[simp] theorem State.modOutputs_loadFrom (f : Outputs → Outputs) : (s.modOutputs f).loadFrom = s.loadFrom := rfl

/-! modEcat -/
@[simp] theorem State.modEcat_pending (f : Ecat → Ecat) : (s.modEcat f).pending = s.pending := rfl
@[simp] theorem State.modEcat_timebase (f : Ecat → Ecat) : (s.modEcat f).timebase = s.timebase := rfl
@[simp] theorem State.modEcat_draws (f : Ecat → Ecat) : (s.modEcat f).draws = s.draws := rfl
@[simp] theorem State.modEcat_od (f : Ecat → Ecat) : (s.modEcat f).od = s.od := rfl
@[simp] theorem State.modEcat_tray (f : Ecat → Ecat) : (s.modEcat f).tray = s.tray := rfl
@[simp] theorem State.modEcat_holdCause (f : Ecat → Ecat) : (s.modEcat f).holdCause = s.holdCause := rfl
@[simp] theorem State.modEcat_command (f : Ecat → Ecat) : (s.modEcat f).command = s.command := rfl
@[simp] theorem State.modEcat_power (f : Ecat → Ecat) : (s.modEcat f).power = s.power := rfl
@[simp] theorem State.modEcat_boot (f : Ecat → Ecat) : (s.modEcat f).boot = s.boot := rfl
@[simp] theorem State.modEcat_ecat (f : Ecat → Ecat) : (s.modEcat f).ecat = f s.ecat := rfl
@[simp] theorem State.modEcat_can (f : Ecat → Ecat) : (s.modEcat f).can = s.can := rfl
@[simp] theorem State.modEcat_mail (f : Ecat → Ecat) : (s.modEcat f).mail = s.mail := rfl
@[simp] theorem State.modEcat_shafts (f : Ecat → Ecat) : (s.modEcat f).shafts = s.shafts := rfl
@[simp] theorem State.modEcat_events (f : Ecat → Ecat) : (s.modEcat f).events = s.events := rfl
@[simp] theorem State.modEcat_groups (f : Ecat → Ecat) : (s.modEcat f).groups = s.groups := rfl
@[simp] theorem State.modEcat_channels (f : Ecat → Ecat) : (s.modEcat f).channels = s.channels := rfl
@[simp] theorem State.modEcat_ports (f : Ecat → Ecat) : (s.modEcat f).ports = s.ports := rfl
@[simp] theorem State.modEcat_cams (f : Ecat → Ecat) : (s.modEcat f).cams = s.cams := rfl
@[simp] theorem State.modEcat_jobs (f : Ecat → Ecat) : (s.modEcat f).jobs = s.jobs := rfl
@[simp] theorem State.modEcat_pend (f : Ecat → Ecat) : (s.modEcat f).pend = s.pend := rfl
@[simp] theorem State.modEcat_sets (f : Ecat → Ecat) : (s.modEcat f).sets = s.sets := rfl
@[simp] theorem State.modEcat_issues (f : Ecat → Ecat) : (s.modEcat f).issues = s.issues := rfl
@[simp] theorem State.modEcat_nextIssue (f : Ecat → Ecat) : (s.modEcat f).nextIssue = s.nextIssue := rfl
@[simp] theorem State.modEcat_chips (f : Ecat → Ecat) : (s.modEcat f).chips = s.chips := rfl
@[simp] theorem State.modEcat_slots (f : Ecat → Ecat) : (s.modEcat f).slots = s.slots := rfl
@[simp] theorem State.modEcat_tenants (f : Ecat → Ecat) : (s.modEcat f).tenants = s.tenants := rfl
@[simp] theorem State.modEcat_tokens (f : Ecat → Ecat) : (s.modEcat f).tokens = s.tokens := rfl
@[simp] theorem State.modEcat_learn (f : Ecat → Ecat) : (s.modEcat f).learn = s.learn := rfl
@[simp] theorem State.modEcat_parish (f : Ecat → Ecat) : (s.modEcat f).parish = s.parish := rfl
@[simp] theorem State.modEcat_faults (f : Ecat → Ecat) : (s.modEcat f).faults = s.faults := rfl
@[simp] theorem State.modEcat_store (f : Ecat → Ecat) : (s.modEcat f).store = s.store := rfl
@[simp] theorem State.modEcat_outputs (f : Ecat → Ecat) : (s.modEcat f).outputs = s.outputs := rfl
@[simp] theorem State.modEcat_loadFrom (f : Ecat → Ecat) : (s.modEcat f).loadFrom = s.loadFrom := rfl

/-! modCan -/
@[simp] theorem State.modCan_pending (f : Can → Can) : (s.modCan f).pending = s.pending := rfl
@[simp] theorem State.modCan_timebase (f : Can → Can) : (s.modCan f).timebase = s.timebase := rfl
@[simp] theorem State.modCan_draws (f : Can → Can) : (s.modCan f).draws = s.draws := rfl
@[simp] theorem State.modCan_od (f : Can → Can) : (s.modCan f).od = s.od := rfl
@[simp] theorem State.modCan_tray (f : Can → Can) : (s.modCan f).tray = s.tray := rfl
@[simp] theorem State.modCan_holdCause (f : Can → Can) : (s.modCan f).holdCause = s.holdCause := rfl
@[simp] theorem State.modCan_command (f : Can → Can) : (s.modCan f).command = s.command := rfl
@[simp] theorem State.modCan_power (f : Can → Can) : (s.modCan f).power = s.power := rfl
@[simp] theorem State.modCan_boot (f : Can → Can) : (s.modCan f).boot = s.boot := rfl
@[simp] theorem State.modCan_ecat (f : Can → Can) : (s.modCan f).ecat = s.ecat := rfl
@[simp] theorem State.modCan_can (f : Can → Can) : (s.modCan f).can = f s.can := rfl
@[simp] theorem State.modCan_mail (f : Can → Can) : (s.modCan f).mail = s.mail := rfl
@[simp] theorem State.modCan_shafts (f : Can → Can) : (s.modCan f).shafts = s.shafts := rfl
@[simp] theorem State.modCan_events (f : Can → Can) : (s.modCan f).events = s.events := rfl
@[simp] theorem State.modCan_groups (f : Can → Can) : (s.modCan f).groups = s.groups := rfl
@[simp] theorem State.modCan_channels (f : Can → Can) : (s.modCan f).channels = s.channels := rfl
@[simp] theorem State.modCan_ports (f : Can → Can) : (s.modCan f).ports = s.ports := rfl
@[simp] theorem State.modCan_cams (f : Can → Can) : (s.modCan f).cams = s.cams := rfl
@[simp] theorem State.modCan_jobs (f : Can → Can) : (s.modCan f).jobs = s.jobs := rfl
@[simp] theorem State.modCan_pend (f : Can → Can) : (s.modCan f).pend = s.pend := rfl
@[simp] theorem State.modCan_sets (f : Can → Can) : (s.modCan f).sets = s.sets := rfl
@[simp] theorem State.modCan_issues (f : Can → Can) : (s.modCan f).issues = s.issues := rfl
@[simp] theorem State.modCan_nextIssue (f : Can → Can) : (s.modCan f).nextIssue = s.nextIssue := rfl
@[simp] theorem State.modCan_chips (f : Can → Can) : (s.modCan f).chips = s.chips := rfl
@[simp] theorem State.modCan_slots (f : Can → Can) : (s.modCan f).slots = s.slots := rfl
@[simp] theorem State.modCan_tenants (f : Can → Can) : (s.modCan f).tenants = s.tenants := rfl
@[simp] theorem State.modCan_tokens (f : Can → Can) : (s.modCan f).tokens = s.tokens := rfl
@[simp] theorem State.modCan_learn (f : Can → Can) : (s.modCan f).learn = s.learn := rfl
@[simp] theorem State.modCan_parish (f : Can → Can) : (s.modCan f).parish = s.parish := rfl
@[simp] theorem State.modCan_faults (f : Can → Can) : (s.modCan f).faults = s.faults := rfl
@[simp] theorem State.modCan_store (f : Can → Can) : (s.modCan f).store = s.store := rfl
@[simp] theorem State.modCan_outputs (f : Can → Can) : (s.modCan f).outputs = s.outputs := rfl
@[simp] theorem State.modCan_loadFrom (f : Can → Can) : (s.modCan f).loadFrom = s.loadFrom := rfl

/-! stepIs -/
@[simp] theorem State.stepIs_pending (n : Nat) : (s.stepIs n).pending = s.pending := rfl
@[simp] theorem State.stepIs_timebase (n : Nat) : (s.stepIs n).timebase = s.timebase := rfl
@[simp] theorem State.stepIs_draws (n : Nat) : (s.stepIs n).draws = s.draws := rfl
@[simp] theorem State.stepIs_od (n : Nat) : (s.stepIs n).od = s.od := rfl
@[simp] theorem State.stepIs_tray (n : Nat) : (s.stepIs n).tray = s.tray := rfl
@[simp] theorem State.stepIs_holdCause (n : Nat) : (s.stepIs n).holdCause = s.holdCause := rfl
@[simp] theorem State.stepIs_command (n : Nat) : (s.stepIs n).command = s.command := rfl
@[simp] theorem State.stepIs_power (n : Nat) : (s.stepIs n).power = { s.power with step := n } := rfl
@[simp] theorem State.stepIs_boot (n : Nat) : (s.stepIs n).boot = s.boot := rfl
@[simp] theorem State.stepIs_ecat (n : Nat) : (s.stepIs n).ecat = s.ecat := rfl
@[simp] theorem State.stepIs_can (n : Nat) : (s.stepIs n).can = s.can := rfl
@[simp] theorem State.stepIs_mail (n : Nat) : (s.stepIs n).mail = s.mail := rfl
@[simp] theorem State.stepIs_shafts (n : Nat) : (s.stepIs n).shafts = s.shafts := rfl
@[simp] theorem State.stepIs_events (n : Nat) : (s.stepIs n).events = s.events := rfl
@[simp] theorem State.stepIs_groups (n : Nat) : (s.stepIs n).groups = s.groups := rfl
@[simp] theorem State.stepIs_channels (n : Nat) : (s.stepIs n).channels = s.channels := rfl
@[simp] theorem State.stepIs_ports (n : Nat) : (s.stepIs n).ports = s.ports := rfl
@[simp] theorem State.stepIs_cams (n : Nat) : (s.stepIs n).cams = s.cams := rfl
@[simp] theorem State.stepIs_jobs (n : Nat) : (s.stepIs n).jobs = s.jobs := rfl
@[simp] theorem State.stepIs_pend (n : Nat) : (s.stepIs n).pend = s.pend := rfl
@[simp] theorem State.stepIs_sets (n : Nat) : (s.stepIs n).sets = s.sets := rfl
@[simp] theorem State.stepIs_issues (n : Nat) : (s.stepIs n).issues = s.issues := rfl
@[simp] theorem State.stepIs_nextIssue (n : Nat) : (s.stepIs n).nextIssue = s.nextIssue := rfl
@[simp] theorem State.stepIs_chips (n : Nat) : (s.stepIs n).chips = s.chips := rfl
@[simp] theorem State.stepIs_slots (n : Nat) : (s.stepIs n).slots = s.slots := rfl
@[simp] theorem State.stepIs_tenants (n : Nat) : (s.stepIs n).tenants = s.tenants := rfl
@[simp] theorem State.stepIs_tokens (n : Nat) : (s.stepIs n).tokens = s.tokens := rfl
@[simp] theorem State.stepIs_learn (n : Nat) : (s.stepIs n).learn = s.learn := rfl
@[simp] theorem State.stepIs_parish (n : Nat) : (s.stepIs n).parish = s.parish := rfl
@[simp] theorem State.stepIs_faults (n : Nat) : (s.stepIs n).faults = s.faults := rfl
@[simp] theorem State.stepIs_store (n : Nat) : (s.stepIs n).store = s.store := rfl
@[simp] theorem State.stepIs_outputs (n : Nat) : (s.stepIs n).outputs = s.outputs := rfl
@[simp] theorem State.stepIs_loadFrom (n : Nat) : (s.stepIs n).loadFrom = s.loadFrom := rfl

/-! set -/
@[simp] theorem State.set_pending (i j : Nat) (v : OdVal) : (s.set i j v).pending = s.pending := rfl
@[simp] theorem State.set_timebase (i j : Nat) (v : OdVal) : (s.set i j v).timebase = s.timebase := rfl
@[simp] theorem State.set_draws (i j : Nat) (v : OdVal) : (s.set i j v).draws = s.draws := rfl
@[simp] theorem State.set_od (i j : Nat) (v : OdVal) : (s.set i j v).od = s.od.set i j v := rfl
@[simp] theorem State.set_tray (i j : Nat) (v : OdVal) : (s.set i j v).tray = s.tray := rfl
@[simp] theorem State.set_holdCause (i j : Nat) (v : OdVal) : (s.set i j v).holdCause = s.holdCause := rfl
@[simp] theorem State.set_command (i j : Nat) (v : OdVal) : (s.set i j v).command = s.command := rfl
@[simp] theorem State.set_power (i j : Nat) (v : OdVal) : (s.set i j v).power = s.power := rfl
@[simp] theorem State.set_boot (i j : Nat) (v : OdVal) : (s.set i j v).boot = s.boot := rfl
@[simp] theorem State.set_ecat (i j : Nat) (v : OdVal) : (s.set i j v).ecat = s.ecat := rfl
@[simp] theorem State.set_can (i j : Nat) (v : OdVal) : (s.set i j v).can = s.can := rfl
@[simp] theorem State.set_mail (i j : Nat) (v : OdVal) : (s.set i j v).mail = s.mail := rfl
@[simp] theorem State.set_shafts (i j : Nat) (v : OdVal) : (s.set i j v).shafts = s.shafts := rfl
@[simp] theorem State.set_events (i j : Nat) (v : OdVal) : (s.set i j v).events = s.events := rfl
@[simp] theorem State.set_groups (i j : Nat) (v : OdVal) : (s.set i j v).groups = s.groups := rfl
@[simp] theorem State.set_channels (i j : Nat) (v : OdVal) : (s.set i j v).channels = s.channels := rfl
@[simp] theorem State.set_ports (i j : Nat) (v : OdVal) : (s.set i j v).ports = s.ports := rfl
@[simp] theorem State.set_cams (i j : Nat) (v : OdVal) : (s.set i j v).cams = s.cams := rfl
@[simp] theorem State.set_jobs (i j : Nat) (v : OdVal) : (s.set i j v).jobs = s.jobs := rfl
@[simp] theorem State.set_pend (i j : Nat) (v : OdVal) : (s.set i j v).pend = s.pend := rfl
@[simp] theorem State.set_sets (i j : Nat) (v : OdVal) : (s.set i j v).sets = s.sets := rfl
@[simp] theorem State.set_issues (i j : Nat) (v : OdVal) : (s.set i j v).issues = s.issues := rfl
@[simp] theorem State.set_nextIssue (i j : Nat) (v : OdVal) : (s.set i j v).nextIssue = s.nextIssue := rfl
@[simp] theorem State.set_chips (i j : Nat) (v : OdVal) : (s.set i j v).chips = s.chips := rfl
@[simp] theorem State.set_slots (i j : Nat) (v : OdVal) : (s.set i j v).slots = s.slots := rfl
@[simp] theorem State.set_tenants (i j : Nat) (v : OdVal) : (s.set i j v).tenants = s.tenants := rfl
@[simp] theorem State.set_tokens (i j : Nat) (v : OdVal) : (s.set i j v).tokens = s.tokens := rfl
@[simp] theorem State.set_learn (i j : Nat) (v : OdVal) : (s.set i j v).learn = s.learn := rfl
@[simp] theorem State.set_parish (i j : Nat) (v : OdVal) : (s.set i j v).parish = s.parish := rfl
@[simp] theorem State.set_faults (i j : Nat) (v : OdVal) : (s.set i j v).faults = s.faults := rfl
@[simp] theorem State.set_store (i j : Nat) (v : OdVal) : (s.set i j v).store = s.store := rfl
@[simp] theorem State.set_outputs (i j : Nat) (v : OdVal) : (s.set i j v).outputs = s.outputs := rfl
@[simp] theorem State.set_loadFrom (i j : Nat) (v : OdVal) : (s.set i j v).loadFrom = s.loadFrom := rfl

/-! setNum -/
@[simp] theorem State.setNum_pending (i j : Nat) (v : Int) : (s.setNum i j v).pending = s.pending := rfl
@[simp] theorem State.setNum_timebase (i j : Nat) (v : Int) : (s.setNum i j v).timebase = s.timebase := rfl
@[simp] theorem State.setNum_draws (i j : Nat) (v : Int) : (s.setNum i j v).draws = s.draws := rfl
@[simp] theorem State.setNum_od (i j : Nat) (v : Int) : (s.setNum i j v).od = s.od.set i j (.num v) := rfl
@[simp] theorem State.setNum_tray (i j : Nat) (v : Int) : (s.setNum i j v).tray = s.tray := rfl
@[simp] theorem State.setNum_holdCause (i j : Nat) (v : Int) : (s.setNum i j v).holdCause = s.holdCause := rfl
@[simp] theorem State.setNum_command (i j : Nat) (v : Int) : (s.setNum i j v).command = s.command := rfl
@[simp] theorem State.setNum_power (i j : Nat) (v : Int) : (s.setNum i j v).power = s.power := rfl
@[simp] theorem State.setNum_boot (i j : Nat) (v : Int) : (s.setNum i j v).boot = s.boot := rfl
@[simp] theorem State.setNum_ecat (i j : Nat) (v : Int) : (s.setNum i j v).ecat = s.ecat := rfl
@[simp] theorem State.setNum_can (i j : Nat) (v : Int) : (s.setNum i j v).can = s.can := rfl
@[simp] theorem State.setNum_mail (i j : Nat) (v : Int) : (s.setNum i j v).mail = s.mail := rfl
@[simp] theorem State.setNum_shafts (i j : Nat) (v : Int) : (s.setNum i j v).shafts = s.shafts := rfl
@[simp] theorem State.setNum_events (i j : Nat) (v : Int) : (s.setNum i j v).events = s.events := rfl
@[simp] theorem State.setNum_groups (i j : Nat) (v : Int) : (s.setNum i j v).groups = s.groups := rfl
@[simp] theorem State.setNum_channels (i j : Nat) (v : Int) : (s.setNum i j v).channels = s.channels := rfl
@[simp] theorem State.setNum_ports (i j : Nat) (v : Int) : (s.setNum i j v).ports = s.ports := rfl
@[simp] theorem State.setNum_cams (i j : Nat) (v : Int) : (s.setNum i j v).cams = s.cams := rfl
@[simp] theorem State.setNum_jobs (i j : Nat) (v : Int) : (s.setNum i j v).jobs = s.jobs := rfl
@[simp] theorem State.setNum_pend (i j : Nat) (v : Int) : (s.setNum i j v).pend = s.pend := rfl
@[simp] theorem State.setNum_sets (i j : Nat) (v : Int) : (s.setNum i j v).sets = s.sets := rfl
@[simp] theorem State.setNum_issues (i j : Nat) (v : Int) : (s.setNum i j v).issues = s.issues := rfl
@[simp] theorem State.setNum_nextIssue (i j : Nat) (v : Int) : (s.setNum i j v).nextIssue = s.nextIssue := rfl
@[simp] theorem State.setNum_chips (i j : Nat) (v : Int) : (s.setNum i j v).chips = s.chips := rfl
@[simp] theorem State.setNum_slots (i j : Nat) (v : Int) : (s.setNum i j v).slots = s.slots := rfl
@[simp] theorem State.setNum_tenants (i j : Nat) (v : Int) : (s.setNum i j v).tenants = s.tenants := rfl
@[simp] theorem State.setNum_tokens (i j : Nat) (v : Int) : (s.setNum i j v).tokens = s.tokens := rfl
@[simp] theorem State.setNum_learn (i j : Nat) (v : Int) : (s.setNum i j v).learn = s.learn := rfl
@[simp] theorem State.setNum_parish (i j : Nat) (v : Int) : (s.setNum i j v).parish = s.parish := rfl
@[simp] theorem State.setNum_faults (i j : Nat) (v : Int) : (s.setNum i j v).faults = s.faults := rfl
@[simp] theorem State.setNum_store (i j : Nat) (v : Int) : (s.setNum i j v).store = s.store := rfl
@[simp] theorem State.setNum_outputs (i j : Nat) (v : Int) : (s.setNum i j v).outputs = s.outputs := rfl
@[simp] theorem State.setNum_loadFrom (i j : Nat) (v : Int) : (s.setNum i j v).loadFrom = s.loadFrom := rfl

/-! setBytes -/
@[simp] theorem State.setBytes_pending (i j : Nat) (v : List Byte) : (s.setBytes i j v).pending = s.pending := rfl
@[simp] theorem State.setBytes_timebase (i j : Nat) (v : List Byte) : (s.setBytes i j v).timebase = s.timebase := rfl
@[simp] theorem State.setBytes_draws (i j : Nat) (v : List Byte) : (s.setBytes i j v).draws = s.draws := rfl
@[simp] theorem State.setBytes_od (i j : Nat) (v : List Byte) : (s.setBytes i j v).od = s.od.set i j (.bytes v) := rfl
@[simp] theorem State.setBytes_tray (i j : Nat) (v : List Byte) : (s.setBytes i j v).tray = s.tray := rfl
@[simp] theorem State.setBytes_holdCause (i j : Nat) (v : List Byte) : (s.setBytes i j v).holdCause = s.holdCause := rfl
@[simp] theorem State.setBytes_command (i j : Nat) (v : List Byte) : (s.setBytes i j v).command = s.command := rfl
@[simp] theorem State.setBytes_power (i j : Nat) (v : List Byte) : (s.setBytes i j v).power = s.power := rfl
@[simp] theorem State.setBytes_boot (i j : Nat) (v : List Byte) : (s.setBytes i j v).boot = s.boot := rfl
@[simp] theorem State.setBytes_ecat (i j : Nat) (v : List Byte) : (s.setBytes i j v).ecat = s.ecat := rfl
@[simp] theorem State.setBytes_can (i j : Nat) (v : List Byte) : (s.setBytes i j v).can = s.can := rfl
@[simp] theorem State.setBytes_mail (i j : Nat) (v : List Byte) : (s.setBytes i j v).mail = s.mail := rfl
@[simp] theorem State.setBytes_shafts (i j : Nat) (v : List Byte) : (s.setBytes i j v).shafts = s.shafts := rfl
@[simp] theorem State.setBytes_events (i j : Nat) (v : List Byte) : (s.setBytes i j v).events = s.events := rfl
@[simp] theorem State.setBytes_groups (i j : Nat) (v : List Byte) : (s.setBytes i j v).groups = s.groups := rfl
@[simp] theorem State.setBytes_channels (i j : Nat) (v : List Byte) : (s.setBytes i j v).channels = s.channels := rfl
@[simp] theorem State.setBytes_ports (i j : Nat) (v : List Byte) : (s.setBytes i j v).ports = s.ports := rfl
@[simp] theorem State.setBytes_cams (i j : Nat) (v : List Byte) : (s.setBytes i j v).cams = s.cams := rfl
@[simp] theorem State.setBytes_jobs (i j : Nat) (v : List Byte) : (s.setBytes i j v).jobs = s.jobs := rfl
@[simp] theorem State.setBytes_pend (i j : Nat) (v : List Byte) : (s.setBytes i j v).pend = s.pend := rfl
@[simp] theorem State.setBytes_sets (i j : Nat) (v : List Byte) : (s.setBytes i j v).sets = s.sets := rfl
@[simp] theorem State.setBytes_issues (i j : Nat) (v : List Byte) : (s.setBytes i j v).issues = s.issues := rfl
@[simp] theorem State.setBytes_nextIssue (i j : Nat) (v : List Byte) : (s.setBytes i j v).nextIssue = s.nextIssue := rfl
@[simp] theorem State.setBytes_chips (i j : Nat) (v : List Byte) : (s.setBytes i j v).chips = s.chips := rfl
@[simp] theorem State.setBytes_slots (i j : Nat) (v : List Byte) : (s.setBytes i j v).slots = s.slots := rfl
@[simp] theorem State.setBytes_tenants (i j : Nat) (v : List Byte) : (s.setBytes i j v).tenants = s.tenants := rfl
@[simp] theorem State.setBytes_tokens (i j : Nat) (v : List Byte) : (s.setBytes i j v).tokens = s.tokens := rfl
@[simp] theorem State.setBytes_learn (i j : Nat) (v : List Byte) : (s.setBytes i j v).learn = s.learn := rfl
@[simp] theorem State.setBytes_parish (i j : Nat) (v : List Byte) : (s.setBytes i j v).parish = s.parish := rfl
@[simp] theorem State.setBytes_faults (i j : Nat) (v : List Byte) : (s.setBytes i j v).faults = s.faults := rfl
@[simp] theorem State.setBytes_store (i j : Nat) (v : List Byte) : (s.setBytes i j v).store = s.store := rfl
@[simp] theorem State.setBytes_outputs (i j : Nat) (v : List Byte) : (s.setBytes i j v).outputs = s.outputs := rfl
@[simp] theorem State.setBytes_loadFrom (i j : Nat) (v : List Byte) : (s.setBytes i j v).loadFrom = s.loadFrom := rfl

/-! setShaft -/
@[simp] theorem State.setShaft_pending (i : Nat) (x : Shaft) : (s.setShaft i x).pending = s.pending := rfl
@[simp] theorem State.setShaft_timebase (i : Nat) (x : Shaft) : (s.setShaft i x).timebase = s.timebase := rfl
@[simp] theorem State.setShaft_draws (i : Nat) (x : Shaft) : (s.setShaft i x).draws = s.draws := rfl
@[simp] theorem State.setShaft_od (i : Nat) (x : Shaft) : (s.setShaft i x).od = s.od := rfl
@[simp] theorem State.setShaft_tray (i : Nat) (x : Shaft) : (s.setShaft i x).tray = s.tray := rfl
@[simp] theorem State.setShaft_holdCause (i : Nat) (x : Shaft) : (s.setShaft i x).holdCause = s.holdCause := rfl
@[simp] theorem State.setShaft_command (i : Nat) (x : Shaft) : (s.setShaft i x).command = s.command := rfl
@[simp] theorem State.setShaft_power (i : Nat) (x : Shaft) : (s.setShaft i x).power = s.power := rfl
@[simp] theorem State.setShaft_boot (i : Nat) (x : Shaft) : (s.setShaft i x).boot = s.boot := rfl
@[simp] theorem State.setShaft_ecat (i : Nat) (x : Shaft) : (s.setShaft i x).ecat = s.ecat := rfl
@[simp] theorem State.setShaft_can (i : Nat) (x : Shaft) : (s.setShaft i x).can = s.can := rfl
@[simp] theorem State.setShaft_mail (i : Nat) (x : Shaft) : (s.setShaft i x).mail = s.mail := rfl
@[simp] theorem State.setShaft_shafts (i : Nat) (x : Shaft) : (s.setShaft i x).shafts = vset s.shafts i x := rfl
@[simp] theorem State.setShaft_events (i : Nat) (x : Shaft) : (s.setShaft i x).events = s.events := rfl
@[simp] theorem State.setShaft_groups (i : Nat) (x : Shaft) : (s.setShaft i x).groups = s.groups := rfl
@[simp] theorem State.setShaft_channels (i : Nat) (x : Shaft) : (s.setShaft i x).channels = s.channels := rfl
@[simp] theorem State.setShaft_ports (i : Nat) (x : Shaft) : (s.setShaft i x).ports = s.ports := rfl
@[simp] theorem State.setShaft_cams (i : Nat) (x : Shaft) : (s.setShaft i x).cams = s.cams := rfl
@[simp] theorem State.setShaft_jobs (i : Nat) (x : Shaft) : (s.setShaft i x).jobs = s.jobs := rfl
@[simp] theorem State.setShaft_pend (i : Nat) (x : Shaft) : (s.setShaft i x).pend = s.pend := rfl
@[simp] theorem State.setShaft_sets (i : Nat) (x : Shaft) : (s.setShaft i x).sets = s.sets := rfl
@[simp] theorem State.setShaft_issues (i : Nat) (x : Shaft) : (s.setShaft i x).issues = s.issues := rfl
@[simp] theorem State.setShaft_nextIssue (i : Nat) (x : Shaft) : (s.setShaft i x).nextIssue = s.nextIssue := rfl
@[simp] theorem State.setShaft_chips (i : Nat) (x : Shaft) : (s.setShaft i x).chips = s.chips := rfl
@[simp] theorem State.setShaft_slots (i : Nat) (x : Shaft) : (s.setShaft i x).slots = s.slots := rfl
@[simp] theorem State.setShaft_tenants (i : Nat) (x : Shaft) : (s.setShaft i x).tenants = s.tenants := rfl
@[simp] theorem State.setShaft_tokens (i : Nat) (x : Shaft) : (s.setShaft i x).tokens = s.tokens := rfl
@[simp] theorem State.setShaft_learn (i : Nat) (x : Shaft) : (s.setShaft i x).learn = s.learn := rfl
@[simp] theorem State.setShaft_parish (i : Nat) (x : Shaft) : (s.setShaft i x).parish = s.parish := rfl
@[simp] theorem State.setShaft_faults (i : Nat) (x : Shaft) : (s.setShaft i x).faults = s.faults := rfl
@[simp] theorem State.setShaft_store (i : Nat) (x : Shaft) : (s.setShaft i x).store = s.store := rfl
@[simp] theorem State.setShaft_outputs (i : Nat) (x : Shaft) : (s.setShaft i x).outputs = s.outputs := rfl
@[simp] theorem State.setShaft_loadFrom (i : Nat) (x : Shaft) : (s.setShaft i x).loadFrom = s.loadFrom := rfl

/-! setChip -/
@[simp] theorem State.setChip_pending (i : Nat) (x : Chip) : (s.setChip i x).pending = s.pending := rfl
@[simp] theorem State.setChip_timebase (i : Nat) (x : Chip) : (s.setChip i x).timebase = s.timebase := rfl
@[simp] theorem State.setChip_draws (i : Nat) (x : Chip) : (s.setChip i x).draws = s.draws := rfl
@[simp] theorem State.setChip_od (i : Nat) (x : Chip) : (s.setChip i x).od = s.od := rfl
@[simp] theorem State.setChip_tray (i : Nat) (x : Chip) : (s.setChip i x).tray = s.tray := rfl
@[simp] theorem State.setChip_holdCause (i : Nat) (x : Chip) : (s.setChip i x).holdCause = s.holdCause := rfl
@[simp] theorem State.setChip_command (i : Nat) (x : Chip) : (s.setChip i x).command = s.command := rfl
@[simp] theorem State.setChip_power (i : Nat) (x : Chip) : (s.setChip i x).power = s.power := rfl
@[simp] theorem State.setChip_boot (i : Nat) (x : Chip) : (s.setChip i x).boot = s.boot := rfl
@[simp] theorem State.setChip_ecat (i : Nat) (x : Chip) : (s.setChip i x).ecat = s.ecat := rfl
@[simp] theorem State.setChip_can (i : Nat) (x : Chip) : (s.setChip i x).can = s.can := rfl
@[simp] theorem State.setChip_mail (i : Nat) (x : Chip) : (s.setChip i x).mail = s.mail := rfl
@[simp] theorem State.setChip_shafts (i : Nat) (x : Chip) : (s.setChip i x).shafts = s.shafts := rfl
@[simp] theorem State.setChip_events (i : Nat) (x : Chip) : (s.setChip i x).events = s.events := rfl
@[simp] theorem State.setChip_groups (i : Nat) (x : Chip) : (s.setChip i x).groups = s.groups := rfl
@[simp] theorem State.setChip_channels (i : Nat) (x : Chip) : (s.setChip i x).channels = s.channels := rfl
@[simp] theorem State.setChip_ports (i : Nat) (x : Chip) : (s.setChip i x).ports = s.ports := rfl
@[simp] theorem State.setChip_cams (i : Nat) (x : Chip) : (s.setChip i x).cams = s.cams := rfl
@[simp] theorem State.setChip_jobs (i : Nat) (x : Chip) : (s.setChip i x).jobs = s.jobs := rfl
@[simp] theorem State.setChip_pend (i : Nat) (x : Chip) : (s.setChip i x).pend = s.pend := rfl
@[simp] theorem State.setChip_sets (i : Nat) (x : Chip) : (s.setChip i x).sets = s.sets := rfl
@[simp] theorem State.setChip_issues (i : Nat) (x : Chip) : (s.setChip i x).issues = s.issues := rfl
@[simp] theorem State.setChip_nextIssue (i : Nat) (x : Chip) : (s.setChip i x).nextIssue = s.nextIssue := rfl
@[simp] theorem State.setChip_chips (i : Nat) (x : Chip) : (s.setChip i x).chips = vset s.chips i x := rfl
@[simp] theorem State.setChip_slots (i : Nat) (x : Chip) : (s.setChip i x).slots = s.slots := rfl
@[simp] theorem State.setChip_tenants (i : Nat) (x : Chip) : (s.setChip i x).tenants = s.tenants := rfl
@[simp] theorem State.setChip_tokens (i : Nat) (x : Chip) : (s.setChip i x).tokens = s.tokens := rfl
@[simp] theorem State.setChip_learn (i : Nat) (x : Chip) : (s.setChip i x).learn = s.learn := rfl
@[simp] theorem State.setChip_parish (i : Nat) (x : Chip) : (s.setChip i x).parish = s.parish := rfl
@[simp] theorem State.setChip_faults (i : Nat) (x : Chip) : (s.setChip i x).faults = s.faults := rfl
@[simp] theorem State.setChip_store (i : Nat) (x : Chip) : (s.setChip i x).store = s.store := rfl
@[simp] theorem State.setChip_outputs (i : Nat) (x : Chip) : (s.setChip i x).outputs = s.outputs := rfl
@[simp] theorem State.setChip_loadFrom (i : Nat) (x : Chip) : (s.setChip i x).loadFrom = s.loadFrom := rfl

/-! modChip -/
@[simp] theorem State.modChip_pending (i : Nat) (f : Chip → Chip) : (s.modChip i f).pending = s.pending := rfl
@[simp] theorem State.modChip_timebase (i : Nat) (f : Chip → Chip) : (s.modChip i f).timebase = s.timebase := rfl
@[simp] theorem State.modChip_draws (i : Nat) (f : Chip → Chip) : (s.modChip i f).draws = s.draws := rfl
@[simp] theorem State.modChip_od (i : Nat) (f : Chip → Chip) : (s.modChip i f).od = s.od := rfl
@[simp] theorem State.modChip_tray (i : Nat) (f : Chip → Chip) : (s.modChip i f).tray = s.tray := rfl
@[simp] theorem State.modChip_holdCause (i : Nat) (f : Chip → Chip) : (s.modChip i f).holdCause = s.holdCause := rfl
@[simp] theorem State.modChip_command (i : Nat) (f : Chip → Chip) : (s.modChip i f).command = s.command := rfl
@[simp] theorem State.modChip_power (i : Nat) (f : Chip → Chip) : (s.modChip i f).power = s.power := rfl
@[simp] theorem State.modChip_boot (i : Nat) (f : Chip → Chip) : (s.modChip i f).boot = s.boot := rfl
@[simp] theorem State.modChip_ecat (i : Nat) (f : Chip → Chip) : (s.modChip i f).ecat = s.ecat := rfl
@[simp] theorem State.modChip_can (i : Nat) (f : Chip → Chip) : (s.modChip i f).can = s.can := rfl
@[simp] theorem State.modChip_mail (i : Nat) (f : Chip → Chip) : (s.modChip i f).mail = s.mail := rfl
@[simp] theorem State.modChip_shafts (i : Nat) (f : Chip → Chip) : (s.modChip i f).shafts = s.shafts := rfl
@[simp] theorem State.modChip_events (i : Nat) (f : Chip → Chip) : (s.modChip i f).events = s.events := rfl
@[simp] theorem State.modChip_groups (i : Nat) (f : Chip → Chip) : (s.modChip i f).groups = s.groups := rfl
@[simp] theorem State.modChip_channels (i : Nat) (f : Chip → Chip) : (s.modChip i f).channels = s.channels := rfl
@[simp] theorem State.modChip_ports (i : Nat) (f : Chip → Chip) : (s.modChip i f).ports = s.ports := rfl
@[simp] theorem State.modChip_cams (i : Nat) (f : Chip → Chip) : (s.modChip i f).cams = s.cams := rfl
@[simp] theorem State.modChip_jobs (i : Nat) (f : Chip → Chip) : (s.modChip i f).jobs = s.jobs := rfl
@[simp] theorem State.modChip_pend (i : Nat) (f : Chip → Chip) : (s.modChip i f).pend = s.pend := rfl
@[simp] theorem State.modChip_sets (i : Nat) (f : Chip → Chip) : (s.modChip i f).sets = s.sets := rfl
@[simp] theorem State.modChip_issues (i : Nat) (f : Chip → Chip) : (s.modChip i f).issues = s.issues := rfl
@[simp] theorem State.modChip_nextIssue (i : Nat) (f : Chip → Chip) : (s.modChip i f).nextIssue = s.nextIssue := rfl
@[simp] theorem State.modChip_chips (i : Nat) (f : Chip → Chip) : (s.modChip i f).chips = vmod s.chips i f := rfl
@[simp] theorem State.modChip_slots (i : Nat) (f : Chip → Chip) : (s.modChip i f).slots = s.slots := rfl
@[simp] theorem State.modChip_tenants (i : Nat) (f : Chip → Chip) : (s.modChip i f).tenants = s.tenants := rfl
@[simp] theorem State.modChip_tokens (i : Nat) (f : Chip → Chip) : (s.modChip i f).tokens = s.tokens := rfl
@[simp] theorem State.modChip_learn (i : Nat) (f : Chip → Chip) : (s.modChip i f).learn = s.learn := rfl
@[simp] theorem State.modChip_parish (i : Nat) (f : Chip → Chip) : (s.modChip i f).parish = s.parish := rfl
@[simp] theorem State.modChip_faults (i : Nat) (f : Chip → Chip) : (s.modChip i f).faults = s.faults := rfl
@[simp] theorem State.modChip_store (i : Nat) (f : Chip → Chip) : (s.modChip i f).store = s.store := rfl
@[simp] theorem State.modChip_outputs (i : Nat) (f : Chip → Chip) : (s.modChip i f).outputs = s.outputs := rfl
@[simp] theorem State.modChip_loadFrom (i : Nat) (f : Chip → Chip) : (s.modChip i f).loadFrom = s.loadFrom := rfl

/-! modSlot -/
@[simp] theorem State.modSlot_pending (i : Nat) (f : Slot → Slot) : (s.modSlot i f).pending = s.pending := rfl
@[simp] theorem State.modSlot_timebase (i : Nat) (f : Slot → Slot) : (s.modSlot i f).timebase = s.timebase := rfl
@[simp] theorem State.modSlot_draws (i : Nat) (f : Slot → Slot) : (s.modSlot i f).draws = s.draws := rfl
@[simp] theorem State.modSlot_od (i : Nat) (f : Slot → Slot) : (s.modSlot i f).od = s.od := rfl
@[simp] theorem State.modSlot_tray (i : Nat) (f : Slot → Slot) : (s.modSlot i f).tray = s.tray := rfl
@[simp] theorem State.modSlot_holdCause (i : Nat) (f : Slot → Slot) : (s.modSlot i f).holdCause = s.holdCause := rfl
@[simp] theorem State.modSlot_command (i : Nat) (f : Slot → Slot) : (s.modSlot i f).command = s.command := rfl
@[simp] theorem State.modSlot_power (i : Nat) (f : Slot → Slot) : (s.modSlot i f).power = s.power := rfl
@[simp] theorem State.modSlot_boot (i : Nat) (f : Slot → Slot) : (s.modSlot i f).boot = s.boot := rfl
@[simp] theorem State.modSlot_ecat (i : Nat) (f : Slot → Slot) : (s.modSlot i f).ecat = s.ecat := rfl
@[simp] theorem State.modSlot_can (i : Nat) (f : Slot → Slot) : (s.modSlot i f).can = s.can := rfl
@[simp] theorem State.modSlot_mail (i : Nat) (f : Slot → Slot) : (s.modSlot i f).mail = s.mail := rfl
@[simp] theorem State.modSlot_shafts (i : Nat) (f : Slot → Slot) : (s.modSlot i f).shafts = s.shafts := rfl
@[simp] theorem State.modSlot_events (i : Nat) (f : Slot → Slot) : (s.modSlot i f).events = s.events := rfl
@[simp] theorem State.modSlot_groups (i : Nat) (f : Slot → Slot) : (s.modSlot i f).groups = s.groups := rfl
@[simp] theorem State.modSlot_channels (i : Nat) (f : Slot → Slot) : (s.modSlot i f).channels = s.channels := rfl
@[simp] theorem State.modSlot_ports (i : Nat) (f : Slot → Slot) : (s.modSlot i f).ports = s.ports := rfl
@[simp] theorem State.modSlot_cams (i : Nat) (f : Slot → Slot) : (s.modSlot i f).cams = s.cams := rfl
@[simp] theorem State.modSlot_jobs (i : Nat) (f : Slot → Slot) : (s.modSlot i f).jobs = s.jobs := rfl
@[simp] theorem State.modSlot_pend (i : Nat) (f : Slot → Slot) : (s.modSlot i f).pend = s.pend := rfl
@[simp] theorem State.modSlot_sets (i : Nat) (f : Slot → Slot) : (s.modSlot i f).sets = s.sets := rfl
@[simp] theorem State.modSlot_issues (i : Nat) (f : Slot → Slot) : (s.modSlot i f).issues = s.issues := rfl
@[simp] theorem State.modSlot_nextIssue (i : Nat) (f : Slot → Slot) : (s.modSlot i f).nextIssue = s.nextIssue := rfl
@[simp] theorem State.modSlot_chips (i : Nat) (f : Slot → Slot) : (s.modSlot i f).chips = s.chips := rfl
@[simp] theorem State.modSlot_slots (i : Nat) (f : Slot → Slot) : (s.modSlot i f).slots = vmod s.slots i f := rfl
@[simp] theorem State.modSlot_tenants (i : Nat) (f : Slot → Slot) : (s.modSlot i f).tenants = s.tenants := rfl
@[simp] theorem State.modSlot_tokens (i : Nat) (f : Slot → Slot) : (s.modSlot i f).tokens = s.tokens := rfl
@[simp] theorem State.modSlot_learn (i : Nat) (f : Slot → Slot) : (s.modSlot i f).learn = s.learn := rfl
@[simp] theorem State.modSlot_parish (i : Nat) (f : Slot → Slot) : (s.modSlot i f).parish = s.parish := rfl
@[simp] theorem State.modSlot_faults (i : Nat) (f : Slot → Slot) : (s.modSlot i f).faults = s.faults := rfl
@[simp] theorem State.modSlot_store (i : Nat) (f : Slot → Slot) : (s.modSlot i f).store = s.store := rfl
@[simp] theorem State.modSlot_outputs (i : Nat) (f : Slot → Slot) : (s.modSlot i f).outputs = s.outputs := rfl
@[simp] theorem State.modSlot_loadFrom (i : Nat) (f : Slot → Slot) : (s.modSlot i f).loadFrom = s.loadFrom := rfl

/-! modTenant -/
@[simp] theorem State.modTenant_pending (i : Nat) (f : Tenant → Tenant) : (s.modTenant i f).pending = s.pending := rfl
@[simp] theorem State.modTenant_timebase (i : Nat) (f : Tenant → Tenant) : (s.modTenant i f).timebase = s.timebase := rfl
@[simp] theorem State.modTenant_draws (i : Nat) (f : Tenant → Tenant) : (s.modTenant i f).draws = s.draws := rfl
@[simp] theorem State.modTenant_od (i : Nat) (f : Tenant → Tenant) : (s.modTenant i f).od = s.od := rfl
@[simp] theorem State.modTenant_tray (i : Nat) (f : Tenant → Tenant) : (s.modTenant i f).tray = s.tray := rfl
@[simp] theorem State.modTenant_holdCause (i : Nat) (f : Tenant → Tenant) : (s.modTenant i f).holdCause = s.holdCause := rfl
@[simp] theorem State.modTenant_command (i : Nat) (f : Tenant → Tenant) : (s.modTenant i f).command = s.command := rfl
@[simp] theorem State.modTenant_power (i : Nat) (f : Tenant → Tenant) : (s.modTenant i f).power = s.power := rfl
@[simp] theorem State.modTenant_boot (i : Nat) (f : Tenant → Tenant) : (s.modTenant i f).boot = s.boot := rfl
@[simp] theorem State.modTenant_ecat (i : Nat) (f : Tenant → Tenant) : (s.modTenant i f).ecat = s.ecat := rfl
@[simp] theorem State.modTenant_can (i : Nat) (f : Tenant → Tenant) : (s.modTenant i f).can = s.can := rfl
@[simp] theorem State.modTenant_mail (i : Nat) (f : Tenant → Tenant) : (s.modTenant i f).mail = s.mail := rfl
@[simp] theorem State.modTenant_shafts (i : Nat) (f : Tenant → Tenant) : (s.modTenant i f).shafts = s.shafts := rfl
@[simp] theorem State.modTenant_events (i : Nat) (f : Tenant → Tenant) : (s.modTenant i f).events = s.events := rfl
@[simp] theorem State.modTenant_groups (i : Nat) (f : Tenant → Tenant) : (s.modTenant i f).groups = s.groups := rfl
@[simp] theorem State.modTenant_channels (i : Nat) (f : Tenant → Tenant) : (s.modTenant i f).channels = s.channels := rfl
@[simp] theorem State.modTenant_ports (i : Nat) (f : Tenant → Tenant) : (s.modTenant i f).ports = s.ports := rfl
@[simp] theorem State.modTenant_cams (i : Nat) (f : Tenant → Tenant) : (s.modTenant i f).cams = s.cams := rfl
@[simp] theorem State.modTenant_jobs (i : Nat) (f : Tenant → Tenant) : (s.modTenant i f).jobs = s.jobs := rfl
@[simp] theorem State.modTenant_pend (i : Nat) (f : Tenant → Tenant) : (s.modTenant i f).pend = s.pend := rfl
@[simp] theorem State.modTenant_sets (i : Nat) (f : Tenant → Tenant) : (s.modTenant i f).sets = s.sets := rfl
@[simp] theorem State.modTenant_issues (i : Nat) (f : Tenant → Tenant) : (s.modTenant i f).issues = s.issues := rfl
@[simp] theorem State.modTenant_nextIssue (i : Nat) (f : Tenant → Tenant) : (s.modTenant i f).nextIssue = s.nextIssue := rfl
@[simp] theorem State.modTenant_chips (i : Nat) (f : Tenant → Tenant) : (s.modTenant i f).chips = s.chips := rfl
@[simp] theorem State.modTenant_slots (i : Nat) (f : Tenant → Tenant) : (s.modTenant i f).slots = s.slots := rfl
@[simp] theorem State.modTenant_tenants (i : Nat) (f : Tenant → Tenant) : (s.modTenant i f).tenants = vmod s.tenants i f := rfl
@[simp] theorem State.modTenant_tokens (i : Nat) (f : Tenant → Tenant) : (s.modTenant i f).tokens = s.tokens := rfl
@[simp] theorem State.modTenant_learn (i : Nat) (f : Tenant → Tenant) : (s.modTenant i f).learn = s.learn := rfl
@[simp] theorem State.modTenant_parish (i : Nat) (f : Tenant → Tenant) : (s.modTenant i f).parish = s.parish := rfl
@[simp] theorem State.modTenant_faults (i : Nat) (f : Tenant → Tenant) : (s.modTenant i f).faults = s.faults := rfl
@[simp] theorem State.modTenant_store (i : Nat) (f : Tenant → Tenant) : (s.modTenant i f).store = s.store := rfl
@[simp] theorem State.modTenant_outputs (i : Nat) (f : Tenant → Tenant) : (s.modTenant i f).outputs = s.outputs := rfl
@[simp] theorem State.modTenant_loadFrom (i : Nat) (f : Tenant → Tenant) : (s.modTenant i f).loadFrom = s.loadFrom := rfl

/-! modToken -/
@[simp] theorem State.modToken_pending (i : Nat) (f : Token → Token) : (s.modToken i f).pending = s.pending := rfl
@[simp] theorem State.modToken_timebase (i : Nat) (f : Token → Token) : (s.modToken i f).timebase = s.timebase := rfl
@[simp] theorem State.modToken_draws (i : Nat) (f : Token → Token) : (s.modToken i f).draws = s.draws := rfl
@[simp] theorem State.modToken_od (i : Nat) (f : Token → Token) : (s.modToken i f).od = s.od := rfl
@[simp] theorem State.modToken_tray (i : Nat) (f : Token → Token) : (s.modToken i f).tray = s.tray := rfl
@[simp] theorem State.modToken_holdCause (i : Nat) (f : Token → Token) : (s.modToken i f).holdCause = s.holdCause := rfl
@[simp] theorem State.modToken_command (i : Nat) (f : Token → Token) : (s.modToken i f).command = s.command := rfl
@[simp] theorem State.modToken_power (i : Nat) (f : Token → Token) : (s.modToken i f).power = s.power := rfl
@[simp] theorem State.modToken_boot (i : Nat) (f : Token → Token) : (s.modToken i f).boot = s.boot := rfl
@[simp] theorem State.modToken_ecat (i : Nat) (f : Token → Token) : (s.modToken i f).ecat = s.ecat := rfl
@[simp] theorem State.modToken_can (i : Nat) (f : Token → Token) : (s.modToken i f).can = s.can := rfl
@[simp] theorem State.modToken_mail (i : Nat) (f : Token → Token) : (s.modToken i f).mail = s.mail := rfl
@[simp] theorem State.modToken_shafts (i : Nat) (f : Token → Token) : (s.modToken i f).shafts = s.shafts := rfl
@[simp] theorem State.modToken_events (i : Nat) (f : Token → Token) : (s.modToken i f).events = s.events := rfl
@[simp] theorem State.modToken_groups (i : Nat) (f : Token → Token) : (s.modToken i f).groups = s.groups := rfl
@[simp] theorem State.modToken_channels (i : Nat) (f : Token → Token) : (s.modToken i f).channels = s.channels := rfl
@[simp] theorem State.modToken_ports (i : Nat) (f : Token → Token) : (s.modToken i f).ports = s.ports := rfl
@[simp] theorem State.modToken_cams (i : Nat) (f : Token → Token) : (s.modToken i f).cams = s.cams := rfl
@[simp] theorem State.modToken_jobs (i : Nat) (f : Token → Token) : (s.modToken i f).jobs = s.jobs := rfl
@[simp] theorem State.modToken_pend (i : Nat) (f : Token → Token) : (s.modToken i f).pend = s.pend := rfl
@[simp] theorem State.modToken_sets (i : Nat) (f : Token → Token) : (s.modToken i f).sets = s.sets := rfl
@[simp] theorem State.modToken_issues (i : Nat) (f : Token → Token) : (s.modToken i f).issues = s.issues := rfl
@[simp] theorem State.modToken_nextIssue (i : Nat) (f : Token → Token) : (s.modToken i f).nextIssue = s.nextIssue := rfl
@[simp] theorem State.modToken_chips (i : Nat) (f : Token → Token) : (s.modToken i f).chips = s.chips := rfl
@[simp] theorem State.modToken_slots (i : Nat) (f : Token → Token) : (s.modToken i f).slots = s.slots := rfl
@[simp] theorem State.modToken_tenants (i : Nat) (f : Token → Token) : (s.modToken i f).tenants = s.tenants := rfl
@[simp] theorem State.modToken_tokens (i : Nat) (f : Token → Token) : (s.modToken i f).tokens = vmod s.tokens i f := rfl
@[simp] theorem State.modToken_learn (i : Nat) (f : Token → Token) : (s.modToken i f).learn = s.learn := rfl
@[simp] theorem State.modToken_parish (i : Nat) (f : Token → Token) : (s.modToken i f).parish = s.parish := rfl
@[simp] theorem State.modToken_faults (i : Nat) (f : Token → Token) : (s.modToken i f).faults = s.faults := rfl
@[simp] theorem State.modToken_store (i : Nat) (f : Token → Token) : (s.modToken i f).store = s.store := rfl
@[simp] theorem State.modToken_outputs (i : Nat) (f : Token → Token) : (s.modToken i f).outputs = s.outputs := rfl
@[simp] theorem State.modToken_loadFrom (i : Nat) (f : Token → Token) : (s.modToken i f).loadFrom = s.loadFrom := rfl

/-! modCam -/
@[simp] theorem State.modCam_pending (i : Nat) (f : Camera → Camera) : (s.modCam i f).pending = s.pending := rfl
@[simp] theorem State.modCam_timebase (i : Nat) (f : Camera → Camera) : (s.modCam i f).timebase = s.timebase := rfl
@[simp] theorem State.modCam_draws (i : Nat) (f : Camera → Camera) : (s.modCam i f).draws = s.draws := rfl
@[simp] theorem State.modCam_od (i : Nat) (f : Camera → Camera) : (s.modCam i f).od = s.od := rfl
@[simp] theorem State.modCam_tray (i : Nat) (f : Camera → Camera) : (s.modCam i f).tray = s.tray := rfl
@[simp] theorem State.modCam_holdCause (i : Nat) (f : Camera → Camera) : (s.modCam i f).holdCause = s.holdCause := rfl
@[simp] theorem State.modCam_command (i : Nat) (f : Camera → Camera) : (s.modCam i f).command = s.command := rfl
@[simp] theorem State.modCam_power (i : Nat) (f : Camera → Camera) : (s.modCam i f).power = s.power := rfl
@[simp] theorem State.modCam_boot (i : Nat) (f : Camera → Camera) : (s.modCam i f).boot = s.boot := rfl
@[simp] theorem State.modCam_ecat (i : Nat) (f : Camera → Camera) : (s.modCam i f).ecat = s.ecat := rfl
@[simp] theorem State.modCam_can (i : Nat) (f : Camera → Camera) : (s.modCam i f).can = s.can := rfl
@[simp] theorem State.modCam_mail (i : Nat) (f : Camera → Camera) : (s.modCam i f).mail = s.mail := rfl
@[simp] theorem State.modCam_shafts (i : Nat) (f : Camera → Camera) : (s.modCam i f).shafts = s.shafts := rfl
@[simp] theorem State.modCam_events (i : Nat) (f : Camera → Camera) : (s.modCam i f).events = s.events := rfl
@[simp] theorem State.modCam_groups (i : Nat) (f : Camera → Camera) : (s.modCam i f).groups = s.groups := rfl
@[simp] theorem State.modCam_channels (i : Nat) (f : Camera → Camera) : (s.modCam i f).channels = s.channels := rfl
@[simp] theorem State.modCam_ports (i : Nat) (f : Camera → Camera) : (s.modCam i f).ports = s.ports := rfl
@[simp] theorem State.modCam_cams (i : Nat) (f : Camera → Camera) : (s.modCam i f).cams = vmod s.cams i f := rfl
@[simp] theorem State.modCam_jobs (i : Nat) (f : Camera → Camera) : (s.modCam i f).jobs = s.jobs := rfl
@[simp] theorem State.modCam_pend (i : Nat) (f : Camera → Camera) : (s.modCam i f).pend = s.pend := rfl
@[simp] theorem State.modCam_sets (i : Nat) (f : Camera → Camera) : (s.modCam i f).sets = s.sets := rfl
@[simp] theorem State.modCam_issues (i : Nat) (f : Camera → Camera) : (s.modCam i f).issues = s.issues := rfl
@[simp] theorem State.modCam_nextIssue (i : Nat) (f : Camera → Camera) : (s.modCam i f).nextIssue = s.nextIssue := rfl
@[simp] theorem State.modCam_chips (i : Nat) (f : Camera → Camera) : (s.modCam i f).chips = s.chips := rfl
@[simp] theorem State.modCam_slots (i : Nat) (f : Camera → Camera) : (s.modCam i f).slots = s.slots := rfl
@[simp] theorem State.modCam_tenants (i : Nat) (f : Camera → Camera) : (s.modCam i f).tenants = s.tenants := rfl
@[simp] theorem State.modCam_tokens (i : Nat) (f : Camera → Camera) : (s.modCam i f).tokens = s.tokens := rfl
@[simp] theorem State.modCam_learn (i : Nat) (f : Camera → Camera) : (s.modCam i f).learn = s.learn := rfl
@[simp] theorem State.modCam_parish (i : Nat) (f : Camera → Camera) : (s.modCam i f).parish = s.parish := rfl
@[simp] theorem State.modCam_faults (i : Nat) (f : Camera → Camera) : (s.modCam i f).faults = s.faults := rfl
@[simp] theorem State.modCam_store (i : Nat) (f : Camera → Camera) : (s.modCam i f).store = s.store := rfl
@[simp] theorem State.modCam_outputs (i : Nat) (f : Camera → Camera) : (s.modCam i f).outputs = s.outputs := rfl
@[simp] theorem State.modCam_loadFrom (i : Nat) (f : Camera → Camera) : (s.modCam i f).loadFrom = s.loadFrom := rfl

/-! modGroup -/
@[simp] theorem State.modGroup_pending (i : Nat) (f : Group → Group) : (s.modGroup i f).pending = s.pending := rfl
@[simp] theorem State.modGroup_timebase (i : Nat) (f : Group → Group) : (s.modGroup i f).timebase = s.timebase := rfl
@[simp] theorem State.modGroup_draws (i : Nat) (f : Group → Group) : (s.modGroup i f).draws = s.draws := rfl
@[simp] theorem State.modGroup_od (i : Nat) (f : Group → Group) : (s.modGroup i f).od = s.od := rfl
@[simp] theorem State.modGroup_tray (i : Nat) (f : Group → Group) : (s.modGroup i f).tray = s.tray := rfl
@[simp] theorem State.modGroup_holdCause (i : Nat) (f : Group → Group) : (s.modGroup i f).holdCause = s.holdCause := rfl
@[simp] theorem State.modGroup_command (i : Nat) (f : Group → Group) : (s.modGroup i f).command = s.command := rfl
@[simp] theorem State.modGroup_power (i : Nat) (f : Group → Group) : (s.modGroup i f).power = s.power := rfl
@[simp] theorem State.modGroup_boot (i : Nat) (f : Group → Group) : (s.modGroup i f).boot = s.boot := rfl
@[simp] theorem State.modGroup_ecat (i : Nat) (f : Group → Group) : (s.modGroup i f).ecat = s.ecat := rfl
@[simp] theorem State.modGroup_can (i : Nat) (f : Group → Group) : (s.modGroup i f).can = s.can := rfl
@[simp] theorem State.modGroup_mail (i : Nat) (f : Group → Group) : (s.modGroup i f).mail = s.mail := rfl
@[simp] theorem State.modGroup_shafts (i : Nat) (f : Group → Group) : (s.modGroup i f).shafts = s.shafts := rfl
@[simp] theorem State.modGroup_events (i : Nat) (f : Group → Group) : (s.modGroup i f).events = s.events := rfl
@[simp] theorem State.modGroup_groups (i : Nat) (f : Group → Group) : (s.modGroup i f).groups = vmod s.groups i f := rfl
@[simp] theorem State.modGroup_channels (i : Nat) (f : Group → Group) : (s.modGroup i f).channels = s.channels := rfl
@[simp] theorem State.modGroup_ports (i : Nat) (f : Group → Group) : (s.modGroup i f).ports = s.ports := rfl
@[simp] theorem State.modGroup_cams (i : Nat) (f : Group → Group) : (s.modGroup i f).cams = s.cams := rfl
@[simp] theorem State.modGroup_jobs (i : Nat) (f : Group → Group) : (s.modGroup i f).jobs = s.jobs := rfl
@[simp] theorem State.modGroup_pend (i : Nat) (f : Group → Group) : (s.modGroup i f).pend = s.pend := rfl
@[simp] theorem State.modGroup_sets (i : Nat) (f : Group → Group) : (s.modGroup i f).sets = s.sets := rfl
@[simp] theorem State.modGroup_issues (i : Nat) (f : Group → Group) : (s.modGroup i f).issues = s.issues := rfl
@[simp] theorem State.modGroup_nextIssue (i : Nat) (f : Group → Group) : (s.modGroup i f).nextIssue = s.nextIssue := rfl
@[simp] theorem State.modGroup_chips (i : Nat) (f : Group → Group) : (s.modGroup i f).chips = s.chips := rfl
@[simp] theorem State.modGroup_slots (i : Nat) (f : Group → Group) : (s.modGroup i f).slots = s.slots := rfl
@[simp] theorem State.modGroup_tenants (i : Nat) (f : Group → Group) : (s.modGroup i f).tenants = s.tenants := rfl
@[simp] theorem State.modGroup_tokens (i : Nat) (f : Group → Group) : (s.modGroup i f).tokens = s.tokens := rfl
@[simp] theorem State.modGroup_learn (i : Nat) (f : Group → Group) : (s.modGroup i f).learn = s.learn := rfl
@[simp] theorem State.modGroup_parish (i : Nat) (f : Group → Group) : (s.modGroup i f).parish = s.parish := rfl
@[simp] theorem State.modGroup_faults (i : Nat) (f : Group → Group) : (s.modGroup i f).faults = s.faults := rfl
@[simp] theorem State.modGroup_store (i : Nat) (f : Group → Group) : (s.modGroup i f).store = s.store := rfl
@[simp] theorem State.modGroup_outputs (i : Nat) (f : Group → Group) : (s.modGroup i f).outputs = s.outputs := rfl
@[simp] theorem State.modGroup_loadFrom (i : Nat) (f : Group → Group) : (s.modGroup i f).loadFrom = s.loadFrom := rfl

/-! modPend -/
@[simp] theorem State.modPend_pending (i : Nat) (f : Pend → Pend) : (s.modPend i f).pending = s.pending := rfl
@[simp] theorem State.modPend_timebase (i : Nat) (f : Pend → Pend) : (s.modPend i f).timebase = s.timebase := rfl
@[simp] theorem State.modPend_draws (i : Nat) (f : Pend → Pend) : (s.modPend i f).draws = s.draws := rfl
@[simp] theorem State.modPend_od (i : Nat) (f : Pend → Pend) : (s.modPend i f).od = s.od := rfl
@[simp] theorem State.modPend_tray (i : Nat) (f : Pend → Pend) : (s.modPend i f).tray = s.tray := rfl
@[simp] theorem State.modPend_holdCause (i : Nat) (f : Pend → Pend) : (s.modPend i f).holdCause = s.holdCause := rfl
@[simp] theorem State.modPend_command (i : Nat) (f : Pend → Pend) : (s.modPend i f).command = s.command := rfl
@[simp] theorem State.modPend_power (i : Nat) (f : Pend → Pend) : (s.modPend i f).power = s.power := rfl
@[simp] theorem State.modPend_boot (i : Nat) (f : Pend → Pend) : (s.modPend i f).boot = s.boot := rfl
@[simp] theorem State.modPend_ecat (i : Nat) (f : Pend → Pend) : (s.modPend i f).ecat = s.ecat := rfl
@[simp] theorem State.modPend_can (i : Nat) (f : Pend → Pend) : (s.modPend i f).can = s.can := rfl
@[simp] theorem State.modPend_mail (i : Nat) (f : Pend → Pend) : (s.modPend i f).mail = s.mail := rfl
@[simp] theorem State.modPend_shafts (i : Nat) (f : Pend → Pend) : (s.modPend i f).shafts = s.shafts := rfl
@[simp] theorem State.modPend_events (i : Nat) (f : Pend → Pend) : (s.modPend i f).events = s.events := rfl
@[simp] theorem State.modPend_groups (i : Nat) (f : Pend → Pend) : (s.modPend i f).groups = s.groups := rfl
@[simp] theorem State.modPend_channels (i : Nat) (f : Pend → Pend) : (s.modPend i f).channels = s.channels := rfl
@[simp] theorem State.modPend_ports (i : Nat) (f : Pend → Pend) : (s.modPend i f).ports = s.ports := rfl
@[simp] theorem State.modPend_cams (i : Nat) (f : Pend → Pend) : (s.modPend i f).cams = s.cams := rfl
@[simp] theorem State.modPend_jobs (i : Nat) (f : Pend → Pend) : (s.modPend i f).jobs = s.jobs := rfl
@[simp] theorem State.modPend_pend (i : Nat) (f : Pend → Pend) : (s.modPend i f).pend = vmod s.pend i f := rfl
@[simp] theorem State.modPend_sets (i : Nat) (f : Pend → Pend) : (s.modPend i f).sets = s.sets := rfl
@[simp] theorem State.modPend_issues (i : Nat) (f : Pend → Pend) : (s.modPend i f).issues = s.issues := rfl
@[simp] theorem State.modPend_nextIssue (i : Nat) (f : Pend → Pend) : (s.modPend i f).nextIssue = s.nextIssue := rfl
@[simp] theorem State.modPend_chips (i : Nat) (f : Pend → Pend) : (s.modPend i f).chips = s.chips := rfl
@[simp] theorem State.modPend_slots (i : Nat) (f : Pend → Pend) : (s.modPend i f).slots = s.slots := rfl
@[simp] theorem State.modPend_tenants (i : Nat) (f : Pend → Pend) : (s.modPend i f).tenants = s.tenants := rfl
@[simp] theorem State.modPend_tokens (i : Nat) (f : Pend → Pend) : (s.modPend i f).tokens = s.tokens := rfl
@[simp] theorem State.modPend_learn (i : Nat) (f : Pend → Pend) : (s.modPend i f).learn = s.learn := rfl
@[simp] theorem State.modPend_parish (i : Nat) (f : Pend → Pend) : (s.modPend i f).parish = s.parish := rfl
@[simp] theorem State.modPend_faults (i : Nat) (f : Pend → Pend) : (s.modPend i f).faults = s.faults := rfl
@[simp] theorem State.modPend_store (i : Nat) (f : Pend → Pend) : (s.modPend i f).store = s.store := rfl
@[simp] theorem State.modPend_outputs (i : Nat) (f : Pend → Pend) : (s.modPend i f).outputs = s.outputs := rfl
@[simp] theorem State.modPend_loadFrom (i : Nat) (f : Pend → Pend) : (s.modPend i f).loadFrom = s.loadFrom := rfl

/-! modJob -/
@[simp] theorem State.modJob_pending (i j : Nat) (f : JobRun → JobRun) : (s.modJob i j f).pending = s.pending := rfl
@[simp] theorem State.modJob_timebase (i j : Nat) (f : JobRun → JobRun) : (s.modJob i j f).timebase = s.timebase := rfl
@[simp] theorem State.modJob_draws (i j : Nat) (f : JobRun → JobRun) : (s.modJob i j f).draws = s.draws := rfl
@[simp] theorem State.modJob_od (i j : Nat) (f : JobRun → JobRun) : (s.modJob i j f).od = s.od := rfl
@[simp] theorem State.modJob_tray (i j : Nat) (f : JobRun → JobRun) : (s.modJob i j f).tray = s.tray := rfl
@[simp] theorem State.modJob_holdCause (i j : Nat) (f : JobRun → JobRun) : (s.modJob i j f).holdCause = s.holdCause := rfl
@[simp] theorem State.modJob_command (i j : Nat) (f : JobRun → JobRun) : (s.modJob i j f).command = s.command := rfl
@[simp] theorem State.modJob_power (i j : Nat) (f : JobRun → JobRun) : (s.modJob i j f).power = s.power := rfl
@[simp] theorem State.modJob_boot (i j : Nat) (f : JobRun → JobRun) : (s.modJob i j f).boot = s.boot := rfl
@[simp] theorem State.modJob_ecat (i j : Nat) (f : JobRun → JobRun) : (s.modJob i j f).ecat = s.ecat := rfl
@[simp] theorem State.modJob_can (i j : Nat) (f : JobRun → JobRun) : (s.modJob i j f).can = s.can := rfl
@[simp] theorem State.modJob_mail (i j : Nat) (f : JobRun → JobRun) : (s.modJob i j f).mail = s.mail := rfl
@[simp] theorem State.modJob_shafts (i j : Nat) (f : JobRun → JobRun) : (s.modJob i j f).shafts = s.shafts := rfl
@[simp] theorem State.modJob_events (i j : Nat) (f : JobRun → JobRun) : (s.modJob i j f).events = s.events := rfl
@[simp] theorem State.modJob_groups (i j : Nat) (f : JobRun → JobRun) : (s.modJob i j f).groups = s.groups := rfl
@[simp] theorem State.modJob_channels (i j : Nat) (f : JobRun → JobRun) : (s.modJob i j f).channels = s.channels := rfl
@[simp] theorem State.modJob_ports (i j : Nat) (f : JobRun → JobRun) : (s.modJob i j f).ports = s.ports := rfl
@[simp] theorem State.modJob_cams (i j : Nat) (f : JobRun → JobRun) : (s.modJob i j f).cams = s.cams := rfl
@[simp] theorem State.modJob_jobs (i j : Nat) (f : JobRun → JobRun) : (s.modJob i j f).jobs = vmod s.jobs i (fun v => vmod v j f) := rfl
@[simp] theorem State.modJob_pend (i j : Nat) (f : JobRun → JobRun) : (s.modJob i j f).pend = s.pend := rfl
@[simp] theorem State.modJob_sets (i j : Nat) (f : JobRun → JobRun) : (s.modJob i j f).sets = s.sets := rfl
@[simp] theorem State.modJob_issues (i j : Nat) (f : JobRun → JobRun) : (s.modJob i j f).issues = s.issues := rfl
@[simp] theorem State.modJob_nextIssue (i j : Nat) (f : JobRun → JobRun) : (s.modJob i j f).nextIssue = s.nextIssue := rfl
@[simp] theorem State.modJob_chips (i j : Nat) (f : JobRun → JobRun) : (s.modJob i j f).chips = s.chips := rfl
@[simp] theorem State.modJob_slots (i j : Nat) (f : JobRun → JobRun) : (s.modJob i j f).slots = s.slots := rfl
@[simp] theorem State.modJob_tenants (i j : Nat) (f : JobRun → JobRun) : (s.modJob i j f).tenants = s.tenants := rfl
@[simp] theorem State.modJob_tokens (i j : Nat) (f : JobRun → JobRun) : (s.modJob i j f).tokens = s.tokens := rfl
@[simp] theorem State.modJob_learn (i j : Nat) (f : JobRun → JobRun) : (s.modJob i j f).learn = s.learn := rfl
@[simp] theorem State.modJob_parish (i j : Nat) (f : JobRun → JobRun) : (s.modJob i j f).parish = s.parish := rfl
@[simp] theorem State.modJob_faults (i j : Nat) (f : JobRun → JobRun) : (s.modJob i j f).faults = s.faults := rfl
@[simp] theorem State.modJob_store (i j : Nat) (f : JobRun → JobRun) : (s.modJob i j f).store = s.store := rfl
@[simp] theorem State.modJob_outputs (i j : Nat) (f : JobRun → JobRun) : (s.modJob i j f).outputs = s.outputs := rfl
@[simp] theorem State.modJob_loadFrom (i j : Nat) (f : JobRun → JobRun) : (s.modJob i j f).loadFrom = s.loadFrom := rfl

/-! modEv -/
@[simp] theorem State.modEv_pending (i j : Nat) (f : EvRun → EvRun) : (s.modEv i j f).pending = s.pending := rfl
@[simp] theorem State.modEv_timebase (i j : Nat) (f : EvRun → EvRun) : (s.modEv i j f).timebase = s.timebase := rfl
@[simp] theorem State.modEv_draws (i j : Nat) (f : EvRun → EvRun) : (s.modEv i j f).draws = s.draws := rfl
@[simp] theorem State.modEv_od (i j : Nat) (f : EvRun → EvRun) : (s.modEv i j f).od = s.od := rfl
@[simp] theorem State.modEv_tray (i j : Nat) (f : EvRun → EvRun) : (s.modEv i j f).tray = s.tray := rfl
@[simp] theorem State.modEv_holdCause (i j : Nat) (f : EvRun → EvRun) : (s.modEv i j f).holdCause = s.holdCause := rfl
@[simp] theorem State.modEv_command (i j : Nat) (f : EvRun → EvRun) : (s.modEv i j f).command = s.command := rfl
@[simp] theorem State.modEv_power (i j : Nat) (f : EvRun → EvRun) : (s.modEv i j f).power = s.power := rfl
@[simp] theorem State.modEv_boot (i j : Nat) (f : EvRun → EvRun) : (s.modEv i j f).boot = s.boot := rfl
@[simp] theorem State.modEv_ecat (i j : Nat) (f : EvRun → EvRun) : (s.modEv i j f).ecat = s.ecat := rfl
@[simp] theorem State.modEv_can (i j : Nat) (f : EvRun → EvRun) : (s.modEv i j f).can = s.can := rfl
@[simp] theorem State.modEv_mail (i j : Nat) (f : EvRun → EvRun) : (s.modEv i j f).mail = s.mail := rfl
@[simp] theorem State.modEv_shafts (i j : Nat) (f : EvRun → EvRun) : (s.modEv i j f).shafts = s.shafts := rfl
@[simp] theorem State.modEv_events (i j : Nat) (f : EvRun → EvRun) : (s.modEv i j f).events = vmod s.events i (fun v => vmod v j f) := rfl
@[simp] theorem State.modEv_groups (i j : Nat) (f : EvRun → EvRun) : (s.modEv i j f).groups = s.groups := rfl
@[simp] theorem State.modEv_channels (i j : Nat) (f : EvRun → EvRun) : (s.modEv i j f).channels = s.channels := rfl
@[simp] theorem State.modEv_ports (i j : Nat) (f : EvRun → EvRun) : (s.modEv i j f).ports = s.ports := rfl
@[simp] theorem State.modEv_cams (i j : Nat) (f : EvRun → EvRun) : (s.modEv i j f).cams = s.cams := rfl
@[simp] theorem State.modEv_jobs (i j : Nat) (f : EvRun → EvRun) : (s.modEv i j f).jobs = s.jobs := rfl
@[simp] theorem State.modEv_pend (i j : Nat) (f : EvRun → EvRun) : (s.modEv i j f).pend = s.pend := rfl
@[simp] theorem State.modEv_sets (i j : Nat) (f : EvRun → EvRun) : (s.modEv i j f).sets = s.sets := rfl
@[simp] theorem State.modEv_issues (i j : Nat) (f : EvRun → EvRun) : (s.modEv i j f).issues = s.issues := rfl
@[simp] theorem State.modEv_nextIssue (i j : Nat) (f : EvRun → EvRun) : (s.modEv i j f).nextIssue = s.nextIssue := rfl
@[simp] theorem State.modEv_chips (i j : Nat) (f : EvRun → EvRun) : (s.modEv i j f).chips = s.chips := rfl
@[simp] theorem State.modEv_slots (i j : Nat) (f : EvRun → EvRun) : (s.modEv i j f).slots = s.slots := rfl
@[simp] theorem State.modEv_tenants (i j : Nat) (f : EvRun → EvRun) : (s.modEv i j f).tenants = s.tenants := rfl
@[simp] theorem State.modEv_tokens (i j : Nat) (f : EvRun → EvRun) : (s.modEv i j f).tokens = s.tokens := rfl
@[simp] theorem State.modEv_learn (i j : Nat) (f : EvRun → EvRun) : (s.modEv i j f).learn = s.learn := rfl
@[simp] theorem State.modEv_parish (i j : Nat) (f : EvRun → EvRun) : (s.modEv i j f).parish = s.parish := rfl
@[simp] theorem State.modEv_faults (i j : Nat) (f : EvRun → EvRun) : (s.modEv i j f).faults = s.faults := rfl
@[simp] theorem State.modEv_store (i j : Nat) (f : EvRun → EvRun) : (s.modEv i j f).store = s.store := rfl
@[simp] theorem State.modEv_outputs (i j : Nat) (f : EvRun → EvRun) : (s.modEv i j f).outputs = s.outputs := rfl
@[simp] theorem State.modEv_loadFrom (i j : Nat) (f : EvRun → EvRun) : (s.modEv i j f).loadFrom = s.loadFrom := rfl

/-! modOutSet -/
@[simp] theorem State.modOutSet_pending (i j : Nat) (f : SetRun → SetRun) : (s.modOutSet i j f).pending = s.pending := rfl
@[simp] theorem State.modOutSet_timebase (i j : Nat) (f : SetRun → SetRun) : (s.modOutSet i j f).timebase = s.timebase := rfl
@[simp] theorem State.modOutSet_draws (i j : Nat) (f : SetRun → SetRun) : (s.modOutSet i j f).draws = s.draws := rfl
@[simp] theorem State.modOutSet_od (i j : Nat) (f : SetRun → SetRun) : (s.modOutSet i j f).od = s.od := rfl
@[simp] theorem State.modOutSet_tray (i j : Nat) (f : SetRun → SetRun) : (s.modOutSet i j f).tray = s.tray := rfl
@[simp] theorem State.modOutSet_holdCause (i j : Nat) (f : SetRun → SetRun) : (s.modOutSet i j f).holdCause = s.holdCause := rfl
@[simp] theorem State.modOutSet_command (i j : Nat) (f : SetRun → SetRun) : (s.modOutSet i j f).command = s.command := rfl
@[simp] theorem State.modOutSet_power (i j : Nat) (f : SetRun → SetRun) : (s.modOutSet i j f).power = s.power := rfl
@[simp] theorem State.modOutSet_boot (i j : Nat) (f : SetRun → SetRun) : (s.modOutSet i j f).boot = s.boot := rfl
@[simp] theorem State.modOutSet_ecat (i j : Nat) (f : SetRun → SetRun) : (s.modOutSet i j f).ecat = s.ecat := rfl
@[simp] theorem State.modOutSet_can (i j : Nat) (f : SetRun → SetRun) : (s.modOutSet i j f).can = s.can := rfl
@[simp] theorem State.modOutSet_mail (i j : Nat) (f : SetRun → SetRun) : (s.modOutSet i j f).mail = s.mail := rfl
@[simp] theorem State.modOutSet_shafts (i j : Nat) (f : SetRun → SetRun) : (s.modOutSet i j f).shafts = s.shafts := rfl
@[simp] theorem State.modOutSet_events (i j : Nat) (f : SetRun → SetRun) : (s.modOutSet i j f).events = s.events := rfl
@[simp] theorem State.modOutSet_groups (i j : Nat) (f : SetRun → SetRun) : (s.modOutSet i j f).groups = s.groups := rfl
@[simp] theorem State.modOutSet_channels (i j : Nat) (f : SetRun → SetRun) : (s.modOutSet i j f).channels = s.channels := rfl
@[simp] theorem State.modOutSet_ports (i j : Nat) (f : SetRun → SetRun) : (s.modOutSet i j f).ports = s.ports := rfl
@[simp] theorem State.modOutSet_cams (i j : Nat) (f : SetRun → SetRun) : (s.modOutSet i j f).cams = s.cams := rfl
@[simp] theorem State.modOutSet_jobs (i j : Nat) (f : SetRun → SetRun) : (s.modOutSet i j f).jobs = s.jobs := rfl
@[simp] theorem State.modOutSet_pend (i j : Nat) (f : SetRun → SetRun) : (s.modOutSet i j f).pend = s.pend := rfl
@[simp] theorem State.modOutSet_sets (i j : Nat) (f : SetRun → SetRun) : (s.modOutSet i j f).sets = vmod s.sets i (fun v => vmod v j f) := rfl
@[simp] theorem State.modOutSet_issues (i j : Nat) (f : SetRun → SetRun) : (s.modOutSet i j f).issues = s.issues := rfl
@[simp] theorem State.modOutSet_nextIssue (i j : Nat) (f : SetRun → SetRun) : (s.modOutSet i j f).nextIssue = s.nextIssue := rfl
@[simp] theorem State.modOutSet_chips (i j : Nat) (f : SetRun → SetRun) : (s.modOutSet i j f).chips = s.chips := rfl
@[simp] theorem State.modOutSet_slots (i j : Nat) (f : SetRun → SetRun) : (s.modOutSet i j f).slots = s.slots := rfl
@[simp] theorem State.modOutSet_tenants (i j : Nat) (f : SetRun → SetRun) : (s.modOutSet i j f).tenants = s.tenants := rfl
@[simp] theorem State.modOutSet_tokens (i j : Nat) (f : SetRun → SetRun) : (s.modOutSet i j f).tokens = s.tokens := rfl
@[simp] theorem State.modOutSet_learn (i j : Nat) (f : SetRun → SetRun) : (s.modOutSet i j f).learn = s.learn := rfl
@[simp] theorem State.modOutSet_parish (i j : Nat) (f : SetRun → SetRun) : (s.modOutSet i j f).parish = s.parish := rfl
@[simp] theorem State.modOutSet_faults (i j : Nat) (f : SetRun → SetRun) : (s.modOutSet i j f).faults = s.faults := rfl
@[simp] theorem State.modOutSet_store (i j : Nat) (f : SetRun → SetRun) : (s.modOutSet i j f).store = s.store := rfl
@[simp] theorem State.modOutSet_outputs (i j : Nat) (f : SetRun → SetRun) : (s.modOutSet i j f).outputs = s.outputs := rfl
@[simp] theorem State.modOutSet_loadFrom (i j : Nat) (f : SetRun → SetRun) : (s.modOutSet i j f).loadFrom = s.loadFrom := rfl

/-! modBox -/
@[simp] theorem State.modBox_pending (n : Net) (f : Mail → Mail) : (s.modBox n f).pending = s.pending := rfl
@[simp] theorem State.modBox_timebase (n : Net) (f : Mail → Mail) : (s.modBox n f).timebase = s.timebase := rfl
@[simp] theorem State.modBox_draws (n : Net) (f : Mail → Mail) : (s.modBox n f).draws = s.draws := rfl
@[simp] theorem State.modBox_od (n : Net) (f : Mail → Mail) : (s.modBox n f).od = s.od := rfl
@[simp] theorem State.modBox_tray (n : Net) (f : Mail → Mail) : (s.modBox n f).tray = s.tray := rfl
@[simp] theorem State.modBox_holdCause (n : Net) (f : Mail → Mail) : (s.modBox n f).holdCause = s.holdCause := rfl
@[simp] theorem State.modBox_command (n : Net) (f : Mail → Mail) : (s.modBox n f).command = s.command := rfl
@[simp] theorem State.modBox_power (n : Net) (f : Mail → Mail) : (s.modBox n f).power = s.power := rfl
@[simp] theorem State.modBox_boot (n : Net) (f : Mail → Mail) : (s.modBox n f).boot = s.boot := rfl
@[simp] theorem State.modBox_ecat (n : Net) (f : Mail → Mail) : (s.modBox n f).ecat = s.ecat := rfl
@[simp] theorem State.modBox_can (n : Net) (f : Mail → Mail) : (s.modBox n f).can = s.can := rfl
@[simp] theorem State.modBox_mail (n : Net) (f : Mail → Mail) : (s.modBox n f).mail = vmod s.mail n.num f := rfl
@[simp] theorem State.modBox_shafts (n : Net) (f : Mail → Mail) : (s.modBox n f).shafts = s.shafts := rfl
@[simp] theorem State.modBox_events (n : Net) (f : Mail → Mail) : (s.modBox n f).events = s.events := rfl
@[simp] theorem State.modBox_groups (n : Net) (f : Mail → Mail) : (s.modBox n f).groups = s.groups := rfl
@[simp] theorem State.modBox_channels (n : Net) (f : Mail → Mail) : (s.modBox n f).channels = s.channels := rfl
@[simp] theorem State.modBox_ports (n : Net) (f : Mail → Mail) : (s.modBox n f).ports = s.ports := rfl
@[simp] theorem State.modBox_cams (n : Net) (f : Mail → Mail) : (s.modBox n f).cams = s.cams := rfl
@[simp] theorem State.modBox_jobs (n : Net) (f : Mail → Mail) : (s.modBox n f).jobs = s.jobs := rfl
@[simp] theorem State.modBox_pend (n : Net) (f : Mail → Mail) : (s.modBox n f).pend = s.pend := rfl
@[simp] theorem State.modBox_sets (n : Net) (f : Mail → Mail) : (s.modBox n f).sets = s.sets := rfl
@[simp] theorem State.modBox_issues (n : Net) (f : Mail → Mail) : (s.modBox n f).issues = s.issues := rfl
@[simp] theorem State.modBox_nextIssue (n : Net) (f : Mail → Mail) : (s.modBox n f).nextIssue = s.nextIssue := rfl
@[simp] theorem State.modBox_chips (n : Net) (f : Mail → Mail) : (s.modBox n f).chips = s.chips := rfl
@[simp] theorem State.modBox_slots (n : Net) (f : Mail → Mail) : (s.modBox n f).slots = s.slots := rfl
@[simp] theorem State.modBox_tenants (n : Net) (f : Mail → Mail) : (s.modBox n f).tenants = s.tenants := rfl
@[simp] theorem State.modBox_tokens (n : Net) (f : Mail → Mail) : (s.modBox n f).tokens = s.tokens := rfl
@[simp] theorem State.modBox_learn (n : Net) (f : Mail → Mail) : (s.modBox n f).learn = s.learn := rfl
@[simp] theorem State.modBox_parish (n : Net) (f : Mail → Mail) : (s.modBox n f).parish = s.parish := rfl
@[simp] theorem State.modBox_faults (n : Net) (f : Mail → Mail) : (s.modBox n f).faults = s.faults := rfl
@[simp] theorem State.modBox_store (n : Net) (f : Mail → Mail) : (s.modBox n f).store = s.store := rfl
@[simp] theorem State.modBox_outputs (n : Net) (f : Mail → Mail) : (s.modBox n f).outputs = s.outputs := rfl
@[simp] theorem State.modBox_loadFrom (n : Net) (f : Mail → Mail) : (s.modBox n f).loadFrom = s.loadFrom := rfl

/-! modTdm -/
@[simp] theorem State.modTdm_pending (i : Nat) (f : TdmPort → TdmPort) : (s.modTdm i f).pending = s.pending := rfl
@[simp] theorem State.modTdm_timebase (i : Nat) (f : TdmPort → TdmPort) : (s.modTdm i f).timebase = s.timebase := rfl
@[simp] theorem State.modTdm_draws (i : Nat) (f : TdmPort → TdmPort) : (s.modTdm i f).draws = s.draws := rfl
@[simp] theorem State.modTdm_od (i : Nat) (f : TdmPort → TdmPort) : (s.modTdm i f).od = s.od := rfl
@[simp] theorem State.modTdm_tray (i : Nat) (f : TdmPort → TdmPort) : (s.modTdm i f).tray = s.tray := rfl
@[simp] theorem State.modTdm_holdCause (i : Nat) (f : TdmPort → TdmPort) : (s.modTdm i f).holdCause = s.holdCause := rfl
@[simp] theorem State.modTdm_command (i : Nat) (f : TdmPort → TdmPort) : (s.modTdm i f).command = s.command := rfl
@[simp] theorem State.modTdm_power (i : Nat) (f : TdmPort → TdmPort) : (s.modTdm i f).power = s.power := rfl
@[simp] theorem State.modTdm_boot (i : Nat) (f : TdmPort → TdmPort) : (s.modTdm i f).boot = s.boot := rfl
@[simp] theorem State.modTdm_ecat (i : Nat) (f : TdmPort → TdmPort) : (s.modTdm i f).ecat = s.ecat := rfl
@[simp] theorem State.modTdm_can (i : Nat) (f : TdmPort → TdmPort) : (s.modTdm i f).can = s.can := rfl
@[simp] theorem State.modTdm_mail (i : Nat) (f : TdmPort → TdmPort) : (s.modTdm i f).mail = s.mail := rfl
@[simp] theorem State.modTdm_shafts (i : Nat) (f : TdmPort → TdmPort) : (s.modTdm i f).shafts = s.shafts := rfl
@[simp] theorem State.modTdm_events (i : Nat) (f : TdmPort → TdmPort) : (s.modTdm i f).events = s.events := rfl
@[simp] theorem State.modTdm_groups (i : Nat) (f : TdmPort → TdmPort) : (s.modTdm i f).groups = s.groups := rfl
@[simp] theorem State.modTdm_channels (i : Nat) (f : TdmPort → TdmPort) : (s.modTdm i f).channels = s.channels := rfl
@[simp] theorem State.modTdm_ports (i : Nat) (f : TdmPort → TdmPort) : (s.modTdm i f).ports = vmod s.ports i f := rfl
@[simp] theorem State.modTdm_cams (i : Nat) (f : TdmPort → TdmPort) : (s.modTdm i f).cams = s.cams := rfl
@[simp] theorem State.modTdm_jobs (i : Nat) (f : TdmPort → TdmPort) : (s.modTdm i f).jobs = s.jobs := rfl
@[simp] theorem State.modTdm_pend (i : Nat) (f : TdmPort → TdmPort) : (s.modTdm i f).pend = s.pend := rfl
@[simp] theorem State.modTdm_sets (i : Nat) (f : TdmPort → TdmPort) : (s.modTdm i f).sets = s.sets := rfl
@[simp] theorem State.modTdm_issues (i : Nat) (f : TdmPort → TdmPort) : (s.modTdm i f).issues = s.issues := rfl
@[simp] theorem State.modTdm_nextIssue (i : Nat) (f : TdmPort → TdmPort) : (s.modTdm i f).nextIssue = s.nextIssue := rfl
@[simp] theorem State.modTdm_chips (i : Nat) (f : TdmPort → TdmPort) : (s.modTdm i f).chips = s.chips := rfl
@[simp] theorem State.modTdm_slots (i : Nat) (f : TdmPort → TdmPort) : (s.modTdm i f).slots = s.slots := rfl
@[simp] theorem State.modTdm_tenants (i : Nat) (f : TdmPort → TdmPort) : (s.modTdm i f).tenants = s.tenants := rfl
@[simp] theorem State.modTdm_tokens (i : Nat) (f : TdmPort → TdmPort) : (s.modTdm i f).tokens = s.tokens := rfl
@[simp] theorem State.modTdm_learn (i : Nat) (f : TdmPort → TdmPort) : (s.modTdm i f).learn = s.learn := rfl
@[simp] theorem State.modTdm_parish (i : Nat) (f : TdmPort → TdmPort) : (s.modTdm i f).parish = s.parish := rfl
@[simp] theorem State.modTdm_faults (i : Nat) (f : TdmPort → TdmPort) : (s.modTdm i f).faults = s.faults := rfl
@[simp] theorem State.modTdm_store (i : Nat) (f : TdmPort → TdmPort) : (s.modTdm i f).store = s.store := rfl
@[simp] theorem State.modTdm_outputs (i : Nat) (f : TdmPort → TdmPort) : (s.modTdm i f).outputs = s.outputs := rfl
@[simp] theorem State.modTdm_loadFrom (i : Nat) (f : TdmPort → TdmPort) : (s.modTdm i f).loadFrom = s.loadFrom := rfl

/-! modChan -/
@[simp] theorem State.modChan_pending (i : Nat) (f : Channel → Channel) : (s.modChan i f).pending = s.pending := rfl
@[simp] theorem State.modChan_timebase (i : Nat) (f : Channel → Channel) : (s.modChan i f).timebase = s.timebase := rfl
@[simp] theorem State.modChan_draws (i : Nat) (f : Channel → Channel) : (s.modChan i f).draws = s.draws := rfl
@[simp] theorem State.modChan_od (i : Nat) (f : Channel → Channel) : (s.modChan i f).od = s.od := rfl
@[simp] theorem State.modChan_tray (i : Nat) (f : Channel → Channel) : (s.modChan i f).tray = s.tray := rfl
@[simp] theorem State.modChan_holdCause (i : Nat) (f : Channel → Channel) : (s.modChan i f).holdCause = s.holdCause := rfl
@[simp] theorem State.modChan_command (i : Nat) (f : Channel → Channel) : (s.modChan i f).command = s.command := rfl
@[simp] theorem State.modChan_power (i : Nat) (f : Channel → Channel) : (s.modChan i f).power = s.power := rfl
@[simp] theorem State.modChan_boot (i : Nat) (f : Channel → Channel) : (s.modChan i f).boot = s.boot := rfl
@[simp] theorem State.modChan_ecat (i : Nat) (f : Channel → Channel) : (s.modChan i f).ecat = s.ecat := rfl
@[simp] theorem State.modChan_can (i : Nat) (f : Channel → Channel) : (s.modChan i f).can = s.can := rfl
@[simp] theorem State.modChan_mail (i : Nat) (f : Channel → Channel) : (s.modChan i f).mail = s.mail := rfl
@[simp] theorem State.modChan_shafts (i : Nat) (f : Channel → Channel) : (s.modChan i f).shafts = s.shafts := rfl
@[simp] theorem State.modChan_events (i : Nat) (f : Channel → Channel) : (s.modChan i f).events = s.events := rfl
@[simp] theorem State.modChan_groups (i : Nat) (f : Channel → Channel) : (s.modChan i f).groups = s.groups := rfl
@[simp] theorem State.modChan_channels (i : Nat) (f : Channel → Channel) : (s.modChan i f).channels = vmod s.channels i f := rfl
@[simp] theorem State.modChan_ports (i : Nat) (f : Channel → Channel) : (s.modChan i f).ports = s.ports := rfl
@[simp] theorem State.modChan_cams (i : Nat) (f : Channel → Channel) : (s.modChan i f).cams = s.cams := rfl
@[simp] theorem State.modChan_jobs (i : Nat) (f : Channel → Channel) : (s.modChan i f).jobs = s.jobs := rfl
@[simp] theorem State.modChan_pend (i : Nat) (f : Channel → Channel) : (s.modChan i f).pend = s.pend := rfl
@[simp] theorem State.modChan_sets (i : Nat) (f : Channel → Channel) : (s.modChan i f).sets = s.sets := rfl
@[simp] theorem State.modChan_issues (i : Nat) (f : Channel → Channel) : (s.modChan i f).issues = s.issues := rfl
@[simp] theorem State.modChan_nextIssue (i : Nat) (f : Channel → Channel) : (s.modChan i f).nextIssue = s.nextIssue := rfl
@[simp] theorem State.modChan_chips (i : Nat) (f : Channel → Channel) : (s.modChan i f).chips = s.chips := rfl
@[simp] theorem State.modChan_slots (i : Nat) (f : Channel → Channel) : (s.modChan i f).slots = s.slots := rfl
@[simp] theorem State.modChan_tenants (i : Nat) (f : Channel → Channel) : (s.modChan i f).tenants = s.tenants := rfl
@[simp] theorem State.modChan_tokens (i : Nat) (f : Channel → Channel) : (s.modChan i f).tokens = s.tokens := rfl
@[simp] theorem State.modChan_learn (i : Nat) (f : Channel → Channel) : (s.modChan i f).learn = s.learn := rfl
@[simp] theorem State.modChan_parish (i : Nat) (f : Channel → Channel) : (s.modChan i f).parish = s.parish := rfl
@[simp] theorem State.modChan_faults (i : Nat) (f : Channel → Channel) : (s.modChan i f).faults = s.faults := rfl
@[simp] theorem State.modChan_store (i : Nat) (f : Channel → Channel) : (s.modChan i f).store = s.store := rfl
@[simp] theorem State.modChan_outputs (i : Nat) (f : Channel → Channel) : (s.modChan i f).outputs = s.outputs := rfl
@[simp] theorem State.modChan_loadFrom (i : Nat) (f : Channel → Channel) : (s.modChan i f).loadFrom = s.loadFrom := rfl

end

end Sys2Proof.Machine
end

