-- ==== Sys2Proof/Laws/Store.lean ====
section
/-! SUPPORT. Read after write for the plain containers: fixed-length vectors, keyed lists, byte memories and the dictionary, and
the canonical forms that their operations keep. -/

namespace Sys2Proof

variable {α : Type}

@[simp] theorem vget_vset_same [Inhabited α] {n i : Nat} (v : Vector α n) (x : α) (h : i < n) : vget (vset v i x) i = x := by
  simp [vget, vset, h]

@[simp] theorem vget_vset_ne [Inhabited α] {n i j : Nat} (v : Vector α n) (x : α) (h : i ≠ j) : vget (vset v i x) j = vget v j := by
  simp [vget, vset, Vector.getElem?_setIfInBounds_ne, h]

@[simp] theorem vget_vmod_same [Inhabited α] {n i : Nat} (v : Vector α n) (f : α → α) (h : i < n) :
    vget (vmod v i f) i = f (vget v i) := by simp [vmod, h]

@[simp] theorem vget_vmod_ne [Inhabited α] {n i j : Nat} (v : Vector α n) (f : α → α) (h : i ≠ j) :
    vget (vmod v i f) j = vget v j := by simp [vmod, h]

@[simp] theorem vget_replicate [Inhabited α] {n i : Nat} (x : α) (h : i < n) : vget (Vector.replicate n x) i = x := by
  simp [vget, h]

@[simp] theorem vget_map [Inhabited α] {n i : Nat} (v : Vector α n) (f : α → α) (h : i < n) : vget (v.map f) i = f (vget v i) := by
  simp [vget, h]

@[simp] theorem vget_ofFn [Inhabited α] {n i : Nat} (f : Fin n → α) (h : i < n) : vget (Vector.ofFn f) i = f ⟨i, h⟩ := by
  simp [vget, h]

namespace Machine

/-! ### Keyed lists -/

@[simp] theorem lookupKey_insertKey_same (k : Nat) (x : α) (l : List (Nat × α)) : lookupKey k (insertKey k x l) = some x := by
  induction l with
  | nil => simp [insertKey, lookupKey]
  | cons p r ih =>
    obtain ⟨j, y⟩ := p
    by_cases h1 : k < j
    · simp [insertKey, lookupKey, h1]
    · by_cases h2 : k = j
      · simp [insertKey, lookupKey, h2]
      · simp [insertKey, lookupKey, h1, h2, ih]

@[simp] theorem lookupKey_insertKey_ne {k j : Nat} (x : α) (l : List (Nat × α)) (h : j ≠ k) :
    lookupKey j (insertKey k x l) = lookupKey j l := by
  induction l with
  | nil => simp [insertKey, lookupKey, h]
  | cons p r ih =>
    obtain ⟨i, y⟩ := p
    by_cases h1 : k < i
    · simp [insertKey, lookupKey, h1, h]
    · by_cases h2 : k = i
      · subst h2
        simp [insertKey, lookupKey, h]
      · simp [insertKey, lookupKey, h1, h2, ih]

@[simp] theorem lookupKey_eraseKey_same (k : Nat) (l : List (Nat × α)) : lookupKey k (eraseKey k l) = none := by
  induction l with
  | nil => rfl
  | cons p r ih =>
    obtain ⟨j, y⟩ := p
    by_cases h : k = j
    · simp [eraseKey, h]; simpa [h] using ih
    · simp [eraseKey, lookupKey, h, ih]

@[simp] theorem lookupKey_eraseKey_ne {k j : Nat} (l : List (Nat × α)) (h : j ≠ k) :
    lookupKey j (eraseKey k l) = lookupKey j l := by
  induction l with
  | nil => rfl
  | cons p r ih =>
    obtain ⟨i, y⟩ := p
    by_cases h1 : k = i
    · subst h1
      simp [eraseKey, lookupKey, h, ih]
    · simp [eraseKey, lookupKey, h1, ih]

theorem sortedFrom_mono {a b : Nat} {l : List (Nat × α)} (h : a ≤ b) (hb : sortedFrom b l = true) : sortedFrom a l = true := by
  cases l with
  | nil => rfl
  | cons p r =>
    obtain ⟨k, y⟩ := p
    simp only [sortedFrom, Bool.and_eq_true, decide_eq_true_eq] at hb ⊢
    exact ⟨by omega, hb.2⟩

theorem sortedFrom_insertKey {lo k : Nat} {l : List (Nat × α)} (x : α) (hk : lo ≤ k) (h : sortedFrom lo l = true) :
    sortedFrom lo (insertKey k x l) = true := by
  induction l generalizing lo with
  | nil => simp [insertKey, sortedFrom, hk]
  | cons p r ih =>
    obtain ⟨j, y⟩ := p
    simp only [sortedFrom, Bool.and_eq_true, decide_eq_true_eq] at h
    by_cases h1 : k < j
    · simp only [insertKey, h1, if_true, sortedFrom, Bool.and_eq_true, decide_eq_true_eq]
      exact ⟨hk, by omega, h.2⟩
    · by_cases h2 : k = j
      · subst h2
        simp only [insertKey, h1, if_true, if_false, sortedFrom, Bool.and_eq_true, decide_eq_true_eq]
        exact ⟨hk, h.2⟩
      · simp only [insertKey, h1, h2, if_false, sortedFrom, Bool.and_eq_true, decide_eq_true_eq]
        exact ⟨h.1, ih (by omega) h.2⟩

theorem sortedFrom_eraseKey {lo k : Nat} {l : List (Nat × α)} (h : sortedFrom lo l = true) :
    sortedFrom lo (eraseKey k l) = true := by
  induction l generalizing lo with
  | nil => rfl
  | cons p r ih =>
    obtain ⟨j, y⟩ := p
    simp only [sortedFrom, Bool.and_eq_true, decide_eq_true_eq] at h
    by_cases h1 : k = j
    · simp only [eraseKey, h1, if_true]
      have := ih h.2
      rw [h1] at this
      exact sortedFrom_mono (by omega) this
    · simp only [eraseKey, h1, if_false, sortedFrom, Bool.and_eq_true, decide_eq_true_eq]
      exact ⟨h.1, ih h.2⟩

theorem sortedFrom_filter {lo : Nat} {l : List (Nat × α)} (p : Nat × α → Bool) (h : sortedFrom lo l = true) :
    sortedFrom lo (l.filter p) = true := by
  induction l generalizing lo with
  | nil => rfl
  | cons q r ih =>
    obtain ⟨j, y⟩ := q
    simp only [sortedFrom, Bool.and_eq_true, decide_eq_true_eq] at h
    by_cases hp : p (j, y) = true
    · simp only [List.filter_cons, hp, if_true, sortedFrom, Bool.and_eq_true, decide_eq_true_eq]
      exact ⟨h.1, ih h.2⟩
    · simp only [List.filter_cons, hp]
      exact sortedFrom_mono (by omega) (ih h.2)

theorem all_insertKey {k : Nat} {x : α} {l : List (Nat × α)} {p : Nat × α → Bool} (hx : p (k, x) = true) (h : l.all p = true) :
    (insertKey k x l).all p = true := by
  induction l with
  | nil => simp [insertKey, hx]
  | cons q r ih =>
    obtain ⟨j, y⟩ := q
    simp only [List.all_cons, Bool.and_eq_true] at h
    by_cases h1 : k < j
    · simp [insertKey, h1, hx, h.1, h.2]
    · by_cases h2 : k = j
      · subst h2
        simp only [insertKey, h1, if_true, if_false, List.all_cons, Bool.and_eq_true]
        exact ⟨hx, h.2⟩
      · simp only [insertKey, h1, h2, if_false, List.all_cons, Bool.and_eq_true]
        exact ⟨h.1, ih h.2⟩

theorem all_eraseKey {k : Nat} {l : List (Nat × α)} {p : Nat × α → Bool} (h : l.all p = true) : (eraseKey k l).all p = true := by
  induction l with
  | nil => rfl
  | cons q r ih =>
    obtain ⟨j, y⟩ := q
    simp only [List.all_cons, Bool.and_eq_true] at h
    by_cases h1 : k = j
    · simp only [eraseKey, h1, if_true]
      have := ih h.2
      rwa [h1] at this
    · simp only [eraseKey, h1, if_false, List.all_cons, Bool.and_eq_true]
      exact ⟨h.1, ih h.2⟩

theorem lookupKey_filter {p : Nat → Bool} {l : List (Nat × α)} (k : Nat) (hk : p k = true) :
    lookupKey k (l.filter (fun c => p c.1)) = lookupKey k l := by
  induction l with
  | nil => rfl
  | cons q r ih =>
    obtain ⟨j, y⟩ := q
    by_cases h1 : k = j
    · subst h1; simp [lookupKey, hk]
    · by_cases h2 : p j = true
      · simp [lookupKey, h1, h2, ih]
      · simp [lookupKey, h1, h2, ih]

theorem lookupKey_filter_none {p : Nat → Bool} {l : List (Nat × α)} (k : Nat) (hk : p k = false) :
    lookupKey k (l.filter (fun c => p c.1)) = none := by
  induction l with
  | nil => rfl
  | cons q r ih =>
    obtain ⟨j, y⟩ := q
    by_cases h1 : k = j
    · subst h1; simp [hk, ih]
    · by_cases h2 : p j = true
      · simp [lookupKey, h1, h2, ih]
      · simp [h2, ih]

/-! ### Byte memories -/

theorem memRead_memWrite_same (m : List Host.Cell) (a : Nat) (b : Byte) : memRead (memWrite m a b) a = b := by
  by_cases h : b = 0
  · simp [memRead, memWrite, h]
  · simp only [memRead, memWrite, h, if_false, lookupKey_insertKey_same, Option.getD_some]

theorem memRead_memWrite_ne (m : List Host.Cell) {a c : Nat} (b : Byte) (h : c ≠ a) :
    memRead (memWrite m a b) c = memRead m c := by
  by_cases hb : b = 0
  · simp [memRead, memWrite, hb, h]
  · simp only [memRead, memWrite, hb, if_false, lookupKey_insertKey_ne _ _ h]

theorem memWrite_wf {m : List Host.Cell} (a : Nat) (b : Byte) (h : Memory.wf m = true) : Memory.wf (memWrite m a b) = true := by
  simp only [Memory.wf, Bool.and_eq_true] at h ⊢
  by_cases hb : b = 0
  · simp only [memWrite, hb, if_true]
    exact ⟨sortedFrom_eraseKey h.1, all_eraseKey h.2⟩
  · simp only [memWrite, hb, if_false]
    exact ⟨sortedFrom_insertKey b (Nat.zero_le _) h.1, all_insertKey (by simpa using hb) h.2⟩

theorem memWriteN_wf {m : List Host.Cell} (a : Nat) (d : List Byte) (h : Memory.wf m = true) : Memory.wf (memWriteN m a d) = true := by
  induction d generalizing m a with
  | nil => exact h
  | cons b r ih => exact ih (a + 1) (memWrite_wf a b h)

theorem memClear_wf {m : List Host.Cell} (a n : Nat) (h : Memory.wf m = true) : Memory.wf (memClear m a n) = true := by
  simp only [Memory.wf, Bool.and_eq_true] at h ⊢
  refine ⟨sortedFrom_filter _ h.1, ?_⟩
  simp only [memClear, List.all_eq_true] at h ⊢
  exact fun c hc => h.2 c (List.mem_of_mem_filter hc)

theorem memRead_memWriteN_below (m : List Host.Cell) {a c : Nat} (d : List Byte) (h : c < a) :
    memRead (memWriteN m a d) c = memRead m c := by
  induction d generalizing m a with
  | nil => rfl
  | cons b r ih => rw [memWriteN, ih _ (by omega), memRead_memWrite_ne _ _ (by omega)]

theorem memRead_memWriteN_above (m : List Host.Cell) {a c : Nat} (d : List Byte) (h : a + d.length ≤ c) :
    memRead (memWriteN m a d) c = memRead m c := by
  induction d generalizing m a with
  | nil => rfl
  | cons b r ih =>
    simp only [List.length_cons] at h
    rw [memWriteN, ih _ (by omega), memRead_memWrite_ne _ _ (by omega)]

theorem memReadN_memWriteN (m : List Host.Cell) (a : Nat) (d : List Byte) : memReadN (memWriteN m a d) a d.length = d := by
  induction d generalizing m a with
  | nil => rfl
  | cons b r ih =>
    simp only [List.length_cons, memReadN, memWriteN, ih]
    rw [memRead_memWriteN_below _ _ (by omega), memRead_memWrite_same]

theorem memRead_memClear_in (m : List Host.Cell) {a n c : Nat} (h : a ≤ c ∧ c < a + n) : memRead (memClear m a n) c = 0 := by
  simp only [memRead, memClear]
  rw [lookupKey_filter_none (p := fun x => decide (x < a ∨ a + n ≤ x)) c (by simp; omega)]
  rfl

theorem memRead_memClear_out (m : List Host.Cell) {a n c : Nat} (h : c < a ∨ a + n ≤ c) :
    memRead (memClear m a n) c = memRead m c := by
  simp only [memRead, memClear]
  rw [lookupKey_filter (p := fun x => decide (x < a ∨ a + n ≤ x)) c (by simp; omega)]

/-! ### The dictionary -/

@[simp] theorem OdStore.get_set_same (m : OdStore) (i j : Nat) (v : OdVal) : (m.set i j v).get i j = v := by
  by_cases h : v = odKeyDefault (odKey i j) <;> simp [OdStore.get, OdStore.set, h]

theorem OdStore.get_set_ne (m : OdStore) {i j a b : Nat} (v : OdVal) (h : odKey a b ≠ odKey i j) :
    (m.set i j v).get a b = m.get a b := by
  by_cases hv : v = odKeyDefault (odKey i j) <;> simp [OdStore.get, OdStore.set, hv, h]

/-- Keys of sub-indices below 256 tell entries apart. -/
theorem odKey_ne {i j a b : Nat} (hj : j < 256) (hb : b < 256) (h : a ≠ i ∨ b ≠ j) : odKey a b ≠ odKey i j := by
  simp only [odKey]; omega

/-- The default of an entry's key is the entry's default. -/
theorem odKeyDefault_odKey {i j : Nat} (hj : j < 256) : odKeyDefault (odKey i j) = odDefault i j := by
  have e1 : odKey i j / 256 = i := by simp only [odKey]; omega
  have e2 : odKey i j % 256 = j := by simp only [odKey]; omega
  simp [odKeyDefault, e1, e2]

/-- An entry of which nothing is stored reads as its default. -/
theorem OdStore.get_nil {i j : Nat} (hj : j < 256) : OdStore.get [] i j = odDefault i j := by
  simp [OdStore.get, odKeyDefault_odKey hj, lookupKey]

theorem OdStore.wf_set {m : OdStore} (i j : Nat) (v : OdVal) (h : m.wf = true) : (m.set i j v).wf = true := by
  simp only [OdStore.wf, Bool.and_eq_true] at h ⊢
  by_cases hv : v = odKeyDefault (odKey i j)
  · simp only [OdStore.set, hv, if_true]
    exact ⟨sortedFrom_eraseKey h.1, all_eraseKey h.2⟩
  · simp only [OdStore.set, hv, if_false]
    exact ⟨sortedFrom_insertKey v (Nat.zero_le _) h.1, all_insertKey (by simpa using hv) h.2⟩

theorem OdStore.wf_filter {m : OdStore} (p : Nat × OdVal → Bool) (h : m.wf = true) : OdStore.wf (m.filter p) = true := by
  simp only [OdStore.wf, Bool.and_eq_true] at h ⊢
  refine ⟨sortedFrom_filter p h.1, ?_⟩
  simp only [List.all_eq_true] at h ⊢
  exact fun c hc => h.2 c (List.mem_filter.1 hc).1

theorem State.set_wf {s : State} (i j : Nat) (v : OdVal) (h : s.od.wf = true) : (s.set i j v).od.wf = true := OdStore.wf_set i j v h

theorem State.setNum_wf {s : State} (i j : Nat) (v : Int) (h : s.od.wf = true) : (s.setNum i j v).od.wf = true := OdStore.wf_set i j _ h

theorem State.setBytes_wf {s : State} (i j : Nat) (b : List Byte) (h : s.od.wf = true) : (s.setBytes i j b).od.wf = true :=
  OdStore.wf_set i j _ h

theorem State.add_wf {s : State} (i j n : Nat) (h : s.od.wf = true) : (s.add i j n).od.wf = true := OdStore.wf_set i j _ h

theorem State.clearObject_wf {s : State} (i : Nat) (h : s.od.wf = true) : (s.clearObject i).od.wf = true := OdStore.wf_filter _ h

@[simp] theorem State.get_set_same (s : State) (i j : Nat) (v : OdVal) : (s.set i j v).get i j = v := by
  simp [State.get]

theorem State.get_set_ne (s : State) {i j a b : Nat} (v : OdVal) (h : odKey a b ≠ odKey i j) : (s.set i j v).get a b = s.get a b := by
  simp [State.get, OdStore.get_set_ne _ v h]

@[simp] theorem State.num_setNum_same (s : State) (i j : Nat) (v : Int) : (s.setNum i j v).num i j = v := by
  simp [State.num, State.get]

@[simp] theorem State.nat_setNum_same (s : State) (i j n : Nat) : (s.setNum i j n).nat i j = n := by simp [State.nat]

theorem State.num_setNum_ne (s : State) {i j a b : Nat} (v : Int) (h : odKey a b ≠ odKey i j) : (s.setNum i j v).num a b = s.num a b := by
  simp [State.num, State.get, OdStore.get_set_ne _ _ h]

theorem State.nat_setNum_ne (s : State) {i j a b : Nat} (v : Int) (h : odKey a b ≠ odKey i j) : (s.setNum i j v).nat a b = s.nat a b := by
  simp [State.nat, State.num_setNum_ne s v h]

@[simp] theorem State.bytes_setBytes_same (s : State) (i j : Nat) (b : List Byte) : (s.setBytes i j b).bytes i j = b := by
  simp [State.bytes, State.get]

end Machine

end Sys2Proof
end

