-- ==== Sys2Proof/Laws/Ops.lean ====
section
/-! SUPPORT. What each operation that the meanings share does, once: entries, answers, refusals, records, emergencies and requests. -/

namespace Sys2Proof.Machine

/-! ### Frames -/

theorem Keeps.refl (l : List Piece) (s : State) : Keeps l s s := fun p _ => by cases p <;> rfl

theorem Piece.same_trans {r s t : State} {p : Piece} (h : p.same r s) (k : p.same s t) : p.same r t := by
  cases p <;> exact Eq.trans k h

/-- A list of pieces that lies within another. -/
def within (k l : List Piece) : Bool := k.all fun p => l.contains p

theorem not_mem_of_within {k l : List Piece} (h : within k l = true) {p : Piece} (hp : p ∉ l) : p ∉ k := fun hk =>
  hp (List.contains_iff_mem.mp (List.all_eq_true.mp h p hk))

/-- Frames chain: what keeps all but `k` after what keeps all but `l`, for `k` within `l`. -/
theorem Keeps.via {k l : List Piece} {r s t : State} (h2 : Keeps k s t) (hs : within k l = true) (h1 : Keeps l r s) : Keeps l r t :=
  fun p hp => Piece.same_trans (h1 p hp) (h2 p (not_mem_of_within hs hp))

theorem Keeps.foldl {l : List Piece} {r s : State} {α : Type} {f : State → α → State} {xs : List α}
    (hf : ∀ s x, Keeps l s (f s x)) (h : Keeps l r s) : Keeps l r (xs.foldl f s) := by
  induction xs generalizing s with
  | nil => exact h
  | cons x xs ih => exact ih (Keeps.via (hf s x) (by simp [within]) h)

theorem Keeps.forEach {l : List Piece} {r s : State} {n : Nat} {f : State → Nat → State}
    (hf : ∀ s x, Keeps l s (f s x)) (h : Keeps l r s) : Keeps l r (forEach n s f) := Keeps.foldl hf h

/-! ### Entries -/

theorem sameEntries.refl (p : Nat → Bool) (s : State) : sameEntries p s s := fun _ _ _ _ => rfl

theorem sameEntries.trans {p : Nat → Bool} {r s t : State} (h : sameEntries p r s) (k : sameEntries p s t) : sameEntries p r t :=
  fun i j hj hp => (k i j hj hp).trans (h i j hj hp)

theorem sameEntries.of_od {p : Nat → Bool} {s t : State} (h : t.od = s.od) : sameEntries p s t := fun i j _ _ => by
  simp [State.get, h]

theorem State.set_same (s : State) {i j : Nat} (v : OdVal) {p : Nat → Bool} (hj : j < 256) (hp : p i = true) :
    sameEntries p s (s.set i j v) := fun a b hb ha => State.get_set_ne s v (odKey_ne hj hb (Or.inl (by
  intro h; rw [h] at ha; simp [ha] at hp)))

theorem State.add_same (s : State) {i j n : Nat} {p : Nat → Bool} (hj : j < 256) (hp : p i = true) :
    sameEntries p s (s.add i j n) := State.set_same s _ hj hp

@[simp] theorem State.add_faults (s : State) (i j n : Nat) : (s.add i j n).faults = s.faults := rfl
@[simp] theorem State.add_boot (s : State) (i j n : Nat) : (s.add i j n).boot = s.boot := rfl
@[simp] theorem State.add_mail (s : State) (i j n : Nat) : (s.add i j n).mail = s.mail := rfl

theorem State.add_keeps (s : State) (i j n : Nat) : Keeps [.od] s (s.add i j n) := fun p hp => by
  cases p <;> first | exact absurd (by decide) hp | rfl

/-! ### Records and emergencies (R428, R459, R500, R544) -/

/-- A record put into the ring is the newest; at 4 096 records the oldest goes (R428). -/
theorem State.pushLog_faults (s : State) (r : Record) : (s.pushLog r).faults =
    { s.faults with log := (if 4096 ≤ s.faults.log.length then s.faults.log.drop 1 else s.faults.log) ++ [r], last := some r } := by
  unfold State.pushLog
  by_cases h : 4096 ≤ s.faults.log.length <;> simp [h, State.bump]

theorem State.pushLog_keeps (s : State) (r : Record) : Keeps [.od, .faults] s (s.pushLog r) := fun p hp => by
  unfold State.pushLog
  by_cases h : 4096 ≤ s.faults.log.length <;> cases p <;>
    first | exact absurd (by decide) hp | simp [h, State.bump, State.add, State.setNum, State.set, Piece.same]

theorem State.pushLog_same (s : State) (r : Record) : sameEntries (fun i => decide (i = 0x2400)) s (s.pushLog r) := by
  unfold State.pushLog
  by_cases h : 4096 ≤ s.faults.log.length
  · simp only [h, decide_true, if_true]
    exact sameEntries.trans (State.add_same s (by decide) (by decide))
      (sameEntries.trans (sameEntries.of_od rfl) (State.add_same _ (by decide) (by decide)))
  · simp only [h, decide_false]
    exact sameEntries.trans (sameEntries.of_od rfl) (State.add_same _ (by decide) (by decide))

theorem State.writeRecord_keeps (s : State) (r : Record) : Keeps [.od, .boot, .faults] s (s.writeRecord r) := by
  unfold State.writeRecord
  split
  · exact Keeps.via (State.pushLog_keeps s r) (by decide) (Keeps.refl _ _)
  · split
    · exact fun p hp => by cases p <;> first | exact absurd (by decide) hp | rfl
    · exact Keeps.via (State.add_keeps s 0x2400 5 1) (by decide) (Keeps.refl _ _)

theorem State.writeRecord_same (s : State) (r : Record) : sameEntries (fun i => decide (i = 0x2400)) s (s.writeRecord r) := by
  unfold State.writeRecord
  split
  · exact State.pushLog_same s r
  · split
    · exact sameEntries.of_od rfl
    · exact State.add_same s (by decide) (by decide)

theorem State.emergencyOn_keeps (s : State) (n : Net) (e : Emergency) : Keeps [.mail] s (s.emergencyOn n e) := by
  unfold State.emergencyOn
  dsimp only
  repeat' split
  all_goals first | exact Keeps.refl _ _ | exact fun p hp => by cases p <;> first | exact absurd (by decide) hp | rfl

theorem State.emergency_keeps (s : State) (a b c d : Nat) : Keeps [.mail] s (s.emergency a b c d) :=
  Keeps.via (State.emergencyOn_keeps _ _ _) (by decide) (State.emergencyOn_keeps _ _ _)

/-- A record touches the log, its counters, what Reeve holds, and the emergencies sent. -/
theorem State.post_keeps (s : State) (r : Record) : Keeps [.od, .boot, .mail, .faults] s (s.post r) := by
  unfold State.post
  dsimp only
  split
  · exact Keeps.via (State.emergency_keeps _ _ _ _ _) (by decide)
      (Keeps.via (State.writeRecord_keeps s r) (by decide) (Keeps.refl _ _))
  · exact Keeps.via (State.writeRecord_keeps s r) (by decide) (Keeps.refl _ _)

theorem State.raise_keeps (s : State) (a b c d : Nat) : Keeps [.od, .boot, .mail, .faults] s (s.raise a b c d) :=
  State.post_keeps s _

@[simp] theorem State.emergency_faults (s : State) (a b c d : Nat) : (s.emergency a b c d).faults = s.faults :=
  State.emergency_keeps s a b c d .faults (by decide)
@[simp] theorem State.emergency_od (s : State) (a b c d : Nat) : (s.emergency a b c d).od = s.od :=
  State.emergency_keeps s a b c d .od (by decide)
@[simp] theorem State.emergency_boot (s : State) (a b c d : Nat) : (s.emergency a b c d).boot = s.boot :=
  State.emergency_keeps s a b c d .boot (by decide)

theorem State.post_faults (s : State) (r : Record) : (s.post r).faults = (s.writeRecord r).faults := by
  unfold State.post; dsimp only; split <;> simp

theorem State.post_boot (s : State) (r : Record) : (s.post r).boot = (s.writeRecord r).boot := by
  unfold State.post; dsimp only; split <;> simp

theorem State.post_od (s : State) (r : Record) : (s.post r).od = (s.writeRecord r).od := by
  unfold State.post; dsimp only; split <;> simp

/-- Once the fault log stands in the Storehouse, a record becomes its newest entry (R428). -/
theorem State.post_placed (s : State) (r : Record) (h : s.store.logPlaced = true) : (s.post r).faults =
    { s.faults with log := (if 4096 ≤ s.faults.log.length then s.faults.log.drop 1 else s.faults.log) ++ [r], last := some r } := by
  rw [State.post_faults, State.writeRecord, h, if_pos rfl, State.pushLog_faults]

/-- Before that, Reeve holds it (R500). -/
theorem State.post_unplaced (s : State) (r : Record) (h : s.store.logPlaced = false) (k : s.boot.held.length < 256) :
    (s.post r).boot = { s.boot with held := s.boot.held ++ [r] } ∧ (s.post r).faults = s.faults := by
  rw [State.post_faults, State.post_boot, State.writeRecord, h, if_neg (by decide), if_pos k]
  exact ⟨rfl, rfl⟩

/-- Of the dictionary, a record changes the counters of OD 0x2400 alone. -/
theorem State.post_same (s : State) (r : Record) : sameEntries (fun i => decide (i = 0x2400)) s (s.post r) :=
  fun i j hj hp => (congrArg (fun o => OdStore.get o i j) (State.post_od s r)).trans (State.writeRecord_same s r i j hj hp)

/-- A change of the tray state: the state, and the record of R42. -/
theorem State.enter_keeps (s : State) (d : TrayState) : Keeps [.od, .tray, .boot, .mail, .faults] s (s.enter d) :=
  Keeps.via (State.post_keeps _ _) (by decide) (fun p hp => by cases p <;> first | exact absurd (by decide) hp | rfl)

@[simp] theorem State.post_tray (s : State) (r : Record) : (s.post r).tray = s.tray := State.post_keeps s r .tray (by decide)
@[simp] theorem State.raise_tray (s : State) (a b c d : Nat) : (s.raise a b c d).tray = s.tray := State.post_tray s _
@[simp] theorem State.enter_tray (s : State) (d : TrayState) : (s.enter d).tray = d := by simp [State.enter]
@[simp] theorem State.post_power (s : State) (r : Record) : (s.post r).power = s.power := State.post_keeps s r .power (by decide)
@[simp] theorem State.raise_power (s : State) (a b c d : Nat) : (s.raise a b c d).power = s.power := State.post_power s _
@[simp] theorem State.post_store (s : State) (r : Record) : (s.post r).store = s.store := State.post_keeps s r .store (by decide)
@[simp] theorem State.raise_store (s : State) (a b c d : Nat) : (s.raise a b c d).store = s.store := State.post_store s _
@[simp] theorem State.post_chips (s : State) (r : Record) : (s.post r).chips = s.chips := State.post_keeps s r .chips (by decide)
@[simp] theorem State.raise_chips (s : State) (a b c d : Nat) : (s.raise a b c d).chips = s.chips := State.post_chips s _
@[simp] theorem State.post_shafts (s : State) (r : Record) : (s.post r).shafts = s.shafts := State.post_keeps s r .shafts (by decide)
@[simp] theorem State.raise_shafts (s : State) (a b c d : Nat) : (s.raise a b c d).shafts = s.shafts := State.post_shafts s _

/-! ### Requests (R301, R435, R439, Table 14.1) -/

theorem State.touch_keeps (s : State) (n : Net) : Keeps [.mail] s (s.touch n) := fun p hp => by
  cases p <;> first | exact absurd (by decide) hp | rfl

theorem State.abandonXfer_keeps (s : State) (n : Net) : Keeps [.mail, .slots] s (s.abandonXfer n) := by
  unfold State.abandonXfer
  split
  · exact Keeps.refl _ _
  · dsimp only
    split <;> exact fun p hp => by cases p <;> first | exact absurd (by decide) hp | rfl

/-- What a request does before it is judged. -/
theorem State.asked_keeps (s : State) (n : Net) : Keeps [.mail, .slots] s (s.asked n) :=
  Keeps.via (State.abandonXfer_keeps _ n) (by decide) (Keeps.via (State.touch_keeps s n) (by decide) (Keeps.refl _ _))

@[simp] theorem State.asked_od (s : State) (n : Net) : (s.asked n).od = s.od := State.asked_keeps s n .od (by decide)
@[simp] theorem State.asked_get (s : State) (n : Net) (i j : Nat) : (s.asked n).get i j = s.get i j := by simp [State.get]
@[simp] theorem State.asked_num (s : State) (n : Net) (i j : Nat) : (s.asked n).num i j = s.num i j := by simp [State.num]
@[simp] theorem State.asked_nat (s : State) (n : Net) (i j : Nat) : (s.asked n).nat i j = s.nat i j := by simp [State.nat]

theorem State.answer_keeps (s : State) (n : Net) (a : Answer) : Keeps [.mail] s (s.answer n a) := fun p hp => by
  cases p <;> first | exact absurd (by decide) hp | rfl

theorem Net.num_lt (n : Net) : n.num < 2 := by cases n <;> decide

@[simp] theorem State.answer_box (s : State) (n : Net) (a : Answer) : (s.answer n a).box n = { s.box n with answer := a } := by
  exact vget_vmod_same _ _ (Net.num_lt n)

@[simp] theorem State.answer_box_other (s : State) (n : Net) (a : Answer) : (s.answer n a).box n.other = s.box n.other := by
  cases n <;> simp [State.answer, State.box, State.modBox, Net.num, Net.other]

@[simp] theorem State.answer_od (s : State) (n : Net) (a : Answer) : (s.answer n a).od = s.od := rfl

/-- An accepted write has its effect on the state in which the request was judged, and is answered. -/
theorem State.write_accepted {s : State} {n : Net} {i j : Nat} {d : List Byte} {c : State → Option Deny} (f : State → State)
    (h : s.accepts n i j d c) : s.write n i j d c f = (f (s.asked n)).answer n .ok := by
  obtain ⟨h1, h2⟩ := h
  simp only [State.asked] at h2
  simp only [State.write, State.serve, h1, if_true, h2, State.asked]

/-- A refused write changes nothing but what a refusal shows. -/
theorem State.write_rejected {s : State} {n : Net} {i j : Nat} {d : List Byte} {c : State → Option Deny} (f : State → State) {x : Deny}
    (h : s.rejects n i j d c x) : s.write n i j d c f = (s.asked n).refuse n x := by
  obtain ⟨h1, h2⟩ := h
  simp only [State.asked] at h2
  simp only [State.write, State.serve, h1, if_true, h2, State.asked]

/-- A network that serves no requests leaves a write without effect. -/
theorem State.write_unserved {s : State} {n : Net} {i j : Nat} {d : List Byte} {c : State → Option Deny} (f : State → State)
    (h : s.serves n = false) : s.write n i j d c f = s := by
  simp [State.write, State.serve, h]

/-- A refusal answers with its abort, shows itself in OD 0x2401, and changes the log and the emergencies where it names a record. -/
theorem State.refuse_keeps (s : State) (n : Net) (d : Deny) : Keeps [.od, .boot, .mail, .faults] s (s.refuse n d) := by
  unfold State.refuse
  cases d.record with
  | none => exact fun p hp => by cases p <;> first | exact absurd (by decide) hp | rfl
  | some r =>
    refine Keeps.via (State.answer_keeps _ n _) (by decide) (Keeps.via (k := [.faults]) ?_ (by decide) (State.post_keeps s r))
    exact fun p hp => by cases p <;> first | exact absurd (by decide) hp | rfl

theorem State.refuse_answer (s : State) (n : Net) (d : Deny) : ((s.refuse n d).box n).answer = .abort d.abort := by
  unfold State.refuse; simp

theorem State.refuse_shown (s : State) (n : Net) (d : Deny) : (s.refuse n d).faults.refusal =
    ⟨d.code, d.record, d.index, d.sub, d.word, d.bits, d.value % 2 ^ 32, d.abort, n.num⟩ := by
  unfold State.refuse; cases h : d.record <;> simp [State.showRefusal, State.answer, State.modBox, h]

end Sys2Proof.Machine
end

