-- ==== Sys2Proof/WellFormed.lean ====
section
/-! DEFINITION. Which commands can be told apart at the tray's boundary: every operand inside the range that the spec
gives the unit or the entry it names. -/

namespace Sys2Proof

/-- Angle events 0 to 15 of tenants 0 to 15 (R84) and the triggers of cameras 0 and 1 (R121). -/
def EvRef.wf : EvRef → Bool
  | .tenant t e => decide (t < 16) && decide (e < 16)
  | .camera k => decide (k < 2)

/-- The units of Table 17.2 that a test may name; tile 8 is the spare tile. -/
def UnitRef.wf : UnitRef → Bool
  | .tile c k t => decide (c < 16) && decide (k < 8) && decide (t < 9)
  | .accBank c k b => decide (c < 16) && decide (k < 8) && decide (b < 16)
  | .commonsBank c k b => decide (c < 16) && decide (k < 8) && decide (b < 2)
  | .smithy c => decide (c < 16)
  | .bellwether c => decide (c < 16)
  | .granaryRow c b r => decide (c < 16) && decide (b < 64) && decide (r < 16384)
  | .loftBank c b => decide (c < 16) && decide (b < 32)
  | .byway c a => decide (c < 16) && decide (a < 2)
  | .pcie c => decide (c < 16)
  | .page p => decide (p < 8388608)
  | .reserve p => decide (p < 16384)

/-- The fields of R156 and the banks of a cluster. -/
def Upset.wf : Upset → Bool
  | .millResidue t c p w => decide (t < 9) && decide (c < 16) && decide (p < 8) && decide (w < 2)
  | .accResidue e => decide (e < 1024)
  | .epochTag e => decide (e < 16)
  | .commonsEntry b => decide (b < 2)
  | .commonsSlice b => decide (b < 2)
  | _ => true

/-- Ferry ports 0 and 1, trays 0 to 63, and the widths of Table 11.2. -/
def MootHdr.wf (h : MootHdr) : Bool :=
  decide (h.port < 2) && decide (h.src < 64) && decide (h.seq < 2 ^ 32) && decide (h.ack < 2 ^ 32)
    && decide (h.step < 2 ^ 64)

/-- The widths of Table 11.3. -/
def MootPre.wf (p : MootPre) : Bool :=
  decide (p.layer < 2 ^ 16) && decide (p.shard < 2 ^ 16) && decide (p.replica < 256) && decide (p.offset < 2 ^ 32)
    && decide (p.total < 2 ^ 32)

/-- Every operand of a command lies in the range of the unit or entry that it names. -/
def Instr.WellFormed : Instr → Bool
  | .supplyStart => true
  | .railsRise => true
  | .bootRomStart => true
  | .firmwareImageVerify => true
  | .firmwareStart => true
  | .valuesLoaded => true
  | .selfTestStart => true
  | .storehouseInitComplete => true
  | .chipRailsUp => true
  | .linksTrained => true
  | .chipClearComplete region => (match region with | some (c, l) => decide (c < 16 ∧ l < 256) | none => true)
  | .faultLogPlaced => true
  | .selfTestEnd => true
  | .trialBootTimeout => true
  | .startWatching _ => true
  | .stop _ => true
  | .startLearning _ => true
  | .stopLearning _ => true
  | .pendingCommandEffect => true
  | .enterService _ => true
  | .leaveService _ => true
  | .clearSafeHold _ => true
  | .restart _ => true
  | .trayCommandUnknown _ _ => true
  | .reeveWatchdog => true
  | .lockstepMismatch => true
  | .spareMapWrite _ _ => true
  | .tierBoundsWrite _ sub _ => decide (sub < 256)
  | .tierStepComplete chip => decide (chip < 16)
  | .downwardTierStart chip => decide (chip < 16)
  | .fallowReloadComplete chip => decide (chip < 16)
  | .bellwetherCheckComplete chip _ => decide (chip < 16)
  | .escRequestInit => true
  | .escRequestPreop => true
  | .escRequestSafeop => true
  | .escRequestOp => true
  | .escRequestBoot => true
  | .nmtStartRemote => true
  | .nmtStop => true
  | .nmtEnterPreop => true
  | .nmtResetNode => true
  | .nmtResetCommunication => true
  | .shaftConfigWrite _ shaft sub _ => decide (shaft < 4) && decide (sub < 256)
  | .countedEdge shaft _ _ _ => decide (shaft < 4)
  | .noGoodReference shaft => decide (shaft < 4)
  | .illegalTransition shaft _ _ => decide (shaft < 4)
  | .encoderPairFault shaft _ => decide (shaft < 4)
  | .encoderInputReturn shaft _ => decide (shaft < 4)
  | .inputLossExtrapolationEnd shaft => decide (shaft < 4)
  | .standstillTimeout shaft => decide (shaft < 4)
  | .eventHoldRelease ev => ev.wf
  | .timeSubstituteFire ev => ev.wf
  | .angleEventEnable _ t e => decide (t < 16) && decide (e < 16)
  | .angleEventDisable _ t e => decide (t < 16) && decide (e < 16)
  | .angleMessageSend chip shaft => decide (chip < 16) && decide (shaft < 4)
  | .angleMessageReceive chip _ => decide (chip < 16)
  | .mirrorStale chip => decide (chip < 16)
  | .mirrorStaleFault chip => decide (chip < 16)
  | .tdmFrameReceive port slots _ => decide (port < 2) && decide (slots.length ≤ 8) && slots.all (fun w => decide (w < 2 ^ 32))
  | .tdmClockLoss port => decide (port < 2)
  | .tdmRateMeasurement port _ => decide (port < 2)
  | .resamplerFrameComplete group => decide (group < 8)
  | .stripTransferComplete chip => decide (chip < 16)
  | .cameraResetRelease cam => decide (cam < 2)
  | .cciSetupSend cam _ => decide (cam < 2)
  | .triggerPulseEnd cam => decide (cam < 2)
  | .csiFrameStart cam vc => decide (cam < 2) && decide (vc < 4)
  | .csiLongPacket cam vc dt _ _ _ => decide (cam < 2) && decide (vc < 4) && decide (dt < 64)
  | .csiFrameEnd cam vc => decide (cam < 2) && decide (vc < 4)
  | .captureTimeout cam => decide (cam < 2)
  | .jobEnable _ t j => decide (t < 16) && decide (j < 15)
  | .jobDisable _ t j => decide (t < 16) && decide (j < 15)
  | .pendingIssue t => decide (t < 16)
  | .speculativeIssue t j => decide (t < 16) && decide (j < 15)
  | .descriptorIssue chip _ => decide (chip < 16)
  | .bankRoundComplete chip cluster bank upset => decide (chip < 16) && decide (cluster < 8) && decide (bank < 16) && upset.wf
  | .descriptorComplete chip engine upset => decide (chip < 16) && decide (1 ≤ engine) && decide (engine < 4) && upset.wf
  | .handOffArrive _ _ => true
  | .wakeJobComplete _ => true
  | .wakeHoldOverLapse t j => decide (t < 16) && decide (j < 15)
  | .jobComplete _ => true
  | .modelImageLoadComplete chip slot => decide (chip < 16) && decide (slot < 256)
  | .weightPieceArrive chip _ => decide (chip < 16)
  | .tenantCreate _ t => decide (t < 16)
  | .tenantSuspend _ t => decide (t < 16)
  | .tenantResume _ t => decide (t < 16)
  | .tenantDelete _ t => decide (t < 16)
  | .quotaWrite _ t sub _ => decide (t < 16) && decide (sub < 256)
  | .publicKeyWrite _ t _ => decide (t < 16)
  | .challengeRead _ t => decide (t < 16)
  | .challengeExpiry _ t => decide (t < 16)
  | .authResponseWrite _ t _ => decide (t < 16)
  | .authLockEnd t => decide (t < 16)
  | .endSession _ t _ => decide (t < 16)
  | .sessionIdleTimeout _ => true
  | .bundleKeyWrite _ t _ => decide (t < 16)
  | .bundleDownloadComplete slot => decide (slot < 256)
  | .slotAdmit _ slot => decide (slot < 256)
  | .admissionComplete slot => decide (slot < 256)
  | .slotEvict _ slot => decide (slot < 256)
  | .slotMakeResident _ slot => decide (slot < 256)
  | .slotMakeNonResident _ slot => decide (slot < 256)
  | .slotDiscardStaged _ slot => decide (slot < 256)
  | .sessionOpen _ i => decide (i < 8)
  | .sessionGenerate _ i => decide (i < 8)
  | .sessionStop _ i => decide (i < 8)
  | .sessionResetContext _ i => decide (i < 8)
  | .sessionClose _ i => decide (i < 8)
  | .tokenStepIssue slot _ => decide (slot < 256)
  | .tokenStepComplete _ => true
  | .labelWrite _ sub _ => decide (sub < 256)
  | .gradientPartFold _ _ => true
  | .parishEnable _ => true
  | .helloSend => true
  | .helloReceive hdr _ _ _ => hdr.wf
  | .heartbeatSend => true
  | .heartbeatReceive hdr _ _ _ _ _ _ _ _ => hdr.wf
  | .peerHealthTimeout peer => decide (peer < 64)
  | .leaderRecovery => true
  | .seatFillTimeout => true
  | .ferryLinkChange port _ _ _ => decide (port < 2)
  | .mootFrameReject port _ => decide (port < 2)
  | .ackReceive hdr _ => hdr.wf
  | .ackTimer peer => decide (peer < 64)
  | .mootRetransmitTimer peer _ => decide (peer < 64)
  | .bidReceive hdr => hdr.wf
  | .startReceive hdr seatMap _ _ => hdr.wf && decide (seatMap.length = 64)
  | .partReceive hdr pre _ => hdr.wf && pre.wf
  | .fuseReceive hdr _ => hdr.wf
  | .decideReceive hdr _ => hdr.wf
  | .shadowReceive hdr pre _ => hdr.wf && pre.wf
  | .readyReceive hdr _ => hdr.wf
  | .commitReceive hdr => hdr.wf
  | .rollbackReceive hdr _ seatMap => hdr.wf && decide (seatMap.length = 64)
  | .abortReceive hdr _ => hdr.wf
  | .adoptReceive hdr _ => hdr.wf
  | .rowsReceive hdr pre _ => hdr.wf && pre.wf
  | .restoreReceive hdr pre _ => hdr.wf && pre.wf
  | .ckptReceive hdr pre _ => hdr.wf && pre.wf
  | .ckptDoneReceive hdr => hdr.wf
  | .stepTimeout => true
  | .replayStart _ _ => true
  | .replayReceive hdr _ _ _ _ => hdr.wf
  | .replayComplete _ => true
  | .targetedTestComplete u _ => u.wf
  | .wholeChipTestComplete chip bad => decide (chip < 16) && bad.all UnitRef.wf
  | .spareLoadComplete chip => decide (chip < 16)
  | .granaryEccError chip bank row _ _ => decide (chip < 16) && decide (bank < 64) && decide (row < 16384)
  | .loftEccError chip bank word _ _ => decide (chip < 16) && decide (bank < 32) && decide (word < 8192)
  | .storehouseEccError page _ _ => decide (page < 8388608)
  | .storehouseErrorQuiet => true
  | .bywayFlitError chip axis _ => decide (chip < 16) && decide (axis < 2)
  | .pcieLinkError chip _ => decide (chip < 16)
  | .bywayHandoffTimer chip axis _ _ => decide (chip < 16) && decide (axis < 2)
  | .pcieDmaTimer chip _ _ => decide (chip < 16)
  | .almanacRelock chip => decide (chip < 16)
  | .marginTuningStart chip cluster => decide (chip < 16) && decide (cluster < 8)
  | .marginTuningForce chip cluster => decide (chip < 16) && decide (cluster < 8)
  | .marginTuningComplete chip cluster trim => decide (chip < 16) && decide (cluster < 8) && (match trim with | some v => decide (-25 ≤ v ∧ v ≤ 25 ∧ v % 5 = 0) | none => true)
  | .commonsSelfCheck chip cluster bank _ => decide (chip < 16) && decide (cluster < 8) && decide (bank < 2)
  | .telemetrySample chip _ => decide (chip < 16)
  | .faultLogClear _ _ => true
  | .controllingNetworkWrite _ _ => true
  | .odWrite _ index sub _ => decide (index < 65536) && decide (sub < 256)
  | .completeAccessWrite _ index _ => decide (index < 65536)
  | .sdoInitiate _ _ index sub _ => decide (index < 65536) && decide (sub < 256)
  | .sdoSegment _ _ _ _ => true
  | .sdoSegmentTimeout _ => true
  | .foeBundleWrite slot _ => decide (slot < 1000)
  | .firmwareDownloadComplete _ _ => true
  | .pdoMappingWrite _ index sub _ => decide (index < 65536) && decide (sub < 256)
  | .tpdoCommWrite _ index sub _ => decide (index < 65536) && decide (sub < 256)
  | .rxpdoReceive _ mapping _ => decide (mapping < 16)
  | .txpdoLatch _ => true
  | .tpdoInhibitExpiry i => decide (i < 32)
  | .tpdoEventTimer i => decide (i < 32)
  | .canSyncReceive => true
  | .sm2WatchdogExpiry => true
  | .sync0Loss => true
  | .ethercatLinkLoss => true
  | .canHeartbeatProduce => true
  | .heartbeatConsumerReceive node => decide (node < 128)
  | .heartbeatConsumerTimeout => true
  | .canBusOff => true
  | .canBusOffRecovery => true
  | .storeParameters _ sub _ => decide (sub < 256)
  | .restoreDefaults _ sub _ => decide (sub < 256)
  | .outputSetEnable _ t o => decide (t < 16) && decide (o < 16)
  | .outputSetDisable _ t o => decide (t < 16) && decide (o < 16)
  | .digitalOutputOverload i => decide (i < 4)
  | .digitalOutputRetry i _ => decide (i < 4)
  | .doSupplyLoss => true
  | .doSupplyReturn => true
  | .externalSupplyTrip connector => decide (5 ≤ connector) && decide (connector < 15)
  | .externalSupplyRetry connector _ => decide (5 ≤ connector) && decide (connector < 15)
  | .plateTemperatureSample _ dies _ => decide (dies.length = 16)
  | .supplyOutOfRange _ => true
  | .supplyEpisodeEnd => true
  | .overvoltageDisconnect => true
  | .railFault rail chip => decide (1 ≤ rail) && decide (rail < 10) && decide (chip < 16)
  | .powerFailWarning => true
  | .powerFailRecordWritten _ => true
  | .debugChallengeRead => true
  | .debugUnlock _ => true
  | .fuseProvision item _ => decide (5 ≤ item) && decide (item < 9)
  | .interpolationUpdate _ => true
  | .downwardTierComplete chip => decide (chip < 16)
  | .gleanerScrubAccess chip loft bank _ => decide (chip < 16) && decide (bank < (if loft then 32 else 64))
  | .storehousePatrolScrub reserve page _ => decide (page < (if reserve then 16384 else 8388608))
  | .inputSwitchClose => true
  | .chipRailCycleComplete chip => decide (chip < 16)
  | .foeFirmwareWrite _ => true
  | .canErrorStateChange _ => true
  | .checkpointOfRecordWritten => true
  | .neighborDiscoveryReceive port peer _ => decide (port < 2) && decide (peer < 64)

end Sys2Proof
end

