-- ==== Sys2Proof/Tests/Slice0.lean ====
section
/-! SUPPORT. The model's own tests: the ill-formed commands that the check refuses, what commands do on small states, and for each
statement a state and operands that meet the hypotheses of each of its clauses. -/

namespace Sys2Proof.Tests
set_option Elab.async false
open Sys2Proof Machine

/-! ### Helpers for small states -/

/-- A state with some numeric entries of its dictionary set: index, sub-index, value. -/
def put (s : State) (l : List (Nat × Nat × Int)) : State := l.foldl (fun s e => s.setNum e.1 e.2.1 e.2.2) s

/-- Both mailboxes with a session of tenant `t`, and nothing else. -/
def boxes (t : Nat) : Vector Mail 2 := Vector.replicate 2 { session := some ⟨t, 9000000000⟩ }

/-- A tray some hours after its start, in the state given, with both networks up and a session of tenant 0 on each. -/
def up (x : TrayState) : State :=
  { State.reset with
    tray := x, timebase := 1000000000000, mail := boxes 0,
    power := { step := 15, inputClosed := true, rails := 8 },
    ecat := { al := .preop }, can := { nmt := .preop }, store := { zeroed := true, logPlaced := true } }

/-- The same tray in ready. -/
def w : State := up .ready

/-- A tray that starts up, after step `n` of Table 15.4. -/
def starting (n : Nat) : State :=
  { State.reset with
    tray := if n < 6 then .boot else .selfTest, timebase := 1000000000000,
    power := { step := n, inputClosed := true, rails := 8 } }

/-- `w` with chip 3 changed. -/
def chip3 (f : Chip → Chip) : State := w.modChip 3 f

/-- Chip 3 of a state, powered at the tier Vigil (3). -/
def rail3 (s : State) (f : Chip → Chip) : State := s.modChip 3 (fun x => f { x with railsOn := true, tier := 3, bellOk := true })

/-- A level of an input, held for long. -/
def lev (b : Bool) : Level := ⟨b, 1000000⟩

/-- A shaft of `s` changed. -/
def shaft0 (s : State) (f : Shaft → Shaft) : State := s.setShaft 0 (f (s.shaft 0))

/-- `w` with shaft 0 an encoder of 100 counts. -/
def turning : State := put w [(0x2200, 1, 1), (0x2200, 2, 100)]

/-- The same in watching, with channel 0 enabled. -/
def hearing : State := put (up .watching) [(0x2200, 1, 1), (0x2200, 2, 100), (0x2300, 1, 1)]

/-- A frame of a group under way. -/
def frameRun : FrameRun := ⟨0, 1, 0, 1, 0, 0, 0, 0, false, none, 0⟩

/-- A capture of a camera under way. -/
def capture : Capture := ⟨0, 1, 0, 0, 1000000000000, 1000000000000, 0, false, 0, []⟩

/-- The only descriptor of a chain, of an op on an engine, with word 2 and its check. -/
def descOf (op engine shape : Nat) : List Byte :=
  let b := leBytes 4 (2 ^ 26 * op + 2 ^ 24 * engine) ++ leBytes 4 0 ++ leBytes 4 shape ++ List.replicate 16 0#8 ++ leBytes 4 (2 ^ 31 + 2 ^ 28) ++ List.replicate 30 0#8
  b ++ leBytes 2 (crc16 b)

/-- A descriptor of words 0 to 14, with its tags and check. -/
def wordsOf (l : List Nat) : List Byte :=
  let b := l.flatMap (leBytes 4) ++ leBytes 2 0
  b ++ leBytes 2 (crc16 b)

/-- A model of one partition on chip 3, whose image is that descriptor. -/
def tiny (op engine : Nat) : Model where
  bundle := []
  learnable := false
  placed := [⟨3, 64, 0⟩]
  variant := { number := 0, p := 1, chain := false, kvBytes := 0, vocab := 0, batch := 1, stopToken := 0, handOffs := [], learn := [],
               parts := [⟨64, 64, 0, 0, 1, 1, 0, 0, descOf op engine 0, [], []⟩], entries := [[⟨0, 0, 0, [1]⟩]] }

/-- Its chain on chip 3, loaded, with what has been issued of it. -/
def prun (d : List DescRun) : PartRun := ⟨0, 3, some 0, d, some 0, false, 0, true, false, false, 0⟩

/-- The run of a single pass of engine 0 whose one unit a round has taken, and of a descriptor of engine 1. -/
def mrun : DescRun := { idx := 0, engine := 0, units := 1, taken := 1, fin := 0, started := true, complete := false }
def erun : DescRun := { idx := 0, engine := 1, units := 0, taken := 0, fin := 0, started := true, complete := false }

/-- The round of that unit. -/
def rnd : Round := { issue := 0, part := 0, ord := 0, firstUnit := 0, units := 1, spec := false, commons := false }

/-- Issue 0, of job 0 of tenant 0 on slot 0. -/
def issue0 (p : PartRun) : Issue :=
  { id := 0, tenant := 0, job := 0, slot := 0, entry := 0, kind := 0, index := 0, st := .committed, ranAhead := false,
    waitsSlot := false, order := 0, epoch := 0, traj := ⟨0, 0, 0, 0, 1, 0, 1⟩, k := 0, angle := 0, flags := 0, shaft := 0,
    frame := none, frameFlags := 0, gated := false, parts := [p], arrived := [], saturated := 0, satFlag := false, frameData := [],
    stripsIn := [], finished := false, rows := [], micro := none, out := [] }

/-- A watching tray with that model in slot 0, of tenant 0, and the issues given. -/
def busy (op engine : Nat) (l : List Issue) : State :=
  { (rail3 (put (up .watching) [(0x2200, 1, 1), (0x2200, 2, 100), (0x3010, 1, 1), (0x3010, 2, 0), (0x3020, 1, 1), (0x4000, 1, 0), (0x4000, 4, 5)])
      (fun x => x)).modSlot 0 (fun x => { x with model := some (tiny op engine) }) with issues := l, nextIssue := l.length }

/-- The same where the image is the descriptor given, and the slot holds a region of chip 3. -/
def busyOn (d : List Byte) (l : List Issue) : State :=
  ((busy 10 1 l).modSlot 0 (fun x => { x with model := some { tiny 10 1 with variant := { (tiny 10 1).variant with
      parts := [⟨64, 64, 0, 0, 1, 1, 0, 0, d, [], []⟩] } } })).modChip 3 (fun x => { x with
    regions := [⟨0, 0, 64, 0, 64, false, false⟩], granary := ((List.range 64).zip d).filter (fun q => decide (q.2 ≠ 0)) })

/-- Chip 3 with that round on accumulator bank 15 of cluster 7. -/
def onBank (x : Chip) : Chip :=
  { x with clusters := vmod x.clusters 7 (fun k => { k with banks := vmod k.banks 15 (fun b => { b with round := some rnd }) }) }

/-- Chip 3 with that descriptor on its Smithy. -/
def onSmithy (x : Chip) : Chip := { x with run1 := some (0, 0, 0) }

/-- A CONV and an ADD of one value each, whose outputs would lie beyond the Loft. -/
def farConv : List Byte := wordsOf [0x04000000, 0x00010001, 0x00010001, 0x11, 0x01010101, 0, 0, 0x90000000, 0, 0, 0, 0x200000, 0, 0, 0]
def farAdd : List Byte := wordsOf [0x29000000, 0x00010001, 0x00010001, 0x11, 0x01010101, 0, 0, 0x90000000, 0, 0, 0, 0x200000, 0, 0, 0]

/-- Its issue in each case. -/
def roundIssue : Issue := issue0 (prun [mrun])
def smithyIssue : Issue := issue0 (prun [erun])

/-- A vendor key. -/
def vk : List Byte := beBytes 64 0xf9ebe464147cc102d92324d099d927c1a50e42d57a08a116ffec0a29819d8c6570baf7d12888902a6a0c1d67add103123c859ab69bf8e9431c9384930d4b7eee
/-- A firmware image of security number 3 that it signed. -/
def img : List Byte := beBytes 129 0x484f4c46160054480000000000000000000000000300000001000000110624204bf5122f344554c53bde2ebb8cd2b7e3d1600ad631c385a5d7cce23c7785459a53b00bd8c50dca7bbcd884f46eec9cfac0c08fe0e10d99c91088ba508297cdb4117a4ad153f45e13d4c009ac446520ae66acca746e1b4d121c2f6f990e664dd701
/-- A bundle of one partition with one ADD descriptor for slot 0, signed with the same key. -/
def bun : List Byte := beBytes 512 0x484f4c4201000200000200000000000007000000000000000100000011062420000000000000000000000000000000000000000000000000000000000000000001000000ff000000c0000000a0000000a30e5d2359a3456c06e11419219d339c66b3f6d1e1b3affdb21466eb0e000755020000000000000080010000400000005663e280cebaa4a07e8083b2b55048f5e9c56e02a63749035934c1330940c5b3000000000000000000000000000000000000000000000000000000000000000001010000000000000000000000000000000000000000000000000000000000000000000000000000000000000000000000000000000000000000000000000000400000000001000000000000000000000100010000000000000000000000000000000000000000000000010000000100000001000000010000000000000000000000000000000000000000000000000000000000000000000000000000000000000000000000000000000000000000000000000000000000000000000000000000003f210100010001000100110000000000000000000000000000001100008000000000010000000000000002000000000000000000000000000000000052aa5c1e200167cfdedaf6522d8ee9682719d33704410550c5fd92a220536e20c816144da0d4e5f185979ffbab82f5d70be72bc13032260ef97af78c8b955412fdfe

/-- A bundle key wrapped for tenant 3 under the key of bytes 0 to 31: bytes 100 to 131, made outside the model. -/
def wrapped : List Byte := beBytes 60 0x000102030405060708090a0b2367b07cad8ca870e12cf9e4c1980a1ef7a3f14388022507441a9bfa9de882312f31544cfa583cdfae1e4bf11433f867

/-- `tiny` as a learnable model with one layer, 5. -/
def tinyL : Model :=
  let m := tiny 10 1
  { m with
    learnable := true,
    variant := { m.variant with
      learn := [⟨0, 0xFF, 0, 0, 0, 2, false, 0, 0, 0, 1, [⟨5, 0, 0, 0, 0, 1, 0, 1, 1, 0⟩], [List.replicate 256 0]⟩] } }

/-- Tray 1 of a parish of trays 0, 1 and 2, all healthy and in their own seats, led by tray 1, with that model in slot 0. -/
def moot (x : TrayState) (l : Learn) : State :=
  { (put (up x) [(0x2800, 1, 1), (0x2800, 2, 1), (0x2800, 5, 7), (0x5000, 1, 0), (0x5000, 2, 0), (0x4000, 1, 0)]).modSlot 0
      (fun y => { y with model := some tinyL }) with
    learn := l,
    parish := {
      leader := 1, module := Vector.replicate 2 true, lock := Vector.replicate 2 true,
      peers := Vector.replicate 64 { healthy := true, digestOk := true, trayState := 3 },
      seatMap := vset (vset (vset (Vector.replicate 64 0xFF) 0 0) 1 1) 2 2 } }

/-- The header of the first frame of tray 2, of step `n`. -/
def hdr (n : Nat) : MootHdr := ⟨0, 2, 0, 0, n, false, false, false⟩

/-- The header of an unsequenced frame of tray 2. -/
def plain : MootHdr := ⟨0, 2, 0, 0, 0, true, false, false⟩

/-- A step of learning in a phase. -/
def inPhase (n : Nat) : Learn := { phase := n, step := 1, copies := [[3]] }

/-- `tiny` as a token model of nine tokens. -/
def tinyT : Model := { tiny 10 1 with variant := { (tiny 10 1).variant with vocab := 9 } }

/-- A watching tray with that model in slot 0, and token session 7 of tenant 0 on it. -/
def talking (state : Nat) : State :=
  (put (busy 10 1 []) [(0x6107, 2, 0), (0x6107, 3, state), (0x6107, 13, 5)]).modSlot 0 (fun x => { x with model := some tinyT })

/-- A job descriptor with word 0, for slot 0 and entry 0. -/
def jobOf (w0 : Nat) : List Byte :=
  let b := leBytes 4 w0 ++ List.replicate 26 0#8
  b ++ leBytes 2 (crc16 b)

/-- A model of two partitions on chips 3 and 2, with a hand-off from the first to the second. -/
def tinyH : Model :=
  let m := tiny 10 1
  { m with placed := [⟨3, 64, 0⟩, ⟨2, 64, 0⟩], variant := { m.variant with p := 2, parts := m.variant.parts ++ m.variant.parts, handOffs := [⟨0, 1, 0, 0, 0, 1⟩] } }

/-- A model of one partition in tight fit, whose weight block of one byte is streamed. -/
def tinyW : Model :=
  let m := tiny 4 1
  { m with placed := [⟨3, 64, 65536⟩], variant := { m.variant with parts := [⟨64, 64, 0, 0, 1, 1, 0, 0, descOf 4 1 65537, [], []⟩] } }

/-- A watching tray set up to learn with `tinyL`: job 0 of kind 5, and job 1 of kind 1 as its sample source. -/
def learner : State :=
  (((put (busy 10 1 []) [(0x2300, 1, 1), (0x3021, 1, 1), (0x5000, 1, 0), (0x5000, 17, 1)]).setBytes 0x3020 2 (jobOf 0x500)).setBytes 0x3021 2 (jobOf 0x100)).modSlot 0
    (fun x => { x with model := some tinyL })

/-- The public key of tenant 15 with a challenge drawn on EtherCAT, and the response to it, signed outside the model. -/
def asked15 : State :=
  (((put w [(0x3F00, 2, 1)]).setBytes 0x3F02 1 vk).modTenant 15 (fun x => { x with
    challenge := vset x.challenge 0 (some (List.replicate 16 7#8, 9999999999)) }))

def response15 : List Byte :=
  beBytes 64 0x01bc789cbf38ae23c4c3f39a98be07782c548bd84228ec59acdf3fdca02545e0b52f912bf4a11fad169ab11acd1a2acc80d0d91e8cc2cf3d3e9ab021c11beb69

/-- A checkpoint, and a record of the step after it in the replay ring. -/
def checkpoint : Checkpoint := ⟨4, 0, 0, 1, 1, [], [], [], true, true⟩
def replayed : ReplayRec := ⟨5, 1, 0, 0, List.replicate 64 0xFF, 1, 0, [], ⟨1, 0, 0, 0, 0, 0⟩, 0, [], false, []⟩

/-- The tray with that bundle staged in slot 0 of tenant 0, its admission under way. -/
def offered : State :=
  (put ({ w with boot := { fuses := { ownerKey := vk } } } : State) [(0x4000, 1, 0), (0x4000, 4, 3), (0x4000, 5, 1)]).modSlot 0
    (fun x => { x with staged := some bun })

/-- A download of an object whose segments are arriving on EtherCAT. -/
def dl (index sub size : Nat) : Xfer :=
  { upload := false, index, sub, size, data := [], toggle := false, tenant := some 0, controlling := true, last := 9000000000 }
def loading (x : Xfer) : State := w.modBox .ecat (fun b => { b with xfer := some x })

/-- A token session's cache that takes the whole Loft of chip 3. -/
def cache : Region := ⟨0x105, 0, 0, 0, 8388608, false, false⟩

theorem cache_found (b w : Nat) :
    ((rail3 Tests.w (fun x => { x with regions := [cache] })).chip 3).regions.find? (fun r =>
      decide (r.loftBase ≤ 32 * (32 * (Config.loftPlace b w % 8192) + b % 32)
        ∧ 32 * (32 * (Config.loftPlace b w % 8192) + b % 32) < r.loftBase + r.loftSize) && !r.released) = some cache := by
  have h : ((rail3 Tests.w (fun x => { x with regions := [cache] })).chip 3).regions = [cache] := by decide +kernel
  rw [h]
  refine List.find?_cons_of_pos ?_
  show (decide _ && !false) = true
  rw [Bool.not_false, Bool.and_true]
  exact decide_eq_true ⟨Nat.zero_le _, by show _ < 0 + 8388608; omega⟩

/-- What the judgement of a slot's staged bundle is. -/
def judgement (s : State) (k : Nat) : Except AdmFault Model := s.judge k ((s.slot k).staged.getD []) (s.flag (0x4000 + k) 5)

theorem judged_ok (s : State) (k : Nat) (h : k < 256 ∧ s.tray ≠ .selfTest ∧ s.nat (0x4000 + k) 4 = 3) (o : (judgement s k).isOk = true) :
    ∃ (s : State) (k : Nat) (m : Model), k < 256 ∧ s.tray ≠ .selfTest ∧ s.nat (0x4000 + k) 4 = 3
      ∧ s.judge k ((s.slot k).staged.getD []) (s.flag (0x4000 + k) 5) = .ok m := by
  cases e : judgement s k with
  | ok m => exact ⟨s, k, m, h.1, h.2.1, h.2.2, e⟩
  | error f => rw [e] at o; cases o

/-- The tray at its start, about to admit once more the model of that bundle. -/
def readmitting : State :=
  ({ offered with
    tray := .selfTest, power := { step := 13, inputClosed := true, rails := 8 },
    store := { zeroed := true, logPlaced := true, readmit := [0] } } : State).modSlot 0
      (fun x => { x with model := (judgement offered 0).toOption })

theorem opened_ok (s : State) (k : Nat) (m : Model)
    (h : k < 256 ∧ s.tray = .selfTest ∧ s.power.step = 13 ∧ s.store.readmit.head? = some k ∧ s.model k = some m
      ∧ (s.slot k).unplaced = false ∧ tableFault m.variant (s.nat (0x4000 + k) 1) k m.placed = none)
    (o : (s.openBundle k m.bundle).isOk = true) :
    ∃ (s : State) (k : Nat) (m : Model) (secs : List (Section × List Byte)), k < 256 ∧ s.tray = .selfTest ∧ s.power.step = 13
      ∧ s.store.readmit.head? = some k ∧ s.model k = some m ∧ (s.slot k).unplaced = false ∧ s.openBundle k m.bundle = .ok secs
      ∧ tableFault m.variant (s.nat (0x4000 + k) 1) k m.placed = none := by
  cases e : s.openBundle k m.bundle with
  | ok secs => exact ⟨s, k, m, secs, h.1, h.2.1, h.2.2.1, h.2.2.2.1, h.2.2.2.2.1, h.2.2.2.2.2.1, e, h.2.2.2.2.2.2⟩
  | error f => rw [e] at o; cases o

theorem readmits : ∃ (s : State) (k : Nat) (m : Model) (secs : List (Section × List Byte)), k < 256 ∧ s.tray = .selfTest
    ∧ s.power.step = 13 ∧ s.store.readmit.head? = some k ∧ s.model k = some m ∧ (s.slot k).unplaced = false
    ∧ s.openBundle k m.bundle = .ok secs ∧ tableFault m.variant (s.nat (0x4000 + k) 1) k m.placed = none :=
  opened_ok readmitting 0 ((judgement offered 0).toOption.getD default) (by decide +kernel) (by decide +kernel)

theorem judged_error (s : State) (k : Nat) (h : k < 256 ∧ s.tray ≠ .selfTest ∧ s.nat (0x4000 + k) 4 = 3)
    (o : (judgement s k).isOk = false) :
    ∃ (s : State) (k : Nat) (f : AdmFault), k < 256 ∧ s.tray ≠ .selfTest ∧ s.nat (0x4000 + k) 4 = 3
      ∧ s.judge k ((s.slot k).staged.getD []) (s.flag (0x4000 + k) 5) = .error f := by
  cases e : judgement s k with
  | ok m => rw [e] at o; cases o
  | error f => exact ⟨s, k, f, h.1, h.2.1, h.2.2, e⟩

/-! ### A state and operands for each clause of each statement -/

theorem witness_StepRunsFront :
    (∃ (s : State) (c : Instr) (rest : List Instr), s.pending = c :: rest) :=
  ⟨({ w with pending := [.supplyStart] } : State), .supplyStart, [], by decide +kernel⟩

theorem witness_EmptyQueueIdles :
    (∃ (s : State), s.pending = []) :=
  ⟨w, by decide +kernel⟩

theorem witness_ResetState :
    (∃ (j : _), j < 256) :=
  ⟨255, by decide +kernel⟩

theorem witness_SupplyAndBootSteps :
    (∃ (s : State), s.tray = .off ∧ s.power.inputClosed = false ∧ s.power.overvoltage = false)
    ∧ (∃ (s : State), s.power.overvoltage = true)
    ∧ (∃ (s : State), s.tray = .off ∧ s.power.inputClosed = false ∧ s.power.overvoltage = true)
    ∧ (∃ (s : State), (s.tray = .off ∧ s.power.inputClosed = true) ∨ (s.tray = .boot ∧ s.power.step = 1))
    ∧ (∃ (s : State), s.atStep 2)
    ∧ (∃ (s : State), s.atStep 4) :=
  ⟨⟨State.reset, by decide +kernel⟩,
    ⟨({ State.reset with power := { overvoltage := true } } : State), by decide +kernel⟩,
    ⟨({ State.reset with power := { overvoltage := true } } : State), by decide +kernel⟩,
    ⟨starting 1, by decide +kernel⟩,
    ⟨starting 2, by unfold State.atStep; decide +kernel⟩,
    ⟨starting 4, by unfold State.atStep; decide +kernel⟩⟩

theorem witness_FirmwareVerified :
    (∃ (s : State) (b : _) (i : List Byte) (p : _), s.atStep 3 ∧ s.bankOk s.boot.booted = true ∧ s.boot.booted = b
        ∧ vget s.boot.banks b = .image i p)
    ∧ (∃ (s : State), s.atStep 3 ∧ s.bankOk s.boot.booted = false ∧ s.boot.trial = true ∧ s.boot.trialCount = 0)
    ∧ (∃ (s : State) (b : _) (i : List Byte) (p : _), s.atStep 3 ∧ s.bankOk s.boot.booted = false ∧ s.boot.trial = false
        ∧ s.bankOk (1 - s.boot.booted) = true ∧ 1 - s.boot.booted = b ∧ vget s.boot.banks b = .image i p)
    ∧ (∃ (s : State), s.atStep 3 ∧ s.bankOk s.boot.booted = false ∧ s.boot.trial = false ∧ s.bankOk (1 - s.boot.booted) = false) :=
  ⟨⟨({ starting 3 with boot := { fuses := { vendorKey := vk }, banks := vset (Vector.replicate 2 .empty) 0 (.image img false) } } : State),
        0, img, false, by unfold State.atStep; decide +kernel⟩,
    ⟨({ starting 3 with boot := { trial := true } } : State), by unfold State.atStep; decide +kernel⟩,
    ⟨({ starting 3 with boot := { fuses := { vendorKey := vk }, banks := vset (Vector.replicate 2 .empty) 1 (.image img false) } } : State),
        1, img, false, by unfold State.atStep; decide +kernel⟩,
    ⟨starting 3, by unfold State.atStep; decide +kernel⟩⟩

theorem witness_ChipsComeUp :
    (∃ (s : State), s.tray = .selfTest)
    ∧ (∃ (s : State), s.atStep 7)
    ∧ (∃ (s : State), s.atStep 9) :=
  ⟨⟨starting 7, by decide +kernel⟩,
    ⟨starting 7, by unfold State.atStep; decide +kernel⟩,
    ⟨starting 9, by unfold State.atStep; decide +kernel⟩⟩

theorem witness_SelfTestSteps :
    (∃ (s : State), s.atStep 5 ∧ s.store.stored.wf = true)
    ∧ (∃ (s : State), s.atStep 6)
    ∧ (∃ (s : State), s.atStep 10 ∧ (∀ c < 16, (s.chip c).whole = none ∧ (s.chip c).railCycle = false))
    ∧ (∃ (s : State) (c : _) (r : _), c < 16 ∧ (s.chip c).regions = [r] ∧ r.released = true)
    ∧ (∃ (s : State), s.atStep 12 ∧ s.store.zeroed = true ∧ (∀ c < 16, (s.chip c).failed = false)) :=
  ⟨⟨starting 5, by unfold State.atStep; decide +kernel⟩,
    ⟨starting 6, by unfold State.atStep; decide +kernel⟩,
    ⟨starting 10, by unfold State.atStep; decide +kernel⟩,
    ⟨chip3 (fun x => { x with regions := [⟨2, 0, 64, 0, 64, true, false⟩] }), 3, ⟨2, 0, 64, 0, 64, true, false⟩,
        by decide +kernel⟩,
    ⟨({ starting 12 with store := { zeroed := true } } : State), by unfold State.atStep; decide +kernel⟩⟩

theorem witness_SelfTestEnds :
    (∃ (s : State), s.atStep 13 ∧ s.store.readmit = [] ∧ s.causes = [] ∧ s.flag 0x2000 2 = false)
    ∧ (∃ (s : State) (c : _) (l : _), s.atStep 13 ∧ s.store.readmit = [] ∧ s.causes = c :: l) :=
  ⟨⟨put (starting 13) [(0x2000, 2, 0)], by unfold State.atStep; decide +kernel⟩,
    ⟨(starting 13).modSlot 3 (fun x => { x with unplaced := true }), 0x4B20, [], by unfold State.atStep; decide +kernel⟩⟩

theorem witness_ResetsAtTheBootRom :
    (∃ (s : State), s.alive = true ∧ s.boot.trial = false)
    ∧ (∃ (s : State), s.boot.trial = true ∧ s.tray = .selfTest ∧ s.boot.selfTestAt + s.trialLimit ≤ s.micros
        ∧ s.boot.trialCount = 0)
    ∧ (∃ (s : State), s.boot.trial = true ∧ s.tray = .selfTest ∧ s.boot.selfTestAt + s.trialLimit ≤ s.micros
        ∧ s.boot.trialCount = 1) :=
  ⟨⟨w, by decide +kernel⟩,
    ⟨({ starting 7 with boot := { trial := true } } : State), by decide +kernel⟩,
    ⟨({ starting 7 with boot := { trial := true, trialCount := 1 } } : State), by decide +kernel⟩⟩

theorem witness_SupplyEvents :
    (∃ (s : State) (high : Bool), s.tray ≠ .off ∧ (if high then s.power.highRaised else s.power.lowRaised) = false)
    ∧ (∃ (s : State), s.tray ≠ .off ∧ s.power.failing = none)
    ∧ (∃ (s : State) (code : _), s.power.failing = some code) :=
  ⟨⟨w, true, by decide +kernel⟩,
    ⟨w, by decide +kernel⟩,
    ⟨({ w with power := { w.power with failing := some 0x1004 } } : State), 0x1004, by decide +kernel⟩⟩

theorem witness_RailFaults :
    (∃ (s : State) (rail : _), rail < 8 ∧ s.tray ≠ .off ∧ s.power.failing = none ∧ s.store.logPlaced = true)
    ∧ (∃ (s : State) (rail : _) (c : _), 8 ≤ rail ∧ c < 16 ∧ s.tray ≠ .off ∧ (s.chip c).railsOn = true
        ∧ (s.chip c).failed = false ∧ (s.chip c).tier ≠ 0 ∧ (s.chip c).railFaultAt = none ∧ s.issues = [] ∧ s.learn.copies = [])
    ∧ (∃ (s : State) (c : _), c < 16 ∧ (s.chip c).railCycle = true) :=
  ⟨⟨w, 7, by decide +kernel⟩,
    ⟨chip3 (fun x => { x with railsOn := true, tier := 1 }), 8, 3, by decide +kernel⟩,
    ⟨chip3 (fun x => { x with railCycle := true }), 3, by decide +kernel⟩⟩

theorem witness_DebugPort :
    (∃ (s : State), s.tray ≠ .off ∧ s.boot.fuses.debugLock = true ∧ s.boot.debugFailures < 8)
    ∧ (∃ (s : State), s.tray ≠ .off ∧ s.boot.fuses.debugLock = true)
    ∧ (∃ (s : State), s.tray ≠ .off ∧ s.boot.fuses.debugLock = false) :=
  ⟨⟨({ w with boot := { fuses := { debugLock := true } } } : State), by decide +kernel⟩,
    ⟨({ w with boot := { fuses := { debugLock := true } } } : State), by decide +kernel⟩,
    ⟨w, by decide +kernel⟩⟩

theorem witness_FirmwareDownload :
    (∃ (s : State) (image : List Byte) (n : _) (x : _), (s.box n).xfer = some x ∧ x.index = 0x1F50 ∧ x.upload = false
        ∧ (s.box n).foeFirmware = false ∧ s.boot.active < 2 ∧ s.imageFlaw image = none)
    ∧ (∃ (s : State) (image : List Byte) (n : _) (x : _) (o : _) (v : _), (s.box n).xfer = some x ∧ x.index = 0x1F50
        ∧ x.upload = false ∧ (s.box n).foeFirmware = false ∧ s.boot.active < 2 ∧ s.imageFlaw image = some (o, v))
    ∧ (∃ (s : State), s.ecat.al = .boot ∧ s.alive = true ∧ s.power.failing = none ∧ s.foeFirmwareFlaw = none) :=
  ⟨⟨({ w.modBox .ecat (fun b => { b with xfer := some { upload := false, index := 0x1F50, sub := 1, size := 0, data := [], toggle := false, tenant := some 0, controlling := true, last := 9000000000 } }) with boot := { fuses := { vendorKey := vk } } } : State),
        img, .ecat,
        { upload := false, index := 0x1F50, sub := 1, size := 0, data := [], toggle := false, tenant := some 0, controlling := true, last := 9000000000 },
        by decide +kernel⟩,
    ⟨w.modBox .ecat (fun b => { b with xfer := some { upload := false, index := 0x1F50, sub := 1, size := 0, data := [], toggle := false, tenant := some 0, controlling := true, last := 9000000000 } }),
        [1#8], .ecat,
        { upload := false, index := 0x1F50, sub := 1, size := 0, data := [], toggle := false, tenant := some 0, controlling := true, last := 9000000000 },
        0, 1, by decide +kernel⟩,
    ⟨({ up .service with ecat := { al := .boot } } : State), by decide +kernel⟩⟩

theorem witness_WatchingAndLearningEntered :
    (∃ (s : State) (n : Net), s.takes n 1)
    ∧ (∃ (s : State) (n : Net), s.takes n 3) :=
  ⟨⟨put w [(0x2200, 1, 1)], .ecat, by unfold State.takes State.accepts; decide +kernel⟩,
    ⟨learner, .ecat, by unfold State.takes State.accepts; decide +kernel⟩⟩

theorem witness_WorkStopped :
    (∃ (s : State) (n : Net), s.takes n 2 ∧ (s.tray = .watching ∨ s.learn.phase = 0))
    ∧ (∃ (s : State) (n : Net), s.takes n 2 ∧ s.tray = .learning ∧ s.learn.phase ≠ 0)
    ∧ (∃ (s : State) (n : Net), s.takes n 4 ∧ s.learn.phase = 0)
    ∧ (∃ (s : State) (n : Net), s.takes n 4 ∧ s.learn.phase ≠ 0)
    ∧ (∃ (s : State), s.tray = .learning ∧ s.learn.phase = 0 ∧ s.command = 2)
    ∧ (∃ (s : State), s.tray = .learning ∧ s.learn.phase = 0 ∧ s.command = 4)
    ∧ (∃ (s : State), s.learn.phase ≠ 0) :=
  ⟨⟨up .watching, .ecat, by unfold State.takes State.accepts; decide +kernel⟩,
    ⟨({ up .learning with learn := { phase := 3 } } : State), .ecat, by unfold State.takes State.accepts; decide +kernel⟩,
    ⟨up .learning, .ecat, by unfold State.takes State.accepts; decide +kernel⟩,
    ⟨({ up .learning with learn := { phase := 3 } } : State), .ecat, by unfold State.takes State.accepts; decide +kernel⟩,
    ⟨({ up .learning with command := 2 } : State), by decide +kernel⟩,
    ⟨({ up .learning with command := 4 } : State), by decide +kernel⟩,
    ⟨({ up .learning with learn := { phase := 3 } } : State), by decide +kernel⟩⟩

theorem witness_ServiceAndHold :
    (∃ (s : State) (n : Net), s.takes n 5)
    ∧ (∃ (s : State) (n : Net), s.takes n 6 ∧ s.pendingBank = none ∧ s.causes = [])
    ∧ (∃ (s : State) (n : Net) (b : _), s.takes n 6 ∧ s.pendingBank = some b)
    ∧ (∃ (s : State) (n : Net), s.takes n 7)
    ∧ (∃ (s : State) (n : Net), s.takes n 8) :=
  ⟨⟨w, .ecat, by unfold State.takes State.accepts; decide +kernel⟩,
    ⟨up .service, .ecat, by unfold State.takes State.accepts; decide +kernel⟩,
    ⟨({ up .service with boot := { banks := vset (Vector.replicate 2 .empty) 1 (.image [] true) } } : State), .ecat, 1,
        by unfold State.takes State.accepts; decide +kernel⟩,
    ⟨up .safeHold, .ecat, by unfold State.takes State.accepts; decide +kernel⟩,
    ⟨w, .ecat, by unfold State.takes State.accepts; decide +kernel⟩⟩

theorem witness_CommandsRefused :
    (∃ (s : State) (n : Net) (code : _), s.serves n = true ∧ s.rightsDeny n 0x2001 0 = none ∧ (code = 0 ∨ 8 < code) ∧ code < 256)
    ∧ (∃ (s : State) (n : Net) (p : _), s.serves n = true ∧ s.rightsDeny n 0x2001 0 = none ∧ p ∈ [(1, Instr.startWatching n), (2,
        .stop n), (3, .startLearning n), (4, .stopLearning n), (5, .enterService n), (6, .leaveService n), (7, .clearSafeHold n),
        (8, .restart n)] ∧ (s.command ≠ 0 ∨ s.commandValid p.1 = false)) :=
  ⟨⟨w, .ecat, 9, by decide +kernel⟩,
    ⟨w, .ecat, (2, .stop .ecat), by decide +kernel⟩⟩

theorem witness_SparesAndBounds :
    (∃ (s : State) (n : Net) (v : _), s.accepts n 0x2011 1 (leBytes 2 v) (fun s => s.spareDeny v) ∧ v < 65536
        ∧ s.tray ≠ .safeHold)
    ∧ (∃ (s : State) (n : Net) (sub : _) (v : _), s.accepts n 0x2002 sub (leBytes 1 v) (fun s => s.boundDeny sub v) ∧ v < 256
        ∧ (sub = 1 ∨ sub = 2)) :=
  ⟨⟨w, .ecat, 0x8001, by unfold State.accepts; decide +kernel⟩,
    ⟨w, .ecat, 1, 3, by unfold State.accepts; decide +kernel⟩⟩

theorem witness_TierBoundsRefused :
    (∃ (s : State) (n : Net) (sub : Nat) (v : Nat), v < 256 ∧ s.serves n = true ∧ s.rightsDeny n 0x2002 sub = none ∧ ((sub = 1
        ∧ v < s.nat 0x2002 2) ∨ (sub = 2 ∧ s.nat 0x2002 1 < v) ∨ ((sub = 1 ∨ sub = 2) ∧ 4 < v))) :=
  ⟨w, .ecat, 1, 0, by decide +kernel⟩

theorem witness_TierSteps :
    (∃ (s : State) (c : Nat), c < 16 ∧ (s.chip c).rising = true ∧ (s.chip c).tier = 0)
    ∧ (∃ (s : State) (c : Nat), c < 16 ∧ (s.chip c).rising = true ∧ (s.chip c).tier ≠ 0)
    ∧ (∃ (s : State) (c : Nat), c < 16 ∧ (s.chip c).falling = true ∧ (s.chip c).dropTo = none
        ∧ (s.chip c).holdsDown (s.chip c).nextDown = false)
    ∧ (∃ (s : State) (c : Nat), c < 16 ∧ (s.chip c).holdsDown (s.chip c).nextDown = true)
    ∧ (∃ (s : State) (c : Nat) (k : _), c < 16 ∧ (s.chip c).dropTo = some k)
    ∧ (∃ (s : State) (c : Nat), c < 16 ∧ (s.chip c).reloading = true)
    ∧ (∃ (s : State) (c : Nat), c < 16 ∧ (s.chip c).tier ≠ 0 ∧ (s.chip c).failed = false ∧ (s.chip c).bellOk = false)
    ∧ (∃ (s : State) (c : Nat), c < 16 ∧ (s.chip c).tier ≠ 0 ∧ (s.chip c).failed = false ∧ (s.chip c).bellOk = false
        ∧ s.isRetired (.bellwether c) = false) :=
  ⟨⟨chip3 (fun x => { x with rising := true }), 3, by decide +kernel⟩,
    ⟨chip3 (fun x => { x with rising := true, tier := 1, target := 2 }), 3, by decide +kernel⟩,
    ⟨chip3 (fun x => { x with falling := true, tier := 2 }), 3, by decide +kernel⟩,
    ⟨chip3 (fun x => { x with tier := 2, run1 := some (0, 0, 0) }), 3, by decide +kernel⟩,
    ⟨chip3 (fun x => { x with falling := true, tier := 2, dropTo := some 1 }), 3, 1, by decide +kernel⟩,
    ⟨chip3 (fun x => { x with reloading := true, tier := 1 }), 3, by decide +kernel⟩,
    ⟨chip3 (fun x => { x with tier := 1 }), 3, by decide +kernel⟩,
    ⟨chip3 (fun x => { x with tier := 1 }), 3, by decide +kernel⟩⟩

theorem witness_EtherCatStates :
    (∃ (s : State), s.alive = true)
    ∧ (∃ (s : State), s.alive = true ∧ s.ecat.al.reaches .preop = true)
    ∧ (∃ (s : State), s.alive = true ∧ s.carriesPdo = true ∧ (s.ecat.al = .preop
        ∧ s.safeopFlaw = none ∨ s.ecat.al = .safeop ∨ s.ecat.al = .op))
    ∧ (∃ (s : State) (code : _), s.alive = true ∧ s.carriesPdo = true ∧ s.ecat.al = .preop ∧ s.safeopFlaw = some code)
    ∧ (∃ (s : State), s.alive = true ∧ s.carriesPdo = true ∧ (s.ecat.al = .safeop ∨ s.ecat.al = .op))
    ∧ (∃ (s : State), s.alive = true ∧ s.tray = .service ∧ s.ecat.al.reaches .boot = true)
    ∧ (∃ (s : State) (p : _), s.alive = true ∧ p ∈ [(AlState.preop, Instr.escRequestPreop), (.safeop, .escRequestSafeop), (.op,
        .escRequestOp), (.boot, .escRequestBoot)] ∧ (s.alAllowed p.1 = false ∨ s.ecat.al.reaches p.1 = false)) :=
  ⟨⟨w, by decide +kernel⟩,
    ⟨w, by decide +kernel⟩,
    ⟨w, by decide +kernel⟩,
    ⟨put w [(0x1C32, 1, 2)], 0x30, by decide +kernel⟩,
    ⟨({ w with ecat := { al := .safeop } } : State), by decide +kernel⟩,
    ⟨up .service, by decide +kernel⟩,
    ⟨w, (.boot, .escRequestBoot), by decide +kernel⟩⟩

theorem witness_CanNodeStates :
    (∃ (s : State), s.alive = true ∧ s.carriesPdo = true)
    ∧ (∃ (s : State), s.alive = true ∧ s.carriesPdo = false)
    ∧ (∃ (s : State), s.alive = true) :=
  ⟨⟨w, by decide +kernel⟩,
    ⟨up .service, by decide +kernel⟩,
    ⟨w, by decide +kernel⟩⟩

theorem witness_NetworkLosses :
    (∃ (s : State), s.alive = true ∧ s.ecat.al = .op)
    ∧ (∃ (s : State), s.alive = true ∧ s.ecat.al = .op ∧ s.nat 0x1C32 1 = 2)
    ∧ (∃ (s : State), s.alive = true)
    ∧ (∃ (s : State), s.alive = true ∧ s.can.busOff = false ∧ s.nat 0x1017 0 ≠ 0 ∧ (∀ m,
        s.can.beatAt = some m → m + 1000 * s.nat 0x1017 0 ≤ s.micros))
    ∧ (∃ (s : State) (m : _), s.alive = true ∧ s.can.beatAt = some m ∧ s.micros < m + 1000 * s.nat 0x1017 0)
    ∧ (∃ (s : State) (node : _), s.alive = true ∧ s.consumed.1 = node ∧ s.consumed.2 ≠ 0)
    ∧ (∃ (s : State) (h : Nat), s.alive = true ∧ s.can.hbHeard = some h ∧ s.consumed.2 ≠ 0 ∧ h + 1000 * s.consumed.2 ≤ s.micros)
    ∧ (∃ (s : State), s.alive = true ∧ s.can.busOff = true) :=
  ⟨⟨({ w with ecat := { al := .op } } : State), by decide +kernel⟩,
    ⟨put ({ w with ecat := { al := .op } } : State) [(0x1C32, 1, 2)], by decide +kernel⟩,
    ⟨w, by decide +kernel⟩,
    ⟨w, by decide +kernel, by decide +kernel, by decide +kernel,
        fun m h => by rw [(by decide +kernel : (State.can (w)).beatAt = none)] at h; cases h⟩,
    ⟨({ w with can := { beatAt := some 9999999999 } } : State), 9999999999, by decide +kernel⟩,
    ⟨put w [(0x1016, 1, 0x00210064)], 0x21, by decide +kernel⟩,
    ⟨put ({ w with can := { w.can with hbHeard := some 0 } } : State) [(0x1016, 1, 0x00210064)], 0, by decide +kernel⟩,
    ⟨({ w with can := { w.can with busOff := true } } : State), by decide +kernel⟩⟩

theorem witness_ShaftConfigured :
    (∃ (s : State) (n : Net) (i : Nat) (sub : Nat) (v : Int), i < 4 ∧ 1 ≤ sub ∧ sub ≤ 14
        ∧ s.accepts n (0x2200 + i) sub (fieldBytes (0x2200 + i) sub v) (fun s => s.shaftDeny i sub v)) :=
  ⟨w, .ecat, 3, 14, 5, by unfold State.accepts; decide +kernel⟩

theorem witness_CountedEdges :
    (∃ (s : State) (i : Nat) (a : Level) (b : Level) (z : Level) (la : Bool) (lb : Bool) (lz : Bool) (fwd : _), i < 4
        ∧ s.alive = true ∧ s.filtered i (s.shaft i).a a = la ∧ s.filtered i (s.shaft i).b b = lb
        ∧ s.filtered i (s.shaft i).z z = lz ∧ (s.shaft i).inputLoss = false ∧ s.edgeSense i (s.shaft i) la lb = some fwd)
    ∧ (∃ (s : State) (i : Nat) (a : Level) (b : Level) (z : Level) (la : Bool) (lb : Bool) (lz : Bool), i < 4 ∧ s.alive = true
        ∧ s.filtered i (s.shaft i).a a = la ∧ s.filtered i (s.shaft i).b b = lb ∧ s.filtered i (s.shaft i).z z = lz
        ∧ ((s.shaft i).inputLoss = true ∨ s.edgeSense i (s.shaft i) la lb = none
        ∧ (s.kind i ≠ 1 ∨ la = (s.shaft i).a ∨ lb = (s.shaft i).b)))
    ∧ (∃ (s : State) (i : Nat) (a : Level) (b : Level) (z : Level) (la : Bool) (lb : Bool) (lz : Bool), i < 4 ∧ s.alive = true
        ∧ s.filtered i (s.shaft i).a a = la ∧ s.filtered i (s.shaft i).b b = lb ∧ s.filtered i (s.shaft i).z z = lz
        ∧ s.kind i = 1 ∧ (s.shaft i).inputLoss = false ∧ la ≠ (s.shaft i).a ∧ lb ≠ (s.shaft i).b
        ∧ (s.shaft i).illegalFrom = (s.shaft i).edges.fdiv (max 1 (s.edgesPer i)) ∧ (s.shaft i).illegal < 4)
    ∧ (∃ (s : State) (i : Nat) (a : Level) (b : Level) (z : Level) (la : Bool) (lb : Bool) (lz : Bool), i < 4 ∧ s.alive = true
        ∧ s.filtered i (s.shaft i).a a = la ∧ s.filtered i (s.shaft i).b b = lb ∧ s.filtered i (s.shaft i).z z = lz
        ∧ s.kind i = 1 ∧ (s.shaft i).inputLoss = false ∧ la ≠ (s.shaft i).a ∧ lb ≠ (s.shaft i).b
        ∧ (s.shaft i).illegalFrom = (s.shaft i).edges.fdiv (max 1 (s.edgesPer i)) ∧ (s.shaft i).illegal = 4
        ∧ (s.shaft i).illegalRaised = false) :=
  ⟨⟨turning, 0, lev true, lev false, lev false, true, false, false, true, by decide +kernel⟩,
    ⟨turning, 0, lev false, lev false, lev true, false, false, true, by decide +kernel⟩,
    ⟨turning, 0, lev true, lev true, lev false, true, true, false, by decide +kernel⟩,
    ⟨shaft0 turning (fun x => { x with illegal := 4 }), 0, lev true, lev true, lev false, true, true, false, by decide +kernel⟩⟩

theorem witness_QuadratureDirection :
    (∃ (s : State) (i : Nat) (x : Shaft) (b : _), s.kind i = 1 ∧ x.a = false ∧ x.b = b)
    ∧ (∃ (s : State) (i : Nat) (x : Shaft) (b : _), s.kind i = 1 ∧ x.a = true ∧ x.b = b)
    ∧ (∃ (s : State) (i : Nat) (x : Shaft) (a : _), s.kind i = 1 ∧ x.b = false ∧ x.a = a)
    ∧ (∃ (s : State) (i : Nat) (x : Shaft) (a : _), s.kind i = 1 ∧ x.b = true ∧ x.a = a) :=
  ⟨⟨turning, 0, {}, false, by decide +kernel⟩,
    ⟨turning, 0, { a := true }, false, by decide +kernel⟩,
    ⟨turning, 0, {}, false, by decide +kernel⟩,
    ⟨turning, 0, { b := true }, false, by decide +kernel⟩⟩

theorem witness_ShaftTimers :
    (∃ (s : State) (i : Nat), i < 4 ∧ s.alive = true ∧ 1 ≤ s.kind i ∧ s.kind i ≤ 3 ∧ (s.shaft i).standstill = false
        ∧ (s.shaft i).inputLoss = false ∧ 120000000 * s.pitchesAhead i ≤ (s.micros - (s.shaft i).edgeTime / 100) * s.edgesPer i)
    ∧ (∃ (s : State) (i : Nat), i < 4 ∧ 1 ≤ s.kind i ∧ s.kind i ≤ 3 ∧ s.cfg i 4 ≠ 0
        ∧ (s.cfg i 4 = 1 → (s.shaft i).faultZ = false) ∧ (s.shaft i).inputLoss = false ∧ (s.shaft i).noRefRaised = false
        ∧ 8 * turn.natAbs ≤ ((s.shaft i).angle - (s.shaft i).goodRef).natAbs)
    ∧ (∃ (s : State) (i : Nat), i < 4 ∧ s.alive = true ∧ s.watches i .a = true ∧ (s.shaft i).faultA = false
        ∧ (s.shaft i).inputLoss = false)
    ∧ (∃ (s : State) (i : Nat) (p : _), i < 4 ∧ s.watches i p = false)
    ∧ (∃ (s : State) (i : Nat), i < 4 ∧ 1 ≤ s.kind i ∧ s.kind i ≤ 3 ∧ (s.shaft i).inputLoss = true ∧ (s.shaft i).faultB = false)
    ∧ (∃ (s : State) (i : Nat), i < 4 ∧ (s.shaft i).inputLoss = true ∧ (s.shaft i).standstill = false ∧ 1 ≤ s.kind i
        ∧ s.kind i ≤ 3 ∧ turn.natAbs ≤ ((s.shaft i).covered (s.timebase - (s.shaft i).lossAt)).natAbs) :=
  ⟨⟨turning, 0, by decide +kernel⟩,
    ⟨shaft0 (put turning [(0x2200, 4, 1)]) (fun x => { x with angle := 8 * turn }), 0, by decide +kernel⟩,
    ⟨turning, 0, by decide +kernel⟩,
    ⟨w, 0, .z, by decide +kernel⟩,
    ⟨shaft0 turning (fun x => { x with inputLoss := true, faultA := true }), 0, by decide +kernel⟩,
    ⟨shaft0 turning (fun x => { x with inputLoss := true, speed := 1 }), 0, by decide +kernel⟩⟩

theorem witness_SeriesCrossings :
    (∃ (q : Series), 1 ≤ q.pn ∧ 1 ≤ q.pd)
    ∧ (∃ (q : Series) (mark : Int) (angle : Int) (k : _) (a : _) (n : _), 1 ≤ q.pn ∧ 1 ≤ q.pd
        ∧ q.crossed false mark angle = some (k, a, n)) :=
  ⟨⟨⟨0, 1, 1⟩, by decide +kernel⟩,
    ⟨⟨0, 1, 1⟩, 0, 3 * turn + 5, 3, 3 * turn, 3, by decide +kernel⟩⟩

theorem witness_DerivedShaftAngle :
    (∃ (s : State) (i : Nat), 1 ≤ s.cfg i 7)
    ∧ (∃ (s : State) (i : Nat), 1 ≤ s.cfg i 7 ∧ 1 ≤ i ∧ i < 4) :=
  ⟨⟨w, 1, by decide +kernel⟩,
    ⟨put w [(0x2203, 7, 63)], 3, by decide +kernel⟩⟩

theorem witness_AngleEvents :
    (∃ (s : State) (n : _) (t : _) (e : _), t < 16 ∧ e < 16 ∧ s.accepts n (blk t (0x10 + e)) 1 [1] (fun s => s.eventDeny t e))
    ∧ (∃ (s : State) (n : _) (t : _) (e : _), t < 16 ∧ e < 16 ∧ s.accepts n (blk t (0x10 + e)) 1 [0] (fun _ => none))
    ∧ (∃ (s : State) (t : Nat) (e : Nat) (c : _), t < 16 ∧ e < 16 ∧ (s.ev t e).held = some c ∧ s.evBusy (.tenant t e) = false
        ∧ s.evOn (.tenant t e) = true ∧ s.tray ≠ .learning ∧ (s.shaft (s.evShaft (.tenant t e))).uncertain = false)
    ∧ (∃ (s : State) (t : _) (e : _) (due : _), t < 16 ∧ e < 16 ∧ (s.ev t e).substDue = some due ∧ due < s.micros
        ∧ s.evPolicy (.tenant t e) = 1 ∧ s.evOn (.tenant t e) = true ∧ s.evBusy (.tenant t e) = false ∧ s.tray ≠ .learning
        ∧ (s.shaft (s.evShaft (.tenant t e))).standstill = true ∧ (s.shaft (s.evShaft (.tenant t e))).armed = true
        ∧ (s.shaft (s.evShaft (.tenant t e))).uncertain = false)
    ∧ (∃ (s : State) (k : _) (c : _), k < 2 ∧ (s.cam k).ev.held = some c ∧ s.evBusy (.camera k) = false
        ∧ s.evOn (.camera k) = true)
    ∧ (∃ (s : State) (k : _) (due : _), k < 2 ∧ (s.cam k).ev.substDue = some due ∧ due < s.micros ∧ s.evPolicy (.camera k) = 1
        ∧ s.evOn (.camera k) = true ∧ s.evBusy (.camera k) = false ∧ (s.shaft (s.evShaft (.camera k))).standstill = true
        ∧ (s.shaft (s.evShaft (.camera k))).armed = true) :=
  ⟨⟨put turning [(0x3010, 3, 1), (0x3010, 4, 100), (0x3010, 9, 0)], .ecat, 0, 0, by unfold State.accepts; decide +kernel⟩,
    ⟨turning, .ecat, 15, 15, by unfold State.accepts; decide +kernel⟩,
    ⟨(put turning [(0x3010, 1, 1)]).modEv 0 0 (fun x => { x with held := some ⟨1, 2, 0, 1⟩ }), 0, 0, ⟨1, 2, 0, 1⟩,
        by decide +kernel⟩,
    ⟨shaft0 ((put turning [(0x3010, 1, 1), (0x3010, 7,
        1)]).modEv 0 0 (fun x => { x with substDue := some 5 })) (fun x => { x with standstill := true, armed := true }), 0, 0,
        5, by decide +kernel⟩,
    ⟨(put hearing [(0x2311, 1, 1), (0x2311, 2, 0), (0x2311, 6,
        1)]).modCam 1 (fun c => { c with enabled := true, ev := { held := some ⟨1, 2, 0, 1⟩ } }), 1, ⟨1, 2, 0, 1⟩,
        by decide +kernel⟩,
    ⟨shaft0 ((put hearing [(0x2311, 1, 1), (0x2311, 2, 0), (0x2311, 6,
        1)]).modCam 1 (fun c => { c with enabled := true, ev := { substDue := some 5 } })) (fun x => { x with standstill := true, armed := true }),
        1, 5, by decide +kernel⟩⟩

theorem witness_AngleMessages :
    (∃ (s : State) (c : Nat) (i : Nat), c < 16 ∧ i < 4 ∧ s.alive = true ∧ (s.kind i ≠ 0 ∨ i = 0))
    ∧ (∃ (s : State) (c : Nat) (i : Nat), c < 16 ∧ i < 4 ∧ s.alive = true ∧ s.kind i = 0 ∧ i ≠ 0)
    ∧ (∃ (s : State) (c : Nat) (i : Nat) (b : _), c < 16 ∧ i < 4 ∧ b.length = 32 ∧ crc16 (b.take 30) = leAt b 30 2
        ∧ ((vget (s.chip c).mirror.shafts (byteAt b 26 % 4)).valid = false ∨ (mirrorOf b).seq = ((vget (s.chip c).mirror.shafts (byteAt b 26 % 4)).seq + 1) % 256))
    ∧ (∃ (s : State) (c : Nat) (i : Nat) (b : _), c < 16 ∧ i < 4 ∧ b.length = 32 ∧ crc16 (b.take 30) = leAt b 30 2
        ∧ (vget (s.chip c).mirror.shafts (byteAt b 26 % 4)).valid = true
        ∧ (mirrorOf b).seq ≠ ((vget (s.chip c).mirror.shafts (byteAt b 26 % 4)).seq + 1) % 256)
    ∧ (∃ (c : Nat) (i : Nat) (b : _), c < 16 ∧ i < 4 ∧ (b.length ≠ 32 ∨ crc16 (b.take 30) ≠ leAt b 30 2))
    ∧ (∃ (s : State) (c : Nat) (i : Nat), c < 16 ∧ i < 4 ∧ s.mirrorQuiet c 6400 = true)
    ∧ (∃ (s : State) (c : Nat) (i : Nat), c < 16 ∧ i < 4 ∧ s.mirrorQuiet c 6400 = false)
    ∧ (∃ (s : State) (c : Nat) (i : Nat), c < 16 ∧ i < 4 ∧ s.mirrorQuiet c 100000 = true ∧ (s.chip c).mirror.staleRaised = false)
    ∧ (∃ (s : State) (c : Nat) (i : Nat), c < 16 ∧ i < 4
        ∧ (s.mirrorQuiet c 100000 = false ∨ (s.chip c).mirror.staleRaised = true)) :=
  ⟨⟨w, 15, 0, by decide +kernel⟩,
    ⟨w, 15, 3, by decide +kernel⟩,
    ⟨chip3 (fun x => { x with mirror := { shafts := Vector.replicate 4 { valid := true, seq := 255 } } }), 3, 3,
        List.replicate 30 0#8 ++ leBytes 2 (crc16 (List.replicate 30 0#8)), by decide +kernel⟩,
    ⟨chip3 (fun x => { x with mirror := { shafts := Vector.replicate 4 { valid := true, seq := 7 } } }), 3, 3,
        List.replicate 30 0#8 ++ leBytes 2 (crc16 (List.replicate 30 0#8)), by decide +kernel⟩,
    ⟨15, 3, [1#8], by decide +kernel⟩,
    ⟨w, 15, 3, by decide +kernel⟩,
    ⟨chip3 (fun x => { x with mirror := { lastValid := 1000000000000 } }), 3, 3, by decide +kernel⟩,
    ⟨w, 15, 3, by decide +kernel⟩,
    ⟨chip3 (fun x => { x with mirror := { staleRaised := true } }), 3, 3, by decide +kernel⟩⟩

theorem witness_AngleMessageRoundTrip :
    (∃ (s : State) (c : Nat) (i : Nat), i < 4 ∧ -(2 ^ 63 : Int) ≤ (s.shaft i).angle ∧ (s.shaft i).angle < 2 ^ 63
        ∧ s.timebase < 2 ^ 64 ∧ vget (s.chip c).mirror.seqOut i < 256 ∧ (s.shaft i).traj.epoch < 65536) :=
  ⟨w, 0, 3, by decide +kernel⟩

theorem witness_TimePasses :
    (∃ (s : State), s.tray ≠ .off ∧ 3 ≤ s.power.step)
    ∧ (∃ (s : State), (s.tray = .off ∨ s.power.step < 3)) :=
  ⟨⟨w, by decide +kernel⟩,
    ⟨State.reset, by decide +kernel⟩⟩

theorem witness_SerialAudio :
    (∃ (s : State) (p : Nat) (bits : _), p < 2 ∧ s.runs = true ∧ s.portChannels p ≠ []
        ∧ (s.masterPort p = true ∨ bits = s.nat (0x2300 + (s.portChannels p).headD 0) 6 * s.nat (0x2300 + (s.portChannels p).headD 0) 5))
    ∧ (∃ (s : State) (p : Nat) (bits : _), p < 2 ∧ s.runs = true ∧ s.portChannels p ≠ [] ∧ s.masterPort p = false
        ∧ bits ≠ s.nat (0x2300 + (s.portChannels p).headD 0) 6 * s.nat (0x2300 + (s.portChannels p).headD 0) 5
        ∧ (s.tdm p).bad = 0)
    ∧ (∃ (s : State) (p : Nat), p < 2 ∧ s.runs = true ∧ s.portChannels p ≠ [] ∧ s.masterPort p = false
        ∧ (s.tdm p).clockLoss = false ∧ s.portQuiet p = true)
    ∧ (∃ (s : State) (p : Nat), p < 2 ∧ s.runs = true ∧ s.portChannels p ≠ [] ∧ (s.masterPort p = true ∨ s.portQuiet p = false))
    ∧ (∃ (s : State) (p : Nat), p < 2 ∧ s.runs = true ∧ s.portChannels p ≠ [] ∧ s.masterPort p = true)
    ∧ (∃ (s : State) (p : Nat), p < 2 ∧ s.runs = true ∧ s.portChannels p ≠ [] ∧ s.masterPort p = false) :=
  ⟨⟨hearing, 0, hearing.nat 0x2300 6 * hearing.nat 0x2300 5, by decide +kernel⟩,
    ⟨put hearing [(0x2300, 8, 1)], 0, 3, by decide +kernel⟩,
    ⟨put hearing [(0x2300, 8, 1)], 0, by decide +kernel⟩,
    ⟨hearing, 0, by decide +kernel⟩,
    ⟨hearing, 0, by decide +kernel⟩,
    ⟨put hearing [(0x2300, 8, 1)], 0, by decide +kernel⟩⟩

theorem witness_FramesComplete :
    (∃ (s : State) (g : _), g < 8 ∧ (s.group g).runs = [])
    ∧ (∃ (s : State) (g : _) (r : _) (rest : _), (s.group g).runs = r :: rest ∧ r.last = none)
    ∧ (∃ (s : State) (g : _) (r : _) (rest : _) (v : _), g < 8 ∧ (s.group g).runs = r :: rest ∧ r.last = some v
        ∧ (s.groupChannels g).any s.chanLost = false)
    ∧ (∃ (s : State) (g : _) (r : _) (rest : _) (v : _), g < 8 ∧ (s.group g).runs = r :: rest ∧ r.last = some v
        ∧ (s.groupChannels g).any s.chanLost = true)
    ∧ (∃ (s : State) (c : _), (s.chip c).strips = [])
    ∧ (∃ (s : State) (c : _) (id : _) (n : _) (rest : _), c < 16 ∧ (s.chip c).strips = (.issue id, n) :: rest
        ∧ s.issue id = none)
    ∧ (∃ (s : State) (c : _) (id : _) (n : _) (rest : _) (i : _) (p : _) (b : _), c < 16 ∧ (s.chip c).strips = (.issue id,
        n) :: rest ∧ s.issue id = some i ∧ i.part c = some p ∧ p.copy.isSome = true ∧ s.stripData i.kind i.index i.k n = some b)
    ∧ (∃ (s : State) (c : _) (t : _) (j : _) (k : _) (n : _) (rest : _) (m : _), c < 16 ∧ (s.chip c).strips = (.job t j k,
        n) :: rest ∧ s.jobModel t j = some m ∧ s.underWay (s.jobDesc t j).kind (s.jobDesc t j).index k = false)
    ∧ (∃ (s : State) (c : _) (t : _) (j : _) (k : _) (n : _) (rest : _) (m : _) (b : _), c < 16
        ∧ (s.chip c).strips = (.job t j k, n) :: rest ∧ s.jobModel t j = some m
        ∧ s.underWay (s.jobDesc t j).kind (s.jobDesc t j).index k = true ∧ (∀ o ∈ s.issues,
        o.tenant = t → o.job = j → o.finished = true) ∧ s.stripData (s.jobDesc t j).kind (s.jobDesc t j).index k n = some b)
    ∧ (∃ (s : State) (c : _) (t : _) (j : _) (k : _) (n : _) (m : _) (o : _), (s.chip c).strips = [(.job t j k, n)]
        ∧ s.jobModel t j = some m ∧ s.underWay (s.jobDesc t j).kind (s.jobDesc t j).index k = true ∧ o ∈ s.issues ∧ o.tenant = t
        ∧ o.job = j ∧ o.finished = false) :=
  ⟨⟨w, 7, by decide +kernel⟩,
    ⟨w.modGroup 7 (fun g => { g with runs := [frameRun] }), 7, frameRun, [], by decide +kernel⟩,
    ⟨hearing.modGroup 0 (fun g => { g with runs := [{ frameRun with last := some (1, 2, 3) }] }), 0,
        { frameRun with last := some (1, 2, 3) }, [], (1, 2, 3), by decide +kernel⟩,
    ⟨({ hearing.modGroup 0 (fun g => { g with runs := [{ frameRun with last := some (1, 2, 3) }] }) with channels := Vector.replicate 8 { stuck := true } } : State),
        0, { frameRun with last := some (1, 2, 3) }, [], (1, 2, 3), by decide +kernel⟩,
    ⟨w, 15, by decide +kernel⟩,
    ⟨chip3 (fun x => { x with strips := [(.issue 5, 1)] }), 3, 5, 1, [], by decide +kernel⟩,
    ⟨((put (busy 10 1 [{ issue0 (prun []) with kind := 2 }]) [(0x2310, 16, 1), (0x2310, 17,
        8)]).modCam 0 (fun c => { c with capture := some { capture with started := true, rows := 8, data := List.replicate 16 7#8 } })).modChip 3 (fun x => { x with strips := [(.issue 0, 7)] }),
        3, 0, 7, [], { issue0 (prun []) with kind := 2 }, prun [], [7#8], by decide +kernel⟩,
    ⟨(((put (busy 10 1 []) [(0x2310, 16, 1), (0x2310, 17,
        8)]).modCam 0 (fun c => { c with capture := some { capture with started := true, rows := 8, data := List.replicate 16 7#8 } })).setBytes 0x3020 2 (jobOf 0x200)).modChip 3 (fun x => { x with strips := [(.job 0 0 9, 7)] }),
        3, 0, 0, 9, 7, [], tiny 10 1, by decide +kernel⟩,
    ⟨(((put (busy 10 1 []) [(0x2310, 16, 1), (0x2310, 17,
        8)]).modCam 0 (fun c => { c with capture := some { capture with started := true, rows := 8, data := List.replicate 16 7#8 } })).setBytes 0x3020 2 (jobOf 0x200)).modChip 3 (fun x => { x with strips := [(.job 0 0 0, 7)] }),
        3, 0, 0, 0, 7, [], tiny 10 1, [7#8], by decide +kernel⟩,
    ⟨(((put (busy 10 1 [{ issue0 (prun []) with kind := 2 }]) [(0x2310, 16, 1), (0x2310, 17,
        8)]).modCam 0 (fun c => { c with capture := some { capture with started := true, rows := 8, data := List.replicate 16 7#8 } })).setBytes 0x3020 2 (jobOf 0x200)).modChip 3 (fun x => { x with strips := [(.job 0 0 0, 7)] }),
        3, 0, 0, 0, 7, tiny 10 1, { issue0 (prun []) with kind := 2 }, by decide +kernel⟩⟩

theorem witness_CameraControl :
    (∃ (s : State) (k : Nat), k < 2 ∧ (s.cam k).power = true)
    ∧ (∃ (s : State) (k : Nat), k < 2 ∧ (s.cam k).power = false)
    ∧ (∃ (s : State) (k : Nat), k < 2 ∧ (s.cam k).enabled = true ∧ (s.cam k).resetN = true)
    ∧ (∃ (s : State) (k : Nat) (n : _), k < 2 ∧ (s.cam k).enabled = true ∧ (s.cam k).resetN = true
        ∧ 4 * n < (s.bytes (camIndex k) 20).length ∧ byteAt (s.bytes (camIndex k) 20) (4 * n + 3) = 0)
    ∧ (∃ (s : State) (k : Nat) (n : _), k < 2 ∧ byteAt (s.bytes (camIndex k) 20) (4 * n + 3) ≠ 0)
    ∧ (∃ (s : State) (k : Nat), k < 2 ∧ ((s.cam k).enabled = false ∨ (s.cam k).resetN = false))
    ∧ (∃ (s : State) (k : Nat), k < 2 ∧ (s.cam k).pulseAt + 100 * s.nat (camIndex k) 8 ≤ s.timebase)
    ∧ (∃ (s : State) (k : Nat), k < 2 ∧ s.timebase < (s.cam k).pulseAt + 100 * s.nat (camIndex k) 8) :=
  ⟨⟨w.modCam 1 (fun c => { c with power := true }), 1, by decide +kernel⟩,
    ⟨w, 1, by decide +kernel⟩,
    ⟨w.modCam 1 (fun c => { c with enabled := true, resetN := true }), 1, by decide +kernel⟩,
    ⟨({ w with cams := Vector.replicate 2 { enabled := true, resetN := true } } : State).setBytes 0x2311 20 (leBytes 4 0x00050101),
        1, 0, by decide +kernel⟩,
    ⟨({ w with cams := Vector.replicate 2 { enabled := true, resetN := true } } : State).setBytes 0x2311 20 (leBytes 4 0x01000010),
        1, 0, by decide +kernel⟩,
    ⟨w, 1, by decide +kernel⟩,
    ⟨w, 1, by decide +kernel⟩,
    ⟨w.modCam 1 (fun c => { c with pulseAt := 1000000000000 }), 1, by decide +kernel⟩⟩

theorem witness_CameraFrames :
    (∃ (s : State) (k : Nat) (o : _), k < 2 ∧ (s.cam k).capture = some o ∧ o.started = false ∧ s.captureLate k o = false)
    ∧ (∃ (s : State) (k : Nat), k < 2 ∧ (∀ o, (s.cam k).capture = some o → o.started = true ∨ s.captureLate k o = true))
    ∧ (∃ (s : State) (k : Nat) (o : _) (payload : List Byte), k < 2 ∧ (s.cam k).capture = some o ∧ o.started = true
        ∧ s.captureLate k o = false ∧ payload.length * 8 = s.nat (camIndex k) 11 * pixelBits (s.nat (camIndex k) 10)
        ∧ o.rows < s.nat (camIndex k) 12)
    ∧ (∃ (s : State) (k : Nat) (o : _), k < 2 ∧ (s.cam k).capture = some o ∧ o.started = true ∧ s.captureLate k o = false
        ∧ o.rows = s.nat (camIndex k) 12)
    ∧ (∃ (s : State) (k : Nat) (o : _), k < 2 ∧ (s.cam k).capture = some o ∧ s.captureLate k o = true)
    ∧ (∃ (s : State) (k : Nat), k < 2 ∧ (∀ o, (s.cam k).capture = some o → s.captureLate k o = false))
    ∧ (∃ (k : Nat) (vc : _), k < 2 ∧ vc ≠ 0) :=
  ⟨⟨w.modCam 1 (fun c => { c with capture := some capture }), 1, capture, by decide +kernel⟩,
    ⟨w, 1, by decide +kernel, fun o h => by rw [(by decide +kernel : (w.cam 1).capture = none)] at h; cases h⟩,
    ⟨(put w [(0x2311, 11, 4), (0x2311, 12, 2)]).modCam 1 (fun c => { c with capture := some { capture with started := true } }),
        1, { capture with started := true }, List.replicate 4 7#8, by decide +kernel⟩,
    ⟨(put w [(0x2311, 11, 4), (0x2311, 12,
        2)]).modCam 1 (fun c => { c with capture := some { capture with started := true, rows := 2 } }), 1,
        { capture with started := true, rows := 2 }, by decide +kernel⟩,
    ⟨w.modCam 1 (fun c => { c with capture := some { capture with opened := 0 } }), 1, { capture with opened := 0 },
        by decide +kernel⟩,
    ⟨w, 1, by decide +kernel, fun o h => by rw [(by decide +kernel : (w.cam 1).capture = none)] at h; cases h⟩,
    ⟨1, 3, by decide +kernel⟩⟩

theorem witness_JobsEnabled :
    (∃ (s : State) (n : Net) (t : Nat) (j : Nat), t < 16 ∧ j < 15
        ∧ s.accepts n (blk t (0x20 + j)) 1 [1] (fun s => s.jobDeny t j))
    ∧ (∃ (s : State) (n : Net) (t : Nat) (j : Nat), t < 16 ∧ j < 15 ∧ s.accepts n (blk t (0x20 + j)) 1 [0] (fun _ => none)) :=
  ⟨⟨(busy 10 1 []).setBytes 0x302E 2 (jobOf 0), .ecat, 0, 14, by unfold State.accepts; decide +kernel⟩,
    ⟨w, .ecat, 15, 14, by unfold State.accepts; decide +kernel⟩⟩

theorem witness_IssuesMade :
    (∃ (s : State) (t : _) (tr : _) (rest : _) (m : _), t < 16 ∧ (s.pendOf t).queue = tr :: rest ∧ s.jobModel t tr.job = some m
        ∧ s.canIssue t tr.job = true ∧ s.outranked t tr.order m.chips = false)
    ∧ (∃ (s : State) (t : _), (s.pendOf t).queue = [])
    ∧ (∃ (s : State) (t : _) (tr : _) (rest : _), (s.pendOf t).queue = tr :: rest ∧ s.canIssue t tr.job = false)
    ∧ (∃ (s : State) (t : _) (j : _) (k : _) (a : _) (sh : _) (m : _), s.expected t j = some (k, a, sh) ∧ s.jobModel t j = some m
        ∧ s.listens t j = true ∧ (s.jobDesc t j).speculate = true ∧ s.jobOn t j = true ∧ s.sourceOn t j = true
        ∧ (s.job t j).noSpec.contains k = false ∧ (s.shaft sh).armed = true ∧ (s.shaft sh).referenced = true
        ∧ (s.shaft sh).standstill = false ∧ (s.shaft sh).reverse = false ∧ (s.shaft sh).beyond = false
        ∧ (s.shaft sh).inputLoss = false ∧ m.chips.any (fun c => (s.chip c).mirror.stale) = false
        ∧ (s.shaft sh).traj.reaches s.timebase (a - (s.jobDesc t j).lead) = true ∧ (∀ i ∈ s.issues, ¬ (i.tenant = t ∧ i.job = j
        ∧ i.k = k)) ∧ (∀ q ∈ (s.pendOf t).queue, ¬ (q.job = j ∧ q.k = k)) ∧ s.slotFree true t m.chips = true) :=
  ⟨⟨(busy 10 1 []).modPend 0 (fun p => { p with queue := [⟨0, 1, 2, 0, 0, none, 0, 0, false⟩] }), 0, ⟨0, 1, 2, 0, 0, none, 0, 0,
        false⟩, [], tiny 10 1, by decide +kernel⟩,
    ⟨w, 15, by decide +kernel⟩,
    ⟨w.modPend 15 (fun p => { p with queue := [⟨0, 1, 2, 0, 0, none, 0, 0, false⟩] }), 15, ⟨0, 1, 2, 0, 0, none, 0, 0, false⟩,
        [], by decide +kernel⟩,
    ⟨shaft0 ((put (busy 10 1 []) [(0x3010, 5,
        100)]).setBytes 0x3020 2 (jobOf 0x10000)) (fun x => { x with armed := true, referenced := true, traj := ⟨0, 200, 1000000000000, 0, 1, 0, 1⟩ }),
        0, 0, 0, 100, 0, tiny 10 1, by decide +kernel⟩⟩

theorem witness_DescriptorsRun :
    (∃ (s : State) (c : Nat) (id : _) (i : _) (p : _) (idx : _), c < 16 ∧ s.issue id = some i ∧ i.part c = some p
        ∧ (s.chip c).works = true ∧ p.complete = false ∧ p.loaded = true ∧ p.next = some idx ∧ s.ready i p idx)
    ∧ (∃ (s : State) (c : Nat) (k : _) (b : _) (r : _) (i : _) (p : _) (run : _) (g : _), c < 16 ∧ k < 8 ∧ b < 16
        ∧ (vget (vget (s.chip c).clusters k).banks b).round = some r ∧ (s.chip c).works = true ∧ (s.chip c).dropTo = none
        ∧ s.roundWaits c k b = false ∧ s.rowWaits c r.issue = false ∧ s.issue r.issue = some i ∧ i.part c = some p
        ∧ i.micro = none ∧ p.descs[r.ord]? = some run ∧ s.groupOf i p (r.ord + (s.descAt c i.slot p.part run.idx).passes - 1) = g
        ∧ s.piecesShort i p (r.ord + (s.descAt c i.slot p.part run.idx).passes - 1) = false
        ∧ (vget (vget (s.chip c).clusters k).banks b).epoch = (g.getLastD ⟨[]⟩).epoch ∧ r.zbFault g (s.ctx i p run.idx) = none
        ∧ g.any (s.beyond i p (kernelOf g)) = false)
    ∧ (∃ (s : State) (c : Nat) (k : _) (b : _) (r : _) (i : _) (p : _) (run : _) (g : _), c < 16 ∧ k < 8 ∧ b < 16
        ∧ (vget (vget (s.chip c).clusters k).banks b).round = some r ∧ (s.chip c).works = true ∧ (s.chip c).dropTo = none
        ∧ s.roundWaits c k b = false ∧ s.rowWaits c r.issue = false ∧ s.issue r.issue = some i ∧ i.part c = some p
        ∧ i.micro = none ∧ p.descs[r.ord]? = some run ∧ s.groupOf i p (r.ord + (s.descAt c i.slot p.part run.idx).passes - 1) = g
        ∧ s.piecesShort i p (r.ord + (s.descAt c i.slot p.part run.idx).passes - 1) = false
        ∧ (vget (vget (s.chip c).clusters k).banks b).epoch = (g.getLastD ⟨[]⟩).epoch ∧ r.zbFault g (s.ctx i p run.idx) = none
        ∧ g.any (s.beyond i p (kernelOf g)) = true)
    ∧ (∃ (s : State) (c : Nat) (k : _) (b : _) (r : _) (i : _) (p : _) (run : _) (u : Upset) (unit : _) (code : _) (detail : _),
        c < 16 ∧ (vget (vget (s.chip c).clusters k).banks b).round = some r ∧ (s.chip c).works = true ∧ (s.chip c).dropTo = none
        ∧ s.roundWaits c k b = false ∧ s.rowWaits c r.issue = false ∧ s.issue r.issue = some i ∧ i.part c = some p
        ∧ p.descs[r.ord]? = some run ∧ s.piecesShort i p (r.ord + (s.descAt c i.slot p.part run.idx).passes - 1) = false
        ∧ upsetUnit u c k b (vget (s.chip c).clusters k) r (s.groupOf i p (r.ord + (s.descAt c i.slot p.part run.idx).passes - 1)) (s.ctx i p run.idx) = some (unit,
        code, detail) ∧ s.isRetired unit = false)
    ∧ (∃ (s : State) (c : Nat) (e : _) (id : _) (q : _) (ord : _) (i : _) (p : _) (run : _) (d : _), c < 16 ∧ 1 ≤ e ∧ e ≤ 3
        ∧ (s.chip c).running e = some (id, q, ord) ∧ (s.chip c).works = true ∧ (e = 1 → s.underTest (.smithy c) = false
        ∧ 2 ≤ (s.chip c).tier) ∧ (e = 2 → s.underTest (.bellwether c) = false) ∧ s.rowWaits c id = false ∧ s.issue id = some i
        ∧ i.part c = some p ∧ i.micro = none ∧ (e = 1 → s.piecesShort i p ord = false) ∧ p.descs[ord]? = some run
        ∧ s.descAt c i.slot p.part run.idx = d ∧ s.beyond i p (kernelOf (s.groupOf i p ord)) d = false
        ∧ (e = 1 → d.op ≠ opUpdate → (smithyRun (s.groupOf i p ord) d (s.ctx i p run.idx)).zb = none) ∧ (e = 2 → d.op ≠ opUpdate
        ∧ (bellwetherRun d (s.ctx i p run.idx)).zb = none)
        ∧ (e = 3 → d.op = opPrefetch → d.inMap.zbFault (fun a => memRead (s.window c 0) (64 * d.inHandle + a)) = none))
    ∧ (∃ (s : State) (c : Nat) (e : _) (id : _) (q : _) (ord : _) (i : _) (p : _) (run : _) (d : _), c < 16 ∧ 1 ≤ e ∧ e ≤ 3
        ∧ (s.chip c).running e = some (id, q, ord) ∧ (s.chip c).works = true ∧ (e = 1 → s.underTest (.smithy c) = false
        ∧ 2 ≤ (s.chip c).tier) ∧ (e = 2 → s.underTest (.bellwether c) = false) ∧ s.rowWaits c id = false ∧ s.issue id = some i
        ∧ i.part c = some p ∧ i.micro = none ∧ (e = 1 → s.piecesShort i p ord = false) ∧ p.descs[ord]? = some run
        ∧ s.descAt c i.slot p.part run.idx = d ∧ s.beyond i p (kernelOf (s.groupOf i p ord)) d = true)
    ∧ (∃ (s : State) (c : Nat) (u : Upset) (id : _) (q : _) (ord : _) (i : _) (p : _) (run : _), c < 16
        ∧ (u = .smithyInt ∨ u = .smithySig) ∧ (s.chip c).run1 = some (id, q, ord) ∧ (s.chip c).works = true
        ∧ s.underTest (.smithy c) = false ∧ 2 ≤ (s.chip c).tier ∧ s.rowWaits c id = false ∧ s.issue id = some i
        ∧ i.part c = some p ∧ s.piecesShort i p ord = false ∧ p.descs[ord]? = some run ∧ (s.chip c).smithyAgain = false
        ∧ s.isRetired (.smithy c) = false) :=
  ⟨⟨busy 10 1 [issue0 (prun [])], 3, 0, issue0 (prun []), prun [], 0, by unfold State.ready; decide +kernel⟩,
    ⟨(busy 4 0 [roundIssue]).modChip 3 onBank, 3, 7, 15, rnd, roundIssue, prun [mrun], mrun, _, by decide +kernel,
        by decide +kernel, by decide +kernel, by decide +kernel, by decide +kernel, by decide +kernel, by decide +kernel,
        by decide +kernel, by decide +kernel, by decide +kernel, by decide +kernel, by decide +kernel, rfl, by decide +kernel,
        by decide +kernel, by decide +kernel, by decide +kernel⟩,
    ⟨(busyOn farConv [roundIssue]).modChip 3 onBank, 3, 7, 15, rnd, roundIssue, prun [mrun], mrun, _, by decide +kernel,
        by decide +kernel, by decide +kernel, by decide +kernel, by decide +kernel, by decide +kernel, by decide +kernel,
        by decide +kernel, by decide +kernel, by decide +kernel, by decide +kernel, by decide +kernel, rfl, by decide +kernel,
        by decide +kernel, by decide +kernel, by decide +kernel⟩,
    ⟨(busy 4 0 [roundIssue]).modChip 3 onBank, 3, 7, 15, rnd, roundIssue, prun [mrun], mrun, .accResidue 5, .accBank 3 7 15,
        0x5102, 5, by decide +kernel⟩,
    ⟨(busy 10 1 [smithyIssue]).modChip 3 onSmithy, 3, 1, 0, 0, 0, smithyIssue, prun [erun], erun, _, by decide +kernel,
        by decide +kernel, by decide +kernel, by decide +kernel, by decide +kernel, by decide +kernel, by decide +kernel,
        by decide +kernel, by decide +kernel, by decide +kernel, by decide +kernel, by decide +kernel, by decide +kernel, rfl,
        by decide +kernel, by decide +kernel, by decide +kernel, by decide +kernel⟩,
    ⟨(busyOn farAdd [smithyIssue]).modChip 3 onSmithy, 3, 1, 0, 0, 0, smithyIssue, prun [erun], erun, _, by decide +kernel,
        by decide +kernel, by decide +kernel, by decide +kernel, by decide +kernel, by decide +kernel, by decide +kernel,
        by decide +kernel, by decide +kernel, by decide +kernel, by decide +kernel, by decide +kernel, by decide +kernel, rfl,
        by decide +kernel⟩,
    ⟨(busy 10 1 [smithyIssue]).modChip 3 onSmithy, 3, .smithySig, 0, 0, 0, smithyIssue, prun [erun], erun, by decide +kernel⟩⟩

theorem witness_ChainsFed :
    (∃ (s : State) (id : _) (n : _) (i : _) (m : _) (h : _) (a : _) (b : _) (k : _), s.issue id = some i
        ∧ s.model i.slot = some m ∧ m.variant.handOffs[n]? = some h ∧ s.handsOver m i h = true
        ∧ i.parts.find? (fun p => decide (p.part = h.src)) = some a ∧ i.parts.find? (fun p => decide (p.part = h.dst)) = some b
        ∧ a.complete = true ∧ i.arrived.contains n = false ∧ s.routed a.chip b.chip = true ∧ (b.copy = some k ∨ (b.copy = none
        ∧ s.freeCopy i b = some k)))
    ∧ (∃ (s : State) (c : _) (id : _) (i : _) (p : _) (m : _) (piece : _), c < 16 ∧ s.issue id = some i ∧ i.part c = some p
        ∧ s.model i.slot = some m ∧ p.loaded = true
        ∧ (s.piecesOf i p (s.chainFrom c i.slot p.part (m.variant.entryOn (s.entryOf m i p.part) p.part).first (m.variant.part p.part).descCount))[p.pieces]? = some piece
        ∧ s.piecesHeld c i.slot < 2)
    ∧ (∃ (s : State) (c : _) (id : _) (i : _), s.issue id = some i ∧ 2 ≤ s.piecesHeld c i.slot)
    ∧ (∃ (s : State) (c : _) (slot : _) (l : _), c < 16 ∧ (s.chip c).loading.contains slot = true
        ∧ evictPool (s.imageSize c) (s.imageUsed c) (s.poolSize c 256) (s.imageSize c slot) ((s.chip c).pool.length + 1) (s.chip c).pool = some l)
    ∧ (∃ (s : State) (c : _) (slot : _), c < 16 ∧ (s.chip c).loading.contains slot = true
        ∧ evictPool (s.imageSize c) (s.imageUsed c) (s.poolSize c 256) (s.imageSize c slot) ((s.chip c).pool.length + 1) (s.chip c).pool = none) :=
  ⟨⟨(busy 10 1 [{ issue0 (prun []) with parts := [{ prun [] with complete := true }, { prun [] with part := 1, chip := 2, copy := none }] }]).modSlot 0 (fun x => { x with model := some tinyH }),
        0, 0,
        { issue0 (prun []) with parts := [{ prun [] with complete := true }, { prun [] with part := 1, chip := 2, copy := none }] },
        tinyH, ⟨0, 1, 0, 0, 0, 1⟩, { prun [] with complete := true }, { prun [] with part := 1, chip := 2, copy := none }, 0,
        by decide +kernel⟩,
    ⟨(busy 10 1 [issue0 (prun [])]).modSlot 0 (fun x => { x with model := some tinyW }), 3, 0, issue0 (prun []), prun [], tinyW,
        (0, 1), by decide +kernel⟩,
    ⟨busy 10 1 [issue0 { prun [] with pieces := 2 }], 3, 0, issue0 { prun [] with pieces := 2 }, by decide +kernel⟩,
    ⟨(busy 10 1 []).modChip 3 (fun x => { x with loading := [0] }), 3, 0, [], by decide +kernel⟩,
    ⟨((put (busy 10 1 []) [(0x4001, 1, 0), (0x4001, 4,
        5)]).modSlot 1 (fun x => { x with model := some { tiny 10 1 with placed := [⟨3, 32505792, 0⟩] } })).modChip 3 (fun x => { x with loading := [0] }),
        3, 0, by decide +kernel⟩⟩

theorem witness_JobsComplete :
    (∃ (s : State) (id : _) (i : _), s.issue id = some i ∧ s.ripe i = true ∧ s.isWakeJob i.tenant i.job = false ∧ i.tenant < 16
        ∧ i.job < 15)
    ∧ (∃ (s : State) (id : _) (i : _) (p : _) (d : _) (wake : _), s.issue id = some i ∧ s.ripe i = true
        ∧ s.isWakeJob i.tenant i.job = true ∧ i.tenant < 16 ∧ i.job < 15 ∧ s.streamOf i = some (p, d)
        ∧ leNat ((List.range 2).map (fun a => s.loftByte i p (64 * d.outHandle + a))) = wake)
    ∧ (∃ (s : State) (id : _) (i : _), s.issue id = some i ∧ s.ripe i = false)
    ∧ (∃ (s : State) (t : _) (j : _) (a : _) (turns : _) (sh : _), t < 16 ∧ j < 15 ∧ (s.job t j).holdOver = some (a, turns, sh)
        ∧ turns * 2 ^ 24 ≤ ((s.shaft sh).angle - a).natAbs)
    ∧ (∃ (s : State) (t : _) (j : _) (a : _) (turns : _) (sh : _), t < 16 ∧ j < 15 ∧ (s.job t j).holdOver = some (a, turns, sh)
        ∧ ((s.shaft sh).angle - a).natAbs < turns * 2 ^ 24) :=
  ⟨⟨busy 10 1 [{ issue0 (prun []) with finished := true }], 0, { issue0 (prun []) with finished := true }, by decide +kernel⟩,
    ⟨busy 16 1 [{ issue0 (prun [erun]) with finished := true }], 0, { issue0 (prun [erun]) with finished := true }, prun [erun],
        (busy 16 1 []).descAt 3 0 0 0, 0, by decide +kernel⟩,
    ⟨busy 10 1 [issue0 (prun [])], 0, issue0 (prun []), by decide +kernel⟩,
    ⟨(shaft0 w (fun x => { x with angle := -2 * turn })).modJob 15 14 (fun r => { r with holdOver := some (0, 2, 0) }), 15, 14,
        0, 2, 0, by decide +kernel⟩,
    ⟨(shaft0 w (fun x => { x with angle := turn })).modJob 15 14 (fun r => { r with holdOver := some (0, 2, 0) }), 15, 14, 0, 2,
        0, by decide +kernel⟩⟩

theorem witness_TenantsManaged :
    (∃ (s : State) (n : Net) (t : Nat), t < 16 ∧ s.accepts n (blk t 0) 3 (leBytes 1 1) (fun s => s.tenantDeny t 1))
    ∧ (∃ (s : State) (n : Net) (t : Nat), t < 16 ∧ s.accepts n (blk t 0) 3 (leBytes 1 2) (fun s => s.tenantDeny t 2))
    ∧ (∃ (s : State) (n : Net) (t : Nat), t < 16 ∧ s.accepts n (blk t 0) 3 (leBytes 1 3) (fun s => s.tenantDeny t 3))
    ∧ (∃ (s : State) (n : Net) (t : Nat), t < 16 ∧ s.accepts n (blk t 0) 3 (leBytes 1 4) (fun s => s.tenantDeny t 4))
    ∧ (∃ (s : State) (n : Net) (t : Nat) (sub : Nat) (v : Nat), t < 16
        ∧ s.accepts n (blk t 1) sub (numBytes (blk t 1) sub v) (fun s => s.quotaDeny t sub v))
    ∧ (∃ (s : State) (n : Net) (t : Nat) (sub : Nat) (v : Nat), t < 16 ∧ s.serves n = true
        ∧ (s.asked n).writeDeny n (blk t 1) sub (numBytes (blk t 1) sub v) none = none
        ∧ ((s.asked n).quotaHeld t sub v).2 = true)
    ∧ (∃ (s : State) (n : Net) (t : Nat) (key : List Byte), t < 16 ∧ s.accepts n (blk t 2) 1 key (fun _ => keyDeny t key)) :=
  ⟨⟨w.setBytes 0x3F02 1 vk, .ecat, 15, by unfold State.accepts; decide +kernel⟩,
    ⟨put w [(0x3F00, 2, 1)], .ecat, 15, by unfold State.accepts; decide +kernel⟩,
    ⟨put w [(0x3F00, 2, 2)], .ecat, 15, by unfold State.accepts; decide +kernel⟩,
    ⟨put w [(0x3F00, 2, 2)], .ecat, 15, by unfold State.accepts; decide +kernel⟩,
    ⟨put w [(0x3F00, 2, 1)], .ecat, 15, 6, 3, by unfold State.accepts; decide +kernel⟩,
    ⟨busy 10 1 [], .ecat, 0, 1, 1, by decide +kernel⟩,
    ⟨put w [(0x3F00, 2, 1)], .ecat, 15, vk, by unfold State.accepts; decide +kernel⟩⟩

theorem witness_BundleKeysUnwrapped :
    (∃ (s : State) (n : Net) (t : Nat) (w : List Byte) (key : List Byte), t < 16 ∧ s.serves n = true ∧ w.length = 60
        ∧ (s.asked n).writeDeny n (blk t 2) 8 w none = none
        ∧ gcmOpen s.boot.fuses.wrapKey (w.take 12) (leBytes 1 t) (slice w 12 32) (slice w 44 16) = some key)
    ∧ (∃ (s : State) (n : Net) (t : Nat) (w : List Byte), t < 16 ∧ s.serves n = true ∧ w.length = 60
        ∧ (s.asked n).writeDeny n (blk t 2) 8 w none = none
        ∧ gcmOpen s.boot.fuses.wrapKey (w.take 12) (leBytes 1 t) (slice w 12 32) (slice w 44 16) = none) :=
  ⟨⟨({ put w [(0x3300, 2, 1)] with boot := { fuses := { wrapKey := (List.range 32).map (BitVec.ofNat 8) } } } : State), .ecat,
        3, wrapped, (List.range 32).map (fun i => BitVec.ofNat 8 (100 + i)), by decide +kernel⟩,
    ⟨({ put w [(0x3300, 2, 1)] with boot := { fuses := { wrapKey := (List.range 32).map (BitVec.ofNat 8) } } } : State), .ecat,
        3, List.replicate 60 0#8, by decide +kernel⟩⟩

theorem witness_SessionsOpenAndEnd :
    (∃ (s : State) (n : Net) (t : Nat), t < 16 ∧ s.serves n = true ∧ (s.asked n).readDeny n (blk t 2) 2 = none
        ∧ (s.tenant t).locked = false)
    ∧ (∃ (s : State) (n : Net) (t : Nat) (c : _) (a : _), t < 16 ∧ vget (s.tenant t).challenge n.num = some (c, a)
        ∧ a + 10000000 ≤ s.micros)
    ∧ (∃ (s : State) (n : Net) (t : Nat) (c : _) (a : _), t < 16 ∧ vget (s.tenant t).challenge n.num = some (c, a)
        ∧ s.micros < a + 10000000)
    ∧ (∃ (s : State) (n : Net) (t : Nat) (sig : List Byte), t < 16 ∧ s.serves n = true
        ∧ (s.asked n).rightsDeny n (blk t 2) 3 = none ∧ valueDeny (blk t 2) 3 sig = none ∧ s.authOk n t sig = true)
    ∧ (∃ (s : State) (n : Net) (t : Nat) (v : _), t < 16 ∧ s.accepts n (blk t 2) 5 (numBytes (blk t 2) 5 v) (fun _ => none))
    ∧ (∃ (s : State) (n : Net) (t : Nat) (x : _), t < 16 ∧ (s.box n).session = some x
        ∧ x.last + 1000000 * s.nat (blk x.tenant 2) 6 ≤ s.micros)
    ∧ (∃ (s : State) (n : Net) (t : Nat) (x : _), t < 16 ∧ (s.box n).session = some x
        ∧ s.micros < x.last + 1000000 * s.nat (blk x.tenant 2) 6) :=
  ⟨⟨put w [(0x3F00, 2, 1)], .ecat, 15, by decide +kernel⟩,
    ⟨w.modTenant 15 (fun x => { x with challenge := vset x.challenge 1 (some ([], 0)) }), .can, 15, [], 0, by decide +kernel⟩,
    ⟨w.modTenant 15 (fun x => { x with challenge := vset x.challenge 1 (some ([], 9999999999)) }), .can, 15, [], 9999999999,
        by decide +kernel⟩,
    ⟨asked15, .ecat, 15, response15, by decide +kernel⟩,
    ⟨w, .ecat, 0, 1, by unfold State.accepts; decide +kernel⟩,
    ⟨w, .ecat, 0, ⟨0, 9000000000⟩, by decide +kernel⟩,
    ⟨w.modBox .ecat (fun b => { b with session := some ⟨0, 9999999999⟩ }), .ecat, 0, ⟨0, 9999999999⟩, by decide +kernel⟩⟩

theorem witness_AuthenticationFailures :
    (∃ (s : State) (n : Net) (t : Nat) (sig : List Byte), t < 16 ∧ s.serves n = true
        ∧ (s.asked n).rightsDeny n (blk t 2) 3 = none ∧ valueDeny (blk t 2) 3 sig = none
        ∧ (vget (s.tenant t).challenge n.num = none ∨ ∃ c a, vget (s.tenant t).challenge n.num = some (c, a)
        ∧ (a + 10000000 ≤ s.micros ∨ s.authKey t = [] ∨ ecdsaVerify (s.authKey t) (sha256 (s.authMessage n t c)) sig = false)))
    ∧ (∃ (s : State) (n : Net) (t : Nat), t < 16 ∧ s.serves n = true ∧ (s.asked n).readDeny n (blk t 2) 2 = none
        ∧ (s.tenant t).locked = true)
    ∧ (∃ (s : State) (t : Nat), t < 16 ∧ (s.tenant t).locked = true ∧ (s.tenant t).failTimes.headD 0 + 60000000 ≤ s.micros)
    ∧ (∃ (s : State) (t : Nat), t < 16 ∧ s.micros < (s.tenant t).failTimes.headD 0 + 60000000) :=
  ⟨⟨put w [(0x3F00, 2, 1)], .ecat, 15, List.replicate 64 0#8, by decide +kernel, by decide +kernel, by decide +kernel,
        by decide +kernel, Or.inl (by decide +kernel)⟩,
    ⟨(put w [(0x3F00, 2, 1)]).modTenant 15 (fun x => { x with locked := true, failTimes := [9999999999] }), .ecat, 15,
        by decide +kernel⟩,
    ⟨w.modTenant 15 (fun x => { x with locked := true, failTimes := [5] }), 15, by decide +kernel⟩,
    ⟨w.modTenant 15 (fun x => { x with locked := true, failTimes := [9999999999] }), 15, by decide +kernel⟩⟩

theorem witness_SlotsAdmitAndEvict :
    (∃ (s : State) (k : Nat) (n : _), k < 256 ∧ (s.slot k).download = some n ∧ (s.box n).foe = some k)
    ∧ (∃ (s : State) (k : Nat) (n : _) (x : _), k < 256 ∧ (s.slot k).download = some n ∧ (s.box n).foe ≠ some k
        ∧ (s.box n).xfer = some x ∧ x.whole = true ∧ x.index = 0x4000 + k)
    ∧ (∃ (s : State) (k : Nat) (n : _), k < 256 ∧ s.accepts n (0x4000 + k) 3 (leBytes 1 1) (fun s => s.slotDeny k 1))
    ∧ (∃ (s : State) (k : Nat) (m : _), k < 256 ∧ s.tray ≠ .selfTest ∧ s.nat (0x4000 + k) 4 = 3
        ∧ s.judge k ((s.slot k).staged.getD []) (s.flag (0x4000 + k) 5) = .ok m)
    ∧ (∃ (s : State) (k : Nat) (f : _), k < 256 ∧ s.tray ≠ .selfTest ∧ s.nat (0x4000 + k) 4 = 3
        ∧ s.judge k ((s.slot k).staged.getD []) (s.flag (0x4000 + k) 5) = .error f)
    ∧ (∃ (s : State) (k : Nat) (m : _) (secs : _), k < 256 ∧ s.tray = .selfTest ∧ s.power.step = 13
        ∧ s.store.readmit.head? = some k ∧ s.model k = some m ∧ (s.slot k).unplaced = false ∧ s.openBundle k m.bundle = .ok secs
        ∧ tableFault m.variant (s.nat (0x4000 + k) 1) k m.placed = none)
    ∧ (∃ (s : State) (k : Nat) (n : _), k < 256 ∧ s.accepts n (0x4000 + k) 3 (leBytes 1 2) (fun s => s.slotDeny k 2))
    ∧ (∃ (s : State) (k : Nat) (n : _), k < 256 ∧ s.serves n = true
        ∧ (s.asked n).writeDeny n (0x4000 + k) 3 (leBytes 1 2) none = none ∧ s.slotNamed k = true)
    ∧ (∃ (s : State) (k : Nat) (n : _), k < 256 ∧ s.accepts n (0x4000 + k) 3 (leBytes 1 3) (fun s => s.slotDeny k 3))
    ∧ (∃ (s : State) (k : Nat) (n : _), k < 256 ∧ s.accepts n (0x4000 + k) 3 (leBytes 1 4) (fun s => s.slotDeny k 4))
    ∧ (∃ (s : State) (k : Nat) (n : _), k < 256 ∧ s.accepts n (0x4000 + k) 3 (leBytes 1 5) (fun s => s.slotDeny k 5)) :=
  ⟨⟨(w.modSlot 255 (fun x => { x with download := some .ecat, staged := none })).modBox .ecat (fun b => { b with foe := some 255 }),
        255, .ecat, by decide +kernel⟩,
    ⟨(w.modSlot 255 (fun x => { x with download := some .ecat, staged := none })).modBox .ecat (fun b => { b with xfer := some { upload := false, index := 0x40FF, sub := 2, size := 0, data := [], toggle := false, tenant := some 0, controlling := true, whole := true, last := 9000000000 } }),
        255, .ecat,
        { upload := false, index := 0x40FF, sub := 2, size := 0, data := [], toggle := false, tenant := some 0, controlling := true, whole := true, last := 9000000000 },
        by decide +kernel⟩,
    ⟨put w [(0x40FF, 1, 0), (0x40FF, 4, 2)], 255, .ecat, by unfold State.accepts; decide +kernel⟩,
    judged_ok offered 0 (by decide +kernel) (by decide +kernel),
    judged_error (put w [(0x40FF, 4, 3)]) 255 (by decide +kernel) (by decide +kernel),
    readmits,
    ⟨put w [(0x40FF, 1, 0), (0x40FF, 4, 4)], 255, .ecat, by unfold State.accepts; decide +kernel⟩,
    ⟨busy 10 1 [], 0, .ecat, by decide +kernel⟩,
    ⟨put (busy 10 1 []) [(0x3020, 1, 0), (0x4000, 4, 4)], 0, .ecat, by unfold State.accepts; decide +kernel⟩,
    ⟨put (busy 10 1 []) [(0x3020, 1, 0), (0x4000, 4, 5)], 0, .ecat, by unfold State.accepts; decide +kernel⟩,
    ⟨put w [(0x40FF, 1, 0), (0x40FF, 4, 2)], 255, .ecat, by unfold State.accepts; decide +kernel⟩⟩

theorem witness_TokenSessions :
    (∃ (s : State) (i : Nat) (n : _) (u : Nat), i < 8 ∧ s.accepts n (tokIndex i) 1 (leBytes 1 1) (fun s => s.tokenCmdDeny n i 1)
        ∧ s.session n = some u)
    ∧ (∃ (s : State) (i : Nat) (n : _), i < 8 ∧ s.accepts n (tokIndex i) 1 (leBytes 1 2) (fun s => s.tokenCmdDeny n i 2))
    ∧ (∃ (s : State) (i : Nat) (n : _), i < 8 ∧ s.accepts n (tokIndex i) 1 (leBytes 1 3) (fun s => s.tokenCmdDeny n i 3))
    ∧ (∃ (s : State) (i : Nat) (n : _), i < 8 ∧ s.accepts n (tokIndex i) 1 (leBytes 1 4) (fun s => s.tokenCmdDeny n i 4))
    ∧ (∃ (s : State) (i : Nat) (n : _), i < 8 ∧ s.accepts n (tokIndex i) 1 (leBytes 1 5) (fun s => s.tokenCmdDeny n i 5)
        ∧ (s.token i).outstanding = false)
    ∧ (∃ (s : State) (i : Nat) (n : _), i < 8 ∧ s.accepts n (tokIndex i) 1 (leBytes 1 5) (fun s => s.tokenCmdDeny n i 5)
        ∧ (s.token i).outstanding = true)
    ∧ (∃ (s : State) (i : Nat) (slot : _) (e : _) (m : _) (rows : _), i < 8 ∧ s.model slot = some m
        ∧ rows = (s.readyTokens slot e).take m.variant.batch ∧ rows ≠ [] ∧ s.runs = true ∧ (s.slot slot).unplaced = false
        ∧ m.variant.vocab ≠ 0 ∧ s.slotFree false (s.nat (0x4000 + slot) 1) m.chips = true)
    ∧ (∃ (s : State) (i : Nat) (id : _) (x : _), i < 8 ∧ s.issue id = some x ∧ x.finished = true ∧ x.kind = 4 ∧ x.rows.Nodup
        ∧ (∀ k ∈ x.rows, k < 8)) :=
  ⟨⟨w, 7, .ecat, 0, by unfold State.accepts; decide +kernel⟩,
    ⟨talking 1, 7, .ecat, by unfold State.accepts; decide +kernel⟩,
    ⟨put w [(0x6107, 2, 0), (0x6107, 3, 2)], 7, .ecat, by unfold State.accepts; decide +kernel⟩,
    ⟨(put w [(0x6107, 2, 0), (0x6107, 3, 1)]), 7, .ecat, by unfold State.accepts; decide +kernel⟩,
    ⟨(put w [(0x6107, 2, 0), (0x6107, 3, 1)]), 7, .ecat, by unfold State.accepts; decide +kernel⟩,
    ⟨(put w [(0x6107, 2, 0), (0x6107, 3, 1)]).modToken 7 (fun x => { x with outstanding := true }), 7, .ecat,
        by unfold State.accepts; decide +kernel⟩,
    ⟨(talking 2).modToken 7 (fun x => { x with ready := true }), 7, 0, 0, tinyT, [7], by decide +kernel⟩,
    ⟨(put (busy 10 1 [{ issue0 (prun []) with finished := true, kind := 4, rows := [7], tokens := [5], tokenJobs := [(0, 0)] }]) [(0x6107,
        2, 0), (0x6107, 3, 2)]).modToken 7 (fun x => { x with outstanding := true }), 7, 0,
        { issue0 (prun []) with finished := true, kind := 4, rows := [7], tokens := [5], tokenJobs := [(0, 0)] },
        by decide +kernel⟩⟩

theorem witness_LearningFrames :
    (∃ (s : State) (h : MootHdr), s.hears h ∧ s.leads = true ∧ s.nearStep h.step = true ∧ s.notReady
        ∧ (s.learn.phase ≠ 1 ∨ ∃ p ∈ s.seats, p.2 ≠ h.src ∧ s.parish.bids.contains p.2 = false))
    ∧ (∃ (s : State) (h : MootHdr), s.hears h ∧ s.leads = true ∧ s.learn.phase = 1 ∧ s.learn.step = h.step ∧ (∀ p ∈ s.seats,
        p.2 = h.src ∨ s.parish.bids.contains p.2 = true))
    ∧ (∃ (s : State) (h : MootHdr), s.hears h ∧ s.inStep h.step = true ∧ (s.learn.phase = 1 ∨ s.learn.phase = 2))
    ∧ (∃ (s : State) (h : MootHdr) (p : MootPre) (data : List Byte) (q : _) (r : _) (same : _) (chunks : _), s.hears h
        ∧ s.nearStep h.step = true ∧ s.notReady ∧ s.layerRec p.layer = some (q, r)
        ∧ same = (fun x : StagedPart => decide (x.layer = p.layer ∧ x.shard = p.shard ∧ x.replica = p.replica))
        ∧ ((s.learn.staged.find? same).map StagedPart.whole).getD false = false
        ∧ chunks = insertKey p.offset data (((s.learn.staged.find? same).map StagedPart.chunks).getD []))
    ∧ (∃ (s : State) (layer : _) (shard : _) (f : _) (x : _), s.learn.folds.find? (fun g => decide (g.layer = layer
        ∧ g.shard = shard)) = some f ∧ s.learn.staged.find? (fun x => decide (x.layer = layer ∧ x.shard = shard
        ∧ x.replica = f.next) && x.whole) = some x
        ∧ (s.learn.phase ≠ 3 ∨ s.issues.any (fun i => i.micro.isSome) = true ∨ s.parish.fuseSent = true ∨ ((∃ o ∈ s.owned,
        o.2.1.layer = layer ∧ o.2.2.1 = shard) ∧ ∀ g ∈ s.learn.folds,
        g.layer = layer → g.shard = shard → g.next + 1 < s.learn.q)))
    ∧ (∃ (s : State) (layer : _) (shard : _) (f : _) (x : _), s.learn.folds.find? (fun g => decide (g.layer = layer
        ∧ g.shard = shard)) = some f ∧ s.learn.staged.find? (fun x => decide (x.layer = layer ∧ x.shard = shard
        ∧ x.replica = f.next) && x.whole) = some x ∧ s.learn.phase = 3 ∧ s.issues.any (fun i => i.micro.isSome) = false
        ∧ s.parish.fuseSent = false ∧ s.leads = false ∧ s.learn.q ≤ f.next + 1 ∧ (∀ o ∈ s.owned, (o.2.1.layer = layer
        ∧ o.2.2.1 = shard) ∨ ∃ g ∈ s.learn.folds, g.layer = o.2.1.layer ∧ g.shard = o.2.2.1 ∧ s.learn.q ≤ g.next))
    ∧ (∃ (s : State) (layer : _) (shard : _), s.learn.folds.find? (fun g => decide (g.layer = layer ∧ g.shard = shard)) = none)
    ∧ (∃ (s : State) (h : MootHdr), s.hears h ∧ s.leads = true ∧ s.inStep h.step = true ∧ s.notReady
        ∧ (s.learn.phase ≠ 4 ∨ ∃ p ∈ s.seats, p.2 ≠ h.src ∧ ∀ x ∈ s.parish.fuses, x.1 ≠ p.2))
    ∧ (∃ (s : State) (h : MootHdr) (f : _) (all : _) (total : _), s.hears h ∧ s.leads = true ∧ s.learn.phase = 4
        ∧ s.learn.step = h.step ∧ s.owned ≠ [] ∧ all = (h.src, f) :: s.parish.fuses.filter (fun r => decide (r.1 ≠ h.src))
        ∧ (∀ p ∈ s.seats, ∃ x ∈ all, x.1 = p.2)
        ∧ total = (s.seats.map Prod.snd).foldl (fun a t => a.fold (((all.find? (fun r => decide (r.1 = t))).map Prod.snd).getD FusePart.zero) t) FusePart.zero
        ∧ total.overflow = 0 ∧ total.nonFinite = 0)
    ∧ (∃ (s : State) (h : MootHdr) (d : Decide), s.hears h ∧ s.inStep h.step = true ∧ 3 ≤ s.learn.phase ∧ s.learn.phase ≤ 5
        ∧ d.outcome = 1 ∧ (s.owned ≠ [] ∨ s.leads = false))
    ∧ (∃ (s : State) (h : MootHdr) (d : Decide), s.hears h ∧ s.inStep h.step = true ∧ 3 ≤ s.learn.phase ∧ s.learn.phase ≤ 5
        ∧ d.outcome ≠ 1 ∧ s.unapplied)
    ∧ (∃ (s : State) (h : MootHdr), s.hears h ∧ s.inStep h.step = true ∧ s.notReady)
    ∧ (∃ (s : State) (p : MootPre) (ty : _), (∀ x ∈ s.learn.chunks, ¬ (x.type = ty ∧ x.layer = p.layer ∧ x.shard = p.shard
        ∧ x.content = p.content)))
    ∧ (∃ (s : State) (h : MootHdr), s.hears h ∧ s.leads = true ∧ s.inStep h.step = true ∧ s.notReady
        ∧ (s.learn.phase ≠ 6 ∨ s.parish.committedSent = true ∨ ∃ p ∈ s.seats, p.2 ≠ h.src ∧ ∀ x ∈ s.parish.readies, x.1 ≠ p.2))
    ∧ (∃ (s : State) (h : MootHdr), s.hears h ∧ s.leads = true ∧ s.inStep h.step = true ∧ s.learn.phase = 6
        ∧ s.parish.committedSent = false ∧ s.unapplied ∧ (∀ p ∈ s.seats, p.2 = h.src ∨ ∃ x ∈ s.parish.readies, x.1 = p.2))
    ∧ (∃ (s : State) (h : MootHdr), s.hears h ∧ s.inStep h.step = true ∧ s.unapplied)
    ∧ (∃ (s : State) (n : _) (data : List Byte), s.accepts n 0x5003 2 data (fun s => s.labelDeny 2 data))
    ∧ (∃ (s : State) (n : _) (data : List Byte), s.accepts n 0x5003 1 data (fun s => s.labelDeny 1 data)) :=
  ⟨⟨moot .learning {}, hdr 1, by unfold State.hears State.notReady; decide +kernel⟩,
    ⟨(moot .learning (inPhase 1)).modParish (fun p => { p with bids := [0, 1] }), hdr 1, by unfold State.hears; decide +kernel⟩,
    ⟨moot .learning (inPhase 2), hdr 1, by unfold State.hears; decide +kernel⟩,
    ⟨moot .learning (inPhase 3), hdr 1, ⟨5, 0, 0, 0, 0, 2⟩, [1#8, 2#8], 0, ⟨5, 0, 0, 0, 0, 1, 0, 1, 1, 0⟩, _, _,
        by unfold State.hears; decide +kernel, by decide +kernel, by unfold State.notReady; decide +kernel, by decide +kernel,
        rfl, by decide +kernel, rfl⟩,
    ⟨({ w with learn := { phase := 4, folds := [⟨5, 0, 0, []⟩], staged := [⟨5, 0, 0, 2, [], [1065353216], true⟩] } } : State), 5,
        0, ⟨5, 0, 0, []⟩, ⟨5, 0, 0, 2, [], [1065353216], true⟩, by decide +kernel⟩,
    ⟨(moot .learning { inPhase 3 with q := 1, folds := [⟨5, 0, 0, []⟩], staged := [⟨5, 0, 0, 2, [], [1065353216], true⟩] }).modParish (fun p => { p with leader := 0 }),
        5, 0, ⟨5, 0, 0, []⟩, ⟨5, 0, 0, 2, [], [1065353216], true⟩, by decide +kernel⟩,
    ⟨w, 5, 0, by decide +kernel⟩,
    ⟨moot .learning (inPhase 3), hdr 1, by unfold State.hears State.notReady; decide +kernel⟩,
    ⟨(moot .learning (inPhase 4)).modParish (fun p => { p with fuses := [(0, FusePart.zero), (1, FusePart.zero)] }), hdr 1,
        FusePart.zero, _, _, by unfold State.hears; decide +kernel, by decide +kernel, by decide +kernel, by decide +kernel,
        by decide +kernel, rfl, by decide +kernel, rfl, by decide +kernel, by decide +kernel⟩,
    ⟨moot .learning (inPhase 5), hdr 1, ⟨1, 0, 0, 0, 0, 0⟩, by unfold State.hears; decide +kernel⟩,
    ⟨moot .learning (inPhase 3), hdr 1, ⟨3, 0, 0, 0, 1, 0⟩, by unfold State.hears State.unapplied; decide +kernel⟩,
    ⟨moot .learning (inPhase 3), hdr 1, by unfold State.hears State.notReady; decide +kernel⟩,
    ⟨w, ⟨5, 0, 0, 0, 0, 2⟩, mShadow, by decide +kernel⟩,
    ⟨moot .learning (inPhase 3), hdr 1, by unfold State.hears State.notReady; decide +kernel⟩,
    ⟨(moot .learning (inPhase 6)).modParish (fun p => { p with readies := [(0, 0), (1, 0)] }), hdr 1,
        by unfold State.hears State.unapplied; decide +kernel⟩,
    ⟨moot .learning (inPhase 3), hdr 1, by unfold State.hears State.unapplied; decide +kernel⟩,
    ⟨put ({ w with learn := { ring := [⟨7, [], none⟩] } } : State) [(0x5000, 19, 1), (0x5003, 1, 7)], .ecat, [1#8],
        by unfold State.accepts; decide +kernel⟩,
    ⟨({ w with learn := { ring := [⟨7, [], none⟩] } } : State), .ecat, leBytes 4 7, by unfold State.accepts; decide +kernel⟩⟩

theorem witness_StepsRolledBack :
    (∃ (s : State) (h : MootHdr) (target : _), s.hears h ∧ s.inStep h.step = true ∧ target + 1 = h.step
        ∧ s.outcomeOf h.step ≠ some 1)
    ∧ (∃ (s : State) (h : MootHdr), s.hears h ∧ s.leads = true ∧ s.inStep h.step = true ∧ s.parish.committedSent = false)
    ∧ (∃ (s : State) (m : _), s.parish.timerFrom = some m ∧ s.leads = true ∧ s.learn.phase ≠ 0 ∧ s.parish.committedSent = false
        ∧ (m + 4000 * s.nat 0x2800 10 ≤ s.micros ∨ (s.parish.pauseFrom = none
        ∧ m + 1000 * s.nat 0x2800 10 + s.parish.paused ≤ s.micros)))
    ∧ (∃ (s : State) (m : _), s.parish.timerFrom = some m ∧ s.micros < m + 4000 * s.nat 0x2800 10
        ∧ (s.parish.pauseFrom ≠ none ∨ s.micros < m + 1000 * s.nat 0x2800 10 + s.parish.paused))
    ∧ (∃ (s : State) (h : MootHdr) (seat : _), s.hears h ∧ s.trayId < 64 ∧ s.notReady ∧ s.ownSeat = 0xFF ∧ seat < 64)
    ∧ (∃ (s : State) (h : MootHdr) (p : MootPre) (data : List Byte) (q : _) (r : _) (m : _) (b : _), s.hears h ∧ s.notReady
        ∧ s.layerRec p.layer = some (q, r) ∧ s.learnModel = some m ∧ (s.storeChunk mRows p data).2 = some b)
    ∧ (∃ (s : State) (h : MootHdr) (p : MootPre) (data : List Byte) (q : _) (r : _) (m : _) (b : _), s.hears h ∧ s.notReady
        ∧ s.layerRec p.layer = some (q, r) ∧ s.learnModel = some m ∧ (s.storeChunk mRestore p data).2 = some b ∧ p.content = 1)
    ∧ (∃ (s : State) (h : MootHdr) (p : MootPre) (data : List Byte), s.hears h ∧ s.notReady
        ∧ (s.storeChunk mRows p data).2 = none)
    ∧ (∃ (s : State) (h : MootHdr) (p : MootPre) (data : List Byte) (b : _), s.hears h ∧ s.notReady
        ∧ (s.storeChunk mRestore p data).2 = some b ∧ p.content ≠ 1)
    ∧ (∃ (s : State) (h : MootHdr) (p : MootPre) (data : List Byte) (b : _), s.hears h ∧ s.notReady
        ∧ (s.storeChunk mCkpt p data).2 = some b)
    ∧ (∃ (s : State) (h : MootHdr), s.hears h ∧ s.notReady ∧ s.leads = true ∧ (∀ p ∈ s.seats,
        p.2 = h.src ∨ s.parish.ckptDones.contains p.2 = true))
    ∧ (∃ (s : State) (h : MootHdr), s.hears h ∧ s.notReady ∧ s.leads = true ∧ (∃ p ∈ s.seats, p.2 ≠ h.src
        ∧ s.parish.ckptDones.contains p.2 = false))
    ∧ (∃ (s : State), s.learn.writingRecord = true)
    ∧ (∃ (s : State), s.learn.writingRecord = false)
    ∧ (∃ (s : State) (n : _) (step : _), s.accepts n 0x7000 2 (leBytes 8 step) (fun s => s.replayDeny step))
    ∧ (∃ (s : State) (h : MootHdr) (step : _), s.hears h ∧ s.notReady ∧ (s.replayBase step).isSome = true ∧ s.tray = .ready)
    ∧ (∃ (s : State) (h : MootHdr) (step : _), s.hears h ∧ s.notReady ∧ (s.replayBase step = none ∨ s.tray ≠ .ready))
    ∧ (∃ (s : State) (h : MootHdr) (result : _), s.hears h ∧ s.notReady ∧ (result = 3 ∨ result = 4) ∧ s.nat 0x7000 1 = 1)
    ∧ (∃ (s : State) (n : _), s.learn.replaying = some n ∧ ((s.inParish = false ∧ s.nat 0x7000 1 = 1) ∨ s.leads = false))
    ∧ (∃ (s : State), s.learn.replaying = none) :=
  ⟨⟨moot .learning (inPhase 3), hdr 1, 0, by unfold State.hears; decide +kernel⟩,
    ⟨moot .learning (inPhase 3), hdr 1, by unfold State.hears; decide +kernel⟩,
    ⟨(moot .learning (inPhase 3)).modParish (fun p => { p with timerFrom := some 0 }), 0, by decide +kernel⟩,
    ⟨w.modParish (fun p => { p with timerFrom := some 9999999999 }), 9999999999, by decide +kernel⟩,
    ⟨(moot .ready {}).modParish (fun p => { p with seatMap := Vector.replicate 64 0xFF }), hdr 0, 63,
        by unfold State.hears State.notReady; decide +kernel⟩,
    ⟨moot .learning (inPhase 3), hdr 1, ⟨5, 0, 0, 0, 0, 2⟩, [1#8, 2#8], 0, ⟨5, 0, 0, 0, 0, 1, 0, 1, 1, 0⟩, tinyL, [1#8, 2#8],
        by unfold State.hears State.notReady; decide +kernel⟩,
    ⟨moot .learning (inPhase 3), hdr 1, ⟨5, 0, 0, 1, 0, 2⟩, [1#8, 2#8], 0, ⟨5, 0, 0, 0, 0, 1, 0, 1, 1, 0⟩, tinyL, [1#8, 2#8],
        by unfold State.hears State.notReady; decide +kernel⟩,
    ⟨moot .learning (inPhase 3), hdr 1, ⟨5, 0, 0, 0, 0, 3⟩, [1#8, 2#8], by unfold State.hears State.notReady; decide +kernel⟩,
    ⟨moot .learning (inPhase 3), hdr 1, ⟨5, 0, 0, 0, 0, 2⟩, [1#8, 2#8], [1#8, 2#8],
        by unfold State.hears State.notReady; decide +kernel⟩,
    ⟨moot .learning (inPhase 3), hdr 1, ⟨5, 0, 0, 0, 0, 2⟩, [1#8, 2#8], [1#8, 2#8],
        by unfold State.hears State.notReady; decide +kernel⟩,
    ⟨(moot .learning (inPhase 3)).modParish (fun p => { p with ckptDones := [0, 1] }), hdr 1,
        by unfold State.hears State.notReady; decide +kernel⟩,
    ⟨moot .learning (inPhase 3), hdr 1, by unfold State.hears State.notReady; decide +kernel⟩,
    ⟨({ w with learn := { writingRecord := true } } : State), by decide +kernel⟩,
    ⟨w, by decide +kernel⟩,
    ⟨({ w with learn := { checkpoints := [checkpoint], replay := [replayed] } } : State), .ecat, 5,
        by unfold State.accepts; decide +kernel⟩,
    ⟨moot .ready { checkpoints := [checkpoint], replay := [replayed] }, hdr 0, 5,
        by unfold State.hears State.notReady; decide +kernel⟩,
    ⟨moot .ready {}, hdr 0, 5, by unfold State.hears State.notReady; decide +kernel⟩,
    ⟨put (moot .learning (inPhase 3)) [(0x7000, 1, 1)], hdr 1, 4, by unfold State.hears State.notReady; decide +kernel⟩,
    ⟨put ({ w with learn := { replaying := some 5 } } : State) [(0x7000, 1, 1)], 5, by decide +kernel⟩,
    ⟨w, by decide +kernel⟩⟩

theorem witness_ParishSeats :
    (∃ (s : State) (n : _), s.accepts n 0x2800 1 [1] State.enableDeny ∧ s.inParish = false)
    ∧ (∃ (s : State) (n : _), s.accepts n 0x2800 1 [1] State.enableDeny ∧ s.inParish = true)
    ∧ (∃ (q : _), q < 2)
    ∧ (∃ (s : State) (p : _) (m : _), p < 64 ∧ p ≠ s.trayId ∧ (s.peer p).heard = some m ∧ s.inParish = true
        ∧ m + 16 * s.beat < s.micros ∧ (s.peer p).healthy = true)
    ∧ (∃ (s : State) (p : _) (m : _), (s.peer p).heard = some m ∧ (s.micros ≤ m + 16 * s.beat ∨ (s.peer p).healthy = false))
    ∧ (∃ (s : State), s.parish.recoverFrom = none)
    ∧ (∃ (s : State) (m : _), s.parish.recoverFrom = some m ∧ s.micros < m + 2 * s.beat)
    ∧ (∃ (s : State) (m : _), s.parish.recoverFrom = some m ∧ s.inParish = true ∧ s.leads = true ∧ m + 2 * s.beat ≤ s.micros
        ∧ s.stepInView = none ∧ s.openSeats = [])
    ∧ (∃ (s : State) (m : _), s.parish.recoverFrom = some m ∧ s.inParish = true ∧ s.leads = true ∧ m + 2 * s.beat ≤ s.micros
        ∧ s.learn.phase ≠ 0 ∧ s.openSeats = [] ∧ s.outcomeOf s.learn.step = none)
    ∧ (∃ (s : State) (m : _), s.parish.recoverFrom = some m ∧ s.inParish = true ∧ s.leads = true ∧ m + 2 * s.beat ≤ s.micros
        ∧ s.learn.phase ≠ 0 ∧ s.openSeats = [] ∧ s.outcomeOf s.learn.step = some 1 ∧ s.unapplied)
    ∧ (∃ (s : State) (m : _) (seat : _) (x : _) (rest : _), s.parish.recoverFrom = some m ∧ s.inParish = true ∧ s.leads = true
        ∧ m + 2 * s.beat ≤ s.micros ∧ s.stepInView = none ∧ s.openSeats = [seat] ∧ s.freeSpares = x :: rest ∧ x ≠ s.trayId
        ∧ s.sourceLeft seat = true)
    ∧ (∃ (s : State), s.parish.firstHello = none)
    ∧ (∃ (s : State) (m : _), s.parish.firstHello = some m ∧ (s.micros < m + 10000000 ∨ s.parish.started = true))
    ∧ (∃ (s : State) (m : _) (i : _) (x : _), s.parish.firstHello = some m ∧ s.inParish = true ∧ m + 10000000 ≤ s.micros
        ∧ s.parish.started = false ∧ i ∈ bitsSet 64 (s.nat 0x2800 5) ∧ vget s.parish.seatMap i = 0xFF
        ∧ bit s.parish.dropped i = false ∧ s.healthy i = false ∧ (∀ j ∈ bitsSet 64 (s.nat 0x2800 5),
        j < i → vget s.parish.seatMap j ≠ 0xFF ∨ bit s.parish.dropped j = true ∨ s.healthy j = true)
        ∧ s.freeSpares.head? = some x) :=
  ⟨⟨put w [(0x2800, 2, 1), (0x2800, 5, 2)], .ecat, by unfold State.accepts; decide +kernel⟩,
    ⟨moot .ready {}, .ecat, by unfold State.accepts; decide +kernel⟩,
    ⟨1, by decide +kernel⟩,
    ⟨(moot .ready {}).modPeer 63 (fun p => { p with heard := some 0 }), 63, 0, by decide +kernel⟩,
    ⟨(moot .ready {}).modPeer 63 (fun p => { p with heard := some 9999999999 }), 63, 9999999999, by decide +kernel⟩,
    ⟨w, by decide +kernel⟩,
    ⟨(moot .ready {}).modParish (fun p => { p with recoverFrom := some 9999999999 }), 9999999999, by decide +kernel⟩,
    ⟨(moot .ready {}).modParish (fun p => { p with recoverFrom := some 0 }), 0, by decide +kernel⟩,
    ⟨(moot .learning (inPhase 3)).modParish (fun p => { p with recoverFrom := some 0 }), 0, by decide +kernel⟩,
    ⟨((moot .learning (inPhase 3)).modParish (fun p => { p with recoverFrom := some 0 })).modPeer 0 (fun p => { p with outcomeStep := 1, outcome := 1 }),
        0, by unfold State.unapplied; decide +kernel⟩,
    ⟨((put (moot .ready {}) [(0x2800, 6,
        8)]).modPeer 2 (fun p => { p with healthy := false })).modParish (fun p => { p with recoverFrom := some 0 }), 0, 2, 3,
        [], by decide +kernel⟩,
    ⟨w, by decide +kernel⟩,
    ⟨w.modParish (fun p => { p with firstHello := some 9999999999 }), 9999999999, by decide +kernel⟩,
    ⟨((put (moot .ready {}) [(0x2800, 5, 1), (0x2800, 6,
        6)]).modPeer 0 (fun p => { p with healthy := false })).modParish (fun p => { p with firstHello := some 0, seatMap := Vector.replicate 64 0xFF }),
        0, 0, 1, by decide +kernel⟩⟩

theorem witness_MootFrames :
    (∃ (s : State), s.inParish = true ∧ s.selfHealthy = true ∧ s.elapsed 100000 s.parish.helloAt = true)
    ∧ (∃ (s : State), (s.inParish = false ∨ s.selfHealthy = false ∨ s.elapsed 100000 s.parish.helloAt = false))
    ∧ (∃ (s : State), s.inParish = true ∧ s.alive = true ∧ s.elapsed s.beat s.parish.beatAt = true)
    ∧ (∃ (s : State), s.elapsed s.beat s.parish.beatAt = false)
    ∧ (∃ (s : State) (h : MootHdr), s.hearsPlain h ∧ s.notReady)
    ∧ (∃ (s : State) (h : MootHdr) (tray : _), s.admits h ∧ h.unsequenced = true ∧ s.notReady ∧ (s.peer h.src).healthy = false
        ∧ 3 ≤ tray ∧ tray ≤ 5)
    ∧ (∃ (s : State) (h : MootHdr) (digest : _), s.admits h ∧ s.notReady ∧ digest ≠ s.configDigest)
    ∧ (∃ (s : State) (h : MootHdr) (tray : _) (seat : _), s.hearsPlain h ∧ s.notReady ∧ 3 ≤ tray ∧ tray ≤ 5 ∧ ((seat = 0xFF
        ∧ (s.peer h.src).seat = 0xFF) ∨ (seat < 64 ∧ vget s.parish.seatMap seat = h.src)))
    ∧ (∃ (s : State) (h : MootHdr) (tray : _), s.hearsPlain h ∧ s.notReady ∧ 3 ≤ tray ∧ tray ≤ 5 ∧ (s.peer h.src).seat < 64
        ∧ vget s.parish.seatMap (s.peer h.src).seat = h.src)
    ∧ (∃ (s : State) (p : Nat), p < 64 ∧ (s.peer p).ackOwed = true ∧ (s.peer p).ackFrom + 20 ≤ s.micros)
    ∧ (∃ (s : State) (p : Nat), ((s.peer p).ackOwed = false ∨ s.micros < (s.peer p).ackFrom + 20))
    ∧ (∃ (s : State) (p : Nat) (seq : _) (u : Unacked) (m : _), p < 64
        ∧ (s.peer p).unacked.find? (fun u => decide (u.frame.seq = seq) && u.out.isSome) = some u ∧ u.out = some m
        ∧ m + 200 ≤ s.micros ∧ u.resent < 8)
    ∧ (∃ (s : State) (p : Nat) (seq : _) (u : Unacked) (m : _), p < 64
        ∧ (s.peer p).unacked.find? (fun u => decide (u.frame.seq = seq) && u.out.isSome) = some u ∧ u.out = some m
        ∧ m + 200 ≤ s.micros ∧ 8 ≤ u.resent ∧ (s.peer p).healthy = true)
    ∧ (∃ (s : State) (p : Nat) (seq : _) (u : Unacked) (m : _), p < 64
        ∧ (s.peer p).unacked.find? (fun u => decide (u.frame.seq = seq) && u.out.isSome) = some u ∧ u.out = some m
        ∧ s.micros < m + 200)
    ∧ (∃ (s : State) (q : _) (d : Datagram), s.portUp q = true ∧ s.datagramOk d = false)
    ∧ (∃ (s : State) (q : _) (d : Datagram), (s.datagramOk d = true ∨ s.portUp q = false)) :=
  ⟨⟨moot .ready {}, by decide +kernel⟩,
    ⟨up .service, by decide +kernel⟩,
    ⟨moot .ready {}, by decide +kernel⟩,
    ⟨w.modParish (fun p => { p with beatAt := some 99999999999 }), by decide +kernel⟩,
    ⟨moot .ready {}, plain, by unfold State.hearsPlain State.notReady; decide +kernel⟩,
    ⟨(moot .ready {}).modPeer 2 (fun p => { p with healthy := false }), plain, 3,
        by unfold State.admits State.notReady; decide +kernel⟩,
    ⟨moot .ready {}, plain, 1, by unfold State.admits State.notReady; decide +kernel⟩,
    ⟨moot .ready {}, plain, 3, 2, by unfold State.hearsPlain State.notReady; decide +kernel⟩,
    ⟨(moot .ready {}).modPeer 2 (fun p => { p with seat := 2 }), plain, 3,
        by unfold State.hearsPlain State.notReady; decide +kernel⟩,
    ⟨(moot .ready {}).modPeer 63 (fun p => { p with ackOwed := true }), 63, by decide +kernel⟩,
    ⟨w, 63, by decide +kernel⟩,
    ⟨(moot .ready {}).modPeer 2 (fun p => { p with unacked := [⟨⟨mBid, 2, 7, 0, 0, 0, []⟩, 0, 0, some 0⟩] }), 2, 7, ⟨⟨mBid, 2, 7,
        0, 0, 0, []⟩, 0, 0, some 0⟩, 0, by decide +kernel⟩,
    ⟨(moot .ready {}).modPeer 2 (fun p => { p with unacked := [⟨⟨mBid, 2, 7, 0, 0, 0, []⟩, 8, 0, some 0⟩] }), 2, 7, ⟨⟨mBid, 2, 7,
        0, 0, 0, []⟩, 8, 0, some 0⟩, 0, by decide +kernel⟩,
    ⟨(moot .ready {}).modPeer 2 (fun p => { p with unacked := [⟨⟨mBid, 2, 7, 0, 0, 0, []⟩, 0, 0, some 9999999999⟩] }), 2, 7,
        ⟨⟨mBid, 2, 7, 0, 0, 0, []⟩, 0, 0, some 9999999999⟩, 9999999999, by decide +kernel⟩,
    ⟨moot .ready {}, 1, ⟨true, false, [], 0, []⟩, by decide +kernel⟩,
    ⟨w, 1, ⟨true, false, [], 0, []⟩, by decide +kernel⟩⟩

theorem witness_TestsAndBackgroundWork :
    (∃ (s : State) (c : Nat) (u : UnitRef) (t : Test), c < 16 ∧ u.onChip = true ∧ u.chip = some c ∧ (s.chip c).test = some t
        ∧ t.unit = u ∧ 2 ≤ (s.chip c).tier ∧ (s.recentTransients u).length < 3)
    ∧ (∃ (s : State) (c : Nat) (a : _) (t : Test), c < 16 ∧ a < 2 ∧ vget (s.chip c).linkTest a = some t ∧ t.unit = .byway c a
        ∧ t.issue = none ∧ (s.recentTransients t.unit).length < 3)
    ∧ (∃ (s : State) (c : Nat) (t : Test), c < 16 ∧ (s.chip c).pcieTest = some t ∧ t.unit = .pcie c ∧ t.issue = none
        ∧ (s.recentTransients t.unit).length < 3)
    ∧ (∃ (s : State) (c : Nat) (u : UnitRef) (t : Test), c < 16 ∧ u.chip = none
        ∧ s.faults.pageTests.find? (fun t => decide (t.unit = u)) = some t ∧ (s.recentTransients u).length < 3)
    ∧ (∃ (s : State) (c : Nat) (t : Test), c < 16 ∧ (s.chip c).whole = some [t] ∧ (2 ≤ (s.chip c).tier ∨ s.tray = .selfTest)
        ∧ (s.recentTransients t.unit).length < 3)
    ∧ (∃ (s : State) (c : Nat) (old : _), c < 16 ∧ (s.chip c).spareFor = some old ∧ (s.chip c).tier ≠ 0)
    ∧ (∃ (s : State) (c : Nat), c < 16 ∧ (s.chip c).attended = true ∧ ((1000000 ≤ s.micros - (s.chip c).mirror.lockedAt
        ∧ s.mayStart c = true) ∨ 1200000 ≤ s.micros - (s.chip c).mirror.lockedAt))
    ∧ (∃ (s : State) (c : Nat), c < 16 ∧ s.micros - (s.chip c).mirror.lockedAt < 1000000)
    ∧ (∃ (s : State) (c : Nat) (k : _), c < 16 ∧ k < 8 ∧ (s.chip c).attended = true ∧ s.flag 0x2430 2 = true
        ∧ (vget (s.chip c).clusters k).tuning = false ∧ k < tierClusters (s.chip c).tier
        ∧ ((vget (s.chip c).clusters k).tuneDue.isSome = true ∨ ((vget (s.chip c).clusters k).tuneNext).getD (1000000 * s.nat 0x2430 1) ≤ s.micros)
        ∧ (s.mayStart c = true ∨ ∃ m, (vget (s.chip c).clusters k).tuneForced = some m ∧ m + 1000000 ≤ s.micros)
        ∧ (vget (s.chip c).clusters k).rounds = [])
    ∧ (∃ (s : State) (c : Nat) (k : _), c < 16 ∧ k < 8 ∧ (s.chip c).attended = true ∧ s.flag 0x2430 2 = true
        ∧ (vget (s.chip c).clusters k).tuning = false ∧ k < tierClusters (s.chip c).tier
        ∧ ((vget (s.chip c).clusters k).tuneDue.isSome = true ∨ ((vget (s.chip c).clusters k).tuneNext).getD (1000000 * s.nat 0x2430 1) ≤ s.micros)
        ∧ ((vget (s.chip c).clusters k).rounds ≠ [] ∨ (s.mayStart c = false ∧ (vget (s.chip c).clusters k).tuneForced = none))
        ∧ (vget (s.chip c).clusters k).tuneDue = none)
    ∧ (∃ (s : State) (c : Nat) (k : _), c < 16 ∧ (vget (s.chip c).clusters k).tuneDue = none
        ∧ s.micros < ((vget (s.chip c).clusters k).tuneNext).getD (1000000 * s.nat 0x2430 1))
    ∧ (∃ (s : State) (c : Nat) (k : _) (m : _), c < 16 ∧ k < 8 ∧ (vget (s.chip c).clusters k).tuneDue = some m
        ∧ m + 10000000 ≤ s.micros ∧ (vget (s.chip c).clusters k).tuneForced = none ∧ (s.chip c).attended = true)
    ∧ (∃ (s : State) (c : Nat) (k : _), c < 16 ∧ k < 8 ∧ (vget (s.chip c).clusters k).tuning = true)
    ∧ (∃ (s : State) (c : Nat) (k : _) (b : _), c < 16 ∧ k < 8 ∧ b < 2 ∧ (s.chip c).attended = true ∧ s.flag 0x2430 3 = true
        ∧ s.mayStart c = true ∧ (vget (vget (s.chip c).clusters k).commons b).live = true
        ∧ (s.openGap c = none ∨ (vget (vget (s.chip c).clusters k).commons b).checkedIn ≠ s.openGap c))
    ∧ (∃ (s : State) (c : Nat) (k : _) (b : _), c < 16 ∧ k < 8 ∧ b < 2 ∧ (s.chip c).attended = true ∧ s.flag 0x2430 3 = true
        ∧ s.mayStart c = true ∧ (vget (vget (s.chip c).clusters k).commons b).live = true
        ∧ (s.openGap c = none ∨ (vget (vget (s.chip c).clusters k).commons b).checkedIn ≠ s.openGap c)
        ∧ s.isRetired (.commonsBank c k b) = false)
    ∧ (∃ (s : State) (c : Nat) (k : _) (b : _) (g : _), c < 16 ∧ s.openGap c = some g
        ∧ (vget (vget (s.chip c).clusters k).commons b).checkedIn = some g)
    ∧ (∃ (s : State) (c : Nat), c < 16 ∧ (s.chip c).attended = true
        ∧ ((s.chip c).telemetryNext).getD (1000 * s.nat 0x2430 4) ≤ s.micros)
    ∧ (∃ (s : State) (c : Nat), c < 16 ∧ s.micros < ((s.chip c).telemetryNext).getD (1000 * s.nat 0x2430 4)) :=
  ⟨⟨rail3 w (fun x => { x with test := some ⟨.smithy 3, 0x5401, 0, 0, 0, 5, false, 0, none, 0⟩ }), 3, .smithy 3, ⟨.smithy 3,
        0x5401, 0, 0, 0, 5, false, 0, none, 0⟩, by decide +kernel⟩,
    ⟨rail3 w (fun x => { x with linkTest := vset x.linkTest 1 (some ⟨.byway 3 1, 0x5401, 0, 0, 0, 5, false, 0, none, 0⟩) }), 3,
        1, ⟨.byway 3 1, 0x5401, 0, 0, 0, 5, false, 0, none, 0⟩, by decide +kernel⟩,
    ⟨rail3 w (fun x => { x with pcieTest := some ⟨.pcie 3, 0x5401, 0, 0, 0, 5, false, 0, none, 0⟩ }), 3, ⟨.pcie 3, 0x5401, 0, 0,
        0, 5, false, 0, none, 0⟩, by decide +kernel⟩,
    ⟨({ w with faults := { pageTests := [⟨.page 5, 0x5401, 0, 0, 0, 5, false, 0, none, 0⟩] } } : State), 15, .page 5, ⟨.page 5,
        0x5401, 0, 0, 0, 5, false, 0, none, 0⟩, by decide +kernel⟩,
    ⟨rail3 w (fun x => { x with whole := some [⟨.tile 3 7 8, 0x5401, 0, 0, 0, 5, false, 0, none, 0⟩] }), 3, ⟨.tile 3 7 8, 0x5401,
        0, 0, 0, 5, false, 0, none, 0⟩, by decide +kernel⟩,
    ⟨rail3 w (fun x => { x with spareFor := some 2 }), 3, 2, by decide +kernel⟩,
    ⟨rail3 w (fun x => x), 3, by decide +kernel⟩,
    ⟨rail3 w (fun x => { x with mirror := { lockedAt := 9999999999 } }), 3, by decide +kernel⟩,
    ⟨put (rail3 w (fun x => x)) [(0x2430, 2, 1)], 3, 7, by decide +kernel, by decide +kernel, by decide +kernel,
        by decide +kernel, by decide +kernel, by decide +kernel, by decide +kernel, Or.inl (by decide +kernel),
        by decide +kernel⟩,
    ⟨put (rail3 w onBank) [(0x2430, 2, 1)], 3, 7, by decide +kernel⟩,
    ⟨chip3 (fun x => { x with clusters := vmod x.clusters 7 (fun k => { k with tuneNext := some 99999999999 }) }), 3, 7,
        by decide +kernel⟩,
    ⟨rail3 w (fun x => { x with clusters := vmod x.clusters 7 (fun k => { k with tuneDue := some 0 }) }), 3, 7, 0,
        by decide +kernel⟩,
    ⟨rail3 w (fun x => { x with clusters := vmod x.clusters 7 (fun k => { k with tuning := true }) }), 3, 7, by decide +kernel⟩,
    ⟨put (rail3 w (fun x => x)) [(0x2430, 3, 1)], 3, 7, 1, by decide +kernel⟩,
    ⟨put (rail3 w (fun x => x)) [(0x2430, 3, 1)], 3, 7, 1, by decide +kernel⟩,
    ⟨chip3 (fun x => { x with mirror := { x.mirror with gaps := [(0, 2000000000000)] }, clusters := vmod x.clusters 7 (fun k => { k with commons := vmod k.commons 1 (fun b => { b with checkedIn := some 0 }) }) }),
        3, 7, 1, 0, by decide +kernel⟩,
    ⟨rail3 w (fun x => x), 3, by decide +kernel⟩,
    ⟨chip3 (fun x => { x with telemetryNext := some 99999999999 }), 3, by decide +kernel⟩⟩

theorem witness_MemoryAndLinkErrors :
    (∃ (s : State) (c : _) (b : _) (w : _), c < 16 ∧ (s.chip c).powered = true ∧ s.isRetired (.granaryRow c b w) = false)
    ∧ (∃ (s : State) (c : _) (b : _) (w : _), c < 16 ∧ (s.chip c).powered = true ∧ s.isRetired (.granaryRow c b w) = true)
    ∧ (∃ (s : State) (c : _) (b : _), c < 16 ∧ (s.chip c).powered = true ∧ s.isRetired (.loftBank c b) = true)
    ∧ (∃ (s : State) (c : _) (b : _), c < 16 ∧ (s.chip c).powered = true ∧ s.isRetired (.loftBank c b) = false)
    ∧ (∃ (s : State) (c : _) (id : _) (i : _), c < 16 ∧ (s.chip c).powered = true ∧ s.issue id = some i ∧ i.micro = none)
    ∧ (∃ (s : State) (c : _) (b : _) (w : _) (x : _) (k : _), c < 16 ∧ k < 8 ∧ (s.chip c).powered = true
        ∧ s.isRetired (.loftBank c b) = false
        ∧ (s.chip c).regions.find? (fun r => decide (r.loftBase ≤ 32 * (32 * (Config.loftPlace b w % 8192) + b % 32)
        ∧ 32 * (32 * (Config.loftPlace b w % 8192) + b % 32) < r.loftBase + r.loftSize) && !r.released) = some x
        ∧ x.slot = 0x100 + k)
    ∧ (∃ (s : State) (p : Nat), s.alive = true ∧ s.isRetired (.page p) = false)
    ∧ (∃ (s : State), s.alive = true)
    ∧ (∃ (s : State) (m : _), s.faults.burst = some m ∧ m + 60000000 ≤ s.micros)
    ∧ (∃ (s : State) (m : _), s.faults.burst = some m ∧ s.micros < m + 60000000)
    ∧ (∃ (s : State) (c : _) (a : _), c < 16 ∧ a < 2 ∧ s.alive = true ∧ (vget (s.chip c).links a).down = false
        ∧ (vget (s.chip c).links a).retries < 8)
    ∧ (∃ (s : State) (c : _) (a : _), c < 16 ∧ a < 2 ∧ s.alive = true ∧ (vget (s.chip c).links a).down = false
        ∧ 8 ≤ (vget (s.chip c).links a).retries ∧ s.isRetired (.byway c a) = false)
    ∧ (∃ (s : State) (c : _), c < 16 ∧ s.alive = true ∧ (s.chip c).failed = false ∧ (s.chip c).pcieRetries < 3)
    ∧ (∃ (s : State) (c : _), c < 16 ∧ s.alive = true ∧ (s.chip c).failed = false ∧ 3 ≤ (s.chip c).pcieRetries
        ∧ s.isRetired (.pcie c) = false)
    ∧ (∃ (s : State) (c : _) (a : _) (id : _) (i : _) (k : _), c < 16 ∧ a < 2 ∧ s.issue id = some i ∧ i.micro = none
        ∧ s.handOffDue c a id k = true)
    ∧ (∃ (s : State) (c : _) (a : _) (id : _) (k : _), s.handOffDue c a id k = false)
    ∧ (∃ (s : State) (id : _) (i : _) (m : _) (h : _) (src : _) (n : _), s.issue id = some i ∧ s.model i.slot = some m
        ∧ m.variant.handOffs[n]? = some h ∧ s.handsOver m i h = true
        ∧ i.parts.find? (fun p => decide (p.part = h.src)) = some src ∧ src.complete = true ∧ i.arrived.contains n = false
        ∧ src.endedAt + 4000 ≤ s.micros)
    ∧ (∃ (s : State) (c : _) (a : _) (id : _) (i : _) (m : _) (h : _) (src : _) (n : _), s.issue id = some i
        ∧ s.model i.slot = some m ∧ m.variant.handOffs[n]? = some h ∧ s.handsOver m i h = true
        ∧ i.parts.find? (fun p => decide (p.part = h.src)) = some src ∧ src.complete = true ∧ i.arrived.contains n = false
        ∧ vget (s.chip c).linkTest a = none ∧ (vget (s.chip c).links a).tested = [] ∧ src.endedAt + 1000 ≤ s.micros)
    ∧ (∃ (s : State) (c : _) (id : _) (k : _), s.dmaDue c id k = false)
    ∧ (∃ (s : State) (c : _) (id : _) (i : _) (m : _), s.issue id = some i ∧ (s.chip c).loading.contains i.slot = true
        ∧ lookupKey i.slot (s.chip c).loadFrom = some m)
    ∧ (∃ (s : State) (c : _) (id : _) (i : _) (k : _), c < 16 ∧ s.issue id = some i ∧ i.micro = none ∧ s.dmaDue c id k = true)
    ∧ (∃ (s : State) (c : _) (b : _), c < 16 ∧ b < 32 ∧ (s.chip c).attended = true)
    ∧ (∃ (s : State) (c : _) (b : _), c < 16 ∧ b < 64 ∧ (s.chip c).attended = true)
    ∧ (∃ (s : State) (c : _) (loft : Bool) (b : _) (a : _), c < 16 ∧ (s.chip c).attended = true
        ∧ s.isRetired (if loft then .loftBank c b else .granaryRow c b a) = false)
    ∧ (∃ (s : State) (res : Bool) (p : Nat), s.alive = true ∧ s.isRetired (if res then .reserve p else .page p) = false)
    ∧ (∃ (s : State) (n : _) (v : _), s.accepts n 0x2400 4 (numBytes 0x2400 4 v) (fun _ => none))
    ∧ (∃ (s : State) (t : _), s.alive = true ∧ -500 ≤ t ∧ t ≤ 1250)
    ∧ (∃ (s : State) (p : Reading) (dies : List Reading), s.alive = true ∧ readingOf p = none ∧ (∀ d ∈ dies, readingOf d = none)) :=
  ⟨⟨rail3 w (fun x => x), 3, 63, 16383, by decide +kernel⟩,
    ⟨({ rail3 w (fun x => x) with faults := { retired := [.granaryRow 3 63 16383] } } : State), 3, 63, 16383, by decide +kernel⟩,
    ⟨({ rail3 w (fun x => x) with faults := { retired := [.loftBank 3 31] } } : State), 3, 31, by decide +kernel⟩,
    ⟨rail3 w (fun x => x), 3, 31, by decide +kernel⟩,
    ⟨busy 10 1 [issue0 (prun [])], 3, 0, issue0 (prun []), by decide +kernel⟩,
    ⟨rail3 w (fun x => { x with regions := [cache] }), 3, 31, 8191, cache, 5, by decide +kernel, by decide +kernel,
        by decide +kernel, by decide +kernel, cache_found 31 8191, by decide +kernel⟩,
    ⟨w, 5, by decide +kernel⟩,
    ⟨w, by decide +kernel⟩,
    ⟨({ w with faults := { burst := some 0 } } : State), 0, by decide +kernel⟩,
    ⟨({ w with faults := { burst := some 9999999999 } } : State), 9999999999, by decide +kernel⟩,
    ⟨w, 15, 1, by decide +kernel⟩,
    ⟨w.modChip 15 (fun x => { x with links := Vector.replicate 2 { retries := 8 } }), 15, 1, by decide +kernel⟩,
    ⟨w, 15, by decide +kernel⟩,
    ⟨w.modChip 15 (fun x => { x with pcieRetries := 3 }), 15, by decide +kernel⟩,
    ⟨(busy 10 1 [{ issue0 (prun []) with parts := [{ prun [] with complete := true }, { prun [] with part := 1, chip := 2, copy := none }] }]).modSlot 0 (fun x => { x with model := some tinyH }),
        3, 1, 0,
        { issue0 (prun []) with parts := [{ prun [] with complete := true }, { prun [] with part := 1, chip := 2, copy := none }] },
        true, by decide +kernel⟩,
    ⟨w, 3, 1, 0, true, by decide +kernel⟩,
    ⟨(busy 10 1 [{ issue0 (prun []) with parts := [{ prun [] with complete := true }, { prun [] with part := 1, chip := 2, copy := none }] }]).modSlot 0 (fun x => { x with model := some tinyH }),
        0,
        { issue0 (prun []) with parts := [{ prun [] with complete := true }, { prun [] with part := 1, chip := 2, copy := none }] },
        tinyH, ⟨0, 1, 0, 0, 0, 1⟩, { prun [] with complete := true }, 0, by decide +kernel⟩,
    ⟨(busy 10 1 [{ issue0 (prun []) with parts := [{ prun [] with complete := true }, { prun [] with part := 1, chip := 2, copy := none }] }]).modSlot 0 (fun x => { x with model := some tinyH }),
        3, 1, 0,
        { issue0 (prun []) with parts := [{ prun [] with complete := true }, { prun [] with part := 1, chip := 2, copy := none }] },
        tinyH, ⟨0, 1, 0, 0, 0, 1⟩, { prun [] with complete := true }, 0, by decide +kernel⟩,
    ⟨w, 3, 0, true, by decide +kernel⟩,
    ⟨(busy 10 1 [issue0 (prun [])]).modChip 3 (fun x => { x with loading := [0], loadFrom := [(0, 5)] }), 3, 0, issue0 (prun []),
        5, by decide +kernel⟩,
    ⟨busy 10 1 [issue0 (prun [])], 3, 0, issue0 (prun []), true, by decide +kernel⟩,
    ⟨rail3 w (fun x => x), 3, 31, by decide +kernel⟩,
    ⟨rail3 w (fun x => x), 3, 63, by decide +kernel⟩,
    ⟨rail3 w (fun x => x), 3, true, 31, 8191, by decide +kernel⟩,
    ⟨w, true, 5, by decide +kernel⟩,
    ⟨w, .ecat, 1, by unfold State.accepts; decide +kernel⟩,
    ⟨w, 1250, by decide +kernel⟩,
    ⟨w, .value 1251, [.openWire, .shorted], by decide +kernel⟩⟩

theorem witness_ObjectWrites :
    (∃ (s : State) (n : Net) (index : _) (sub : _) (data : List Byte), plainEntry index sub = true ∧ sub < 256
        ∧ s.accepts n index sub data (fun s => s.entryDeny n index sub data))
    ∧ (∃ (s : State) (n : Net), s.accepts n 0x2430 2 [0] (fun s => s.entryDeny n 0x2430 2 [0]))
    ∧ (∃ (s : State) (n : Net), s.accepts n 0x2430 2 [1] (fun s => s.entryDeny n 0x2430 2 [1]))
    ∧ (∃ (s : State) (n : Net) (index : _) (sub : _) (data : List Byte) (d : _), plainEntry index sub = true
        ∧ s.rejects n index sub data (fun s => s.entryDeny n index sub data) d ∧ d.record = none)
    ∧ (∃ (s : State) (n : Net) (index : Nat) (parts : List (Nat × List Byte)), (odObj index).isSome = true ∧ s.serves n = true
        ∧ parts.Pairwise (fun p q => p.1 < q.1) ∧ (∀ p ∈ parts, 1 ≤ p.1 ∧ p.1 < 256 ∧ plainEntry index p.1 = true
        ∧ (s.asked n).partDeny ((s.asked n).asWritten index parts) n index p = none))
    ∧ (∃ (s : State) (n : Net) (index : Nat) (parts : List (Nat × List Byte)) (d : Deny), (odObj index).isSome = true
        ∧ s.serves n = true ∧ parts.Pairwise (fun p q => p.1 < q.1) ∧ d.record = none
        ∧ parts.findSome? ((s.asked n).partDeny ((s.asked n).asWritten index parts) n index) = some d)
    ∧ (∃ (s : State) (n : Net) (v : _), s.accepts n 0x2021 0 (numBytes 0x2021 0 v) (fun s => s.controlDeny) ∧ v ≠ s.nat 0x2021 0)
    ∧ (∃ (s : State) (n : Net) (v : _), s.accepts n 0x2021 0 (numBytes 0x2021 0 v) (fun s => s.controlDeny) ∧ v = s.nat 0x2021 0)
    ∧ (∃ (s : State) (n : Net) (index : _) (sub : _) (v : _), (0x1600 ≤ index ∧ index ≤ 0x160F ∨ 0x1A00 ≤ index
        ∧ index ≤ 0x1A1F ∨ index = 0x1C12 ∨ index = 0x1C13) ∧ sub < 256
        ∧ s.accepts n index sub (numBytes index sub v) (fun s => s.entryDeny n index sub (numBytes index sub v)))
    ∧ (∃ (s : State) (n : Net) (index : _) (sub : _) (v : _), (0x1400 ≤ index ∧ index ≤ 0x140F ∨ 0x1800 ≤ index ∧ index ≤ 0x181F)
        ∧ sub < 256 ∧ s.accepts n index sub (numBytes index sub v) (fun s => s.entryDeny n index sub (numBytes index sub v)))
    ∧ (∃ (s : State) (n : Net) (sub : _) (v : _),
        s.accepts n 0x1010 sub (numBytes 0x1010 sub v) (fun s => s.storeDeny 0x1010 sub v) ∧ s.od.wf = true)
    ∧ (∃ (s : State) (n : Net) (sub : _) (v : _),
        s.accepts n 0x1011 sub (numBytes 0x1011 sub v) (fun s => s.storeDeny 0x1011 sub v)) :=
  ⟨⟨w, .ecat, 0x5000, 6, leBytes 1 4, by unfold State.accepts; decide +kernel⟩,
    ⟨w, .ecat, by unfold State.accepts; decide +kernel⟩,
    ⟨w, .ecat, by unfold State.accepts; decide +kernel⟩,
    ⟨w, .ecat, 0x2300, 3, leBytes 1 99, badValue 0x2300 3, by unfold State.rejects; decide +kernel⟩,
    ⟨w, .ecat, 0x5000, [(6, leBytes 1 4), (7, leBytes 1 0)], by decide +kernel⟩,
    ⟨w, .ecat, 0x5000, [(6, leBytes 1 4), (7, [])], { abort := 0x06070010, index := 0x5000, sub := 7 }, by decide +kernel⟩,
    ⟨w, .ecat, 1, by unfold State.accepts; decide +kernel⟩,
    ⟨w, .ecat, 0, by unfold State.accepts; decide +kernel⟩,
    ⟨w, .ecat, 0x1C13, 0, 0, by unfold State.accepts; decide +kernel⟩,
    ⟨w, .ecat, 0x1800, 2, 254, by unfold State.accepts; decide +kernel⟩,
    ⟨w, .ecat, 1, 0x65766173, by unfold State.accepts; decide +kernel⟩,
    ⟨w, .ecat, 1, 0x64616F6C, by unfold State.accepts; decide +kernel⟩⟩

theorem witness_SegmentedTransfers :
    (∃ (s : State) (n : Net) (index : _) (sub : _), s.serves n = true ∧ (s.asked n).readDeny n index sub = none
        ∧ ¬ (0x3000 ≤ index ∧ index < 0x4000 ∧ index % 0x100 = 2 ∧ sub = 2))
    ∧ (∃ (t : _), t < 16)
    ∧ (∃ (s : State) (n : Net) (index : _) (sub : _) (d : _), s.serves n = true ∧ (s.asked n).readDeny n index sub = some d)
    ∧ (∃ (s : State) (n : Net) (index : _) (sub : _) (size : _) (d : _), s.serves n = true
        ∧ (s.asked n).startDeny n index sub size = some d ∧ d.record = none)
    ∧ (∃ (s : State) (n : Net) (index : _) (sub : _) (size : _), s.serves n = true
        ∧ (s.asked n).startDeny n index sub size = none)
    ∧ (∃ (s : State) (n : Net) (toggle : _) (data : List Byte) (x : _), s.serves n = true ∧ (s.box n).xfer = some x
        ∧ x.whole = false ∧ x.toggle = toggle ∧ x.upload = false ∧ s.overrun n x (x.data.length + data.length) = none)
    ∧ (∃ (s : State) (n : Net) (toggle : _) (data : List Byte) (x : _) (abort : _), s.serves n = true ∧ (s.box n).xfer = some x
        ∧ x.whole = false ∧ x.toggle = toggle ∧ x.upload = false ∧ s.overrun n x (x.data.length + data.length) = some abort)
    ∧ (∃ (s : State) (n : Net) (toggle : _) (data : List Byte) (x : _), s.serves n = true ∧ (s.box n).xfer = some x
        ∧ x.whole = false ∧ x.toggle = toggle ∧ x.upload = false ∧ s.overrun n x (x.data.length + data.length) = none
        ∧ x.size ≠ 0 ∧ (x.data ++ data).length ≠ x.size)
    ∧ (∃ (s : State) (n : Net) (toggle : _) (data : List Byte) (x : _), s.serves n = true ∧ (s.box n).xfer = some x
        ∧ x.whole = false ∧ x.toggle = toggle ∧ x.upload = false ∧ s.overrun n x (x.data.length + data.length) = none
        ∧ (x.size = 0 ∨ (x.data ++ data).length = x.size) ∧ ((bundleSlot x.index x.sub).isSome = true ∨ x.index = 0x1F50))
    ∧ (∃ (s : State) (n : Net) (toggle : _) (data : List Byte) (x : _), s.serves n = true ∧ (s.box n).xfer = some x
        ∧ x.whole = false ∧ x.toggle = toggle ∧ x.upload = false ∧ s.overrun n x (x.data.length + data.length) = none
        ∧ (x.size = 0 ∨ (x.data ++ data).length = x.size) ∧ plainEntry x.index x.sub = true ∧ x.sub < 256
        ∧ valueDeny x.index x.sub (x.data ++ data) = none ∧ s.stateDeny n x.index x.sub = none
        ∧ s.entryDeny n x.index x.sub (x.data ++ data) = none)
    ∧ (∃ (s : State) (n : Net), s.serves n = true ∧ ((s.box n).xfer = none ∨ ∃ x, (s.box n).xfer = some x ∧ x.whole = true))
    ∧ (∃ (s : State) (n : Net) (toggle : Bool) (x : _), s.serves n = true ∧ (s.box n).xfer = some x ∧ x.whole = false
        ∧ x.toggle = toggle ∧ x.upload = true)
    ∧ (∃ (s : State) (n : Net) (toggle : Bool) (x : _), s.serves n = true ∧ (s.box n).xfer = some x ∧ x.whole = false
        ∧ x.toggle ≠ toggle)
    ∧ (∃ (s : State) (n : Net) (x : _), (s.box n).xfer = some x ∧ x.whole = false ∧ x.last + 1000000 ≤ s.micros)
    ∧ (∃ (s : State) (n : Net), (s.box n).xfer = none)
    ∧ (∃ (s : State) (n : Net) (x : _), (s.box n).xfer = some x ∧ (x.whole = true ∨ s.micros < x.last + 1000000))
    ∧ (∃ (s : State) (slot : _) (data : List Byte), s.alive = true ∧ s.power.failing = none ∧ s.ecat.al ≠ .init
        ∧ s.foeFlaw slot data = none)
    ∧ (∃ (s : State) (slot : _) (data : List Byte) (code : _), s.alive = true ∧ s.power.failing = none ∧ s.ecat.al ≠ .init
        ∧ s.foeFlaw slot data = some code) :=
  ⟨⟨w, .ecat, 0x1008, 0, by decide +kernel⟩,
    ⟨15, by decide +kernel⟩,
    ⟨w, .ecat, 0x1234, 0, { abort := 0x06020000, index := 0x1234, sub := 0 }, by decide +kernel⟩,
    ⟨w, .ecat, 0x1234, 0, 4, { abort := 0x06020000, index := 0x1234, sub := 0 }, by decide +kernel⟩,
    ⟨w, .ecat, 0x3000, 1, 5, by decide +kernel⟩,
    ⟨loading (dl 0x3000 1 0), .ecat, false, [1#8], dl 0x3000 1 0, by decide +kernel⟩,
    ⟨loading (dl 0x3000 1 1), .ecat, false, [1#8, 2#8], dl 0x3000 1 1, 0x06070012, by decide +kernel⟩,
    ⟨loading (dl 0x3000 1 5), .ecat, false, [1#8], dl 0x3000 1 5, by decide +kernel⟩,
    ⟨loading (dl 0x1F50 2 0), .ecat, false, [1#8], dl 0x1F50 2 0, by decide +kernel⟩,
    ⟨loading (dl 0x5000 6 0), .ecat, false, leBytes 1 4, dl 0x5000 6 0, by decide +kernel⟩,
    ⟨w, .ecat, by decide +kernel, Or.inl (by decide +kernel)⟩,
    ⟨w.modBox .ecat (fun b => { b with xfer := some { upload := true, index := 0x3000, sub := 1, size := 0, data := [], toggle := false, tenant := some 0, controlling := true, last := 9000000000 } }),
        .ecat, false,
        { upload := true, index := 0x3000, sub := 1, size := 0, data := [], toggle := false, tenant := some 0, controlling := true, last := 9000000000 },
        by decide +kernel⟩,
    ⟨w.modBox .ecat (fun b => { b with xfer := some { upload := false, index := 0x3000, sub := 1, size := 0, data := [], toggle := false, tenant := some 0, controlling := true, last := 9000000000 } }),
        .ecat, true,
        { upload := false, index := 0x3000, sub := 1, size := 0, data := [], toggle := false, tenant := some 0, controlling := true, last := 9000000000 },
        by decide +kernel⟩,
    ⟨w.modBox .ecat (fun b => { b with xfer := some { upload := false, index := 0x3000, sub := 1, size := 0, data := [], toggle := false, tenant := some 0, controlling := true, last := 9000000000 } }),
        .ecat,
        { upload := false, index := 0x3000, sub := 1, size := 0, data := [], toggle := false, tenant := some 0, controlling := true, last := 9000000000 },
        by decide +kernel⟩,
    ⟨w, .ecat, by decide +kernel⟩,
    ⟨loading { dl 0x40FF 2 0 with whole := true }, .ecat, { dl 0x40FF 2 0 with whole := true }, by decide +kernel⟩,
    ⟨put w [(0x40FF, 1, 0), (0x40FF, 4, 1)], 255, [1#8], by decide +kernel⟩,
    ⟨w, 256, [], 0x8001, by decide +kernel⟩⟩

theorem witness_ProcessData :
    (∃ (s : State) (n : _) (m : _) (data : List Byte), s.rxTaken n m = true ∧ n = s.controlling
        ∧ s.mapSize (0x1600 + m) ≤ data.length ∧ s.power.failing = none)
    ∧ (∃ (s : State) (n : _) (m : _) (data : List Byte),
        (s.rxTaken n m = false ∨ n ≠ s.controlling ∨ data.length < s.mapSize (0x1600 + m)))
    ∧ (∃ (s : State), (s.ecat.al = .safeop ∨ s.ecat.al = .op) ∧ s.power.failing = none)
    ∧ (∃ (s : State), s.ecat.al ≠ .safeop ∧ s.ecat.al ≠ .op)
    ∧ (∃ (s : State), (∀ i < 32, vget s.can.updated i = false))
    ∧ (∃ (s : State), s.power.failing = none)
    ∧ (∃ (s : State) (i : _), i < 32 ∧ s.canRuns (tpdoComm i) = true ∧ s.tpdoByEvent i = true ∧ vget s.can.updated i = true
        ∧ (∀ m, vget s.can.sentAt i = some m → m + 100 * s.nat (tpdoComm i) 3 ≤ s.micros))
    ∧ (∃ (s : State) (i : _) (m : _), vget s.can.sentAt i = some m ∧ s.micros < m + 100 * s.nat (tpdoComm i) 3)
    ∧ (∃ (s : State) (i : _), i < 32 ∧ (vget s.can.updated i = false ∨ s.canRuns (tpdoComm i) = false ∨ s.tpdoByEvent i = false)
        ∧ (∀ m, vget s.can.sentAt i = some m → m + 100 * s.nat (tpdoComm i) 3 ≤ s.micros))
    ∧ (∃ (s : State) (i : _), i < 32 ∧ s.canRuns (tpdoComm i) = true ∧ s.tpdoByEvent i = true ∧ s.nat (tpdoComm i) 5 ≠ 0 ∧ (∀ m,
        vget s.can.sentAt i = some m → m + 1000 * s.nat (tpdoComm i) 5 ≤ s.micros))
    ∧ (∃ (s : State) (i : _), (s.canRuns (tpdoComm i) = false ∨ s.tpdoByEvent i = false ∨ s.nat (tpdoComm i) 5 = 0))
    ∧ (∃ (s : State) (i : _) (m : _), vget s.can.sentAt i = some m ∧ s.micros < m + 1000 * s.nat (tpdoComm i) 5) :=
  ⟨⟨put ({ up .watching with ecat := { al := .op } } : State) [(0x1600, 0, 1), (0x1600, 1, 0x62000108), (0x1C12, 0, 1), (0x1C12,
        1, 0x1600)], .ecat, 0, [5#8], by decide +kernel⟩,
    ⟨w, .can, 0, [], by decide +kernel⟩,
    ⟨({ w with ecat := { al := .op } } : State), by decide +kernel⟩,
    ⟨w, by decide +kernel⟩,
    ⟨w, by decide +kernel⟩,
    ⟨w, by decide +kernel⟩,
    ⟨({ w with can := { nmt := .operational, updated := vset (Vector.replicate 32 false) 0 true } } : State), 0,
        by decide +kernel, by decide +kernel, by decide +kernel, by decide +kernel,
        fun m h => by rw [(by decide +kernel : vget (State.can (({ w with can := { nmt := .operational, updated := vset (Vector.replicate 32 false) 0 true } } : State))).sentAt 0 = none)] at h; cases h⟩,
    ⟨({ w with can := { sentAt := vset (Vector.replicate 32 none) 31 (some 10000000000) } } : State).setNum 0x181F 3 1, 31,
        10000000000, by decide +kernel⟩,
    ⟨w, 31, by decide +kernel, by decide +kernel,
        fun m h => by rw [(by decide +kernel : vget (State.can (w)).sentAt 31 = none)] at h; cases h⟩,
    ⟨put ({ w with can := { nmt := .operational, updated := vset (Vector.replicate 32 false) 0 true } } : State) [(0x1800, 5,
        10)], 0, by decide +kernel, by decide +kernel, by decide +kernel, by decide +kernel,
        fun m h => by rw [(by decide +kernel : vget (State.can (put ({ w with can := { nmt := .operational, updated := vset (Vector.replicate 32 false) 0 true } } : State) [(0x1800,
        5, 10)])).sentAt 0 = none)] at h; cases h⟩,
    ⟨w, 31, by decide +kernel⟩,
    ⟨({ w with can := { sentAt := vset (Vector.replicate 32 none) 31 (some 10000000000) } } : State).setNum 0x181F 5 1, 31,
        10000000000, by decide +kernel⟩⟩

theorem witness_OutputsAndSupplies :
    (∃ (s : State) (n : _) (t : _) (o : _), t < 16 ∧ o < 16 ∧ s.accepts n (blk t (0x40 + o)) 1 [1] (fun s => s.setDeny t o))
    ∧ (∃ (s : State) (n : _) (t : _) (o : _), t < 16 ∧ o < 16 ∧ s.accepts n (blk t (0x40 + o)) 1 [0] (fun _ => none))
    ∧ (∃ (s : State) (i : _), i < 4 ∧ s.level i = true ∧ vget s.outputs.overload i = false ∧ s.power.doSupplyMissing = false)
    ∧ (∃ (s : State) (i : _), vget s.outputs.overload i = true)
    ∧ (∃ (s : State) (i : _), s.level i = true ∧ s.power.doSupplyMissing = false)
    ∧ (∃ (s : State), s.alive = true ∧ s.power.doSupplyMissing = false)
    ∧ (∃ (s : State), s.power.doSupplyMissing = true)
    ∧ (∃ (s : State) (c : _), c < 18 ∧ vget s.power.extOn c = true)
    ∧ (∃ (s : State) (c : _), c < 18 ∧ vget s.power.extTripped c = true)
    ∧ (∃ (s : State) (c : _), vget s.power.extOn c = false)
    ∧ (∃ (s : State) (c : _), vget s.power.extTripped c = false) :=
  ⟨⟨put w [(0x304F, 2, 3), (0x304F, 4, 0)], .ecat, 0, 15, by unfold State.accepts; decide +kernel⟩,
    ⟨w, .ecat, 0, 15, by unfold State.accepts; decide +kernel⟩,
    ⟨({ w with outputs := { master := 15 } } : State), 3, by decide +kernel⟩,
    ⟨({ w with outputs := { overload := Vector.replicate 4 true } } : State), 3, by decide +kernel⟩,
    ⟨({ w with outputs := { master := 15 } } : State), 3, by decide +kernel⟩,
    ⟨w, by decide +kernel⟩,
    ⟨({ w with power := { doSupplyMissing := true } } : State), by decide +kernel⟩,
    ⟨({ w with power := { extOn := Vector.replicate 18 true } } : State), 17, by decide +kernel⟩,
    ⟨({ w with power := { extTripped := Vector.replicate 18 true } } : State), 17, by decide +kernel⟩,
    ⟨w, 17, by decide +kernel⟩,
    ⟨w, 17, by decide +kernel⟩⟩

theorem witness_DictionaryCanonical :
    (∃ (s : State) (t : State), s.od.wf = true ∧ step s = .next t) :=
  ⟨{ w with pending := [.supplyEpisodeEnd] }, _, by decide +kernel, rfl⟩

/-! ### Ill-formed commands -/


def goodHdr : MootHdr := ⟨0, 1, 0, 0, 0, false, false, false⟩
def badHdr : MootHdr := ⟨2, 1, 0, 0, 0, false, false, false⟩
def goodPre : MootPre := ⟨0, 0, 0, 0, 0, 0⟩
def badPre : MootPre := ⟨2 ^ 16, 0, 0, 0, 0, 0⟩
def goodDatagram : Datagram := ⟨false, true, [], 0, []⟩

/-- Every command of a list is refused by the check. -/
def refusedAll (l : List Instr) : Bool := l.all (fun i => !i.WellFormed)

theorem test_ill_formed_1 : refusedAll [
  .chipClearComplete (some (16, 0)), .tierBoundsWrite .ecat 256 0, .tierStepComplete 16, .downwardTierStart 16,
  .fallowReloadComplete 16, .bellwetherCheckComplete 16 false, .shaftConfigWrite .ecat 4 0 0, .shaftConfigWrite .ecat 0 256 0,
  .countedEdge 4 (lev false) (lev false) (lev false), .noGoodReference 4, .illegalTransition 4 (lev false) (lev false), .encoderPairFault 4 .a,
  .encoderInputReturn 4 .a, .inputLossExtrapolationEnd 4, .standstillTimeout 4, .eventHoldRelease (.camera 2),
  .timeSubstituteFire (.camera 2), .angleEventEnable .ecat 16 0, .angleEventEnable .ecat 0 16, .angleEventDisable .ecat 16 0,
  .angleEventDisable .ecat 0 16, .angleMessageSend 16 0, .angleMessageSend 0 4] = true := by decide
theorem test_ill_formed_2 : refusedAll [
  .angleMessageReceive 16 [], .mirrorStale 16, .mirrorStaleFault 16, .tdmFrameReceive 2 [] 0, .tdmFrameReceive 0 [2 ^ 32] 0,
  .tdmClockLoss 2, .tdmRateMeasurement 2 0, .resamplerFrameComplete 8, .stripTransferComplete 16, .cameraResetRelease 2,
  .cciSetupSend 2 none, .triggerPulseEnd 2, .csiFrameStart 2 0, .csiFrameStart 0 4, .csiLongPacket 2 0 0 .ok false [],
  .csiLongPacket 0 4 0 .ok false [], .csiLongPacket 0 0 64 .ok false [], .csiFrameEnd 2 0, .csiFrameEnd 0 4, .captureTimeout 2,
  .jobEnable .ecat 16 0, .jobEnable .ecat 0 15, .jobDisable .ecat 16 0] = true := by decide
theorem test_ill_formed_3 : refusedAll [
  .jobDisable .ecat 0 15, .pendingIssue 16, .speculativeIssue 16 0, .speculativeIssue 0 15, .descriptorIssue 16 0,
  .bankRoundComplete 16 0 0 .none, .bankRoundComplete 0 8 0 .none, .bankRoundComplete 0 0 16 .none,
  .bankRoundComplete 0 0 0 (.commonsEntry 2), .descriptorComplete 16 1 .none, .descriptorComplete 0 0 .none,
  .descriptorComplete 0 1 (.commonsEntry 2), .wakeHoldOverLapse 16 0, .wakeHoldOverLapse 0 15, .modelImageLoadComplete 16 0,
  .modelImageLoadComplete 0 256, .weightPieceArrive 16 0, .tenantCreate .ecat 16, .tenantSuspend .ecat 16,
  .tenantResume .ecat 16, .tenantDelete .ecat 16, .quotaWrite .ecat 16 0 0, .quotaWrite .ecat 0 256 0] = true := by decide
theorem test_ill_formed_4 : refusedAll [
  .publicKeyWrite .ecat 16 [], .challengeRead .ecat 16, .challengeExpiry .ecat 16, .authResponseWrite .ecat 16 [],
  .authLockEnd 16, .endSession .ecat 16 0, .bundleKeyWrite .ecat 16 [], .bundleDownloadComplete 256, .slotAdmit .ecat 256,
  .admissionComplete 256, .slotEvict .ecat 256, .slotMakeResident .ecat 256, .slotMakeNonResident .ecat 256,
  .slotDiscardStaged .ecat 256, .sessionOpen .ecat 8, .sessionGenerate .ecat 8, .sessionStop .ecat 8,
  .sessionResetContext .ecat 8, .sessionClose .ecat 8, .tokenStepIssue 256 0, .labelWrite .ecat 256 [],
  .helloReceive badHdr 0 0 0, .heartbeatReceive badHdr 0 0 0 0 0 0 0 0] = true := by decide
theorem test_ill_formed_5 : refusedAll [
  .peerHealthTimeout 64, .ferryLinkChange 2 false false false, .mootFrameReject 2 goodDatagram, .ackReceive badHdr 0,
  .ackTimer 64, .mootRetransmitTimer 64 0, .bidReceive badHdr, .startReceive badHdr (List.replicate 64 0) 0 0,
  .startReceive goodHdr [] 0 0, .partReceive badHdr goodPre [], .partReceive goodHdr badPre [], .fuseReceive badHdr default,
  .decideReceive badHdr default, .shadowReceive badHdr goodPre [], .shadowReceive goodHdr badPre [], .readyReceive badHdr 0,
  .commitReceive badHdr, .rollbackReceive badHdr 0 (List.replicate 64 0), .rollbackReceive goodHdr 0 [],
  .abortReceive badHdr 0, .adoptReceive badHdr 0, .rowsReceive badHdr goodPre [], .rowsReceive goodHdr badPre []] = true := by decide
theorem test_ill_formed_6 : refusedAll [
  .restoreReceive badHdr goodPre [], .restoreReceive goodHdr badPre [], .ckptReceive badHdr goodPre [],
  .ckptReceive goodHdr badPre [], .ckptDoneReceive badHdr, .replayReceive badHdr 0 0 0 0,
  .targetedTestComplete (.smithy 16) .pass, .wholeChipTestComplete 16 [], .wholeChipTestComplete 0 [.smithy 16],
  .spareLoadComplete 16, .granaryEccError 16 0 0 false none, .granaryEccError 0 64 0 false none,
  .granaryEccError 0 0 16384 false none, .loftEccError 16 0 0 false none, .loftEccError 0 32 0 false none,
  .loftEccError 0 0 8192 false none, .storehouseEccError 8388608 false none, .bywayFlitError 16 0 none,
  .bywayFlitError 0 2 none, .pcieLinkError 16 none, .bywayHandoffTimer 16 0 0 false, .bywayHandoffTimer 0 2 0 false,
  .pcieDmaTimer 16 0 false] = true := by decide
theorem test_ill_formed_7 : refusedAll [
  .almanacRelock 16, .marginTuningStart 16 0, .marginTuningStart 0 8, .marginTuningForce 16 0, .marginTuningForce 0 8,
  .marginTuningComplete 16 0 none, .marginTuningComplete 0 8 none, .marginTuningComplete 0 0 (some 1),
  .commonsSelfCheck 16 0 0 false, .commonsSelfCheck 0 8 0 false, .commonsSelfCheck 0 0 2 false, .telemetrySample 16 false,
  .odWrite .ecat 65536 0 [], .odWrite .ecat 0 256 [], .completeAccessWrite .ecat 65536 [], .sdoInitiate .ecat false 65536 0 0,
  .sdoInitiate .ecat false 0 256 0, .foeBundleWrite 1000 [], .pdoMappingWrite .ecat 65536 0 0, .pdoMappingWrite .ecat 0 256 0,
  .tpdoCommWrite .ecat 65536 0 0, .tpdoCommWrite .ecat 0 256 0, .rxpdoReceive .ecat 16 []] = true := by decide
theorem test_ill_formed_8 : refusedAll [
  .tpdoInhibitExpiry 32, .tpdoEventTimer 32, .heartbeatConsumerReceive 128, .storeParameters .ecat 256 0,
  .restoreDefaults .ecat 256 0, .outputSetEnable .ecat 16 0, .outputSetEnable .ecat 0 16, .outputSetDisable .ecat 16 0,
  .outputSetDisable .ecat 0 16, .digitalOutputOverload 4, .digitalOutputRetry 4 false, .externalSupplyTrip 4,
  .externalSupplyRetry 4 false, .plateTemperatureSample (.value 0) [] (.value 0), .railFault 0 0, .railFault 1 16,
  .fuseProvision 4 [], .downwardTierComplete 16, .gleanerScrubAccess 16 false 0 none, .gleanerScrubAccess 0 false 64 none,
  .storehousePatrolScrub false 8388608 none, .chipRailCycleComplete 16, .neighborDiscoveryReceive 2 0 false] = true := by decide
theorem test_ill_formed_9 : refusedAll [
  .neighborDiscoveryReceive 0 64 false] = true := by decide
/-- Headers and prefixes of Moot at the end of each field's range, and past it. -/
theorem test_moot_fields : goodHdr.wf ∧ goodPre.wf ∧ MootHdr.wf ⟨1, 63, 2 ^ 32 - 1, 2 ^ 32 - 1, 2 ^ 64 - 1, true, true, true⟩ ∧
    !MootHdr.wf ⟨0, 64, 0, 0, 0, false, false, false⟩ ∧ !MootHdr.wf ⟨0, 0, 2 ^ 32, 0, 0, false, false, false⟩ ∧
    !MootHdr.wf ⟨0, 0, 0, 2 ^ 32, 0, false, false, false⟩ ∧ !MootHdr.wf ⟨0, 0, 0, 0, 2 ^ 64, false, false, false⟩ ∧
    !MootPre.wf ⟨0, 2 ^ 16, 0, 0, 0, 0⟩ ∧ !MootPre.wf ⟨0, 0, 256, 0, 0, 0⟩ ∧ !MootPre.wf ⟨0, 0, 0, 0, 2 ^ 32, 0⟩ ∧
    !MootPre.wf ⟨0, 0, 0, 0, 0, 2 ^ 32⟩ := by decide

/-! ### Worked examples of the spec, and known answers -/

/-- A shaft of kind `k`, `n` positions and `g` missing, written to the table of shaft `i`, with ratio 2 / 63. -/
def wheels : State := put w [(0x2200, 1, 2), (0x2200, 2, 60), (0x2200, 3, 2), (0x2200, 4, 2), (0x2200, 9, 1800), (0x2201, 1, 4),
  (0x2201, 6, 2), (0x2201, 7, 63)]

/-- Example 0.1: angle stamps are 64-bit words in units of 2^-24 turn, low byte first. -/
theorem test_angle_stamps : leNat (leInt 8 (3 * turn + turn * 3 / 4)) = 0x0000000003C00000 ∧
    leNat (leInt 8 (-(turn / 4))) = 0xFFFFFFFFFFC00000 := by decide +kernel
/-- Example 2.1, steps 1 and 2: tooth positions, and the gap as the step from tooth 57 to index 0. -/
theorem test_tooth_positions : edgePos 60 1 = 279620 ∧ edgePos 60 57 = 15938355 ∧ wheels.gapTeeth 0 = 2 ∧
    edgeStep 60 2 57 true = (0, turn - 15938355) := by decide +kernel
/-- Example 2.1, step 4: a derived shaft. -/
theorem test_derived_angle : wheels.derived 1 1686110208 = 53527308 := by decide +kernel
/-- Example 2.1, step 5: the angles of a series, and the last one at or below an angle. -/
theorem test_series_angles : (Series.at_ ⟨0, 1, 36⟩ 1, Series.at_ ⟨0, 1, 36⟩ 114, Series.at_ ⟨0, 1, 36⟩ 115,
    Series.upTo ⟨0, 1, 36⟩ 53527308) = (466033, 53127850, 53593884, 114) := by decide +kernel

/-- The eight lanes of Example 4.1: weight and 4-bit code. -/
def lanes41 : List (Int × Nat) := [(1, 5), (-1, 13), (0, 7), (1, 0), (-1, 8), (1, 2), (0, 15), (-1, 6)]

/-- Example 4.1, steps 4 and 5: plane sums and their combination. -/
theorem test_planes : (List.range 4).map (fun p => planeSum 4 p lanes41) = [0, 0, -1, -2] ∧
    combinePlanes 4 true (fun p => planeSum 4 p lanes41) = 12 := by decide +kernel
/-- Example 4.1, step 6: the residue of a plane sum. -/
theorem test_residue : planeResidue 4 2 lanes41 = 2 ∧ res3 (planeSum 4 2 lanes41) = 2 := by decide +kernel
/-- Example 4.1, steps 7 and 8: when the output settles. -/
theorem test_settle : (settled 0 2 3 3 3, settled 0 3 2 3 3, settled 4 3 2 3 3, settled 4 6 1 3 3) =
    (none, some true, none, some true) := by decide +kernel
/-- Example 4.1, step 9: a requantised output that ends in a tie. -/
theorem test_requantise :
    requant (fun a => ((leBytes 4 2 ++ List.replicate 28 0 ++ leBytes 4 0x20003 ++ leInt 4 (-2) ++ leBytes 4 0xF0000 ++
      leBytes 4 0)[a]?).getD 0) 0 4 0 12 = 8 := by decide +kernel
/-- Example 5.1, steps 1 to 4: a group of the Commons under the three weight modes. -/
theorem test_commons : [1, 2, 9, 5, 13, 3, 15].map (subsetSum [5, -3, 7, 0]) = [5, -3, 5, 12, 12, 2, 9] ∧
    commonsGroup 1 [5, -3, 7, 0] 9 11 = 8 ∧ commonsGroup 0 [5, -3, 7, 0] 13 0 = 15 ∧
    commonsGroup 2 [5, -3, 7, 0] 9 3 = -3 := by decide +kernel
/-- Example 6.1: output sizes and mirrored indices. -/
theorem test_borders : (outDim 20 0 0 1 3 8, outDim 3 2 2 1 7 1, outDim 10 0 0 4 3 1, outDim 2 1 1 1 5 1) = (3, 1, 2, 0) ∧
    [-2, -1, 0, 1, 2, 3, 4].map (fun i => mirror i 3) = [2, 1, 0, 1, 2, 1, 0] ∧ mirror (-3) 2 = 1 := by decide +kernel
/-- Example 6.3: bilinear enlargement by 4 of the row 0, 4. -/
theorem test_bilinear : (List.range 8).map (fun o => (fun p => divHe ((p.1.2 : Int) * 4 * p.1.1 + p.2.2 * 4 * p.2.1) 8)
    (bilinear o 4 2)) = [0, 0, 0, 2, 2, 4, 4, 4] := by decide +kernel

/-- The descriptor of Example 6.4, without its check. -/
def desc64 : Desc := ⟨[0x04090003, 0x00200020, 0x00800040, 0x33, 0x01010101, 0, 0x00010000, 0x90000000, 0x4000, 0x4180, 0x200,
  0x400, 0, 0x00010000, 0, 0x1203].flatMap (leBytes 4)⟩

/-- Example 6.4: the fields, the weight block, both extents and the output size. -/
theorem test_descriptor : (desc64.op, desc64.wmode, desc64.abits, desc64.obits, desc64.epoch) = (opConv, 0, 2, 2, 3) ∧
    (desc64.inH, desc64.inW, desc64.inC, desc64.outC, desc64.kh, desc64.kw, desc64.groups) = (32, 32, 64, 128, 3, 3, 1) ∧
    (desc64.speculable, desc64.last, desc64.barrier, desc64.tenantTag, desc64.slotTag) = (true, true, 1, 3, 0x12) ∧
    desc64.weightBytes = 12288 ∧ desc64.inMap.extent = 16384 ∧ (desc64.outMap 32 32).extent = 32768 ∧
    desc64.outSize ⟨3, 3⟩ = (32, 32) := by decide +kernel
/-- Example 7.1, steps 2, 5 to 8: extents and the two fixed-rate codings of a block. -/
theorem test_codecs : FMap.extent ⟨1, 1, 16, 16, 32, 8⟩ = 9344 ∧ FMap.extent ⟨1, 2, 16, 16, 32, 8⟩ = 4096 ∧
    (frBlock 2 0 [12, 40, 7, 200, 55, 13, 0, 99, 150, 31, 64, 8, 120, 77, 19, 180]).map BitVec.toNat =
      [0x00, 0x05, 0x08, 0x1C, 0x60, 0x84, 0x30, 0xA1] ∧
    leNat (frBlock 3 0 [12, 40, 7, 200, 55, 13, 0, 99, 150, 31, 64, 8, 120, 77, 19, 180]) / 2 ^ 16 =
      ([0, 0, 0, 3, 0, 0, 0, 1, 2, 0, 1, 0, 1, 1, 0, 2].foldr (fun c a => 4 * a + c) 0) := by decide +kernel
/-- Example 10.1: one weight through UPDATE, rounded to nearest, and the two outcomes of the draw. -/
theorem test_update : updateElem ⟨0x3C000000, 0x3F600000, 0, 0x3F800000, gradScale 12 0 0x3F800000, 0, 0, 0, 0, false⟩ 0 0x3E80 0x3F00
      (int32 3072) = (0x3E76, 0x3F98) ∧
    narrowDraw 0x3E768000 0x9A3C = 0x3E77 ∧ narrowDraw 0x3E768000 0x5C10 = 0x3E76 := by decide +kernel
/-- Example 10.1, step 6: the row bits of the two latents under the three weight modes (0x3E76 is the ternary threshold,
0x3E00 the two-bit one). -/
theorem test_row_bits : [0x3E77, 0x3E76].map (fun x => (rowBits 0 0 x, rowBits 1 0x3E76 x, rowBits 2 0x3E00 x)) =
    [((true, false), (true, true), (true, false)), ((true, false), (true, false), (true, false))] := by decide +kernel
/-- Example 17.1: a record byte by byte, the emergency code, and the unit of a Storehouse page. -/
theorem test_record : (Record.encode (Test.record ⟨.tile 9 5 3, 0x5101, 4, 0x2B, 812 * turn + turn / 2, 0, false, 0, none, 0⟩ 3)).map
      BitVec.toNat = [0x00, 0x00, 0x80, 0x2C, 0x03, 0x00, 0x00, 0x00, 0x01, 0x51, 0xA3, 0x29, 0x04, 0x03, 0x2B, 0x00] ∧
    emergencyCode 0x5101 = 0x5000 ∧ (UnitRef.page 74565).id = 0xA024 ∧ 74565 % 2048 = 0x0345 := by decide +kernel
/-- The published check values of the three CRCs over the digits 1 to 9. -/
theorem test_crc : crc16 (ascii "123456789") = 0x29B1 ∧ crc32 (ascii "123456789") = 0xCBF43926 := by decide +kernel
/-- SHA-256 of "abc", the published example. -/
theorem test_sha256 : beNat (sha256 (ascii "abc")) = 0xba7816bf8f01cfea414140de5dae2223b00361a396177a9cb410ff61f20015ad := by
  decide +kernel

end Sys2Proof.Tests
end

section
/-! PROOFS. The tray (chapter 1). What the operations that the commands share leave unchanged, then the statements of the family. -/

namespace Sys2Proof.Machine

/-! ### Frames of plain updates -/

theorem Keeps.trans {l : List Piece} {r s t : State} (h1 : Keeps l r s) (h2 : Keeps l s t) : Keeps l r t := fun p hp =>
  Piece.same_trans (h1 p hp) (h2 p hp)

/-- A frame within a wider one. -/
theorem Keeps.mono {k l : List Piece} {s t : State} (h : Keeps k s t) (hs : within k l = true) : Keeps l s t := fun p hp =>
  h p (not_mem_of_within hs hp)

theorem Keeps.ite {l : List Piece} {s t u : State} {c : Prop} [Decidable c] (ht : Keeps l s t) (hu : Keeps l s u) :
    Keeps l s (if c then t else u) := by
  split
  · exact ht
  · exact hu

section
variable (s : State)

theorem keeps_od (v : OdStore) : Keeps [.od] s { s with od := v } := fun p hp => by cases p <;> simp at hp <;> rfl
theorem keeps_chips (v : Vector Chip 16) : Keeps [.chips] s { s with chips := v } := fun p hp => by
  cases p <;> simp at hp <;> rfl
theorem keeps_issues (v : List Issue) : Keeps [.issues] s { s with issues := v } := fun p hp => by
  cases p <;> simp at hp <;> rfl
theorem keeps_slots (v : Vector Slot 256) : Keeps [.slots] s { s with slots := v } := fun p hp => by
  cases p <;> simp at hp <;> rfl
theorem keeps_learn (v : Learn) : Keeps [.learn] s { s with learn := v } := fun p hp => by cases p <;> simp at hp <;> rfl
theorem keeps_parish (v : Parish) : Keeps [.parish] s { s with parish := v } := fun p hp => by
  cases p <;> simp at hp <;> rfl
theorem keeps_jobs (v : Vector (Vector JobRun 15) 16) : Keeps [.jobs] s { s with jobs := v } := fun p hp => by
  cases p <;> simp at hp <;> rfl
theorem keeps_sets (v : Vector (Vector SetRun 16) 16) : Keeps [.sets] s { s with sets := v } := fun p hp => by
  cases p <;> simp at hp <;> rfl
theorem keeps_draws (v : Nat) : Keeps [.draws] s { s with draws := v } := fun p hp => by cases p <;> simp at hp <;> rfl
theorem keeps_command (v : Nat) : Keeps [.command] s { s with command := v } := fun p hp => by
  cases p <;> simp at hp <;> rfl
theorem keeps_mail (v : Vector Mail 2) : Keeps [.mail] s { s with mail := v } := fun p hp => by
  cases p <;> simp at hp <;> rfl
theorem keeps_ecat (v : Ecat) : Keeps [.ecat] s { s with ecat := v } := fun p hp => by cases p <;> simp at hp <;> rfl
theorem keeps_can (v : Can) : Keeps [.can] s { s with can := v } := fun p hp => by cases p <;> simp at hp <;> rfl
theorem keeps_outputs (v : Outputs) : Keeps [.outputs] s { s with outputs := v } := fun p hp => by
  cases p <;> simp at hp <;> rfl
theorem keeps_faults (v : Faults) : Keeps [.faults] s { s with faults := v } := fun p hp => by
  cases p <;> simp at hp <;> rfl
theorem keeps_chips_issues (v : Vector Chip 16) (l : List Issue) : Keeps [.chips, .issues] s { s with issues := l, chips := v } :=
  fun p hp => by cases p <;> simp at hp <;> rfl
theorem keeps_chips_learn (v : Vector Chip 16) (l : Learn) : Keeps [.chips, .learn] s { s with chips := v, learn := l } :=
  fun p hp => by cases p <;> simp at hp <;> rfl
theorem keeps_watch (a : Power) (b : Vector Pend 16) (c : Vector Camera 2) (d : Vector Group 8) (e : Vector (Vector EvRun 16) 16) :
    Keeps [.power, .pend, .cams, .groups, .events] s { s with power := a, pend := b, cams := c, groups := d, events := e } :=
  fun p hp => by cases p <;> simp at hp <;> rfl

end

/-! ### The work of the engines on a chip -/

/-- What `f` reads of a chip is the same on every chip of two states. -/
def chipsAgree {α : Type} (f : Chip → α) (s t : State) : Prop := ∀ c, f (t.chip c) = f (s.chip c)

theorem chipsAgree.refl {α : Type} (f : Chip → α) (s : State) : chipsAgree f s s := fun _ => rfl

theorem chipsAgree.trans {α : Type} {f : Chip → α} {r s t : State} (h1 : chipsAgree f r s) (h2 : chipsAgree f s t) :
    chipsAgree f r t := fun c => (h2 c).trans (h1 c)

theorem chipsAgree.of_chips {α : Type} {f : Chip → α} {s t : State} (h : t.chips = s.chips) : chipsAgree f s t := fun c => by
  simp [State.chip, h]

theorem chipsAgree.foldl {α β : Type} {f : Chip → α} {g : State → β → State} (hg : ∀ s x, chipsAgree f s (g s x)) (xs : List β)
    (s : State) : chipsAgree f s (xs.foldl g s) := by
  induction xs generalizing s with
  | nil => exact chipsAgree.refl f s
  | cons x xs ih => exact (hg s x).trans (ih (g s x))

/-- The chip at `c` after an update of it: the update of what stood there, or nothing where there is no such chip. -/
theorem State.chip_modChip (s : State) (c : Nat) (g : Chip → Chip) :
    (s.modChip c g).chip c = g (s.chip c) ∨ (s.modChip c g).chip c = s.chip c := by
  by_cases h : c < 16
  · exact Or.inl (vget_vmod_same _ _ h)
  · exact Or.inr (by simp [State.chip, State.modChip, vmod, vset, vget, h])

theorem State.chip_modChip_same (s : State) {c : Nat} (h : c < 16) (g : Chip → Chip) : (s.modChip c g).chip c = g (s.chip c) :=
  vget_vmod_same _ _ h

theorem State.chip_setChip_same (s : State) {c : Nat} (h : c < 16) (x : Chip) : (s.setChip c x).chip c = x :=
  vget_vset_same _ _ h

theorem State.modChip_others (s : State) (c : Nat) (g : Chip → Chip) : sameChips c s (s.modChip c g) := fun _ h =>
  vget_vmod_ne _ _ h.symm

theorem State.setChip_others (s : State) (c : Nat) (x : Chip) : sameChips c s (s.setChip c x) := fun _ h => vget_vset_ne _ _ h.symm

theorem sameChips.trans {c : Nat} {r s t : State} (h1 : sameChips c r s) (h2 : sameChips c s t) : sameChips c r t := fun d h =>
  (h2 d h).trans (h1 d h)

theorem State.modChip_agree {α : Type} {f : Chip → α} (s : State) (c : Nat) {g : Chip → Chip} (h : ∀ x, f (g x) = f x) :
    chipsAgree f s (s.modChip c g) := fun d => by
  by_cases hd : d = c
  · subst hd
    rcases s.chip_modChip d g with e | e
    · rw [e, h]
    · rw [e]
  · rw [s.modChip_others c g d hd]

/-- A chip without the work of its engines: queues, runs, and the rounds in its clusters. -/
def Chip.unworked (x : Chip) : Chip :=
  { x with
    queue0 := [], queue1 := [], queue2 := [], queue3 := [], run1 := none, run2 := none, run3 := none, redo := [],
    clusters := Vector.replicate 8 {} }

/-- From `s` to `t` the engines of chip `c` have gone on, and beside their work only pieces of `l` have changed. -/
structure Works (l : List Piece) (c : Nat) (s t : State) : Prop where
  keeps : Keeps l s t
  others : sameChips c s t
  core : chipsAgree Chip.unworked s t

theorem Works.refl (l : List Piece) (c : Nat) (s : State) : Works l c s s := ⟨Keeps.refl l s, fun _ _ => rfl, chipsAgree.refl _ s⟩

theorem Works.trans {l : List Piece} {c : Nat} {r s t : State} (h1 : Works l c r s) (h2 : Works l c s t) : Works l c r t :=
  ⟨h1.keeps.trans h2.keeps, h1.others.trans h2.others, h1.core.trans h2.core⟩

theorem Works.mono {k l : List Piece} {c : Nat} {s t : State} (h : Works k c s t) (hs : within k l = true) : Works l c s t :=
  ⟨h.keeps.mono hs, h.others, h.core⟩

theorem Works.ite {l : List Piece} {c : Nat} {s t u : State} {p : Prop} [Decidable p] (ht : Works l c s t) (hu : Works l c s u) :
    Works l c s (if p then t else u) := by
  split
  · exact ht
  · exact hu

theorem Works.modChip (s : State) (c : Nat) {g : Chip → Chip} (h : ∀ x, (g x).unworked = x.unworked) :
    Works [.chips] c s (s.modChip c g) := ⟨keeps_chips s _, s.modChip_others c g, s.modChip_agree c h⟩

theorem Works.modIssue (s : State) (c id : Nat) (g : Issue → Issue) : Works [.issues] c s (s.modIssue id g) :=
  ⟨keeps_issues s _, fun _ _ => rfl, chipsAgree.refl _ _⟩

/-- A round that a cluster takes is work of its chip alone. -/
theorem State.takeRound_works (s : State) (c k : Nat) (b : Bool) : Works [.chips, .issues] c s (s.takeRound c k b) := by
  have back (s : State) {g : Chip → Chip} (h : ∀ x, (g x).unworked = x.unworked) : Works [.chips, .issues] c s (s.modChip c g) :=
    (Works.modChip s c h).mono (by decide)
  unfold State.takeRound
  dsimp only
  split
  · exact Works.refl _ _ _
  · split
    · split
      · split
        · exact back s fun _ => rfl
        · split
          · exact Works.refl _ _ _
          · exact ((Works.modIssue s c _ _).mono (by decide)).trans (back _ fun _ => rfl)
      · exact Works.refl _ _ _
    · exact Works.refl _ _ _

theorem State.fill_works (s : State) (c : Nat) : Works [.chips, .issues] c s (s.fill c) := by
  have cluster (s : State) (k : Nat) : Works [.chips, .issues] c s ((s.takeRound c k false).takeRound c k true) :=
    (s.takeRound_works c k false).trans (State.takeRound_works _ c k true)
  have all (l : List Nat) (s : State) :
      Works [.chips, .issues] c s (l.foldl (fun s k => (s.takeRound c k false).takeRound c k true) s) := by
    induction l generalizing s with
    | nil => exact Works.refl _ _ _
    | cons k l ih => exact (cluster s k).trans (ih _)
  exact all _ s

theorem State.startEngines_works (s : State) (c : Nat) : Works [.chips] c s (s.startEngines c) := by
  unfold State.startEngines
  extract_lets x next s1 s2
  have h1 : Works [.chips] c s s1 := by
    unfold s1
    split
    · exact Works.ite (Works.modChip s c fun _ => rfl) (Works.refl _ _ _)
    · exact Works.refl _ _ _
  have h2 : Works [.chips] c s1 s2 := by
    unfold s2
    split
    · exact Works.ite (Works.modChip s1 c fun _ => rfl) (Works.refl _ _ _)
    · exact Works.refl _ _ _
  refine Works.ite (Works.refl _ _ _) ((h1.trans h2).trans ?_)
  split
  · exact Works.ite (Works.modChip s2 c fun _ => rfl) (Works.refl _ _ _)
  · exact Works.refl _ _ _

/-- Work taken up again on a chip: its clusters, then its engines. -/
theorem State.resume_works (s : State) (c : Nat) : Works [.chips, .issues] c s ((s.fill c).startEngines c) :=
  (s.fill_works c).trans ((State.startEngines_works _ c).mono (by decide))

/-! ### Issues that end, and the end of a step -/

theorem State.removeIssue_keeps (s : State) (id : Nat) : Keeps [.chips, .issues] s (s.removeIssue id) := by
  unfold State.removeIssue
  exact Keeps.forEach (fun s c => (s.resume_works c).keeps) (keeps_chips_issues s _ _)

theorem State.countCommit_keeps (s : State) (i : Issue) : Keeps [.od] s (s.countCommit i) :=
  (s.add_keeps _ _ _).trans (State.add_keeps _ _ _ _)

theorem State.promote_keeps (s : State) : Keeps [.od, .issues] s s.promote := by
  unfold State.promote
  refine Keeps.foldl (fun s i => ?_) (Keeps.refl _ s)
  dsimp only
  split
  · exact ((keeps_issues s _).mono (by decide)).trans ((State.countCommit_keeps _ _).mono (by decide))
  · exact Keeps.refl _ _

theorem State.spoil_keeps (s : State) (i : Issue) (p : PartRun) : Keeps [.draws, .chips] s (s.spoil i p) := by
  unfold State.spoil State.draw
  split
  · exact ((keeps_draws s _).mono (by decide)).trans ((keeps_chips _ _).mono (by decide))
  · exact Keeps.refl _ _

/-- What a squash may change. -/
def squashPieces : List Piece := [.od, .draws, .jobs, .issues, .chips]

theorem State.squash_keeps (s : State) (id : Nat) : Keeps squashPieces s (s.squash id) := by
  unfold State.squash
  split
  · exact Keeps.refl _ _
  · extract_lets s1 s2 s3
    have h1 : Keeps squashPieces s s1 := Keeps.foldl (fun s p => (s.spoil_keeps _ p).mono (by decide)) (Keeps.refl _ s)
    have h2 : Keeps squashPieces s1 s2 :=
      ((s1.removeIssue_keeps id).mono (by decide)).trans ((State.add_keeps _ _ _ _).mono (by decide))
    have h3 : Keeps squashPieces s2 s3 := (keeps_jobs s2 _).mono (by decide)
    exact ((h1.trans h2).trans h3).trans ((s3.add_keeps _ _ _).mono (by decide))

theorem State.squashIf_keeps (s : State) (p : Issue → Bool) : Keeps squashPieces s (s.squashIf p) :=
  Keeps.foldl (fun s i => s.squash_keeps i.id) (Keeps.refl _ s)

/-- What the end of a learning step may change. -/
def stepEndPieces : List Piece := [.od, .issues, .chips, .learn, .parish]

theorem State.endStep_keeps (s : State) : Keeps stepEndPieces s s.endStep := by
  unfold State.endStep
  extract_lets ids s1 s2
  have h1 : Keeps stepEndPieces s s1 := Keeps.foldl (fun s id => (s.removeIssue_keeps id).mono (by decide)) (Keeps.refl _ s)
  have h2 : Keeps stepEndPieces s1 s2 := (keeps_learn s1 _).mono (by decide)
  exact ((h1.trans h2).trans ((keeps_parish s2 _).mono (by decide))).trans ((State.promote_keeps _).mono (by decide))

theorem State.switchRows_keeps (s : State) (c : Nat) : Keeps [.chips, .learn] s (s.switchRows c) := by
  unfold State.switchRows
  exact Keeps.ite (((keeps_chips s _).mono (by decide)).trans ((keeps_learn _ _).mono (by decide))) (Keeps.refl _ _)

theorem State.releaseCopies_keeps (s : State) : Keeps [.chips, .learn] s s.releaseCopies := by
  unfold State.releaseCopies
  extract_lets s1 extra chip
  have h1 : Keeps [.chips, .learn] s s1 := Keeps.forEach State.switchRows_keeps (Keeps.refl _ s)
  exact h1.trans (keeps_chips_learn s1 _ _)

theorem State.leaveLearning_keeps (s : State) : Keeps stepEndPieces s s.leaveLearning :=
  s.endStep_keeps.trans ((State.releaseCopies_keeps _).mono (by decide))

/-! ### Leaving watching -/

theorem State.clearSet_keeps (s : State) (t o : Nat) : Keeps [.sets, .od] s (s.clearSet t o) := by
  unfold State.clearSet
  extract_lets s1
  have h1 : Keeps [.sets, .od] s s1 := (keeps_sets s _).mono (by decide)
  refine h1.trans ?_
  split
  · exact Keeps.ite (((keeps_od s1 _).trans (keeps_od _ _)).mono (by decide)) (Keeps.refl _ _)
  · exact Keeps.refl _ _

theorem State.clearSets_keeps (s : State) : Keeps [.sets, .od] s s.clearSets :=
  Keeps.forEach (fun s t => Keeps.forEach (fun s o => s.clearSet_keeps t o) (Keeps.refl _ s)) (Keeps.refl _ s)

/-- What leaving watching and learning may change. -/
def watchEndPieces : List Piece := [.od, .draws, .jobs, .issues, .chips, .sets, .power, .pend, .cams, .groups, .events]

theorem State.leaveWatching_keeps (s : State) : Keeps watchEndPieces s s.leaveWatching := by
  unfold State.leaveWatching
  extract_lets s1 s2 cam off
  have h1 : Keeps watchEndPieces s s1 := (s.squashIf_keeps _).mono (by decide)
  have h2 : Keeps watchEndPieces s1 s2 := s1.clearSets_keeps.mono (by decide)
  exact (h1.trans h2).trans ((keeps_watch s2 _ _ _ _ _).mono (by decide))

/-- No camera is supplied once watching has been left (R528). -/
theorem State.leaveWatching_cam (s : State) {k : Nat} (h : k < 2) : (s.leaveWatching.cam k).power = false := by
  simp [State.leaveWatching, State.cam, h]

/-- No trigger is pending once watching has been left. -/
theorem State.leaveWatching_pend (s : State) {t : Nat} (h : t < 16) : (s.leaveWatching.pendOf t).queue = [] := by
  simp [State.leaveWatching, State.pendOf, h]

/-! ### Tiers -/

theorem Chip.aim_eq (x : Chip) (n : Nat) :
    x.aim n = { x with target := n, rising := (x.aim n).rising, falling := (x.aim n).falling } := by
  unfold Chip.aim
  dsimp only
  split <;> rfl

@[simp] theorem Chip.aim_tier (x : Chip) (n : Nat) : (x.aim n).tier = x.tier := by rw [Chip.aim_eq]
@[simp] theorem Chip.aim_dropTo (x : Chip) (n : Nat) : (x.aim n).dropTo = x.dropTo := by rw [Chip.aim_eq]
@[simp] theorem Chip.aim_reloading (x : Chip) (n : Nat) : (x.aim n).reloading = x.reloading := by rw [Chip.aim_eq]
@[simp] theorem Chip.aim_bellOk (x : Chip) (n : Nat) : (x.aim n).bellOk = x.bellOk := by rw [Chip.aim_eq]
@[simp] theorem Chip.aim_granary (x : Chip) (n : Nat) : (x.aim n).granary = x.granary := by rw [Chip.aim_eq]
@[simp] theorem Chip.aim_loft (x : Chip) (n : Nat) : (x.aim n).loft = x.loft := by rw [Chip.aim_eq]
@[simp] theorem Chip.aim_test (x : Chip) (n : Nat) : (x.aim n).test = x.test := by rw [Chip.aim_eq]
@[simp] theorem Chip.aim_tests (x : Chip) (n : Nat) : (x.aim n).tests = x.tests := by rw [Chip.aim_eq]
@[simp] theorem Chip.aim_whole (x : Chip) (n : Nat) : (x.aim n).whole = x.whole := by rw [Chip.aim_eq]

theorem State.retier_keeps (s : State) : Keeps [.chips] s s.retier :=
  Keeps.ite (Keeps.forEach (fun s _ => keeps_chips s _) (Keeps.refl _ s)) (Keeps.refl _ s)

/-- Choosing the tiers anew changes the tier of no chip at once: it sets what each is to reach. -/
theorem State.retier_tier (s : State) : chipsAgree Chip.tier s s.retier := by
  unfold State.retier
  split
  · exact chipsAgree.foldl (fun s c => s.modChip_agree c fun x => x.aim_tier _) _ s
  · exact chipsAgree.refl _ s

/-! ### The view of the parish -/

theorem State.seatOwn_keeps (s : State) : Keeps [.parish] s s.seatOwn := keeps_parish s _

theorem State.review_keeps (s : State) : Keeps viewPieces s s.review := by
  unfold State.review
  split
  · exact (keeps_parish s _).mono (by decide)
  · extract_lets s1 l changed st p s2
    have h1 : Keeps viewPieces s s1 := s.seatOwn_keeps.mono (by decide)
    have h2 : Keeps viewPieces s1 s2 := (keeps_parish s1 _).mono (by decide)
    exact (h1.trans h2).trans (Keeps.ite ((s2.raise_keeps _ _ _ _).mono (by decide)) (Keeps.refl _ _))

theorem State.vacate_keeps (s : State) : Keeps viewPieces s s.vacate := by
  unfold State.vacate
  extract_lets i s1 s2
  have h1 : Keeps viewPieces s s1 := (keeps_parish s _).mono (by decide)
  refine Keeps.ite ((h1.trans s1.review_keeps).trans ?_) ((keeps_parish s _).mono (by decide))
  exact Keeps.ite ((keeps_parish s2 _).mono (by decide)) (Keeps.refl _ _)

theorem State.giveSeat_keeps (s : State) : Keeps viewPieces s s.giveSeat := Keeps.ite s.vacate_keeps (Keeps.refl _ s)

end Sys2Proof.Machine
end
section
/-! PROOFS. The tray commands of Table 1.9: those that are taken, and those that are refused. -/

namespace Sys2Proof.Machine

/-! ### Requests -/

/-- An update of an entry that leaves what `p` reads leaves it for every entry. -/
theorem vmod_toList_map {α β : Type} [Inhabited α] {k : Nat} (v : Vector α k) (i : Nat) {f : α → α} {p : α → β}
    (h : ∀ x, p (f x) = p x) : (vmod v i f).toList.map p = v.toList.map p := by
  by_cases hi : i < k
  · have e : p v[i] = (v.toList.map p)[i]'(by simpa using hi) := by simp
    simp [vmod, vset, vget, hi, List.map_set, h, e, -List.getElem_map]
  · simp [vmod, vset, List.set_eq_of_length_le, Nat.le_of_not_lt hi]

theorem State.abandonXfer_unplaced (s : State) (n : Net) :
    (s.abandonXfer n).slots.toList.map Slot.unplaced = s.slots.toList.map Slot.unplaced := by
  unfold State.abandonXfer
  split
  · rfl
  · dsimp only
    split
    · simp only [State.modSlot_slots, State.modBox_slots]
      exact vmod_toList_map s.slots _ fun _ => rfl
    · rfl

theorem State.causes_of_unplaced {s t : State} (hs : t.slots.toList.map Slot.unplaced = s.slots.toList.map Slot.unplaced)
    (hf : t.faults = s.faults) : t.causes = s.causes := by
  have any (r : State) : r.slots.toList.any Slot.unplaced = (r.slots.toList.map Slot.unplaced).any id := by
    rw [List.any_map]; rfl
  unfold State.causes
  rw [any t, any s, hs, hf]

section
variable (s : State) (n : Net)

@[simp] theorem State.asked_tray : (s.asked n).tray = s.tray := s.asked_keeps n .tray (by decide)
@[simp] theorem State.asked_command : (s.asked n).command = s.command := s.asked_keeps n .command (by decide)
@[simp] theorem State.asked_boot : (s.asked n).boot = s.boot := s.asked_keeps n .boot (by decide)
@[simp] theorem State.asked_learn : (s.asked n).learn = s.learn := s.asked_keeps n .learn (by decide)
@[simp] theorem State.asked_faults : (s.asked n).faults = s.faults := s.asked_keeps n .faults (by decide)
@[simp] theorem State.asked_store : (s.asked n).store = s.store := s.asked_keeps n .store (by decide)

/-- What a request does before it is judged leaves the tenant of every session. -/
@[simp] theorem State.asked_session (m : Net) : (s.asked n).session m = s.session m := by
  have touched : ((s.touch n).session m) = s.session m := by
    cases n <;> cases m <;> simp [State.touch, State.session, State.box, Net.num, Function.comp_def]
  have kept (r : State) : (r.abandonXfer n).session m = r.session m := by
    unfold State.abandonXfer
    split
    · rfl
    · dsimp only
      split <;> cases n <;> cases m <;> simp [State.session, State.box, Net.num]
  exact (kept _).trans touched

/-- A request does not change which causes of safe-hold are present. -/
@[simp] theorem State.asked_causes : (s.asked n).causes = s.causes :=
  State.causes_of_unplaced (State.abandonXfer_unplaced _ n) (s.asked_faults n)

end

/-- An accepted write has been through the entry's own check. -/
theorem State.check_of_accepts {s : State} {n : Net} {i j : Nat} {d : List Byte} {c : State → Option Deny}
    (h : s.accepts n i j d c) : c (s.asked n) = none := by
  have h := h.2
  simp only [State.writeDeny, Option.orElse_eq_none] at h
  exact h.2.2.2.2

/-- A command that is taken passes its checks: no other command is pending, and the tray state allows it (R40). -/
theorem State.valid_of_takes {s : State} {n : Net} {cmd : Nat} (h : s.takes n cmd) :
    s.command = 0 ∧ (s.asked n).commandValid cmd = true := by
  have h := State.check_of_accepts h
  unfold State.commandDeny at h
  split at h
  · cases h
  · split at h
    · cases h
    · next h2 => simpa using h2

/-- A command that is taken has its effect and is answered. -/
theorem State.commandWrite_of_takes {s : State} {n : Net} {cmd : Nat} (h : s.takes n cmd) :
    s.commandWrite n cmd = ((s.asked n).commandDo cmd).answer n .ok := by
  unfold State.commandWrite
  rw [State.write_accepted _ h]
  simp

section
variable (s : State) (n : Net) (a : Answer)

@[simp] theorem State.answer_tray : (s.answer n a).tray = s.tray := rfl
@[simp] theorem State.answer_command : (s.answer n a).command = s.command := rfl
@[simp] theorem State.answer_cam (k : Nat) : (s.answer n a).cam k = s.cam k := rfl
@[simp] theorem State.answer_pendOf (t : Nat) : (s.answer n a).pendOf t = s.pendOf t := rfl
@[simp] theorem State.answer_ecat : (s.answer n a).ecat = s.ecat := rfl
@[simp] theorem State.answer_can : (s.answer n a).can = s.can := rfl
@[simp] theorem State.answer_boot : (s.answer n a).boot = s.boot := rfl
@[simp] theorem State.answer_power : (s.answer n a).power = s.power := rfl
@[simp] theorem State.answer_issues : (s.answer n a).issues = s.issues := rfl
@[simp] theorem State.answer_store : (s.answer n a).store = s.store := rfl

end

@[simp] theorem State.answer_answered (s : State) (n : Net) : (s.answer n .ok).answered n := by simp [State.answered]

/-! ### Commands 0x02 and 0x04 (R45) -/

/-- A change of the tray state, with the tiers and the view of the parish chosen anew, leaves all but these. -/
def enterPieces : List Piece := [.od, .tray, .boot, .mail, .parish, .faults, .chips]

/-- Tiers and view, as a change of the tray state leaves them to be chosen anew. -/
theorem State.settled_keeps (s : State) : Keeps (.chips :: viewPieces) s (s.retier).review :=
  (s.retier_keeps.mono (by decide)).trans ((State.review_keeps _).mono (by decide))

theorem State.entered_keeps (s : State) (d : TrayState) : Keeps enterPieces s ((s.enter d).retier).review :=
  ((s.enter_keeps d).mono (by decide)).trans ((State.settled_keeps _).mono (by decide))

@[simp] theorem State.entered_tray (s : State) (d : TrayState) : (((s.enter d).retier).review).tray = d :=
  (State.settled_keeps (s.enter d) .tray (by decide)).trans (s.enter_tray d)

/-- What the end of learning and watching on command may change. -/
def stopPieces : List Piece := .command :: (enterPieces ++ stepEndPieces ++ watchEndPieces)

theorem State.stopNow_keeps (s : State) : Keeps stopPieces s s.stopNow := by
  unfold State.stopNow
  extract_lets s1
  have h1 : Keeps stopPieces s s1 :=
    Keeps.ite ((s.leaveLearning_keeps.mono (by decide)).trans ((State.giveSeat_keeps _).mono (by decide))) (Keeps.refl _ s)
  have h2 : Keeps stopPieces s1 s1.leaveWatching := s1.leaveWatching_keeps.mono (by decide)
  exact ((h1.trans h2).trans ((keeps_command _ 0).mono (by decide))).trans ((State.entered_keeps _ .ready).mono (by decide))

@[simp] theorem State.stopNow_tray (s : State) : s.stopNow.tray = .ready := State.entered_tray _ _

@[simp] theorem State.stopNow_command (s : State) : s.stopNow.command = 0 := State.entered_keeps _ _ .command (by decide)

/-- Command 0x02 ends with watching left, and the tray in ready. -/
theorem State.stopNow_leaves (s : State) :
    ∃ r : State, s.stopNow = ((({ r.leaveWatching with command := 0 }).enter .ready).retier).review := ⟨_, rfl⟩

/-- Command 0x02 switches the cameras off (R528). -/
theorem State.stopNow_cam (s : State) {k : Nat} (h : k < 2) : (s.stopNow.cam k).power = false := by
  obtain ⟨r, e⟩ := s.stopNow_leaves
  have hc : s.stopNow.cams = r.leaveWatching.cams := e ▸ State.entered_keeps _ .ready .cams (by decide)
  rw [State.cam, hc]
  exact r.leaveWatching_cam h

/-- Command 0x02 drops the triggers that are pending. -/
theorem State.stopNow_pend (s : State) {t : Nat} (h : t < 16) : (s.stopNow.pendOf t).queue = [] := by
  obtain ⟨r, e⟩ := s.stopNow_leaves
  have hp : s.stopNow.pend = r.leaveWatching.pend := e ▸ State.entered_keeps _ .ready .pend (by decide)
  rw [State.pendOf, hp]
  exact r.leaveWatching_pend h

theorem State.stopLearningNow_keeps (s : State) : Keeps stopPieces s s.stopLearningNow :=
  (((s.leaveLearning_keeps.mono (by decide)).trans ((State.giveSeat_keeps _).mono (by decide))).trans
    ((keeps_command _ 0).mono (by decide))).trans ((State.entered_keeps _ .watching).mono (by decide))

@[simp] theorem State.stopLearningNow_tray (s : State) : s.stopLearningNow.tray = .watching := State.entered_tray _ _

@[simp] theorem State.stopLearningNow_command (s : State) : s.stopLearningNow.command = 0 :=
  State.entered_keeps _ _ .command (by decide)

/-- A learning command waits for the end of the step in progress. -/
theorem State.orPending_waits {s : State} {f : State → State} (cmd : Nat) (ht : s.tray = .learning) (hp : s.learn.phase ≠ 0) :
    s.orPending cmd f = { s with command := cmd } := if_pos ⟨ht, hp⟩

/-- Without a step in progress it takes effect at once. -/
theorem State.orPending_now {s : State} {f : State → State} (cmd : Nat) (h : s.tray = .learning → s.learn.phase = 0) :
    s.orPending cmd f = f s := if_neg fun ⟨ht, hp⟩ => hp (h ht)

/-- A command that is taken ends with the pieces that its effect keeps as they were before it. -/
theorem Keeps.taken {l : List Piece} {s t : State} {n : Net} (h : Keeps l (s.asked n) t) :
    Keeps (.mail :: .slots :: l) s (t.answer n .ok) := by
  have h1 : Keeps (.mail :: .slots :: l) s (s.asked n) := fun p hp => s.asked_keeps n p fun h => hp (by simp_all)
  have h2 : Keeps (.mail :: .slots :: l) (s.asked n) t := fun p hp => h p fun h => hp (by simp_all)
  exact (h1.trans h2).trans fun p hp => t.answer_keeps n .ok p fun h => hp (by simp_all)

/-- Settles O15: what command 0x02 and command 0x04 do once no step is in progress, and that they wait until then. -/
theorem workStopped : Obligations.WorkStopped := by
  unfold Obligations.WorkStopped
  intro s n
  refine ⟨fun h hw => ?_, fun h ht hp => ?_, fun h hp => ?_, fun h hp => ?_, fun ht hp hc => ?_, fun ht hp hc => ?_, fun hp => ?_⟩
  · have hnow : (s.asked n).commandDo 2 = (s.asked n).stopNow := State.orPending_now 2 fun ht => by
      rw [s.asked_learn n]
      exact hw.resolve_left fun hw => by simp [hw] at ht
    have hk := (State.stopNow_keeps (s.asked n)).taken
    refine ⟨(s.asked n).stopNow.answer n .ok, ?_, by simp, by simp, by simp, fun k hk => ?_, fun k hk => ?_,
      hk .shafts (by decide), hk .tenants (by decide)⟩
    · rw [← hnow]
      exact congrArg _ (State.commandWrite_of_takes h)
    · simpa using State.stopNow_cam _ hk
    · simpa using State.stopNow_pend _ hk
  · have hwait : (s.asked n).commandDo 2 = { s.asked n with command := 2 } :=
      State.orPending_waits 2 (by simpa using ht) (by simpa using hp)
    rw [← hwait]
    exact congrArg _ (State.commandWrite_of_takes h)
  · have hnow : (s.asked n).commandDo 4 = (s.asked n).stopLearningNow := State.orPending_now 4 fun _ => by simpa using hp
    have hk := (State.stopLearningNow_keeps (s.asked n)).taken
    refine ⟨(s.asked n).stopLearningNow.answer n .ok, ?_, ?_, by simp, by simp, by simp, hk .shafts (by decide), hk .tenants (by decide)⟩
    · rw [← hnow]
      exact congrArg _ (State.commandWrite_of_takes h)
    · simpa [State.commandValid] using (State.valid_of_takes h).2
  · have ht : s.tray = .learning := by simpa [State.commandValid] using (State.valid_of_takes h).2
    have hwait : (s.asked n).commandDo 4 = { s.asked n with command := 4 } :=
      State.orPending_waits 4 (by simpa using ht) (by simpa using hp)
    rw [← hwait]
    exact congrArg _ (State.commandWrite_of_takes h)
  · have he : s.pendingEffect = s.stopNow := by simp [State.pendingEffect, ht, hp, hc]
    exact ⟨s.stopNow, congrArg _ he, s.stopNow_tray, s.stopNow_command, s.stopNow_keeps .shafts (by decide),
      s.stopNow_keeps .tenants (by decide)⟩
  · have he : s.pendingEffect = s.stopLearningNow := by simp [State.pendingEffect, ht, hp, hc]
    exact ⟨s.stopLearningNow, congrArg _ he, s.stopLearningNow_tray, s.stopLearningNow_command,
      s.stopLearningNow_keeps .shafts (by decide), s.stopLearningNow_keeps .tenants (by decide)⟩
  · exact congrArg _ (if_neg fun h => hp h.2)

end Sys2Proof.Machine
end
section
/-! PROOFS. Writes of the tray's own objects: refusals (R28, R40), the spare map and the tier bounds (R20, R21, R28). -/

namespace Sys2Proof.Machine

/-! ### Refusals -/

section
variable (s : State) (n : Net) (i : Nat)

@[simp] theorem State.asked_ownerOf : (s.asked n).ownerOf i = s.ownerOf i := by simp [State.ownerOf]

@[simp] theorem State.asked_roleOf (who : Option Nat) : (s.asked n).roleOf who i = s.roleOf who i := by simp [State.roleOf]

@[simp] theorem State.asked_ofFree : (s.asked n).ofFree i = s.ofFree i := by
  rw [State.ofFree, State.ofFree, State.tenantState, State.tenantState, State.asked_nat]

@[simp] theorem State.asked_rightOn (who : Option Nat) (j : Nat) : (s.asked n).rightOn who i j = s.rightOn who i j := by
  rw [State.rightOn, State.rightOn, State.asked_roleOf, State.asked_ofFree]

@[simp] theorem State.asked_controlling : (s.asked n).controlling = s.controlling := by simp [State.controlling]

/-- The rights of a write do not change by the request itself. -/
@[simp] theorem State.asked_rightsDeny (j : Nat) : (s.asked n).rightsDeny n i j = s.rightsDeny n i j := by
  rw [State.rightsDeny, State.rightsDeny, State.asked_session, State.asked_rightOn, State.asked_controlling]

end

/-- A refusal that names no record shows itself in OD 0x2401 and the answer, and changes nothing else. -/
theorem State.refuse_plain_keeps (s : State) (n : Net) {d : Deny} (h : d.record = none) : Keeps [.mail, .faults] s (s.refuse n d) := by
  simp only [State.refuse, h]
  exact ((keeps_faults s _).mono (by decide)).trans ((keeps_mail _ _).mono (by decide))

/-- What a write without a record of its own leaves, where it is refused for `d`. -/
theorem State.write_refused {s : State} {n : Net} {i j : Nat} {b : List Byte} {c : State → Option Deny} (f : State → State) {d : Deny}
    (h : s.rejects n i j b c d) (hr : d.record = none) :
    ((s.write n i j b c f).box n).answer = .abort d.abort ∧ Keeps [.mail, .slots, .faults] s (s.write n i j b c f) := by
  rw [State.write_rejected f h]
  exact ⟨State.refuse_answer _ n d,
    ((s.asked_keeps n).mono (by decide)).trans ((State.refuse_plain_keeps _ n hr).mono (by decide))⟩

/-- A value that the entry's own check refuses ends with that refusal, wherever the session may write the entry, and the entry's
type takes the value or refuses it in the same words. -/
theorem State.rejects_badValue {s : State} {n : Net} {i j : Nat} {b : List Byte} {c : State → Option Deny} (hs : s.serves n = true)
    (hr : s.rightsDeny n i j = none) (hv : valueDeny i j b = none ∨ valueDeny i j b = some (badValue i j))
    (hc : c (s.asked n) = some (badValue i j)) : s.rejects n i j b c (badValue i j) := by
  refine ⟨hs, ?_⟩
  rcases hv with hv | hv <;> simp [State.writeDeny, hr, hv, hc, badValue, Option.filter]

/-- The state rules of every write refuse a tray command in the words of its own check. -/
theorem State.stateDeny_command (s : State) (n : Net) :
    s.stateDeny n 0x2001 0 = none ∨ s.stateDeny n 0x2001 0 = some (notNow 0x2001 0) := by
  by_cases h : s.suspendedSession (s.session n) = true <;> simp [State.stateDeny, h]

/-- A byte written to an entry of one byte is refused, if at all, for its range. -/
theorem valueDeny_byte {i j : Nat} {r : Row} (h : odRow i j = some r) (ht : r.ty = .u8) (v : Nat) :
    valueDeny i j (leBytes 1 v) = if (!r.range.isEmpty && !r.range.any (fun p =>
      decide (p.1 ≤ (leNat (leBytes 1 v) : Int) ∧ (leNat (leBytes 1 v) : Int) ≤ p.2))) = true then some (badValue i j) else none := by
  obtain ⟨ty, _, _, _, _, range, _, _⟩ := r
  subst ht
  have hl : (leBytes 1 v).length = 1 := rfl
  have hd : Ty.u8.decode (leBytes 1 v) = .num (leNat (leBytes 1 v)) := rfl
  simp only [valueDeny, h, hd, hl, Ty.limit, Ty.size]
  rfl

/-- OD 0x2001 takes every byte. -/
theorem valueDeny_command (cmd : Nat) : valueDeny 0x2001 0 (leBytes 1 cmd) = none := by
  rw [valueDeny_byte (r := ⟨.u8, .wo, .no, .no, .num 0, [], .no, .no⟩) (by decide) rfl]
  rfl

/-- The tier bounds are bytes, refused for their range alone. -/
theorem valueDeny_bound {sub : Nat} (h : sub = 1 ∨ sub = 2) (v : Nat) :
    valueDeny 0x2002 sub (leBytes 1 v) = none ∨ valueDeny 0x2002 sub (leBytes 1 v) = some (badValue 0x2002 sub) := by
  have row : ∃ r, odRow 0x2002 sub = some r ∧ r.ty = .u8 := by
    rcases h with rfl | rfl
    · exact ⟨cfgRow .u8 4 [(0, 4)], by decide, rfl⟩
    · exact ⟨cfgRow .u8 1 [(0, 4)], by decide, rfl⟩
  obtain ⟨r, hr, ht⟩ := row
  rw [valueDeny_byte hr ht]
  split
  · exact Or.inr rfl
  · exact Or.inl rfl

/-! ### Tray commands refused (R40) -/

@[simp] theorem State.asked_commandValid (s : State) (n : Net) (cmd : Nat) :
    (s.asked n).commandValid cmd = s.commandValid cmd := by
  simp only [State.commandValid, State.alive, State.asked_tray]

/-- A command that is not listed, or not now, is refused by its check before anything else of it is judged. -/
theorem State.commandDeny_unlisted (s : State) {cmd : Nat} (h : cmd = 0 ∨ 8 < cmd) : s.commandDeny cmd = some (badValue 0x2001 0) :=
  if_pos h

theorem State.commandDeny_notNow (s : State) {cmd : Nat} (h1 : 0 < cmd) (h8 : cmd ≤ 8)
    (h : s.command ≠ 0 ∨ s.commandValid cmd = false) : s.commandDeny cmd = some (notNow 0x2001 0) := by
  rw [State.commandDeny, if_neg (by omega), if_pos h]

/-- A tray command refused without a cause of its own leaves the tray as it is. -/
theorem State.commandWrite_rejected {s : State} {n : Net} {cmd : Nat} {d : Deny} (hc : d.code = 0) (hr : d.record = none)
    (h : s.rejects n 0x2001 0 (leBytes 1 cmd) (fun s => s.commandDeny cmd) d) :
    ((s.commandWrite n cmd).box n).answer = .abort d.abort ∧ Keeps [.mail, .slots, .faults] s (s.commandWrite n cmd) := by
  have same : s.commandWrite n cmd
      = s.write n 0x2001 0 (leBytes 1 cmd) (fun s => s.commandDeny cmd) (fun s => s.commandDo cmd) := by
    unfold State.commandWrite
    rw [State.write_rejected _ h]
    refine if_neg fun hx => hx.2.2.2.2 ?_
    rw [State.refuse_shown]
    exact hc
  rw [same]
  exact State.write_refused _ h hr

/-- Settles O17: the check of a tray command names both refusals, whatever the state rules of Table 14.1 add. -/
theorem commandsRefused : Obligations.CommandsRefused := by
  unfold Obligations.CommandsRefused
  intro s n hs hr
  have listed (cmd : Nat) (h1 : 0 < cmd) (h8 : cmd ≤ 8) (h : s.command ≠ 0 ∨ s.commandValid cmd = false) :
      ∃ t, Host.Outcome.next (s.commandWrite n cmd) = (.next t : Host.Outcome State Fault Refusal)
        ∧ (t.box n).answer = .abort 0x08000022 ∧ t.tray = s.tray ∧ t.command = s.command ∧ Keeps [.mail, .slots, .faults] s t := by
    have deny : (s.asked n).commandDeny cmd = some (notNow 0x2001 0) :=
      State.commandDeny_notNow _ h1 h8 (by simpa using h)
    have rejects : s.rejects n 0x2001 0 (leBytes 1 cmd) (fun s => s.commandDeny cmd) (notNow 0x2001 0) := by
      refine ⟨hs, ?_⟩
      rcases State.stateDeny_command (s.asked n) n with hd | hd <;>
        simp [State.writeDeny, hr, valueDeny_command, deny, hd, Option.filter, notNow, abState, abValue, abStore]
    obtain ⟨ha, hk⟩ := State.commandWrite_rejected rfl rfl rejects
    exact ⟨_, rfl, ha, hk .tray (by decide), hk .command (by decide), hk⟩
  refine ⟨fun code hc _ => ?_, fun p hp h => ?_⟩
  · have deny : (s.asked n).commandDeny code = some (badValue 0x2001 0) := State.commandDeny_unlisted _ hc
    have rejects : s.rejects n 0x2001 0 (leBytes 1 code) (fun s => s.commandDeny code) (badValue 0x2001 0) :=
      State.rejects_badValue hs hr (Or.inl (valueDeny_command code)) deny
    obtain ⟨ha, hk⟩ := State.commandWrite_rejected rfl rfl rejects
    exact ⟨_, rfl, ha, hk .tray (by decide), hk .command (by decide), hk⟩
  · simp only [List.mem_cons, List.not_mem_nil, or_false] at hp
    rcases hp with rfl | rfl | rfl | rfl | rfl | rfl | rfl | rfl
    · exact listed 1 (by decide) (by decide) h
    · exact listed 2 (by decide) (by decide) h
    · exact listed 3 (by decide) (by decide) h
    · exact listed 4 (by decide) (by decide) h
    · exact listed 5 (by decide) (by decide) h
    · exact listed 6 (by decide) (by decide) h
    · exact listed 7 (by decide) (by decide) h
    · exact listed 8 (by decide) (by decide) h

/-! ### Tier bounds and the spare map -/

/-- Settles O19: the entry's own check refuses such a bound, and a refusal without a record keeps the dictionary and the chips. -/
theorem tierBoundsRefused : Obligations.TierBoundsRefused := by
  unfold Obligations.TierBoundsRefused
  intro s n sub v _ hs hr h
  have hsub : sub = 1 ∨ sub = 2 := by omega
  have deny : (s.asked n).boundDeny sub v = some (badValue 0x2002 sub) := by
    rcases hsub with rfl | rfl
    · refine if_pos ?_
      simp only [State.asked_nat, if_true, OfNat.one_ne_ofNat, if_false]
      omega
    · refine if_pos ?_
      simp only [State.asked_nat, if_true, OfNat.ofNat_ne_one, if_false]
      omega
  have rejects : s.rejects n 0x2002 sub (leBytes 1 v) (fun s => s.boundDeny sub v) (badValue 0x2002 sub) :=
    State.rejects_badValue hs hr (valueDeny_bound hsub v) deny
  obtain ⟨ha, hk⟩ := State.write_refused (fun s => (s.setNum 0x2002 sub v).retier) rejects rfl
  exact ⟨_, rfl, ha, hk .od (by decide), hk .chips (by decide)⟩

theorem State.nat_of_od {s t : State} (h : t.od = s.od) (i j : Nat) : t.nat i j = s.nat i j := by
  simp [State.nat, State.num, State.get, h]

/-- Chips put into Fallow together. -/
def State.fallowAll (s : State) (l : List Nat) : State := l.foldl (fun s c => s.modChip c Chip.fallow) s

theorem State.fallowAll_keeps (s : State) (l : List Nat) : Keeps [.chips] s (s.fallowAll l) :=
  Keeps.foldl (fun s _ => keeps_chips s _) (Keeps.refl _ s)

/-- Each chip of the list is in Fallow then, as is each that was. -/
theorem State.fallowAll_tier (s : State) {l : List Nat} {c : Nat} (hc : c < 16) (h : c ∈ l ∨ (s.chip c).tier = 0) :
    ((s.fallowAll l).chip c).tier = 0 := by
  induction l generalizing s with
  | nil => simpa [State.fallowAll] using h
  | cons d l ih =>
    refine ih (s.modChip d Chip.fallow) ?_
    by_cases hd : c = d
    · subst hd
      exact Or.inr (by rw [s.chip_modChip_same hc]; rfl)
    · rw [s.modChip_others d _ c hd]
      exact h.imp_left fun h => (List.mem_cons.mp h).resolve_left hd

/-- Outside safe-hold the spare map is stored, its new chips are in Fallow, and the tiers are chosen anew. -/
theorem State.setSpares_eq {s : State} (h : s.tray ≠ .safeHold) (v : Nat) : s.setSpares v =
    (((s.setNum 0x2011 1 v).fallowAll ((bitsSet 16 v).filter (fun c => !bit (s.nat 0x2011 1) c))).retier) := by
  refine if_neg fun ht => h ?_
  exact (State.fallowAll_keeps (s.setNum 0x2011 1 v) _ .tray (by decide)).symm.trans ht

/-- An accepted write that sets one entry, and beside it changes chips alone. -/
theorem State.entry_written {s t : State} {n : Net} {i j v : Nat} {p : Nat → Bool} (hj : j < 256) (hp : p i = true)
    (h : Keeps [.chips] ((s.asked n).setNum i j v) t) :
    (t.answer n .ok).nat i j = v ∧ (t.answer n .ok).answered n ∧ sameEntries p s (t.answer n .ok)
      ∧ Keeps [.od, .mail, .chips, .slots] s (t.answer n .ok) := by
  have hod : (t.answer n .ok).od = ((s.asked n).setNum i j v).od := h .od (by decide)
  refine ⟨?_, State.answer_answered t n, ?_, ?_⟩
  · rw [State.nat_of_od hod, State.nat_setNum_same]
  · exact (sameEntries.of_od (s.asked_od n)).trans ((State.set_same _ _ hj hp).trans (sameEntries.of_od hod))
  · have h1 : Keeps [.od, .chips] (s.asked n) t := ((keeps_od (s.asked n) _).mono (by decide)).trans (h.mono (by decide))
    exact h1.taken.mono (by decide)

/-- Settles O18: the entry is stored, the tiers are chosen anew, and a designated chip is put into Fallow. -/
theorem sparesAndBounds : Obligations.SparesAndBounds := by
  unfold Obligations.SparesAndBounds
  intro s n
  refine ⟨fun v h hv ht => ?_, fun sub v h hv hsub => ?_⟩
  · have hset := State.setSpares_eq (s := s.asked n) (by simpa using ht) v
    have hw : exec (.spareMapWrite n v) s = .next (((s.asked n).setSpares v).answer n .ok) := by
      show Host.Outcome.next _ = _
      rw [if_pos hv, State.write_accepted _ h]
    rw [hset, State.asked_nat] at hw
    obtain ⟨hn, ha, he, hk⟩ := State.entry_written (n := n) (i := 0x2011) (j := 1) (v := v) (p := fun i => decide (i = 0x2011))
      (by decide) (by decide)
      ((State.fallowAll_keeps _ ((bitsSet 16 v).filter (fun c => !bit (s.nat 0x2011 1) c))).trans (State.retier_keeps _))
    refine ⟨_, hw, hn, ha, fun c hc hb hnb => ?_, he, hk⟩
    refine (State.retier_tier _ c).trans (State.fallowAll_tier _ hc (Or.inl ?_))
    exact List.mem_filter.mpr ⟨List.mem_filter.mpr ⟨List.mem_range.mpr hc, hb⟩, by simp [hnb]⟩
  · have hw : exec (.tierBoundsWrite n sub v) s = .next ((((s.asked n).setNum 0x2002 sub v).retier).answer n .ok) :=
      congrArg _ (State.write_accepted _ h)
    obtain ⟨hn, ha, he, hk⟩ := State.entry_written (s := s) (n := n) (i := 0x2002) (j := sub) (v := v)
      (p := fun i => decide (i = 0x2002)) (by omega) (by decide) (State.retier_keeps _)
    refine ⟨_, hw, hn, ?_, ha, he, hk⟩
    have hod : ((((s.asked n).setNum 0x2002 sub v).retier).answer n .ok).od = ((s.asked n).setNum 0x2002 sub v).od :=
      State.retier_keeps _ .od (by decide)
    rw [State.nat_of_od hod, State.nat_setNum_ne _ _ (odKey_ne (by omega) (by omega) (by omega)), State.asked_nat]

end Sys2Proof.Machine
end
section
/-! PROOFS. The states of the two networks (R51, R52, Table 1.11). -/

namespace Sys2Proof.Machine

/-! ### What the end of transfers and sessions leaves -/

/-- A network's transfers end: its box keeps its session, and beside its box only downloads into slots change. -/
theorem State.dropTransfers_keeps (s : State) (n : Net) : Keeps [.mail, .slots] s (s.dropTransfers n) := by
  unfold State.dropTransfers
  extract_lets b slots s1
  have h1 : Keeps [.mail, .slots] s s1 := Keeps.foldl (fun s _ => (keeps_slots s _).mono (by decide)) (Keeps.refl _ s)
  exact h1.trans ((keeps_mail s1 _).mono (by decide))

theorem State.foldl_modSlot_mail (l : List Nat) (s : State) (f : Slot → Slot) :
    (l.foldl (fun s k => s.modSlot k f) s).mail = s.mail := by
  induction l generalizing s with
  | nil => rfl
  | cons k l ih => exact ih _

section
variable (s : State) (n : Net)

@[simp] theorem State.box_modBox_same (f : Mail → Mail) : (s.modBox n f).box n = f (s.box n) := vget_vmod_same _ _ (Net.num_lt n)

theorem State.box_modBox_ne {m : Net} (h : m ≠ n) (f : Mail → Mail) : (s.modBox n f).box m = s.box m :=
  vget_vmod_ne _ _ fun e => h (by cases m <;> cases n <;> simp_all [Net.num])

/-- The box of a network whose transfers have ended. -/
theorem State.dropTransfers_box : (s.dropTransfers n).box n =
    { s.box n with xfer := none, abandoned := false, foe := none, foeData := [], foeFirmware := false } := by
  unfold State.dropTransfers
  rw [State.box_modBox_same, State.box, State.foldl_modSlot_mail]
  rfl

@[simp] theorem State.dropTransfers_xfer : ((s.dropTransfers n).box n).xfer = none := by rw [State.dropTransfers_box]

@[simp] theorem State.dropTransfers_session : (s.dropTransfers n).session n = s.session n := by
  rw [State.session, State.dropTransfers_box]
  rfl

theorem State.dropTransfers_other {m : Net} (h : m ≠ n) : (s.dropTransfers n).box m = s.box m := by
  unfold State.dropTransfers
  rw [State.box_modBox_ne _ _ h, State.box, State.foldl_modSlot_mail]
  rfl

theorem State.endNetSession_keeps : Keeps [.mail] s (s.endNetSession n) := keeps_mail s _

@[simp] theorem State.endNetSession_session : (s.endNetSession n).session n = none := by
  simp [State.session, State.endNetSession]

@[simp] theorem State.endNetSession_xfer : ((s.endNetSession n).box n).xfer = (s.box n).xfer := by simp [State.endNetSession]

theorem State.endNetSession_other {m : Net} (h : m ≠ n) : (s.endNetSession n).box m = s.box m := State.box_modBox_ne s n h _

end

/-- A box does not change where the mailboxes do not. -/
theorem State.box_of_mail {s t : State} (h : t.mail = s.mail) (n : Net) : t.box n = s.box n := by rw [State.box, h]; rfl

theorem State.session_of_mail {s t : State} (h : t.mail = s.mail) (n : Net) : t.session n = s.session n := by
  rw [State.session, State.box_of_mail h]; rfl

/-- A network starts anew: its session and its transfers are over, and the other network's box is as it was. -/
theorem State.netEnded_keeps (s : State) (n : Net) : Keeps [.mail, .slots] s ((s.dropTransfers n).endNetSession n) :=
  (s.dropTransfers_keeps n).trans ((State.endNetSession_keeps _ n).mono (by decide))

/-! ### CAN FD (R52, R447) -/

theorem State.takeMaster_keeps (s : State) : Keeps [.outputs] s s.takeMaster := Keeps.ite (keeps_outputs s _) (Keeps.refl _ s)

/-- A reset of the node, with the configuration taken into force or not. -/
theorem State.resetCan_alive {s : State} (h : s.alive = true) (config : Bool) :
    s.resetCan config = ((s.dropTransfers .can).endNetSession .can).startCan config := if_pos h

theorem State.resetCan_keeps {s : State} (h : s.alive = true) (config : Bool) : Keeps [.can, .mail, .slots] s (s.resetCan config) := by
  rw [State.resetCan_alive h]
  exact ((s.netEnded_keeps .can).mono (by decide)).trans ((keeps_can _ _).mono (by decide))

/-- After a reset of the node CAN FD has no session and no transfer, and EtherCAT has what it had. -/
theorem State.resetCan_boxes {s : State} (h : s.alive = true) (config : Bool) :
    (s.resetCan config).session .can = none ∧ ((s.resetCan config).box .can).xfer = none
      ∧ (s.resetCan config).box .ecat = s.box .ecat := by
  have hm : (s.resetCan config).mail = ((s.dropTransfers .can).endNetSession .can).mail := by rw [State.resetCan_alive h]; rfl
  refine ⟨?_, ?_, ?_⟩
  · rw [State.session_of_mail hm, State.endNetSession_session]
  · rw [State.box_of_mail hm, State.endNetSession_xfer, State.dropTransfers_xfer]
  · rw [State.box_of_mail hm, State.endNetSession_other _ _ (by decide), State.dropTransfers_other _ _ (by decide)]

/-- A reset of the node: pre-operational, one boot-up message, and the configuration that counts from now on. -/
theorem State.resetCan_can {s : State} (h : s.alive = true) (config : Bool) :
    (s.resetCan config).can = (s.startCan config).can := by
  have hc : ((s.dropTransfers .can).endNetSession .can).can = s.can := s.netEnded_keeps .can .can (by decide)
  have ho : ((s.dropTransfers .can).endNetSession .can).od = s.od := s.netEnded_keeps .can .od (by decide)
  simp only [State.resetCan_alive h, State.startCan, hc, State.nat_of_od ho]

/-- NMT start enters operational where process data is carried, and takes the master's levels where CAN FD has control. -/
theorem State.nmtStart_operational {s : State} (ha : s.alive = true) (hp : s.carriesPdo = true) :
    ∃ t, exec .nmtStartRemote s = .next t ∧ t.can = { s.can with nmt := .operational } ∧ Keeps [.can, .outputs] s t := by
  have h1 : Keeps [.can, .outputs] s (s.modCan fun c => { c with nmt := .operational }) := (keeps_can s _).mono (by decide)
  have h2 : Keeps [.outputs] (s.modCan fun c => { c with nmt := .operational })
      (if (s.modCan fun c => { c with nmt := .operational }).controlling = .can
        then (s.modCan fun c => { c with nmt := .operational }).takeMaster else s.modCan fun c => { c with nmt := .operational }) :=
    Keeps.ite (State.takeMaster_keeps _) (Keeps.refl _ _)
  refine ⟨_, ?_, h2 .can (by decide), h1.trans (h2.mono (by decide))⟩
  exact congrArg _ ((if_neg (by simp [ha])).trans (if_pos hp))

/-- Settles O22: each NMT command by its effect on the node, the two resets by what they share. -/
theorem canNodeStates : Obligations.CanNodeStates := by
  unfold Obligations.CanNodeStates
  intro s ha
  refine ⟨State.nmtStart_operational ha, fun hp => ?_, congrArg _ (if_pos ha), congrArg _ (if_pos ha), ?_, ?_⟩
  · have hs : exec .nmtStartRemote s = .next (s.emergency 0xFF10 s.tray.code 0 0) :=
      congrArg _ ((if_neg (by simp [ha])).trans (if_neg (by simp [hp])))
    have hk := s.emergency_keeps 0xFF10 s.tray.code 0 0
    exact ⟨_, hs, hk .can (by decide), hk⟩
  · have hk := State.resetCan_keeps ha false
    obtain ⟨hs, hx, hb⟩ := State.resetCan_boxes ha false
    have hc := State.resetCan_can ha false
    exact ⟨_, rfl, by rw [hc]; rfl, by rw [hc]; rfl, by rw [hc]; rfl, by rw [hc]; rfl, by rw [hc]; rfl, hs, hx, hb,
      hk .tray (by decide), hk⟩
  · obtain ⟨hs, hx, hb⟩ := State.resetCan_boxes ha true
    have hc := State.resetCan_can ha true
    exact ⟨_, rfl, by rw [hc]; rfl, by rw [hc]; rfl, by rw [hc]; rfl, by rw [hc]; rfl, by rw [hc]; rfl, hs, hx, hb,
      State.resetCan_keeps ha true⟩

/-! ### EtherCAT (R51, Table 1.11) -/

theorem State.modEcat_keeps (s : State) (f : Ecat → Ecat) : Keeps [.ecat] s (s.modEcat f) := keeps_ecat s _

/-- The entry of an AL state after transfers and sessions: the controller, and in OP the master's levels. -/
def State.enterAl (s : State) (a : AlState) : State :=
  let loss := s.ecat.lossOpen && a != .op && a != .init
  let s := s.modEcat (fun e => { e with al := a, status := 0, error := false, lossOpen := loss, linkUp := true })
  if a = .op then s.takeMaster else s

/-- What a change of the AL state ends first: the transfers on a move to or from INIT and BOOT, the session on INIT. -/
def State.leaveAl (s : State) (a : AlState) : State :=
  let s := if (a = .init || a = .boot || s.ecat.al = .boot) = true then s.dropTransfers .ecat else s
  if a = .init then s.endNetSession .ecat else s

theorem State.setAl_eq (s : State) (a : AlState) : s.setAl a = (s.leaveAl a).enterAl a := rfl

theorem State.enterAl_keeps (s : State) (a : AlState) : Keeps [.ecat, .outputs] s (s.enterAl a) := by
  unfold State.enterAl
  extract_lets loss s1
  have h1 : Keeps [.ecat, .outputs] s s1 := (s.modEcat_keeps _).mono (by decide)
  exact h1.trans (Keeps.ite (s1.takeMaster_keeps.mono (by decide)) (Keeps.refl _ _))

/-- Outside OP no level is taken. -/
theorem State.enterAl_keeps_ecat (s : State) {a : AlState} (h : a ≠ .op) : Keeps [.ecat] s (s.enterAl a) := by
  unfold State.enterAl
  rw [if_neg h]
  exact s.modEcat_keeps _

theorem State.enterAl_ecat (s : State) (a : AlState) : (s.enterAl a).ecat.al = a ∧ (s.enterAl a).ecat.error = false := by
  unfold State.enterAl
  extract_lets loss s1
  have h : (if a = .op then s1.takeMaster else s1).ecat = s1.ecat :=
    Keeps.ite (s1.takeMaster_keeps) (Keeps.refl _ _) .ecat (by decide)
  exact ⟨congrArg Ecat.al h, congrArg Ecat.error h⟩

theorem State.leaveAl_keeps (s : State) (a : AlState) : Keeps [.mail, .slots] s (s.leaveAl a) := by
  unfold State.leaveAl
  extract_lets s1
  have h1 : Keeps [.mail, .slots] s s1 := Keeps.ite (s.dropTransfers_keeps .ecat) (Keeps.refl _ s)
  exact h1.trans (Keeps.ite ((s1.endNetSession_keeps .ecat).mono (by decide)) (Keeps.refl _ _))

/-- Moves between PREOP, SAFEOP and OP end nothing. -/
theorem State.leaveAl_none (s : State) {a : AlState} (hi : a ≠ .init) (hb : a ≠ .boot) (h : s.ecat.al ≠ .boot) :
    s.leaveAl a = s := by
  simp [State.leaveAl, hi, hb, h]

/-- The other network's box does not change with the AL state. -/
theorem State.leaveAl_can (s : State) (a : AlState) : (s.leaveAl a).box .can = s.box .can := by
  have hd : (if (a = .init || a = .boot || s.ecat.al = .boot) = true then s.dropTransfers .ecat else s).box .can = s.box .can := by
    split
    · exact s.dropTransfers_other .ecat (by decide)
    · rfl
  unfold State.leaveAl
  extract_lets s1
  split
  · exact (s1.endNetSession_other .ecat (by decide)).trans hd
  · exact hd

/-- But for INIT the session of EtherCAT stays open. -/
theorem State.leaveAl_session (s : State) {a : AlState} (h : a ≠ .init) : (s.leaveAl a).session .ecat = s.session .ecat := by
  unfold State.leaveAl
  rw [if_neg h]
  split
  · exact s.dropTransfers_session .ecat
  · rfl

/-- In INIT EtherCAT has neither session nor transfer. -/
theorem State.leaveAl_init (s : State) : (s.leaveAl .init).session .ecat = none ∧ ((s.leaveAl .init).box .ecat).xfer = none := by
  have e : s.leaveAl .init = (s.dropTransfers .ecat).endNetSession .ecat := by simp [State.leaveAl]
  rw [e]
  exact ⟨State.endNetSession_session _ _, by rw [State.endNetSession_xfer, State.dropTransfers_xfer]⟩

/-- An entered AL state leaves the boxes to what ended before it. -/
theorem State.enterAl_mail (s : State) (a : AlState) : (s.enterAl a).mail = s.mail := s.enterAl_keeps a .mail (by decide)

/-- What a change of the AL state other than to OP leaves. -/
theorem State.setAl_keeps (s : State) {a : AlState} (h : a ≠ .op) : Keeps [.ecat, .mail, .slots] s (s.setAl a) :=
  ((s.leaveAl_keeps a).mono (by decide)).trans (((s.leaveAl a).enterAl_keeps_ecat h).mono (by decide))

theorem State.setAl_can (s : State) (a : AlState) : (s.setAl a).box .can = s.box .can :=
  (State.box_of_mail ((s.leaveAl a).enterAl_mail a) .can).trans (s.leaveAl_can a)

theorem State.setAl_session (s : State) {a : AlState} (h : a ≠ .init) : (s.setAl a).session .ecat = s.session .ecat :=
  (State.session_of_mail ((s.leaveAl a).enterAl_mail a) .ecat).trans (s.leaveAl_session h)

theorem State.setAl_ecat (s : State) (a : AlState) : (s.setAl a).ecat.al = a ∧ (s.setAl a).ecat.error = false :=
  (s.leaveAl a).enterAl_ecat a

/-- A request that the tray state and the AL state allow is carried out, but for what SAFEOP still checks on its way up. -/
theorem State.alRequest_granted {s : State} {a : AlState} (ha : s.alive = true) (h1 : s.alAllowed a = true)
    (h2 : s.ecat.al.reaches a = true) (h : a = .safeop → s.ecat.al = .preop → s.safeopFlaw = none) : s.alRequest a = s.setAl a := by
  unfold State.alRequest
  rw [if_neg (by simp [ha]), if_neg (by simp [h1, h2])]
  split
  · next hs => rw [h hs.1 hs.2]
  · rfl

/-- Any other request is refused, and the controller stays where it is. -/
theorem State.alRequest_refused {s : State} {a : AlState} (ha : s.alive = true)
    (h : s.alAllowed a = false ∨ s.ecat.al.reaches a = false) :
    s.alRequest a = { s with ecat := { s.ecat with status := 0x0011, error := true } } := by
  unfold State.alRequest
  rw [if_neg (by simp [ha]), if_pos (by rcases h with h | h <;> simp [h])]
  rfl

/-- In OP the master's levels are taken where EtherCAT has control and no move of control holds them (R436). -/
theorem State.enterAl_outputs {s : State} (hc : s.controlling = .ecat) (hm : s.outputs.holdMaster = false) :
    (s.enterAl .op).outputs = { s.outputs with master := s.nat 0x6200 1 } := by
  unfold State.enterAl
  rw [if_pos rfl, State.takeMaster, if_pos]
  · rfl
  · have hc' (f : Ecat → Ecat) : (s.modEcat f).controlling = .ecat := hc
    rw [hc']
    exact (Bool.and_eq_true _ _).mpr ⟨rfl, by rw [Bool.not_eq_true']; exact hm⟩

/-- Settles O21: a request is granted or refused, and a granted one ends transfers and sessions before the controller moves. -/
theorem etherCatStates : Obligations.EtherCatStates := by
  unfold Obligations.EtherCatStates
  intro s ha
  refine ⟨?_, fun hr => ?_, fun hp hr => ?_, fun code hp hal hf => ?_, fun hp hr => ?_, fun ht hr => ?_, fun p hp h => ?_⟩
  · have he := State.alRequest_granted (a := .init) ha rfl (by cases s.ecat.al <;> rfl) (fun h => nomatch h)
    have hw : exec .escRequestInit s = .next (s.setAl .init) := congrArg Host.Outcome.next he
    have hm : (s.setAl .init).mail = (s.leaveAl .init).mail := State.enterAl_mail (s.leaveAl .init) .init
    obtain ⟨hs, hx⟩ := s.leaveAl_init
    obtain ⟨hal, herr⟩ := s.setAl_ecat .init
    exact ⟨_, hw, hal, herr, (State.session_of_mail hm _).trans hs, (congrArg Mail.xfer (State.box_of_mail hm _)).trans hx,
      s.setAl_can _, s.setAl_keeps (by decide)⟩
  · have he := State.alRequest_granted (a := .preop) ha ha hr (fun h => nomatch h)
    have hw : exec .escRequestPreop s = .next (s.setAl .preop) := congrArg Host.Outcome.next he
    obtain ⟨hal, herr⟩ := s.setAl_ecat .preop
    exact ⟨_, hw, hal, herr, s.setAl_session (by decide), s.setAl_can _, s.setAl_keeps (by decide)⟩
  · have hreach : s.ecat.al.reaches .safeop = true := by rcases hr with ⟨h, -⟩ | h | h <;> rw [h] <;> rfl
    have hboot : s.ecat.al ≠ .boot := by rcases hr with ⟨h, -⟩ | h | h <;> rw [h] <;> decide
    have he := State.alRequest_granted (a := .safeop) ha hp hreach fun _ h => by
      rcases hr with ⟨-, h⟩ | h' | h'
      · exact h
      · rw [h'] at h; cases h
      · rw [h'] at h; cases h
    rw [State.setAl_eq, s.leaveAl_none (by decide) (by decide) hboot] at he
    have hw : exec .escRequestSafeop s = .next (s.enterAl .safeop) := congrArg Host.Outcome.next he
    obtain ⟨hal, herr⟩ := s.enterAl_ecat .safeop
    exact ⟨_, hw, hal, herr, s.enterAl_keeps_ecat (by decide)⟩
  · have he : s.alRequest .safeop = s.alError .preop code := by
      simp [State.alRequest, ha, State.alAllowed, hp, AlState.reaches, hal, hf]
    have hw : exec .escRequestSafeop s = .next (s.alError .preop code) := congrArg Host.Outcome.next he
    rw [hw, ← hal]
    rfl
  · have hreach : s.ecat.al.reaches .op = true := by rcases hr with h | h <;> rw [h] <;> rfl
    have hboot : s.ecat.al ≠ .boot := by rcases hr with h | h <;> rw [h] <;> decide
    have he := State.alRequest_granted (a := .op) ha hp hreach (fun h => nomatch h)
    rw [State.setAl_eq, s.leaveAl_none (by decide) (by decide) hboot] at he
    have hw : exec .escRequestOp s = .next (s.enterAl .op) := congrArg Host.Outcome.next he
    obtain ⟨hal, herr⟩ := s.enterAl_ecat .op
    exact ⟨_, hw, hal, herr, State.enterAl_outputs, s.enterAl_keeps .op⟩
  · have he := State.alRequest_granted (a := .boot) ha (by simpa [State.alAllowed] using ht) hr (fun h => nomatch h)
    have hw : exec .escRequestBoot s = .next (s.setAl .boot) := congrArg Host.Outcome.next he
    obtain ⟨hal, herr⟩ := s.setAl_ecat .boot
    exact ⟨_, hw, hal, herr, s.setAl_session (by decide), s.setAl_can _, s.setAl_keeps (by decide)⟩
  · have refused := State.alRequest_refused ha h
    simp only [List.mem_cons, List.not_mem_nil, or_false] at hp
    rcases hp with rfl | rfl | rfl | rfl <;> exact congrArg Host.Outcome.next refused

end Sys2Proof.Machine
end
section
/-! PROOFS. Steps of the tier transitions, the reload after Fallow and the Bellwether check (R34 to R36, R185). -/

namespace Sys2Proof.Machine

/-! ### Upward and downward transitions -/

/-- A chip updated to `y`, and its work taken up again: no other chip changes, nor anything of this one but its engines' work. -/
theorem State.resume_from {s t : State} {c : Nat} {y : Chip} (hk : Keeps [.chips] s t) (ho : sameChips c s t) (hy : t.chip c = y) :
    Keeps [.chips, .issues] s ((t.fill c).startEngines c) ∧ sameChips c s ((t.fill c).startEngines c)
      ∧ (((t.fill c).startEngines c).chip c).unworked = y.unworked :=
  ⟨(hk.mono (by decide)).trans (t.resume_works c).keeps, ho.trans (t.resume_works c).others, hy ▸ (t.resume_works c).core c⟩

/-- An upward step above Fallow raises its chip by one tier. -/
theorem State.tierStep_raises {s : State} {c : Nat} (hc : c < 16) (hr : (s.chip c).rising = true) (ht : (s.chip c).tier ≠ 0) :
    ((s.tierStep c).chip c).tier = (s.chip c).tier + 1 ∧ sameChips c s (s.tierStep c) ∧ Keeps [.chips, .issues] s (s.tierStep c) := by
  have e : s.tierStep c = (((s.setChip c { s.chip c with rising := false, tier := (s.chip c).tier + 1 }).modChip c
      (fun x => x.aim x.target)).fill c).startEngines c := by simp [State.tierStep, hr, ht]
  obtain ⟨hk, ho, hw⟩ := State.resume_from (c := c)
    ((keeps_chips s _).trans (keeps_chips (s.setChip c { s.chip c with rising := false, tier := (s.chip c).tier + 1 }) _))
    ((s.setChip_others c _).trans (State.modChip_others _ c (fun x => x.aim x.target)))
    ((State.chip_modChip_same _ hc _).trans (by rw [s.chip_setChip_same hc]))
  rw [e]
  exact ⟨(congrArg Chip.tier hw).trans (Chip.aim_tier _ _), ho, hk⟩

/-- A chip at the end of a downward transition to tier `n` (Table 1.6). -/
def Chip.dropped (x : Chip) (n : Nat) : Chip :=
  let x := { x with tier := n, falling := false, dropTo := none }
  if n = 0 then x.lose else if n = 1 then { x with bellOk := false } else x

theorem State.dropEnd_eq {s : State} {c n : Nat} (h : (s.chip c).dropTo = some n) : s.dropEnd c =
    ((s.setChip c (((s.chip c).dropped n).aim ((s.chip c).dropped n).target)).fill c).startEngines c := by
  simp only [State.dropEnd, h]
  rfl

theorem Chip.dropped_tier (x : Chip) (n : Nat) : (x.dropped n).tier = n := by
  unfold Chip.dropped
  dsimp only
  split
  · rfl
  · split <;> rfl

theorem Chip.dropped_dropTo (x : Chip) (n : Nat) : (x.dropped n).dropTo = none := by
  unfold Chip.dropped
  dsimp only
  split
  · rfl
  · split <;> rfl

/-- The end of a downward transition reaches its tier, and in Fallow the memories are lost. -/
theorem State.dropEnd_lands {s : State} {c k : Nat} (hc : c < 16) (h : (s.chip c).dropTo = some k) :
    ((s.dropEnd c).chip c).tier = k ∧ ((s.dropEnd c).chip c).dropTo = none
      ∧ (k = 0 → ((s.dropEnd c).chip c).granary = [] ∧ ((s.dropEnd c).chip c).loft = [])
      ∧ sameChips c s (s.dropEnd c) ∧ Keeps [.chips, .issues] s (s.dropEnd c) := by
  obtain ⟨hk, ho, hw⟩ := State.resume_from (keeps_chips s _)
    (s.setChip_others c (((s.chip c).dropped k).aim ((s.chip c).dropped k).target)) (s.chip_setChip_same hc _)
  rw [State.dropEnd_eq h]
  refine ⟨?_, ?_, fun h0 => ?_, ho, hk⟩
  · exact (congrArg Chip.tier hw).trans ((Chip.aim_tier _ _).trans (Chip.dropped_tier _ _))
  · exact (congrArg Chip.dropTo hw).trans ((Chip.aim_dropTo _ _).trans (Chip.dropped_dropTo _ _))
  · subst h0
    exact ⟨(congrArg Chip.granary hw).trans (Chip.aim_granary _ _), (congrArg Chip.loft hw).trans (Chip.aim_loft _ _)⟩

/-! ### The reload after Fallow -/

/-- What the reload's images and rows leave of a chip: its tier, and whether it still reloads. -/
def Chip.stage (x : Chip) : Nat × Bool := (x.tier, x.reloading)

theorem State.reloadChip_keeps (s : State) (c : Nat) : Keeps [.chips] s (s.reloadChip c) := by
  refine Keeps.foldl (fun s x => ?_) (Keeps.refl _ s)
  refine Keeps.foldl (fun s q => ?_) (Keeps.refl _ s)
  exact Keeps.ite (keeps_chips s _) (Keeps.refl _ s)

theorem State.reloadChip_stage (s : State) (c : Nat) : chipsAgree Chip.stage s (s.reloadChip c) := by
  refine chipsAgree.foldl (fun s x => chipsAgree.foldl (fun s q => ?_) _ s) _ s
  split
  · exact s.modChip_agree c fun x => by split <;> rfl
  · exact chipsAgree.refl _ s

theorem State.switchRows_stage (s : State) (c : Nat) : chipsAgree Chip.stage s (s.switchRows c) := by
  unfold State.switchRows
  split
  · exact (s.modChip_agree c (g := Chip.flip s.learnSlot) fun _ => rfl).trans (chipsAgree.of_chips rfl)
  · exact chipsAgree.refl _ s

theorem State.writeImage_keeps (s : State) (c slot part : Nat) (side : Bool) (w : List (Nat × Byte)) :
    Keeps [.chips, .slots] s (s.writeImage c slot part side w) := by
  refine Keeps.foldl (fun s x => ?_) (Keeps.refl _ s)
  dsimp only
  split
  · exact (keeps_chips s _).mono (by decide)
  · exact (keeps_slots s _).mono (by decide)

theorem State.writeImage_stage (s : State) (c slot part : Nat) (side : Bool) (w : List (Nat × Byte)) :
    chipsAgree Chip.stage s (s.writeImage c slot part side w) := by
  refine chipsAgree.foldl (fun s x => ?_) _ s
  dsimp only
  split
  · exact s.modChip_agree c fun _ => rfl
  · exact chipsAgree.of_chips rfl

/-- Rows that land on a chip change images, slots and what the step has received. -/
theorem State.landRows_keeps (s : State) (r : ShardRows) : Keeps [.chips, .learn, .slots] s (s.landRows r) := by
  unfold State.landRows
  extract_lets s1
  have h1 : Keeps [.chips, .learn, .slots] s s1 := (s.switchRows_keeps r.chip).mono (by decide)
  split
  · exact (h1.trans ((s1.writeImage_keeps _ _ _ _ _).mono (by decide))).trans ((keeps_learn _ _).mono (by decide))
  · exact h1

theorem State.landRows_stage (s : State) (r : ShardRows) : chipsAgree Chip.stage s (s.landRows r) := by
  unfold State.landRows
  extract_lets s1
  have h1 : chipsAgree Chip.stage s s1 := s.switchRows_stage r.chip
  split
  · exact (h1.trans (s1.writeImage_stage _ _ _ _ _)).trans (chipsAgree.of_chips rfl)
  · exact h1

theorem State.formRows_keeps (s : State) : Keeps [.chips, .learn, .slots] s s.formRows := by
  refine Keeps.foldl (fun s x => ?_) (Keeps.refl _ s)
  split
  · exact Keeps.foldl (fun s _ => s.landRows_keeps _) (Keeps.refl _ s)
  · exact Keeps.refl _ s

theorem State.formRows_stage (s : State) : chipsAgree Chip.stage s s.formRows := by
  refine chipsAgree.foldl (fun s x => ?_) _ s
  split
  · exact chipsAgree.foldl (fun s _ => s.landRows_stage _) _ s
  · exact chipsAgree.refl _ s

/-- The end of a reload clears its mark and leaves the tier. -/
theorem State.reloadEnd_clears {s : State} {c : Nat} (hc : c < 16) (h : (s.chip c).reloading = true) :
    ((s.reloadEnd c).chip c).reloading = false ∧ ((s.reloadEnd c).chip c).tier = (s.chip c).tier
      ∧ Keeps [.chips, .issues, .learn, .slots] s (s.reloadEnd c) := by
  unfold State.reloadEnd
  rw [if_pos h]
  extract_lets s1 s2 s3
  have hs1 : (s1.chip c).stage = ((s.chip c).tier, false) := by
    have ht := congrArg Prod.fst (s.reloadChip_stage c c)
    unfold s1
    rw [State.chip_modChip_same _ hc]
    exact Prod.ext ((Chip.aim_tier _ _).trans ht) (Chip.aim_reloading _ _)
  have hk1 : Keeps [.chips, .issues, .learn, .slots] s s1 :=
    ((s.reloadChip_keeps c).trans (keeps_chips _ _)).mono (by decide)
  have hk2 : Keeps [.chips, .issues, .learn, .slots] s1 s2 := (keeps_learn s1 _).mono (by decide)
  have hk3 : Keeps [.chips, .issues, .learn, .slots] s2 s3 := Keeps.ite (s2.formRows_keeps.mono (by decide)) (Keeps.refl _ s2)
  have hs3 : (s3.chip c).stage = (s2.chip c).stage := by
    unfold s3
    split
    · exact s2.formRows_stage c
    · rfl
  have hw := s3.resume_works c
  have hstage : (((s3.fill c).startEngines c).chip c).stage = ((s.chip c).tier, false) :=
    (congrArg Chip.stage (hw.core c)).trans (hs3.trans hs1)
  exact ⟨congrArg Prod.snd hstage, congrArg Prod.fst hstage, ((hk1.trans hk2).trans hk3).trans (hw.keeps.mono (by decide))⟩

/-! ### The Bellwether check -/

theorem hasTest_append (u : UnitRef) (l m : List Test) : hasTest u (l ++ m) = (hasTest u l || hasTest u m) := List.any_append

/-- A fold marks tests and takes none away. -/
theorem hasTest_foldTest (u : UnitRef) (l : List Test) : hasTest u (foldTest u l) = hasTest u l := by
  have folded (t : Test) : (t.folded u).unit = t.unit := by
    unfold Test.folded
    split <;> rfl
  simp [hasTest, foldTest, List.any_map, Function.comp_def, folded]

/-- The on-chip tests of a chip: the one that runs, those that wait, and those that a whole-chip test replaces. -/
def Chip.onChipTests (x : Chip) : List Test := x.test.toList ++ x.tests ++ x.whole.getD []

/-- A start of the whole-chip test only moves tests, as does the start of the next test. -/
theorem Chip.startWhole_moves (x : Chip) : x.startWhole.onChipTests = x.onChipTests ∧ x.startWhole.bellOk = x.bellOk := by
  unfold Chip.startWhole
  split
  · next h =>
    simp only [Bool.and_eq_true, Option.isNone_iff_eq_none] at h
    simp [Chip.onChipTests, h.1.2, h.2]
  · exact ⟨rfl, rfl⟩

theorem Chip.startTest_moves (x : Chip) : x.startTest.onChipTests = x.onChipTests ∧ x.startTest.bellOk = x.bellOk := by
  unfold Chip.startTest
  split
  · next h =>
    simp only [Bool.and_eq_true, Option.isNone_iff_eq_none] at h
    split
    · exact ⟨rfl, rfl⟩
    · next t r ht => simp [Chip.onChipTests, h.1.1, ht]
  · exact ⟨rfl, rfl⟩

/-- A test that is asked for runs, waits, or has joined those that the whole-chip test replaces. -/
theorem Chip.addTest_has (x : Chip) (t : Test) (now : Nat) :
    hasTest t.unit (x.addTest t now).onChipTests = true ∧ (x.addTest t now).bellOk = x.bellOk := by
  unfold Chip.addTest
  extract_lets recent y
  split
  · simp [Chip.onChipTests, hasTest, y]
  · rw [(Chip.startTest_moves _).1, (Chip.startTest_moves _).2, (Chip.startWhole_moves _).1, (Chip.startWhole_moves _).2]
    simp [Chip.onChipTests, hasTest, y]

/-- A chip on which a unit's error has been met: the unit is tested, or its test counts the error too (R413). -/
def Chip.suspect (x : Chip) (t : Test) (now : Nat) : Chip :=
  if hasTest t.unit x.onChipTests then
    { x with test := x.test.map (Test.folded t.unit), tests := foldTest t.unit x.tests, whole := x.whole.map (foldTest t.unit) }
  else x.addTest t now

theorem Chip.suspect_has (x : Chip) (t : Test) (now : Nat) :
    hasTest t.unit (x.suspect t now).onChipTests = true ∧ (x.suspect t now).bellOk = x.bellOk := by
  unfold Chip.suspect
  split
  · next h =>
    have all : (x.test.map (Test.folded t.unit)).toList ++ foldTest t.unit x.tests ++ (x.whole.map (foldTest t.unit)).getD []
        = foldTest t.unit x.onChipTests := by
      cases hw : x.whole <;> cases ht : x.test <;> simp [Chip.onChipTests, foldTest, hw, ht]
    refine ⟨?_, rfl⟩
    rw [Chip.onChipTests, all, hasTest_foldTest]
    exact h
  · exact x.addTest_has t now

theorem State.suspected {s : State} {c : Nat} (hc : c < 16) (t : Test) (now : Nat) :
    hasTest t.unit ((s.modChip c (fun x => x.suspect t now)).chip c).onChipTests = true
      ∧ ((s.modChip c (fun x => x.suspect t now)).chip c).bellOk = (s.chip c).bellOk := by
  rw [s.chip_modChip_same hc]
  exact (s.chip c).suspect_has t now

/-- A detected error of a Bellwether that has not been retired. -/
theorem State.detect_bellwether {s : State} {c : Nat} (h : s.isRetired (.bellwether c) = false) (code tenant detail : Nat) :
    s.detect (.bellwether c) code tenant detail
      = s.modChip c (fun x => x.suspect (s.newTest (.bellwether c) code tenant detail) s.micros) := by
  unfold State.detect
  rw [h]
  rfl

theorem State.liftTest_keeps (s : State) (c : Nat) : Keeps [.chips] s (s.liftTest c) := Keeps.ite (keeps_chips s _) (Keeps.refl _ s)

theorem State.liftTest_others (s : State) (c : Nat) : sameChips c s (s.liftTest c) := by
  unfold State.liftTest
  split
  · exact s.modChip_others c _
  · exact fun _ _ => rfl

/-- The tests of a chip, and what its Bellwether has shown. -/
def Chip.checks (x : Chip) : List Test × Bool := (x.onChipTests, x.bellOk)

theorem State.liftTest_checks (s : State) (c : Nat) : chipsAgree Chip.checks s (s.liftTest c) := by
  unfold State.liftTest
  split
  · exact s.modChip_agree c fun x => by simp [Chip.checks, Chip.onChipTests]
  · exact chipsAgree.refl _ s

theorem State.underTest_bellwether {s : State} {c : Nat} (h : hasTest (.bellwether c) (s.chip c).onChipTests = true) :
    s.underTest (.bellwether c) = true := by
  show hasTest _ (Chip.onChipTests _ ++ _ ++ _) = true
  rw [hasTest_append, hasTest_append, h]
  rfl

/-- A check that fails puts the Bellwether under test. -/
theorem State.bellChecked_fails {s : State} {c : Nat} (hc : c < 16) (hb : (s.chip c).bellOk = false)
    (hr : s.isRetired (.bellwether c) = false) (h : ((s.chip c).tier = 0 || (s.chip c).failed || (s.chip c).bellOk) = false) :
    (s.bellChecked c false).underTest (.bellwether c) = true ∧ ((s.bellChecked c false).chip c).bellOk = false
      ∧ sameChips c s (s.bellChecked c false) ∧ Keeps [.chips] s (s.bellChecked c false) := by
  have e : s.bellChecked c false = (s.modChip c
      (fun x => x.suspect (s.newTest (.bellwether c) 0x5401 noTenant 0) s.micros)).liftTest c := by
    rw [← State.detect_bellwether hr]
    simp [State.bellChecked, h]
  obtain ⟨hx, hbell⟩ := State.suspected (s := s) hc (s.newTest (.bellwether c) 0x5401 noTenant 0) s.micros
  have hl := State.liftTest_checks (s.modChip c (fun x => x.suspect (s.newTest (.bellwether c) 0x5401 noTenant 0) s.micros)) c c
  rw [e]
  refine ⟨State.underTest_bellwether ?_, ?_, (s.modChip_others c _).trans (State.liftTest_others _ c),
    (keeps_chips s _).trans (State.liftTest_keeps _ c)⟩
  · exact (congrArg (fun q : List Test × Bool => hasTest (.bellwether c) q.1) hl).trans hx
  · exact (congrArg Prod.snd hl).trans (hbell.trans hb)

/-- Settles O20: each step of a transition by its own lemma, and the work taken up again after it leaves the rest. -/
theorem tierSteps : Obligations.TierSteps := by
  unfold Obligations.TierSteps
  intro s c hc
  refine ⟨fun hr ht => ?_, fun hr ht => ⟨_, rfl, State.tierStep_raises hc hr ht⟩, fun hf hd hh => ?_, fun hh => ?_,
    fun k hk => ⟨_, rfl, State.dropEnd_lands hc hk⟩, fun hr => ⟨_, rfl, State.reloadEnd_clears hc hr⟩, fun ht hf hb => ?_⟩
  · exact congrArg Host.Outcome.next ((if_neg (by simp [hr])).trans (if_pos ht))
  · have e : s.dropStart c = s.setChip c { (s.chip c).putBack (s.chip c).nextDown with dropTo := some (s.chip c).nextDown } :=
      if_pos (by simp [hf, hd, hh])
    refine ⟨_, congrArg Host.Outcome.next e, ?_, ?_, s.setChip_others c _, keeps_chips s _⟩
    · rw [s.chip_setChip_same hc]
    · rw [s.chip_setChip_same hc]
      rfl
  · exact congrArg Host.Outcome.next (if_neg (by simp [hh]))
  · have h : ((s.chip c).tier = 0 || (s.chip c).failed || (s.chip c).bellOk) = false := by simp [ht, hf, hb]
    refine ⟨?_, fun hr => ⟨_, rfl, State.bellChecked_fails hc hb hr h⟩⟩
    have e : s.bellChecked c true = (s.setChip c { s.chip c with bellOk := true }).startEngines c := by simp [State.bellChecked, h]
    have hw := State.startEngines_works (s.setChip c { s.chip c with bellOk := true }) c
    refine ⟨_, congrArg Host.Outcome.next e, ?_, (s.setChip_others c _).trans hw.others, (keeps_chips s _).trans hw.keeps⟩
    exact (congrArg Chip.bellOk (hw.core c)).trans (by rw [s.chip_setChip_same hc]; rfl)

end Sys2Proof.Machine
end
section
/-! PROOFS. Service, safe-hold and restart on command (Table 1.9, R54, R432, R509, Table 15.8). -/

namespace Sys2Proof.Machine

/-! ### Networks lowered by the tray (R54) -/

theorem State.lowerEcat_keeps (s : State) {a : AlState} (h : a ≠ .op) : Keeps [.ecat, .mail, .slots] s (s.lowerEcat a) :=
  (s.setAl_keeps h).trans ((State.modEcat_keeps _ _).mono (by decide))

@[simp] theorem State.lowerEcat_al (s : State) (a : AlState) : (s.lowerEcat a).ecat.al = a := rfl

/-- Entry to service leaves neither network with process data, and changes nothing else of the tray. -/
theorem State.lowerForService_lowers (s : State) :
    s.lowerForService.can.nmt ≠ .operational ∧ s.lowerForService.ecat.al ≠ .safeop ∧ s.lowerForService.ecat.al ≠ .op
      ∧ Keeps [.can, .ecat, .mail, .slots] s s.lowerForService := by
  unfold State.lowerForService
  extract_lets s1
  have hk1 : Keeps [.can, .ecat, .mail, .slots] s s1 :=
    Keeps.ite ((s.lowerEcat_keeps (by decide)).mono (by decide)) (Keeps.refl _ s)
  have hal : s1.ecat.al ≠ .safeop ∧ s1.ecat.al ≠ .op := by
    unfold s1
    split
    · rw [State.lowerEcat_al]
      decide
    · next h => exact not_or.mp h
  split
  · exact ⟨fun h => (nomatch h), hal.1, hal.2, hk1.trans ((keeps_can s1 _).mono (by decide))⟩
  · next h => exact ⟨h, hal.1, hal.2, hk1⟩

/-- The end of service leaves EtherCAT out of BOOT. -/
theorem State.lowerFromBoot_lowers (s : State) :
    s.lowerFromBoot.ecat.al ≠ .boot ∧ Keeps [.ecat, .mail, .slots] s s.lowerFromBoot := by
  unfold State.lowerFromBoot
  split
  · exact ⟨fun h => (nomatch h), s.lowerEcat_keeps (by decide)⟩
  · next h => exact ⟨h, Keeps.refl _ s⟩

/-! ### Service and safe-hold -/

/-- What the commands 0x05 to 0x07 may change. -/
def servicePieces : List Piece := [.od, .tray, .boot, .ecat, .can, .mail, .chips, .slots, .parish, .faults]

/-- Command 0x05 enters service without process data on either network. -/
theorem State.serviceNow_enters (s : State) : s.serviceNow.tray = .service ∧ s.serviceNow.can.nmt ≠ .operational
    ∧ s.serviceNow.ecat.al ≠ .safeop ∧ s.serviceNow.ecat.al ≠ .op ∧ Keeps servicePieces s s.serviceNow := by
  obtain ⟨hcan, hsafe, hop, hk⟩ := (s.enter .service).lowerForService_lowers
  have hr := (s.enter .service).lowerForService.settled_keeps
  have hnmt : s.serviceNow.can = (s.enter .service).lowerForService.can := hr .can (by decide)
  have hecat : s.serviceNow.ecat = (s.enter .service).lowerForService.ecat := hr .ecat (by decide)
  refine ⟨(hr .tray (by decide)).trans ((hk .tray (by decide)).trans (s.enter_tray _)), ?_, ?_, ?_, ?_⟩
  · rwa [hnmt]
  · rwa [hecat]
  · rwa [hecat]
  · exact (((s.enter_keeps _).mono (by decide)).trans (hk.mono (by decide))).trans (hr.mono (by decide))

/-- Command 0x06 without a pending bank and without a cause of safe-hold leads to ready, and never in BOOT. -/
theorem State.serviceEnd_ready {s : State} (hb : s.pendingBank = none) (hc : s.causes = []) :
    s.serviceEnd.tray = .ready ∧ s.serviceEnd.ecat.al ≠ .boot ∧ Keeps servicePieces s s.serviceEnd := by
  have e : s.serviceEnd = (((s.enter .ready).lowerFromBoot).retier).review := by simp only [State.serviceEnd, hb, hc]
  obtain ⟨hboot, hk⟩ := (s.enter .ready).lowerFromBoot_lowers
  have hr := (s.enter .ready).lowerFromBoot.settled_keeps
  have hecat : (((s.enter .ready).lowerFromBoot).retier).review.ecat = (s.enter .ready).lowerFromBoot.ecat := hr .ecat (by decide)
  rw [e]
  refine ⟨(hr .tray (by decide)).trans ((hk .tray (by decide)).trans (s.enter_tray _)), ?_, ?_⟩
  · rwa [hecat]
  · exact (((s.enter_keeps _).mono (by decide)).trans (hk.mono (by decide))).trans (hr.mono (by decide))

theorem State.setNum_keeps (s : State) (i j : Nat) (v : Int) : Keeps [.od] s (s.setNum i j v) := keeps_od s _

/-- Five entries set one after the other. -/
theorem State.setNums_keeps (s : State) (i a b c d e : Nat) (u v w x y : Int) :
    Keeps [.od] s (((((s.setNum i a u).setNum i b v).setNum i c w).setNum i d x).setNum i e y) :=
  ((((s.setNum_keeps i a u).trans (State.setNum_keeps _ i b v)).trans (State.setNum_keeps _ i c w)).trans
    (State.setNum_keeps _ i d x)).trans (State.setNum_keeps _ i e y)

theorem State.showSlot_keeps (s : State) (k : Nat) : Keeps [.od] s (s.showSlot k) := by
  unfold State.showSlot
  split
  · exact s.setNums_keeps _ 6 7 8 9 10 _ _ _ _ _
  · exact s.setNums_keeps _ 6 7 8 9 10 _ _ _ _ _

theorem State.trimPools_keeps (s : State) : Keeps [.chips] s s.trimPools :=
  Keeps.forEach (fun s _ => keeps_chips s _) (Keeps.refl _ s)

theorem State.layPart_keeps (s : State) (k : Nat) (m : Model) (want : Bool) (q : Nat) : Keeps [.chips] s (s.layPart k m want q) := by
  unfold State.layPart
  split
  · exact Keeps.refl _ s
  · exact keeps_chips s _

/-- A model laid into its chips changes chips, its slot and the slot's entries. -/
theorem State.layModel_keeps (s : State) (k : Nat) (m : Model) (want : Bool) :
    Keeps [.chips, .slots, .od] s (s.layModel k m want) := by
  unfold State.layModel
  extract_lets s1 s2 i
  have h1 : Keeps [.chips, .slots, .od] s s1 := Keeps.foldl (fun s q => (s.layPart_keeps k m want q).mono (by decide)) (Keeps.refl _ s)
  have h2 : Keeps [.chips, .slots, .od] s1 s2 := (keeps_slots s1 _).mono (by decide)
  have h3 : Keeps [.od] s2 _ := ((s2.setNum_keeps i 4 (if want then 5 else 4)).trans
    (State.setNum_keeps _ i 12 (bundleModelId m.bundle))).trans (State.setNum_keeps _ i 13 (bundleVersion m.bundle))
  exact (((h1.trans h2).trans (h3.mono (by decide))).trans ((State.showSlot_keeps _ _).mono (by decide))).trans
    ((State.trimPools_keeps _).mono (by decide))

theorem State.replace_keeps {s t : State} {k : Nat} (h : s.replace k = some t) : Keeps [.chips, .slots, .od] s t := by
  unfold State.replace at h
  split at h
  · cases h
  · dsimp only at h
    split at h
    · cases h
    · split at h
      · cases h
      · split at h
        · cases h
        · split at h
          · cases h
          · cases h
            exact s.layModel_keeps _ _ _

theorem State.tryPlace_keeps (s : State) : Keeps [.chips, .slots, .od] s s.tryPlace := by
  refine Keeps.trans (Keeps.foldl (fun s k => ?_) (Keeps.refl _ s)) ((State.retier_keeps _).mono (by decide))
  cases h : s.replace k with
  | none => exact Keeps.refl _ s
  | some t => exact State.replace_keeps h

/-- Command 0x07 leads to ready. -/
theorem State.holdEnd_ready (s : State) : s.holdEnd.tray = .ready ∧ Keeps servicePieces s s.holdEnd := by
  have hk : Keeps [.mail] (s.tryPlace.enter .ready) ((s.tryPlace.enter .ready).emergency 0 0 0 noTenant) :=
    State.emergency_keeps _ _ _ _ _
  have hr := State.settled_keeps ((s.tryPlace.enter .ready).emergency 0 0 0 noTenant)
  refine ⟨(hr .tray (by decide)).trans ((hk .tray (by decide)).trans (State.enter_tray _ _)), ?_⟩
  exact (((s.tryPlace_keeps.mono (by decide)).trans ((State.enter_keeps _ _).mono (by decide))).trans
    (hk.mono (by decide))).trans (hr.mono (by decide))

/-! ### Restart and activation (R509, Table 15.8) -/

theorem State.transmit_keeps (s : State) (q : Nat) (f : MootFrame) : Keeps [.parish, .od] s (s.transmit q f) :=
  ((keeps_parish s _).mono (by decide)).trans ((keeps_od _ _).mono (by decide))

theorem State.launch_keeps (s : State) (f : MootFrame) : Keeps [.parish, .od] s (s.launch f) := by
  unfold State.launch
  extract_lets g ports s1
  have h1 : Keeps [.parish, .od] s s1 := (keeps_parish s _).mono (by decide)
  exact Keeps.foldl (fun s q => s.transmit_keeps q g) h1

theorem State.pump_keeps (s : State) (dst : Nat) : Keeps [.parish, .od] s (s.pump dst) := by
  unfold State.pump
  refine Keeps.foldl (fun s u => ?_) (Keeps.refl _ s)
  exact Keeps.trans ((keeps_parish s _).mono (by decide)) (State.launch_keeps _ _)

theorem State.sendTo_keeps (s : State) (ty dst step : Nat) (b : List Byte) : Keeps [.parish, .od] s (s.sendTo ty dst step b) :=
  ((keeps_parish s _).mono (by decide)).trans (State.pump_keeps _ dst)

theorem State.abandonStep_keeps (s : State) : Keeps stepEndPieces s s.abandonStep := by
  unfold State.abandonStep
  split
  · exact Keeps.refl _ s
  · refine Keeps.trans ?_ (State.endStep_keeps _)
    exact Keeps.ite (Keeps.refl _ s) ((s.sendTo_keeps _ _ _ _).mono (by decide))

/-- What decides which image a start boots: the fuses, the banks, the active one, and the trial. -/
def Boot.firmware (b : Boot) : Fuses × Vector Bank 2 × Nat × Bool × Nat := (b.fuses, b.banks, b.active, b.trial, b.trialCount)

/-- A record is nothing to the firmware. -/
theorem State.post_firmware (s : State) (r : Record) : (s.post r).boot.firmware = s.boot.firmware := by
  rw [State.post_boot, State.writeRecord]
  split
  · exact congrArg Boot.firmware (s.pushLog_keeps r .boot (by decide))
  · split <;> rfl

theorem State.emptySlots_keeps (s : State) : Keeps [.od] s s.emptySlots :=
  Keeps.forEach (fun s _ => Keeps.ite (keeps_od s _) (Keeps.refl _ s)) (Keeps.refl _ s)

section
variable (s : State)

@[simp] theorem State.emptySlots_tray : s.emptySlots.tray = s.tray := s.emptySlots_keeps .tray (by decide)
@[simp] theorem State.emptySlots_power : s.emptySlots.power = s.power := s.emptySlots_keeps .power (by decide)
@[simp] theorem State.emptySlots_issues : s.emptySlots.issues = s.issues := s.emptySlots_keeps .issues (by decide)
@[simp] theorem State.emptySlots_boot : s.emptySlots.boot = s.boot := s.emptySlots_keeps .boot (by decide)
@[simp] theorem State.emptySlots_store : s.emptySlots.store = s.store := s.emptySlots_keeps .store (by decide)

end

/-- A reset leads to boot, with no issue left, and keeps the firmware and model flash. -/
theorem State.reboot_boots (s : State) (n : Nat) : (s.reboot n).tray = .boot ∧ (s.reboot n).power.step = n
    ∧ (s.reboot n).issues = [] ∧ (s.reboot n).boot.firmware = s.boot.firmware ∧ (s.reboot n).store.flash = s.store.flash := by
  simp [State.reboot, Boot.firmware]

/-- A restart on command: boot, with the log saved first. -/
theorem State.restartNow_boots (s : State) : s.restartNow.tray = .boot ∧ s.restartNow.power.step = 1 ∧ s.restartNow.issues = []
    ∧ s.restartNow.boot.firmware = s.boot.firmware ∧ s.restartNow.store.flash = s.store.flash := by
  have ha : Keeps stepEndPieces s s.abandonStep := s.abandonStep_keeps
  have hf : (s.abandonStep.enter .boot).boot.firmware = s.boot.firmware :=
    (State.post_firmware _ _).trans (congrArg Boot.firmware (ha .boot (by decide)))
  have hs : (s.abandonStep.enter .boot).store = s.store := (State.enter_keeps _ _ .store (by decide)).trans (ha .store (by decide))
  unfold State.restartNow
  extract_lets s1 faults t1 t2
  obtain ⟨htray, hstep, hissues, hfirm, hflash⟩ := t2.reboot_boots 1
  replace hf : t2.boot.firmware = s.boot.firmware := hf
  replace hs : t2.store = s.store := hs
  clear_value t2
  generalize t2.reboot 1 = r at *
  exact ⟨htray, hstep, hissues, hfirm.trans hf, hflash.trans (congrArg Store.flash hs)⟩

/-- The activation of a bank: a trial boot of it with count 0. -/
theorem State.activate_boots (s : State) (b : Nat) : (s.activate b).tray = .boot ∧ (s.activate b).power.step = 1
    ∧ (s.activate b).boot.active = b ∧ (s.activate b).boot.trial = true ∧ (s.activate b).boot.trialCount = 0
    ∧ (s.activate b).boot.fuses = s.boot.fuses := by
  unfold State.activate
  extract_lets mark
  obtain ⟨htray, hstep, -, hfirm, -⟩ := (s.modBoot fun b' => { b' with
    active := b, trial := true, trialCount := 0, banks := vset b'.banks b (mark (vget b'.banks b)) }).restartNow_boots
  simp only [Boot.firmware, State.modBoot_boot, Prod.mk.injEq] at hfirm
  obtain ⟨hfuses, -, hactive, htrial, hcount⟩ := hfirm
  exact ⟨htray, hstep, hactive, htrial, hcount, hfuses⟩

@[simp] theorem State.asked_pendingBank (s : State) (n : Net) : (s.asked n).pendingBank = s.pendingBank := by
  simp only [State.pendingBank, State.asked_boot]

/-- Settles O16: each command by the lemma of its effect, on the state in which the request was judged. -/
theorem serviceAndHold : Obligations.ServiceAndHold := by
  unfold Obligations.ServiceAndHold
  intro s n
  refine ⟨fun h => ?_, fun h hb hc => ?_, fun b h hb => ?_, fun h => ?_, fun h => ?_⟩
  · have hw : exec (.enterService n) s = .next ((s.asked n).serviceNow.answer n .ok) :=
      congrArg Host.Outcome.next (State.commandWrite_of_takes h)
    obtain ⟨htray, hcan, hsafe, hop, hk⟩ := (s.asked n).serviceNow_enters
    exact ⟨_, hw, by simpa [State.commandValid] using (State.valid_of_takes h).2, by simpa using htray, by simp,
      by simpa using hcan, by simpa using hsafe, by simpa using hop, hk.taken .shafts (by decide), hk.taken .tenants (by decide)⟩
  · have hw : exec (.leaveService n) s = .next ((s.asked n).serviceEnd.answer n .ok) :=
      congrArg Host.Outcome.next (State.commandWrite_of_takes h)
    obtain ⟨htray, hboot, hk⟩ := State.serviceEnd_ready (s := s.asked n) (by simpa using hb) (by simpa using hc)
    exact ⟨_, hw, by simpa [State.commandValid] using (State.valid_of_takes h).2, by simpa using htray, by simp,
      by simpa using hboot, hk.taken .shafts (by decide), hk.taken .tenants (by decide)⟩
  · have he : (s.asked n).serviceEnd = (s.asked n).activate b := by simp [State.serviceEnd, hb]
    have hw : exec (.leaveService n) s = .next (((s.asked n).activate b).answer n .ok) := by
      rw [← he]
      exact congrArg Host.Outcome.next (State.commandWrite_of_takes h)
    obtain ⟨htray, hstep, hactive, htrial, hcount, hfuses⟩ := (s.asked n).activate_boots b
    exact ⟨_, hw, by simpa using htray, by simpa using hactive, by simpa using htrial, by simpa using hcount, by simpa using hstep,
      by simpa using hfuses⟩
  · have hw : exec (.clearSafeHold n) s = .next ((s.asked n).holdEnd.answer n .ok) :=
      congrArg Host.Outcome.next (State.commandWrite_of_takes h)
    obtain ⟨htray, hk⟩ := (s.asked n).holdEnd_ready
    exact ⟨_, hw, by simpa [State.commandValid] using (State.valid_of_takes h).2, by simpa using htray, by simp,
      hk.taken .shafts (by decide), hk.taken .tenants (by decide)⟩
  · have hw : exec (.restart n) s = .next ((s.asked n).restartNow.answer n .ok) :=
      congrArg Host.Outcome.next (State.commandWrite_of_takes h)
    obtain ⟨htray, hstep, hissues, hfirm, hflash⟩ := (s.asked n).restartNow_boots
    simp only [Boot.firmware, Prod.mk.injEq, State.asked_boot] at hfirm
    exact ⟨_, hw, by simpa using htray, by simpa using hstep, by simpa using hissues, by simpa using hfirm.1,
      by simpa using hfirm.2.1, by simpa using hflash⟩

end Sys2Proof.Machine
end
section
/-! PROOFS. What a movement of a shaft sets off (chapters 2, 3, 8 and 10): jobs, frames, events and learning steps leave the
configuration of the shafts, and the shafts themselves, as they are. -/

namespace Sys2Proof.Machine

/-! ### Steady entries -/

/-- The entries below OD 0x2204, by key: the configuration of the shafts is the last of them. -/
def lowKey (k : Nat) : Bool := decide (k < 0x220400)

/-- Those, and of the tenant objects the sub-indices 0x0A and 0x0B, which for an event count its fires and show the last angle. -/
def fireKey (k : Nat) : Bool := lowKey k || (decide (0x300000 ≤ k) && (decide (k % 256 = 10) || decide (k % 256 = 11)))

theorem fireKey_of_lowKey {k : Nat} (h : lowKey k = true) : fireKey k = true := by simp [fireKey, h]

theorem lowKey_odKey {i : Nat} (hi : 0x2204 ≤ i) (j : Nat) : lowKey (odKey i j) = false :=
  decide_eq_false (by simp only [odKey]; omega)

theorem lowKey_cfg {i j : Nat} (hi : i < 4) (hj : j < 256) : lowKey (odKey (0x2200 + i) j) = true :=
  decide_eq_true (by simp only [odKey]; omega)

/-- An entry above OD 0x2203 is no such entry, unless it is at one of the two sub-indices. -/
theorem fireKey_odKey {i j : Nat} (hi : 0x2204 ≤ i) (hj : j < 10 ∨ 11 < j ∧ j < 256) : fireKey (odKey i j) = false := by
  have h10 : odKey i j % 256 ≠ 10 := by simp only [odKey]; omega
  have h11 : odKey i j % 256 ≠ 11 := by simp only [odKey]; omega
  simp [fireKey, lowKey_odKey hi, h10, h11]

theorem fireKey_odKey_low {i j : Nat} (hi : 0x2204 ≤ i) (hk : odKey i j < 0x300000) : fireKey (odKey i j) = false := by
  simp [fireKey, lowKey_odKey hi, hk]

/-- From `s` to `t` nothing but pieces of `l` has changed, and no entry of the dictionary whose key is one of `q`. -/
structure Steady (l : List Piece) (q : Nat → Bool) (s t : State) : Prop where
  keeps : Keeps l s t
  entries : ∀ i j, j < 256 → q (odKey i j) = true → t.get i j = s.get i j

section
variable {k l : List Piece} {q : Nat → Bool} {r s t : State}

theorem Steady.refl (l : List Piece) (q : Nat → Bool) (s : State) : Steady l q s s := ⟨Keeps.refl l s, fun _ _ _ _ => rfl⟩

theorem Steady.trans (h1 : Steady l q r s) (h2 : Steady l q s t) : Steady l q r t :=
  ⟨h1.keeps.trans h2.keeps, fun i j hj hk => (h2.entries i j hj hk).trans (h1.entries i j hj hk)⟩

theorem Steady.mono (h : Steady k q s t) (hs : within k l = true) : Steady l q s t := ⟨h.keeps.mono hs, h.entries⟩

/-- What leaves the fires of events alone leaves the entries below them alone. -/
theorem Steady.low (h : Steady l fireKey s t) : Steady l lowKey s t :=
  ⟨h.keeps, fun i j hj hk => h.entries i j hj (fireKey_of_lowKey hk)⟩

theorem Steady.ite {u : State} {c : Prop} [Decidable c] (ht : Steady l q s t) (hu : Steady l q s u) :
    Steady l q s (if c then t else u) := by
  split
  · exact ht
  · exact hu

theorem Steady.foldl {α : Type} {f : State → α → State} {xs : List α} (hf : ∀ s x, Steady l q s (f s x)) (s : State) :
    Steady l q s (xs.foldl f s) := by
  induction xs generalizing s with
  | nil => exact Steady.refl l q s
  | cons x xs ih => exact (hf s x).trans (ih _)

/-- Where the dictionary itself is kept, every entry is. -/
theorem Steady.of_keeps (h : Keeps k s t) (hs : within k l = true) (hod : Piece.od ∉ k) : Steady l q s t :=
  ⟨h.mono hs, fun i j _ _ => by rw [State.get, State.get, h .od hod]⟩

theorem Steady.set {i j : Nat} (s : State) (v : OdVal) (h : q (odKey i j) = false) : Steady [.od] q s (s.set i j v) :=
  ⟨keeps_od s _, fun a b _ hk => State.get_set_ne s v fun e => by rw [e, h] at hk; cases hk⟩

theorem Steady.setNum {i j : Nat} (s : State) (v : Int) (h : q (odKey i j) = false) : Steady [.od] q s (s.setNum i j v) :=
  Steady.set s _ h

theorem Steady.add {i j : Nat} (s : State) (n : Nat) (h : q (odKey i j) = false) : Steady [.od] q s (s.add i j n) :=
  Steady.set s _ h

theorem Steady.bump {i j : Nat} (s : State) (h : q (odKey i j) = false) : Steady [.od] q s (s.bump i j) := Steady.add s 1 h

end

/-- A counter of a tenant's object that is at neither of the two sub-indices. -/
theorem Steady.bump_blk (s : State) (t o : Nat) {j : Nat} (hj : j < 10 ∨ 11 < j ∧ j < 256) :
    Steady [.od] fireKey s (s.bump (blk t o) j) :=
  Steady.bump s (fireKey_odKey (by simp only [blk]; omega) hj)

theorem State.post_steady (s : State) (r : Record) : Steady [.od, .boot, .mail, .faults] fireKey s (s.post r) :=
  ⟨s.post_keeps r, fun i j hj hk => s.post_same r i j hj (decide_eq_false fun e => by
    subst e
    rw [fireKey_odKey_low (by decide) (by simp only [odKey]; omega)] at hk
    cases hk)⟩

theorem State.raise_steady (s : State) (a b c d : Nat) : Steady [.od, .boot, .mail, .faults] fireKey s (s.raise a b c d) :=
  s.post_steady _

/-! ### Frames of plain updates -/

section
variable (s : State)

theorem keeps_groups (v : Vector Group 8) : Keeps [.groups] s { s with groups := v } := fun p hp => by
  cases p <;> simp at hp <;> rfl
theorem keeps_cams (v : Vector Camera 2) : Keeps [.cams] s { s with cams := v } := fun p hp => by cases p <;> simp at hp <;> rfl
theorem keeps_pend (v : Vector Pend 16) : Keeps [.pend] s { s with pend := v } := fun p hp => by cases p <;> simp at hp <;> rfl
theorem keeps_events (v : Vector (Vector EvRun 16) 16) : Keeps [.events] s { s with events := v } := fun p hp => by
  cases p <;> simp at hp <;> rfl
theorem keeps_shafts (v : Vector Shaft 4) : Keeps [.shafts] s { s with shafts := v } := fun p hp => by
  cases p <;> simp at hp <;> rfl
theorem keeps_nextIssue (v : Nat) : Keeps [.nextIssue] s { s with nextIssue := v } := fun p hp => by
  cases p <;> simp at hp <;> rfl
theorem keeps_issues_next (l : List Issue) (n : Nat) : Keeps [.issues, .nextIssue] s { s with issues := l, nextIssue := n } :=
  fun p hp => by cases p <;> simp at hp <;> rfl

end

/-! ### Triggers of jobs (chapter 8) -/

/-- What a trigger of a job, or a frame that begins or ends, may change. -/
def triggerPieces : List Piece :=
  [.boot, .cams, .chips, .draws, .faults, .groups, .issues, .jobs, .mail, .nextIssue, .od, .pend]

theorem State.squash_steady (s : State) (id : Nat) : Steady triggerPieces fireKey s (s.squash id) := by
  unfold State.squash
  split
  · exact Steady.refl _ _ _
  · next i _ =>
    extract_lets s1 s2 s3
    have h1 : Steady triggerPieces fireKey s s1 :=
      Steady.foldl (fun s p => Steady.of_keeps (s.spoil_keeps i p) (by decide) (by decide)) s
    have h2 : Steady triggerPieces fireKey s1 s2 :=
      (Steady.of_keeps (s1.removeIssue_keeps id) (by decide) (by decide)).trans
        ((Steady.bump_blk _ _ _ (by decide)).mono (by decide))
    have h3 : Steady triggerPieces fireKey s2 s3 := Steady.of_keeps (keeps_jobs s2 _) (by decide) (by decide)
    exact ((h1.trans h2).trans h3).trans ((Steady.bump_blk _ _ _ (by decide)).mono (by decide))

theorem State.squashIf_steady (s : State) (p : Issue → Bool) : Steady triggerPieces fireKey s (s.squashIf p) :=
  Steady.foldl (fun s (i : Issue) => s.squash_steady i.id) s

theorem State.modRing_keeps (s : State) (r : Nat) (f : List Frame → List Frame) :
    Keeps [.groups, .cams] s (s.modRing r f) :=
  Keeps.ite ((keeps_groups s _).mono (by decide)) ((keeps_cams s _).mono (by decide))

theorem State.release_keeps (s : State) (frame : Option (Nat × Int)) (t j : Nat) :
    Keeps [.groups, .cams] s (s.release frame t j) := by
  unfold State.release
  split
  · exact Keeps.refl _ s
  · exact Keeps.ite ((keeps_groups s _).mono (by decide)) ((keeps_cams s _).mono (by decide))

theorem State.serveFrame_keeps (s : State) (frame : Option (Nat × Int)) (t : Nat) :
    Keeps [.groups, .cams] s (s.serveFrame frame t) := by
  unfold State.serveFrame
  split
  · exact Keeps.refl _ s
  · exact s.modRing_keeps _ _

theorem State.loftWrite_keeps (s : State) (i : Issue) (p : PartRun) (handle : Nat) (w : List (Nat × Byte)) :
    Keeps [.chips] s (s.loftWrite i p handle w) := by
  refine Keeps.foldl (fun s o => ?_) (Keeps.refl _ s)
  split
  · exact keeps_chips s _
  · exact Keeps.refl _ s

theorem State.deliver_keeps (s : State) (i : Issue) (p : PartRun) : Keeps [.chips] s (s.deliver i p) :=
  Keeps.ite (Keeps.refl _ s) (s.loftWrite_keeps _ _ _ _)

theorem State.dropTrigger_steady (s : State) (t : Nat) (tr : Trigger) (code : Nat) :
    Steady triggerPieces fireKey s (s.dropTrigger t tr code) := by
  unfold State.dropTrigger
  extract_lets n s1 s2 s3 s4 s5
  have h1 : Steady triggerPieces fireKey s s1 := Steady.of_keeps (keeps_jobs s _) (by decide) (by decide)
  have h2 : Steady triggerPieces fireKey s1 s2 :=
    ((Steady.bump_blk s1 _ _ (by decide)).trans (Steady.bump_blk _ _ _ (by decide))).mono (by decide)
  have h3 : Steady triggerPieces fireKey s2 s3 := Steady.ite ((Steady.bump s2 (by decide)).mono (by decide)) (Steady.refl _ _ _)
  have h4 : Steady triggerPieces fireKey s3 s4 := (s3.raise_steady _ _ _ _).mono (by decide)
  have h5 : Steady triggerPieces fireKey s4 s5 := s4.squashIf_steady _
  exact ((((h1.trans h2).trans h3).trans h4).trans h5).trans (Steady.of_keeps (s5.release_keeps _ _ _) (by decide) (by decide))

theorem State.countCommit_steady (s : State) (i : Issue) : Steady [.od] fireKey s (s.countCommit i) :=
  (Steady.bump_blk s _ _ (by decide)).trans (Steady.bump_blk _ _ _ (by decide))

theorem State.issueOn_steady (s : State) (t : Nat) (tr : Trigger) : Steady triggerPieces fireKey s (s.issueOn t tr) := by
  unfold State.issueOn
  extract_lets d
  split
  · exact Steady.refl _ _ _
  · extract_lets x s1 s2 s3
    have h1 : Steady triggerPieces fireKey s s1 := Steady.of_keeps (keeps_issues_next s _ _) (by decide) (by decide)
    have h2 : Steady triggerPieces fireKey s1 s2 :=
      (Steady.of_keeps (keeps_jobs s1 _) (by decide) (by decide)).trans
        (Steady.of_keeps (State.serveFrame_keeps _ _ _) (by decide) (by decide))
    have h3 : Steady triggerPieces fireKey s2 s3 := Steady.of_keeps (keeps_chips s2 _) (by decide) (by decide)
    exact ((h1.trans h2).trans h3).trans ((Steady.bump_blk s3 _ _ (by decide)).mono (by decide))

theorem State.modPend_steady (s : State) (t : Nat) (f : Pend → Pend) : Steady triggerPieces fireKey s (s.modPend t f) :=
  Steady.of_keeps (keeps_pend s _) (by decide) (by decide)

theorem State.endDecimation_steady (s : State) (t : Nat) : Steady triggerPieces fireKey s (s.endDecimation t) :=
  Steady.ite (s.modPend_steady _ _) (Steady.refl _ _ _)

theorem State.enqueueTrigger_steady (s : State) (t : Nat) (tr : Trigger) :
    Steady triggerPieces fireKey s (s.enqueueTrigger t tr) := by
  unfold State.enqueueTrigger
  extract_lets p put full policy dropOldest count keep s1
  have hput (s : State) : Steady triggerPieces fireKey s (put s) := s.modPend_steady _ _
  have hold (s : State) : Steady triggerPieces fireKey s (dropOldest s) := by
    unfold dropOldest
    split
    · exact Steady.refl _ _ _
    · exact (s.modPend_steady _ _).trans (State.dropTrigger_steady _ _ _ _)
  have h1 : Steady triggerPieces fireKey s s1 := s.modPend_steady _ _
  split
  · refine Steady.ite (Steady.trans ?_ (hput _)) (h1.trans (s1.dropTrigger_steady _ _ _))
    exact Steady.ite (h1.trans (hold s1)) h1
  · refine Steady.ite (hput s) (Steady.ite ((hold s).trans (hput _)) (s.dropTrigger_steady _ _ _))

theorem State.commitIssue_steady (s : State) (i : Issue) (tr : Trigger) : Steady triggerPieces fireKey s (s.commitIssue i tr) := by
  unfold State.commitIssue
  extract_lets data chips wait s1 s2 s3
  have h1 : Steady triggerPieces fireKey s s1 := Steady.of_keeps (keeps_issues s _) (by decide) (by decide)
  have h2 : Steady triggerPieces fireKey s1 s2 :=
    (Steady.of_keeps (keeps_jobs s1 _) (by decide) (by decide)).trans
      (Steady.of_keeps (State.serveFrame_keeps _ _ _) (by decide) (by decide))
  have h3 : Steady triggerPieces fireKey s2 s3 := Steady.ite (Steady.refl _ _ _) ((s2.countCommit_steady i).mono (by decide))
  refine ((h1.trans h2).trans h3).trans ?_
  split
  · exact Steady.refl _ _ _
  · exact Steady.foldl (fun s p => Steady.ite (Steady.of_keeps (s.deliver_keeps _ _) (by decide) (by decide)) (Steady.refl _ _ _)) s3

theorem State.fallDue_keeps (s : State) (t j : Nat) (k : Int) : Keeps [.jobs, .chips] s (s.fallDue t j k) := by
  unfold State.fallDue
  extract_lets s1
  have h1 : Keeps [.jobs, .chips] s s1 := (keeps_jobs s _).mono (by decide)
  split
  · exact h1
  · exact Keeps.foldl (fun s c => (keeps_chips s _).mono (by decide)) h1

/-- A trigger that reaches a job leaves the events and their fires as they are. -/
theorem State.trigger_steady (s : State) (t : Nat) (tr : Trigger) : Steady triggerPieces fireKey s (s.trigger t tr) := by
  unfold State.trigger
  extract_lets tr1 s1 back mine s2 chips
  have h1 : Steady triggerPieces fireKey s s1 :=
    (Steady.of_keeps (keeps_nextIssue s _) (by decide) (by decide)).trans
      (Steady.of_keeps (State.fallDue_keeps _ _ _ _) (by decide) (by decide))
  have h2 : Steady triggerPieces fireKey s1 s2 := s1.squashIf_steady _
  refine (h1.trans h2).trans ?_
  clear_value s2
  split
  · exact s2.commitIssue_steady _ _
  · exact Steady.ite (Steady.of_keeps (s2.release_keeps _ _ _) (by decide) (by decide))
      (Steady.ite (s2.enqueueTrigger_steady _ _) (s2.issueOn_steady _ _))

/-! ### Frames under way (chapter 3) -/

theorem State.modGroup_steady (s : State) (g : Nat) (f : Group → Group) : Steady triggerPieces fireKey s (s.modGroup g f) :=
  Steady.of_keeps (keeps_groups s _) (by decide) (by decide)

theorem State.evictOldest_steady (s : State) (r : Nat) : Steady triggerPieces fireKey s (s.evictOldest r) := by
  unfold State.evictOldest
  split
  · exact Steady.refl _ _ _
  · extract_lets key lost s1 s2 s3
    have h1 : Steady triggerPieces fireKey s s1 := Steady.of_keeps (s.modRing_keeps r _) (by decide) (by decide)
    have h2 : Steady triggerPieces fireKey s1 s2 :=
      Steady.foldl (fun s t => (s.modPend_steady _ _).trans (State.endDecimation_steady _ t)) s1
    have h3 : Steady triggerPieces fireKey s2 s3 := Steady.ite (Steady.refl _ _ _) ((Steady.bump s2 (by decide)).mono (by decide))
    exact ((h1.trans h2).trans h3).trans (Steady.foldl (fun s w => s.dropTrigger_steady _ _ _) s3)

theorem State.evictFrame_steady (s : State) (r : Nat) : Steady triggerPieces fireKey s (s.evictFrame r) :=
  Steady.ite (s.evictOldest_steady r) (Steady.refl _ _ _)

theorem State.queueStrips_keeps (s : State) (kind index : Nat) (k : Int) : Keeps [.chips] s (s.queueStrips kind index k) := by
  refine Keeps.foldl (fun s p => ?_) (Keeps.refl _ s)
  obtain ⟨t, j⟩ := p
  dsimp only
  split
  · exact Keeps.refl _ s
  · refine Keeps.ite (Keeps.refl _ s) (Keeps.foldl (fun s p => ?_) (Keeps.refl _ s))
    exact Keeps.ite (keeps_chips s _) (Keeps.refl _ s)

theorem State.notAnalysed_steady (s : State) (g cause : Nat) (k : Int) :
    Steady triggerPieces fireKey s (s.notAnalysed g cause k) := by
  unfold State.notAnalysed
  extract_lets s1 s2 s3
  have h1 : Steady triggerPieces fireKey s s1 :=
    Steady.foldl (fun s c => (Steady.bump s (fireKey_odKey (by omega) (by decide))).mono (by decide)) s
  have h2 : Steady triggerPieces fireKey s1 s2 := Steady.ite (Steady.refl _ _ _) ((s1.raise_steady _ _ _ _).mono (by decide))
  have h3 : Steady triggerPieces fireKey s2 s3 := s2.modGroup_steady _ _
  exact ((h1.trans h2).trans h3).trans (s3.squashIf_steady _)

theorem State.stopFrame_steady (s : State) (g cause : Nat) (r : FrameRun) : Steady triggerPieces fireKey s (s.stopFrame g cause r) :=
  (s.modGroup_steady _ _).trans (State.notAnalysed_steady _ _ _ _)

theorem State.failRuns_steady (s : State) (g cause : Nat) (p : FrameRun → Bool) :
    Steady triggerPieces fireKey s (s.failRuns g cause p) :=
  (s.modGroup_steady _ _).trans (Steady.foldl (fun s r => s.stopFrame_steady g cause r) _)

theorem State.failFrames_steady (s : State) (i cause : Nat) : Steady triggerPieces fireKey s (s.failFrames i cause) :=
  Steady.foldl (fun s g => s.failRuns_steady g cause _) s

theorem State.beginFrame_steady (s : State) (g i : Nat) (k : Int) : Steady triggerPieces fireKey s (s.beginFrame g i k) := by
  unfold State.beginFrame
  refine Steady.ite (s.stopFrame_steady _ _ _) (Steady.ite (s.stopFrame_steady _ _ _) (Steady.ite (s.stopFrame_steady _ _ _) ?_))
  exact ((s.evictFrame_steady g).trans (State.modGroup_steady _ _ _)).trans
    (Steady.of_keeps (State.queueStrips_keeps _ _ _ _) (by decide) (by decide))

theorem State.framesMoved_steady (s : State) (i : Nat) (mark angle : Int) :
    Steady triggerPieces fireKey s (s.framesMoved i mark angle) := by
  refine Steady.ite (Steady.refl _ _ _) (Steady.foldl (fun s g => Steady.ite (Steady.refl _ _ _) ?_) s)
  split
  · exact Steady.foldl (fun s d => s.beginFrame_steady _ _ _) s
  · exact Steady.refl _ _ _

theorem State.framesResync_steady (s : State) (i : Nat) (mark angle : Int) :
    Steady triggerPieces fireKey s (s.framesResync i mark angle) := by
  refine (Steady.foldl (fun s g => s.failRuns_steady g 0 _) s).trans (Steady.foldl (fun s g => ?_) _)
  split
  · exact Steady.ite (Steady.foldl (fun s d => Steady.ite (s.notAnalysed_steady _ _ _) (s.stopFrame_steady _ _ _)) s)
      (Steady.refl _ _ _)
  · exact Steady.refl _ _ _

theorem State.framesEdge_steady (s : State) (i : Nat) : Steady triggerPieces fireKey s (s.framesEdge i) := by
  unfold State.framesEdge
  extract_lets x note
  refine Steady.foldl (fun s g => ?_) s
  unfold note
  extract_lets pitch final s1
  have h1 : Steady triggerPieces fireKey s s1 := s.modGroup_steady g _
  refine h1.trans ?_
  exact Steady.ite (State.failRuns_steady _ _ _ _) (Steady.ite (State.failRuns_steady _ _ _ _)
    (Steady.ite (State.failRuns_steady _ _ _ _) (Steady.refl _ _ _)))

/-! ### A learning step that starts (chapter 10) -/

/-- What a movement of a shaft may change beside the shafts and the output sets. -/
def movePieces : List Piece :=
  [.boot, .cams, .chips, .draws, .events, .faults, .groups, .issues, .jobs, .learn, .mail, .nextIssue, .od, .parish, .pend]

/-- A trigger is part of what a movement sets off. -/
theorem Steady.moved {s t : State} (h : Steady triggerPieces fireKey s t) : Steady movePieces lowKey s t := h.low.mono (by decide)

theorem State.modParish_steady (s : State) (f : Parish → Parish) : Steady movePieces lowKey s (s.modParish f) :=
  Steady.of_keeps (keeps_parish s _) (by decide) (by decide)

theorem State.modLearn_steady (s : State) (f : Learn → Learn) : Steady movePieces lowKey s (s.modLearn f) :=
  Steady.of_keeps (keeps_learn s _) (by decide) (by decide)

theorem State.transmit_steady (s : State) (q : Nat) (f : MootFrame) : Steady movePieces lowKey s (s.transmit q f) :=
  ((Steady.of_keeps (keeps_parish s _) (by decide) (by decide)).trans
    ((Steady.bump _ (lowKey_odKey (by decide) _)).mono (by decide))).trans
      ((Steady.add _ _ (lowKey_odKey (by decide) _)).mono (by decide))

theorem State.launch_steady (s : State) (f : MootFrame) : Steady movePieces lowKey s (s.launch f) := by
  unfold State.launch
  extract_lets g ports s1
  exact (Steady.of_keeps (keeps_parish s _) (by decide) (by decide)).trans (Steady.foldl (fun s q => s.transmit_steady q g) s1)

theorem State.pump_steady (s : State) (dst : Nat) : Steady movePieces lowKey s (s.pump dst) :=
  Steady.foldl (fun s u => (Steady.of_keeps (keeps_parish s _) (by decide) (by decide)).trans (State.launch_steady _ _)) s

theorem State.sendTo_steady (s : State) (ty dst step : Nat) (b : List Byte) : Steady movePieces lowKey s (s.sendTo ty dst step b) :=
  (Steady.of_keeps (keeps_parish s _) (by decide) (by decide)).trans (State.pump_steady _ dst)

theorem State.sendSeats_steady (s : State) (ty step : Nat) (b : List Byte) : Steady movePieces lowKey s (s.sendSeats ty step b) :=
  Steady.ite (Steady.foldl (fun s t => s.sendTo_steady ty t step b) s) (Steady.refl _ _ _)

theorem State.launchStep_steady (s : State) : Steady movePieces lowKey s s.launchStep := by
  have micro (s : State) (m : Model) (c i p : Nat) (l : List Nat) : Steady movePieces lowKey s (s.microIssue m c i p l) :=
    Steady.of_keeps (keeps_issues_next s _ _) (by decide) (by decide)
  unfold State.launchStep
  split
  · exact Steady.refl _ _ _
  · refine Steady.ite (Steady.refl _ _ _) ?_
    extract_lets restores s1
    have h1 : Steady movePieces lowKey s s1 := (Steady.bump_blk s _ _ (by decide)).low.mono (by decide)
    refine h1.trans (Steady.foldl (fun s c => Steady.foldl (fun s i => ?_) s) s1)
    exact Steady.trans (Steady.ite ((micro s _ _ _ _ _).trans (micro _ _ _ _ _ _)) (micro s _ _ _ _ _)) (micro _ _ _ _ _ _)

theorem State.applyStart_steady (s : State) (q r : Nat) : Steady movePieces lowKey s (s.applyStart q r) :=
  Steady.ite (Steady.refl _ _ _)
    (((s.modLearn_steady _).trans (State.modLearn_steady _ _)).trans (State.launchStep_steady _))

theorem State.pauseStep_steady (s : State) : Steady movePieces lowKey s s.pauseStep := by
  unfold State.pauseStep
  split
  · exact s.modParish_steady _
  · exact s.modParish_steady _
  · exact Steady.refl _ _ _

theorem State.leaderBid_steady (s : State) (tray : Nat) : Steady movePieces lowKey s (s.leaderBid tray) := by
  unfold State.leaderBid
  extract_lets s1 want q r s2 s3
  have h1 : Steady movePieces lowKey s s1 := s.modParish_steady _
  have h2 : Steady movePieces lowKey s1 s2 := (s1.modParish_steady _).trans (State.pauseStep_steady _)
  have h3 : Steady movePieces lowKey s2 s3 := s2.sendSeats_steady _ _ _
  exact Steady.ite (((h1.trans h2).trans h3).trans (s3.applyStart_steady _ _)) h1

theorem State.freeSample_steady (s : State) : Steady movePieces lowKey s s.freeSample.2 :=
  Steady.of_keeps ((keeps_draws s _).trans (keeps_draws _ _)) (by decide) (by decide)

/-- A fire of the step event starts a step, or is counted. -/
theorem State.stepFire_steady (s : State) (k angle : Int) (flags shaft : Nat) :
    Steady movePieces lowKey s (s.stepFire k angle flags shaft) := by
  unfold State.stepFire
  refine Steady.ite (Steady.refl _ _ _) (Steady.ite ((Steady.bump s (lowKey_odKey (by decide) _)).mono (by decide)) ?_)
  extract_lets e
  split
  next drawn s1 hd =>
    have h1 : Steady movePieces lowKey s s1 := by
      split at hd
      · exact (Prod.mk.inj hd).2 ▸ s.freeSample_steady
      · exact (Prod.mk.inj hd).2 ▸ Steady.refl _ _ _
    extract_lets s2 s3 s4 s5
    have h2 : Steady movePieces lowKey s1 s2 := s1.modLearn_steady _
    have h3 : Steady movePieces lowKey s2 s3 := Steady.of_keeps (keeps_chips s2 _) (by decide) (by decide)
    have h4 : Steady movePieces lowKey s3 s4 := s3.modParish_steady _
    have h5 : Steady movePieces lowKey s4 s5 := (Steady.setNum s4 _ (lowKey_odKey (by decide) _)).mono (by decide)
    exact ((((h1.trans h2).trans h3).trans h4).trans h5).trans
      (Steady.ite (s5.leaderBid_steady _) (s5.sendTo_steady _ _ _ _))

/-! ### Fires of events (chapter 2) -/

theorem State.evSkip_steady (s : State) (ev : EvRef) (n : Nat) : Steady movePieces fireKey s (s.evSkip ev n) := by
  cases ev with
  | tenant t e => exact (Steady.add s n (fireKey_odKey (by simp only [blk]; omega) (by decide))).mono (by decide)
  | camera k => exact Steady.refl _ _ _

theorem State.evMerge_steady (s : State) (ev : EvRef) (n : Nat) : Steady movePieces fireKey s (s.evMerge ev n) := by
  cases ev with
  | tenant t e => exact (Steady.add s n (fireKey_odKey (by simp only [blk]; omega) (by decide))).mono (by decide)
  | camera k => exact Steady.refl _ _ _

theorem State.modEvRun_steady (s : State) (ev : EvRef) (f : EvRun → EvRun) : Steady movePieces fireKey s (s.modEvRun ev f) := by
  cases ev with
  | tenant t e => exact Steady.of_keeps (keeps_events s _) (by decide) (by decide)
  | camera k => exact Steady.of_keeps (keeps_cams s _) (by decide) (by decide)

theorem State.suppressed_steady (s : State) (ev : EvRef) (c : Crossing) : Steady triggerPieces fireKey s (s.suppressed ev c) := by
  cases ev with
  | tenant t e => exact s.squashIf_steady _
  | camera k => exact s.squashIf_steady _

theorem State.cameraFire_steady (s : State) (cam : Nat) (k angle : Int) (flags : Nat) :
    Steady [.cams, .od] fireKey s (s.cameraFire cam k angle flags) := by
  have fire (f : Camera → Camera) : Steady [.cams, .od] fireKey s (s.modCam cam f) :=
    Steady.of_keeps (keeps_cams s _) (by decide) (by decide)
  unfold State.cameraFire
  refine Steady.ite (Steady.refl _ _ _) ?_
  split
  · exact (fire _).trans ((Steady.bump _ (fireKey_odKey (by simp only [camIndex]; omega) (by decide))).mono (by decide))
  · exact fire _

/-- The triggers of a tenant's jobs by a fire of one of its events. -/
def State.fireJobs (s : State) (t e sh : Nat) (k angle : Int) (flags : Nat) : State :=
  ((s.jobsOf 0 e).filter (fun p => decide (p.1 = t))).foldl (fun s p =>
    if s.listens t p.2 then s.trigger t ⟨p.2, k, angle, flags, sh, none, 0, 0, false⟩ else s) s

/-- A fire of a tenant's event as it is shown in the event's object. -/
def State.showFire (s : State) (t e : Nat) (angle : Int) : State :=
  (s.bump (blk t (0x10 + e)) 10).setNum (blk t (0x10 + e)) 11 angle

theorem State.deliverFire_tenant (s : State) (t e : Nat) (k angle : Int) (flags : Nat) :
    s.deliverFire (.tenant t e) k angle flags =
      let sh := s.nat (blk t (0x10 + e)) 2
      let r := (s.showFire t e angle).fireJobs t e sh k angle flags
      if r.tray = .learning ∧ t = r.learnTenant ∧ e = r.nat 0x5000 4 then r.stepFire k angle (flags % 64) sh else r := rfl

theorem State.fireJobs_steady (s : State) (t e sh : Nat) (k angle : Int) (flags : Nat) :
    Steady triggerPieces fireKey s (s.fireJobs t e sh k angle flags) :=
  Steady.foldl (fun s _ => Steady.ite (s.trigger_steady _ _) (Steady.refl _ _ _)) s

theorem State.showFire_steady (s : State) (t e : Nat) (angle : Int) : Steady [.od] lowKey s (s.showFire t e angle) :=
  (Steady.bump s (lowKey_odKey (by simp only [blk]; omega) _)).trans
    (Steady.setNum _ _ (lowKey_odKey (by simp only [blk]; omega) _))

theorem State.deliverFire_steady (s : State) (ev : EvRef) (k angle : Int) (flags : Nat) :
    Steady movePieces lowKey s (s.deliverFire ev k angle flags) := by
  cases ev with
  | camera c => exact (s.cameraFire_steady c k angle flags).low.mono (by decide)
  | tenant t e =>
    rw [State.deliverFire_tenant]
    have h : Steady movePieces lowKey s ((s.showFire t e angle).fireJobs t e (s.nat (blk t (0x10 + e)) 2) k angle flags) :=
      ((s.showFire_steady t e angle).mono (by decide)).trans (State.fireJobs_steady _ _ _ _ _ _ _).moved
    exact Steady.ite (h.trans (State.stepFire_steady _ _ _ _ _)) h

theorem State.fireNow_steady (s : State) (ev : EvRef) (c : Crossing) : Steady movePieces lowKey s (s.fireNow ev c) :=
  Steady.ite ((s.evSkip_steady ev c.count).low.trans (State.suppressed_steady _ ev c).moved)
    (((s.evMerge_steady ev (c.count - 1)).low.trans (State.modEvRun_steady _ ev _).low).trans (State.deliverFire_steady _ ev _ _ _))

theorem State.fire_steady (s : State) (ev : EvRef) (c : Crossing) : Steady movePieces lowKey s (s.fire ev c) :=
  Steady.ite (s.modEvRun_steady ev _).low (s.fireNow_steady ev c)

theorem State.crossing_steady (s : State) (ev : EvRef) (k angle : Int) (n : Nat) :
    Steady movePieces lowKey s (s.crossing ev k angle n) :=
  Steady.ite (Steady.refl _ _ _) (Steady.ite
    (Steady.ite ((s.evMerge_steady ev _).low.trans (State.modEvRun_steady _ ev _).low) (s.evSkip_steady ev n).low)
    (s.fire_steady ev _))

theorem State.substStart_steady (s : State) (i : Nat) : Steady movePieces lowKey s (s.substStart i) :=
  Steady.foldl (fun s ev => Steady.ite (s.modEvRun_steady ev _).low (Steady.refl _ _ _)) s

theorem State.substArm_steady (s : State) (i : Nat) : Steady movePieces lowKey s (s.substArm i) :=
  Steady.foldl (fun s ev => (s.modEvRun_steady ev _).low) s

theorem State.substEnd_steady (s : State) (i : Nat) : Steady movePieces lowKey s (s.substEnd i) := by
  unfold State.substEnd
  extract_lets go
  refine Steady.foldl (fun s ev => ?_) s
  unfold go
  extract_lets r s1
  have h1 : Steady movePieces lowKey s s1 := (s.modEvRun_steady ev _).low
  split
  · exact Steady.ite (h1.trans (s1.fire_steady ev _)) h1
  · exact h1

theorem State.restWork_steady (s : State) (i : Nat) : Steady movePieces lowKey s (s.restWork i) :=
  (s.substStart_steady i).trans (State.failFrames_steady _ i 3).moved

theorem State.miss_steady (s : State) (i : Nat) : Steady movePieces lowKey s (s.miss i) :=
  ((Steady.bump s (lowKey_odKey (by decide) _)).mono (by decide)).trans (State.squashIf_steady _ _).moved

theorem State.missIf_steady (s : State) (i : Nat) (b : Bool) : Steady movePieces lowKey s (s.missIf i b) :=
  Steady.ite (s.miss_steady i) (Steady.refl _ _ _)

theorem State.raiseShaft_steady (s : State) (i code low : Nat) : Steady movePieces lowKey s (s.raiseShaft i code low) :=
  (s.raise_steady _ _ _ _).low.mono (by decide)

theorem State.raiseAll_steady (s : State) (i : Nat) (l : List (Nat × Nat)) :
    Steady movePieces lowKey s (l.foldl (fun s r => s.raiseShaft i r.1 r.2) s) :=
  Steady.foldl (fun s (r : Nat × Nat) => s.raiseShaft_steady i r.1 r.2) s

/-! ### Messages, tiers and output sets -/

theorem State.sendAngle_keeps (s : State) (c i : Nat) : Keeps [.chips] s (s.sendAngle c i) :=
  Keeps.ite (keeps_chips s _) (Keeps.refl _ s)

theorem State.publishStatus_keeps (s : State) (before : List Nat) : Keeps [.chips] s (s.publishStatus before) :=
  Keeps.foldl (fun s i => Keeps.forEach (fun s c => s.sendAngle_keeps c i) (Keeps.refl _ s)) (Keeps.refl _ s)

theorem State.clearSet_steady (s : State) (t o : Nat) : Steady [.sets, .od] lowKey s (s.clearSet t o) := by
  unfold State.clearSet
  extract_lets s1
  have h1 : Steady [.sets, .od] lowKey s s1 := Steady.of_keeps (keeps_sets s _) (by decide) (by decide)
  split
  next c hc =>
    have hi : 0x2204 ≤ c := by
      simp only [State.conditionOf, Option.ite_none_right_eq_some, Option.some.injEq] at hc
      omega
    have hset (s : State) (j : Nat) (v : Int) : Steady [.sets, .od] lowKey s (s.setNum c j v) :=
      (Steady.setNum s v (lowKey_odKey hi j)).mono (by decide)
    exact Steady.ite ((h1.trans (hset _ _ _)).trans (hset _ _ _)) h1
  next => exact h1

theorem State.staleSets_steady (s : State) : Steady [.sets, .od] lowKey s s.staleSets := by
  refine Steady.foldl (fun s p => ?_) s
  unfold State.staleSet
  extract_lets lim
  split
  · exact Steady.ite (s.clearSet_steady _ _) (Steady.refl _ _ _)
  · exact Steady.refl _ _ _

theorem State.loadWindow_steady (s : State) : Steady [.od, .chips, .loadFrom] lowKey s s.loadWindow := by
  have hset (s : State) (j : Nat) (v : Int) : Steady [.od, .chips, .loadFrom] lowKey s (s.setNum 0x2420 j v) :=
    (Steady.setNum s v (lowKey_odKey (by decide) j)).mono (by decide)
  have hload (s : State) (v : Nat × Int) (w : Vector Chip 16) : Keeps [.chips, .loadFrom] s { s with loadFrom := v, chips := w } :=
    fun p hp => by cases p <;> simp at hp <;> rfl
  refine Steady.ite ?_ (Steady.refl _ _ _)
  exact (((hset s 3 _).trans (hset _ 4 _)).trans (hset _ 5 _)).trans (Steady.of_keeps (hload _ _ _) (by decide) (by decide))

theorem State.orderRecords_keeps (s old : State) : Keeps [.faults, .boot] s (s.orderRecords old) := fun p hp => by
  cases p <;> simp at hp <;> rfl

theorem State.writeOwed_steady (s : State) : Steady movePieces lowKey s s.writeOwed := by
  refine Steady.foldl (fun s c => Steady.ite (Steady.refl _ _ _) ?_) s
  exact (Steady.of_keeps (keeps_chips s _) (by decide) (by decide)).trans
    (Steady.foldl (fun s o => (s.post_steady _).low.mono (by decide)) _)

end Sys2Proof.Machine
end
section
/-! PROOFS. Shafts (chapter 2): which shafts a movement changes, and what it leaves of the shaft that moves. -/

namespace Sys2Proof.Machine

/-! ### One shaft changed -/

theorem State.shaft_setShaft_same (s : State) {i : Nat} (h : i < 4) (x : Shaft) : (s.setShaft i x).shaft i = x :=
  vget_vset_same _ _ h

theorem State.shaft_setShaft_ne (s : State) {i j : Nat} (h : j ≠ i) (x : Shaft) : (s.setShaft i x).shaft j = s.shaft j :=
  vget_vset_ne _ _ h.symm

theorem State.shaft_modShaft_same (s : State) {i : Nat} (h : i < 4) (f : Shaft → Shaft) : (s.modShaft i f).shaft i = f (s.shaft i) :=
  s.shaft_setShaft_same h _

theorem State.setShaft_setShaft (s : State) (i : Nat) (x y : Shaft) : (s.setShaft i x).setShaft i y = s.setShaft i y := by
  simp [State.setShaft, vset]

theorem Steady.shaft {l : List Piece} {q : Nat → Bool} {s t : State} (h : Steady l q s t) (hl : Piece.shafts ∉ l) (j : Nat) :
    t.shaft j = s.shaft j := by
  rw [State.shaft, h.keeps .shafts hl]
  rfl

/-! ### Which shafts change -/

/-- What a movement of a shaft may change. -/
def turnPieces : List Piece := .shafts :: .sets :: movePieces

/-- From `s` to `t` shafts have moved: no shaft but those of `p` has changed, no configuration, and beside the shafts only what
a movement sets off. -/
structure Turns (p : Nat → Prop) (s t : State) : Prop where
  steady : Steady turnPieces lowKey s t
  others : ∀ j, ¬ p j → t.shaft j = s.shaft j

section
variable {p : Nat → Prop} {r s t : State}

theorem Turns.refl (p : Nat → Prop) (s : State) : Turns p s s := ⟨Steady.refl _ _ _, fun _ _ => rfl⟩

theorem Turns.trans (h1 : Turns p r s) (h2 : Turns p s t) : Turns p r t :=
  ⟨h1.steady.trans h2.steady, fun j hj => (h2.others j hj).trans (h1.others j hj)⟩

theorem Turns.widen {q : Nat → Prop} (h : Turns p s t) (hq : ∀ j, p j → q j) : Turns q s t :=
  ⟨h.steady, fun j hj => h.others j fun hp => hj (hq j hp)⟩

theorem Turns.ite {u : State} {c : Prop} [Decidable c] (ht : Turns p s t) (hu : Turns p s u) : Turns p s (if c then t else u) := by
  split
  · exact ht
  · exact hu

theorem Turns.foldl {α : Type} {f : State → α → State} {xs : List α} (hf : ∀ s, ∀ x ∈ xs, Turns p s (f s x)) (s : State) :
    Turns p s (xs.foldl f s) := by
  induction xs generalizing s with
  | nil => exact Turns.refl p s
  | cons x xs ih =>
    exact (hf s x List.mem_cons_self).trans (ih (fun s y hy => hf s y (List.mem_cons_of_mem x hy)) _)

theorem Turns.of_steady {l : List Piece} (h : Steady l lowKey s t) (hs : within l turnPieces = true) (hl : Piece.shafts ∉ l) :
    Turns p s t := ⟨h.mono hs, fun j _ => h.shaft hl j⟩

/-- What a movement sets off changes no shaft. -/
theorem Steady.turns (h : Steady movePieces lowKey s t) : Turns p s t := Turns.of_steady h (by decide) (by decide)

theorem Turns.setShaft {i : Nat} (s : State) (x : Shaft) (hi : p i) : Turns p s (s.setShaft i x) :=
  ⟨Steady.of_keeps (keeps_shafts s _) (by decide) (by decide), fun j hj => s.shaft_setShaft_ne (fun e => hj (by rwa [e])) x⟩

theorem Turns.keeps (h : Turns p s t) : Keeps turnPieces s t := h.steady.keeps

theorem Turns.cfg (h : Turns p s t) {i j : Nat} (hi : i < 4) (hj : j < 256) : t.cfg i j = s.cfg i j := by
  rw [State.cfg, State.nat, State.num, h.steady.entries _ j hj (lowKey_cfg hi hj)]
  rfl

theorem Turns.kind (h : Turns p s t) {i : Nat} (hi : i < 4) : t.kind i = s.kind i := h.cfg hi (by decide)

theorem Turns.followers (h : Turns p s t) (i : Nat) : t.followers i = s.followers i := by
  unfold State.followers
  split
  · refine List.filter_congr fun j hj => ?_
    rw [h.kind (List.mem_range.mp hj)]
  · rfl

end

theorem State.mem_followers {s : State} {i d : Nat} : d ∈ s.followers i ↔ i = 0 ∧ d < 4 ∧ d ≠ 0 ∧ s.kind d = 4 := by
  unfold State.followers
  split <;> simp_all

theorem State.not_mem_followers (s : State) (i : Nat) : i ∉ s.followers i := fun h => by
  obtain ⟨h0, -, hi, -⟩ := State.mem_followers.mp h
  exact hi h0

/-- A shaft, or one derived from it. -/
def State.along (s : State) (i j : Nat) : Prop := j = i ∨ j ∈ s.followers i

/-- A shaft and those derived from it have changed, these last: it stands as it was left before, and no other shaft has changed. -/
theorem Turns.closed {i : Nat} {s s1 t : State} (h1 : Turns (s.along i) s s1) (h2 : Turns (· ∈ s1.followers i) s1 t) :
    t.shaft i = s1.shaft i ∧ (∀ j < 4, j ≠ i → s.kind j ≠ 4 → t.shaft j = s.shaft j) ∧ Keeps turnPieces s t := by
  refine ⟨h2.others i (s1.not_mem_followers i), fun j hj hji hk => ?_, h1.keeps.trans h2.keeps⟩
  have hm : j ∉ s.followers i := fun hm => hk (State.mem_followers.mp hm).2.2.2
  refine (h2.others j ?_).trans (h1.others j fun h => h.elim hji hm)
  rwa [h1.followers i]

/-! ### Marks -/

/-- A shaft without its direction of running and its marks (R80, R82). -/
def Shaft.unmarked (x : Shaft) : Shaft := { x with reverse := false, hwm := 0, lwm := 0 }

/-- What does not read the marks is the same on two shafts that agree but for them. -/
theorem Shaft.of_unmarked {α : Type} {f : Shaft → α} (hf : ∀ x, f x.unmarked = f x) {x y : Shaft} (h : x.unmarked = y.unmarked) :
    f x = f y := by rw [← hf x, h, hf]

section
variable {p : Nat → Prop} (s : State)

theorem State.crossed_steady (i : Nat) (frames : Bool) : ∃ t, Steady movePieces lowKey s t ∧
    (s.crossAll i frames = s ∨ s.crossAll i frames = t.setShaft i (let y := t.shaft i
      if y.reverse then { y with lwm := min y.lwm y.angle } else { y with hwm := max y.hwm y.angle })) := by
  unfold State.crossAll
  extract_lets x mark go s1 s2
  have hgo (s : State) (ev : EvRef) : Steady movePieces lowKey s (go s ev) := by
    refine Steady.ite (Steady.refl _ _ _) ?_
    split
    · exact s.crossing_steady _ _ _ _
    · exact Steady.refl _ _ _
  have h1 : Steady movePieces lowKey s s1 := Steady.foldl hgo s
  have h2 : Steady movePieces lowKey s1 s2 := Steady.ite (s1.framesMoved_steady _ _ _).moved (Steady.refl _ _ _)
  refine ⟨s2, h1.trans h2, ?_⟩
  split
  · exact Or.inl rfl
  · exact Or.inr rfl

/-- Crossings move the marks of the shaft, and no other shaft. -/
theorem State.crossAll_turns {i : Nat} (hi : p i) (frames : Bool) : Turns p s (s.crossAll i frames) := by
  obtain ⟨t, ht, h | h⟩ := s.crossed_steady i frames
  · rw [h]
    exact Turns.refl p s
  · rw [h]
    exact ht.turns.trans (Turns.setShaft t _ hi)

theorem State.crossAll_own {i : Nat} (hi : i < 4) (frames : Bool) :
    ((s.crossAll i frames).shaft i).unmarked = (s.shaft i).unmarked := by
  obtain ⟨t, ht, h | h⟩ := s.crossed_steady i frames
  · rw [h]
  · rw [h, t.shaft_setShaft_same hi, ht.shaft (by decide)]
    dsimp only
    split <;> rfl

theorem State.turnBack_unmarked {i : Nat} {x : Shaft} (h : s.turnBack i = some x) : x.unmarked = (s.shaft i).unmarked := by
  unfold State.turnBack at h
  dsimp only at h
  split at h
  · cases h
  · split at h <;> split at h <;> cases h <;> rfl

theorem State.testBand_turns {i : Nat} (hi : p i) : Turns p s (s.testBand i).1 := by
  unfold State.testBand
  split
  · exact Turns.refl p s
  · exact ((Turns.setShaft s _ hi).trans (State.raiseShaft_steady _ _ _ _).turns).trans (State.failFrames_steady _ _ _).moved.turns

theorem State.testBand_own {i : Nat} (hi : i < 4) : ((s.testBand i).1.shaft i).unmarked = (s.shaft i).unmarked := by
  unfold State.testBand
  split
  · rfl
  next x hx =>
    have h : Steady movePieces lowKey (s.setShaft i x)
        (((s.setShaft i x).raiseShaft i (if x.reverse then 0x2020 else 0x2021) 0).failFrames i 3) :=
      (State.raiseShaft_steady _ _ _ _).trans (State.failFrames_steady _ _ _).moved
    rw [h.shaft (by decide), s.shaft_setShaft_same hi]
    exact s.turnBack_unmarked hx

end

/-! ### Standstill -/

section
variable {p : Nat → Prop} (s : State)

theorem State.enterStill_turns {i : Nat} (hi : p i) : Turns p s (s.enterStill i) :=
  ((Turns.setShaft s _ hi).trans (State.raiseShaft_steady _ _ _ _).turns).trans (State.restWork_steady _ _).turns

theorem State.enterStill_own {i : Nat} (hi : i < 4) : (s.enterStill i).shaft i = (s.shaft i).rest := by
  have h : Steady movePieces lowKey (s.modShaft i Shaft.rest) (s.enterStill i) :=
    (State.raiseShaft_steady _ _ _ _).trans (State.restWork_steady _ _)
  rw [h.shaft (by decide), s.shaft_modShaft_same hi]

end

/-! ### Derived shafts (R67) -/

theorem within_self (l : List Piece) : within l l = true := by simp [within]

/-- A derived shaft as shaft 0 moves it, but for its overspeed and its marks. -/
def State.carried (s : State) (d : Nat) : Shaft :=
  let a := s.shaft 0
  let num : Int := s.cfg d 6
  let num := if s.flag (0x2200 + d) 8 then -num else num
  let den := max 1 (s.cfg d 7)
  { s.shaft d with
    angle := s.derived d a.angle, speed := a.speed * num, speedDen := a.speedDen * den, accel := a.accel * num,
    accelDen := a.accelDen * den, standstill := a.standstill, uncertain := a.uncertain, inputLoss := a.inputLoss,
    beyond := a.beyond, referenced := a.referenced, armed := a.armed }

/-- What is done for a derived shaft once it has been moved. -/
def State.afterCarry (s : State) (restart band frames : Bool) (d : Nat) (a x : Shaft) (begins : Bool) : State :=
  let s := if begins then s.raiseShaft d 0x2201 0 else s
  let s := if a.standstill && !x.standstill then s.restWork d
    else if x.standstill && !a.standstill then s.substEnd d else s
  let s := if (a.inputLoss && !x.inputLoss) then s.failFrames d 0 else s
  if restart || (a.armed && !x.armed) then (s.substArm d).missIf d begins
  else
    let (s, turned) := if band then s.testBand d else (s, false)
    (s.crossAll d frames).missIf d (begins || turned)

/-- The marks of a derived shaft restart where shaft 0 takes its first reference. -/
def Shaft.restarted (x : Shaft) (fresh : Bool) : Shaft :=
  if fresh then { x with reverse := false, hwm := x.angle, lwm := x.angle } else x

theorem State.followOne_eq (s : State) (restart band frames : Bool) (d : Nat) : s.followOne restart band frames d =
    let x := (s.carried d).restarted (restart || ((s.shaft 0).armed && !(s.shaft d).armed))
    let o := s.overspeedBit d x
    (s.setShaft d { x with overspeed := o.1 }).afterCarry restart band frames d (s.shaft 0) (s.shaft d) o.2 := rfl

section
variable {p : Nat → Prop} (s : State)

theorem State.afterCarry_turns (restart band frames : Bool) {d : Nat} (hd : p d) (a x : Shaft) (begins : Bool) :
    Turns p s (s.afterCarry restart band frames d a x begins) := by
  unfold State.afterCarry
  extract_lets s1 s2 s3
  have h1 : Steady movePieces lowKey s s1 := Steady.ite (s.raiseShaft_steady _ _ _) (Steady.refl _ _ _)
  have h2 : Steady movePieces lowKey s1 s2 :=
    Steady.ite (s1.restWork_steady d) (Steady.ite (s1.substEnd_steady d) (Steady.refl _ _ _))
  have h3 : Steady movePieces lowKey s2 s3 := Steady.ite (s2.failFrames_steady d 0).moved (Steady.refl _ _ _)
  refine ((h1.trans h2).trans h3).turns.trans (Turns.ite ((s3.substArm_steady d).trans (State.missIf_steady _ _ _)).turns ?_)
  cases band with
  | false => exact (s3.crossAll_turns hd frames).trans (State.missIf_steady _ _ _).turns
  | true => exact ((s3.testBand_turns hd).trans (State.crossAll_turns _ hd frames)).trans (State.missIf_steady _ _ _).turns

theorem State.afterCarry_own (restart band frames : Bool) {d : Nat} (hd : d < 4) (a x : Shaft) (begins : Bool) :
    ((s.afterCarry restart band frames d a x begins).shaft d).unmarked = (s.shaft d).unmarked := by
  unfold State.afterCarry
  extract_lets s1 s2 s3
  have h1 : Steady movePieces lowKey s s1 := Steady.ite (s.raiseShaft_steady _ _ _) (Steady.refl _ _ _)
  have h2 : Steady movePieces lowKey s1 s2 :=
    Steady.ite (s1.restWork_steady d) (Steady.ite (s1.substEnd_steady d) (Steady.refl _ _ _))
  have h3 : Steady movePieces lowKey s2 s3 := Steady.ite (s2.failFrames_steady d 0).moved (Steady.refl _ _ _)
  have h : s3.shaft d = s.shaft d := ((h1.trans h2).trans h3).shaft (by decide) d
  split
  · rw [((s3.substArm_steady d).trans (State.missIf_steady _ _ _)).shaft (by decide), h]
  · cases band with
    | false =>
      show ((State.missIf (s3.crossAll d frames) d (begins || false)).shaft d).unmarked = _
      rw [(State.missIf_steady _ _ _).shaft (by decide), s3.crossAll_own hd, h]
    | true =>
      show ((State.missIf ((s3.testBand d).1.crossAll d frames) d (begins || (s3.testBand d).2)).shaft d).unmarked = _
      rw [(State.missIf_steady _ _ _).shaft (by decide), State.crossAll_own _ hd, s3.testBand_own hd, h]

theorem State.followOne_turns (restart band frames : Bool) {d : Nat} (hd : p d) : Turns p s (s.followOne restart band frames d) := by
  rw [State.followOne_eq]
  exact (Turns.setShaft s _ hd).trans (State.afterCarry_turns _ _ _ _ hd _ _ _)

/-- A derived shaft stands where shaft 0 carries it. -/
theorem State.followOne_own (restart band frames : Bool) {d : Nat} (hd : d < 4) :
    ∃ hot, ((s.followOne restart band frames d).shaft d).unmarked = { s.carried d with overspeed := hot }.unmarked := by
  rw [State.followOne_eq]
  extract_lets x o
  refine ⟨o.1, ?_⟩
  rw [State.afterCarry_own _ _ _ _ hd, State.shaft_setShaft_same _ hd]
  unfold x Shaft.restarted
  split <;> rfl

theorem State.follow_turns {i : Nat} (h : ∀ d ∈ s.followers i, p d) (restart : Bool) : Turns p s (s.follow i restart) :=
  Turns.foldl (fun s d hd => s.followOne_turns restart true true (h d hd)) s

theorem State.resettle_turns (before : List Nat) : Turns p s (s.resettle before) :=
  ((Turns.of_steady (Steady.of_keeps (s.publishStatus_keeps before) (within_self _) (by decide)) (by decide) (by decide)).trans
    (Turns.of_steady (State.staleSets_steady _) (by decide) (by decide))).trans
      (Turns.of_steady (Steady.of_keeps (State.retier_keeps _) (within_self _) (by decide)) (by decide) (by decide))

/-- The shafts derived from a shaft follow it, and what stands on the angles is taken anew. -/
theorem State.followed_turns (i : Nat) (restart : Bool) (before : List Nat) :
    Turns (· ∈ s.followers i) s ((s.follow i restart).resettle before) :=
  (s.follow_turns (fun _ h => h) restart).trans (State.resettle_turns _ _)

end

/-- An encoder shaft advanced to the present time. -/
theorem State.advance_turns {p : Nat → Prop} (s : State) {i : Nat} (hi : p i) (h : ∀ d ∈ s.followers i, p d) :
    Turns p s (s.advance i) := by
  unfold State.advance
  extract_lets x a s1
  have h1 : Turns p s s1 := (Turns.setShaft s _ hi).trans (State.crossAll_turns _ hi _)
  refine Turns.ite (Turns.refl p s) (h1.trans (Turns.foldl (fun s d hd => s.followOne_turns _ _ _ (h d ?_)) s1))
  rwa [← h1.followers i]

end Sys2Proof.Machine
end
section
/-! PROOFS. Angles (chapter 2): direction of edges, periodic series, derived shafts, the messages to the mirrors, and the update of
the interpolation. -/

namespace Sys2Proof.Machine

/-! ### Direction of an edge (R56, Table 2.1) -/

theorem State.edgeSense_a {s : State} {i : Nat} (x : Shaft) {a : Bool} (h : s.kind i = 1) (ha : a ≠ x.a) :
    s.edgeSense i x a x.b = some ((a != x.b) != s.flag (0x2200 + i) 8) := by
  simp [State.edgeSense, h, ha]

theorem State.edgeSense_b {s : State} {i : Nat} (x : Shaft) {b : Bool} (h : s.kind i = 1) (hb : b ≠ x.b) :
    s.edgeSense i x x.a b = some ((x.a == b) != s.flag (0x2200 + i) 8) := by
  simp [State.edgeSense, h, hb]

/-- Settles O26: the direction of an edge of A and of one of B, at each level that the edge can meet. -/
theorem quadratureDirection : Obligations.QuadratureDirection := by
  unfold Obligations.QuadratureDirection
  intro s i x hk
  refine ⟨fun b ha hb => ?_, fun b ha hb => ?_, fun a hb ha => ?_, fun a hb ha => ?_⟩
  · rw [← hb, State.edgeSense_a x hk (by simp [ha])]
    cases x.b <;> simp
  · rw [← hb, State.edgeSense_a x hk (by simp [ha])]
    cases x.b <;> simp
  · rw [← ha, State.edgeSense_b x hk (by simp [hb])]
    cases x.a <;> simp
  · rw [← ha, State.edgeSense_b x hk (by simp [hb])]
    cases x.a <;> simp

/-! ### Periodic series (R84) -/

section
variable {q : Series} (hn : 1 ≤ q.pn) (hd : 1 ≤ q.pd)
include hn

theorem Series.at_periodic (k : Int) : q.at_ k = q.phase + floorDiv (k * turn * q.pn) q.pd := if_neg (by omega)

include hd

/-- `upTo` is the greatest k of the series up to an angle. -/
theorem Series.at_le_iff (k x : Int) : q.at_ k ≤ x ↔ k ≤ q.upTo x := by
  have hd' : (0 : Int) < q.pd := by omega
  have hm : (0 : Int) < 2 ^ 24 * q.pn := by omega
  rw [Series.at_periodic hn, Series.upTo, if_neg (by omega), floorDiv, floorDiv, Int.fdiv_eq_ediv_of_nonneg _ hd'.le,
    Int.fdiv_eq_ediv_of_nonneg _ (by exact_mod_cast hm.le)]
  calc q.phase + k * turn * q.pn / q.pd ≤ x ↔ k * turn * q.pn / q.pd < x - q.phase + 1 := by omega
    _ ↔ k * turn * q.pn < (x - q.phase + 1) * q.pd := Int.ediv_lt_iff_lt_mul hd'
    _ ↔ k * (2 ^ 24 * q.pn) ≤ (x - q.phase + 1) * q.pd - 1 := by rw [turn, mul_assoc]; omega
    _ ↔ k ≤ _ := by rw [Int.le_ediv_iff_mul_le (by exact_mod_cast hm)]; push_cast; rfl

theorem Series.lt_at_iff (k x : Int) : x < q.at_ k ↔ q.upTo x < k := by
  rw [← not_le, Series.at_le_iff hn hd, not_le]

end

/-- Settles O28: a forward movement crosses the k above those up to the mark, as far as those up to the angle. -/
theorem seriesCrossings : Obligations.SeriesCrossings := by
  unfold Obligations.SeriesCrossings
  intro q mark angle hn hd
  have crossed : q.crossed false mark angle = if 0 < q.upTo angle - q.upTo mark then
      some (q.upTo angle, q.at_ (q.upTo angle), (q.upTo angle - q.upTo mark).toNat) else none := rfl
  simp only [crossed, Series.lt_at_iff hn hd, Series.at_le_iff hn hd]
  refine ⟨Series.at_periodic hn, ⟨fun h k hk => ?_, fun h => ?_⟩, fun k a n h => ?_⟩
  · split at h
    · cases h
    · omega
  · have := h (q.upTo angle) le_rfl
    exact if_neg (by omega)
  · split at h
    · next hpos =>
      simp only [Option.some.injEq, Prod.mk.injEq] at h
      obtain ⟨rfl, rfl, rfl⟩ := h
      refine ⟨rfl, ?_, ?_, ?_, ?_, ?_, ?_⟩
      · rw [Series.lt_at_iff hn hd]; omega
      · rw [Series.at_le_iff hn hd]
      all_goals omega
    · cases h

/-! ### Derived shafts (R67) -/

/-- floor(n / d), as the one integer in its place. -/
theorem floorDiv_bounds (n : Int) {d : Nat} (h : 1 ≤ d) : floorDiv n d * d ≤ n ∧ n < (floorDiv n d + 1) * d := by
  have hd : (0 : Int) < d := by omega
  rw [floorDiv, Int.fdiv_eq_ediv_of_nonneg _ hd.le]
  exact ⟨Int.ediv_mul_le _ hd.ne', Int.lt_ediv_add_one_mul_self _ hd⟩

/-- Settles O29: the floor's place for the angle of R67, and the place to which a derived shaft is carried. -/
theorem derivedShaftAngle : Obligations.DerivedShaftAngle := by
  unfold Obligations.DerivedShaftAngle
  intro s i a0 hden
  refine ⟨?_, fun restart band frames _ hi => ?_⟩
  · have e : s.derived i a0 - s.cfg i 5 =
        floorDiv (if s.flag (0x2200 + i) 8 then -(a0 * s.cfg i 6) else a0 * s.cfg i 6) (s.cfg i 7) := Int.add_sub_cancel _ _
    rw [e]
    exact floorDiv_bounds _ hden
  · obtain ⟨hot, h⟩ := s.followOne_own restart band frames hi
    exact Shaft.of_unmarked (f := Shaft.angle) (fun _ => rfl) h

/-! ### Messages to the mirrors (R94, R95) -/

/-- The mirror of a chip changed. -/
def State.modMirror (s : State) (c : Nat) (f : Mirror → Mirror) : State := s.modChip c fun x => { x with mirror := f x.mirror }

section
variable (s : State) (c : Nat) (f : Mirror → Mirror)

theorem State.modMirror_same {c : Nat} (h : c < 16) : ((s.modMirror c f).chip c).mirror = f (s.chip c).mirror := by
  rw [State.modMirror, s.chip_modChip_same h]

theorem State.modMirror_others : sameChips c s (s.modMirror c f) := s.modChip_others c _

theorem State.modMirror_keeps : Keeps [.chips] s (s.modMirror c f) := keeps_chips s _

end

/-- What a mirror that takes a message shows of it. -/
def Mirror.taken (m : Mirror) (b : List Byte) (now : Nat) : Mirror :=
  { m with shafts := vset m.shafts (byteAt b 26 % 4) (mirrorOf b), lastValid := now, stale := false, staleRaised := false }

/-- What a mirror keeps of a message that leaves a gap in the sequence. -/
def Mirror.skipped (m : Mirror) (b : List Byte) : Mirror :=
  { m with shafts := vset m.shafts (byteAt b 26 % 4) { vget m.shafts (byteAt b 26 % 4) with seq := (mirrorOf b).seq } }

theorem State.angleReceive_bad {s : State} {c : Nat} {b : List Byte} (h : b.length ≠ 32 ∨ crc16 (b.take 30) ≠ leAt b 30 2) :
    s.angleReceive c b = s := if_pos h

theorem State.angleReceive_gap {s : State} {c : Nat} {b : List Byte} (hl : b.length = 32) (hc : crc16 (b.take 30) = leAt b 30 2)
    (hv : (vget (s.chip c).mirror.shafts (byteAt b 26 % 4)).valid = true)
    (hs : (mirrorOf b).seq ≠ ((vget (s.chip c).mirror.shafts (byteAt b 26 % 4)).seq + 1) % 256) :
    s.angleReceive c b = s.modMirror c (fun m => m.skipped b) :=
  (if_neg (by simp [hl, hc])).trans (if_pos ⟨hv, hs⟩)

theorem State.angleReceive_good {s : State} {c : Nat} {b : List Byte} (hl : b.length = 32) (hc : crc16 (b.take 30) = leAt b 30 2)
    (h : (vget (s.chip c).mirror.shafts (byteAt b 26 % 4)).valid = false
      ∨ (mirrorOf b).seq = ((vget (s.chip c).mirror.shafts (byteAt b 26 % 4)).seq + 1) % 256) :
    ∃ gaps, s.angleReceive c b = (s.modMirror c (fun m => m.taken b s.timebase)).modMirror c (fun m => { m with gaps := gaps }) :=
  ⟨_, (if_neg (by simp [hl, hc])).trans (if_neg (by rcases h with h | h <;> simp [h]))⟩

/-- A record of something detected becomes the last one written. -/
theorem State.wrote_post (s : State) (r : Record) : s.wrote (s.post r) r :=
  ⟨fun h => by rw [s.post_placed r h], fun h hl => by rw [(s.post_unplaced r h hl).1]⟩

/-- Settles O31: what the master sends, and what a mirror makes of a message and of its absence. -/
theorem angleMessages : Obligations.AngleMessages := by
  unfold Obligations.AngleMessages
  intro s c i hc hi
  refine ⟨fun ha hk => ?_, fun ha hk h0 => ?_, fun b hl hcrc h => ?_, fun b hl hcrc hv hs => ?_, fun b h => ?_, fun h => ?_,
    fun h => ?_, fun h hr => ?_, fun h => ?_⟩
  · have e : s.sendAngle c i = s.modMirror c fun m => { m with
        seqOut := vset m.seqOut i ((vget m.seqOut i + 1) % 256),
        lastSent := vset m.lastSent i (s.angleBody c i ++ leBytes 2 (crc16 (s.angleBody c i))) } := if_pos (by simp [ha, hk])
    refine ⟨_, congrArg Host.Outcome.next e, ?_, ?_, s.modMirror_others c _, s.modMirror_keeps c _⟩
    · rw [s.modMirror_same _ hc, vget_vset_same _ _ hi]
    · rw [s.modMirror_same _ hc, vget_vset_same _ _ hi]
  · exact congrArg Host.Outcome.next (if_neg (by simp [hk, h0]))
  · obtain ⟨gaps, e⟩ := State.angleReceive_good hl hcrc h
    have hm : (((s.modMirror c (fun m => m.taken b s.timebase)).modMirror c (fun m => { m with gaps := gaps })).chip c).mirror
        = { (s.chip c).mirror.taken b s.timebase with gaps := gaps } := by
      rw [State.modMirror_same _ _ hc, State.modMirror_same _ _ hc]
    refine ⟨_, congrArg Host.Outcome.next e, ?_, ?_, ?_, ?_, fun j hj => ?_,
      (s.modMirror_others c _).trans (State.modMirror_others _ c _),
      (s.modMirror_keeps c _).trans (State.modMirror_keeps _ c _)⟩
    · rw [hm]
      exact vget_vset_same _ _ (Nat.mod_lt _ (by decide))
    · rw [hm]; rfl
    · rw [hm]; rfl
    · rw [hm]; rfl
    · rw [hm]
      exact vget_vset_ne _ _ hj.symm
  · exact congrArg Host.Outcome.next (State.angleReceive_gap hl hcrc hv hs)
  · exact congrArg Host.Outcome.next (State.angleReceive_bad h)
  · exact congrArg Host.Outcome.next (if_pos h)
  · exact congrArg Host.Outcome.next (if_neg (by simp [h]))
  · have e : s.mirrorFault c = (s.modMirror c fun m => { m with stale := true, staleRaised := true }).post
        ⟨s.stamp, 0x2401, chipUnit c, noTenant, 0, 0⟩ := if_pos (by simp [h, hr])
    have hp := State.post_keeps (s.modMirror c fun m => { m with stale := true, staleRaised := true })
      ⟨s.stamp, 0x2401, chipUnit c, noTenant, 0, 0⟩
    have hm : ((s.mirrorFault c).chip c).mirror = { (s.chip c).mirror with stale := true, staleRaised := true } := by
      rw [e, State.chip, State.post_chips]
      exact s.modMirror_same _ hc
    refine ⟨_, rfl, ?_, by rw [hm], by rw [hm], ?_, ?_⟩
    · rw [e]
      exact State.wrote_post (s.modMirror c _) _
    · rw [e]
      intro d hd
      rw [State.chip, State.post_chips]
      exact s.modMirror_others c _ d hd
    · rw [e]
      exact ((s.modMirror_keeps c _).mono (by decide)).trans (hp.mono (by decide))
  · exact congrArg Host.Outcome.next (if_neg (by rcases h with h | h <;> simp [h]))

/-! ### Time (R64, R98) -/

theorem keeps_timebase (s : State) (n : Nat) : Keeps [.timebase] s { s with timebase := n } := fun p hp => by
  cases p <;> simp at hp <;> rfl

/-- What an update of the interpolation may change: beside a movement of the shafts, the timebase and the window of loads. -/
def tickPieces : List Piece := .timebase :: .loadFrom :: turnPieces

/-- One update advances the timebase by one tick. -/
theorem State.tick_advances (s : State) : s.tick.timebase = s.timebase + 1 ∧ Keeps tickPieces s s.tick := by
  unfold State.tick
  extract_lets before s1
  have h2 : Turns (fun _ => True) s1 ((List.range 4).foldl State.advance s1) :=
    Turns.foldl (fun s i _ => s.advance_turns trivial fun _ _ => trivial) s1
  generalize (List.range 4).foldl State.advance s1 = s2 at h2
  have h3 : Turns (fun _ => True) s2 s2.staleSets.writeOwed :=
    (Turns.of_steady s2.staleSets_steady (by decide) (by decide)).trans (State.writeOwed_steady _).turns
  have hk := (h2.trans h3).keeps
  have hp := s2.staleSets.writeOwed.publishStatus_keeps before
  have hw := (s2.staleSets.writeOwed.publishStatus before).loadWindow_steady.keeps
  refine ⟨?_, ?_⟩
  · exact (hw .timebase (by decide)).trans ((hp .timebase (by decide)).trans (hk .timebase (by decide)))
  · exact ((((keeps_timebase s _).mono (by decide)).trans (hk.mono (by decide))).trans (hp.mono (by decide))).trans
      (hw.mono (by decide))

/-- One update, then the others. The update is made a variable first, so that the recursion alone is unfolded and not the update. -/
theorem State.ticks_succ (s : State) (n : Nat) : s.ticks (n + 1) = s.tick.ticks n := by
  delta State.ticks State.ticks._f
  generalize State.tick = f
  rfl

theorem State.ticks_advance (s : State) (n : Nat) : (s.ticks n).timebase = s.timebase + n ∧ Keeps tickPieces s (s.ticks n) := by
  induction n generalizing s with
  | zero => exact ⟨rfl, Keeps.refl _ s⟩
  | succ n ih =>
    obtain ⟨ht, hk⟩ := s.tick_advances
    obtain ⟨hts, hks⟩ := ih s.tick
    rw [State.ticks_succ]
    exact ⟨hts.trans (by omega), hk.trans hks⟩

/-- Settles O33, by induction on the number of updates. -/
theorem timePasses : Obligations.TimePasses := by
  unfold Obligations.TimePasses
  intro s n
  refine ⟨fun ht hs => ?_, fun h => ?_⟩
  · obtain ⟨hn, hk⟩ := s.ticks_advance n
    have e : exec (.interpolationUpdate n) s = .next (s.ticks n) := congrArg Host.Outcome.next (if_neg (by simp [ht]; omega))
    exact ⟨_, e, hn, hk.mono (by decide)⟩
  · exact congrArg Host.Outcome.next (if_pos (by simpa using h))

end Sys2Proof.Machine
end
section
/-! PROOFS. Timers, signal loss and configuration of a shaft (R58, R60, R72, R75, R76, R93). -/

namespace Sys2Proof.Machine

/-! ### Signal loss (R93) -/

/-- A shaft whose input is lost at a time. -/
def Shaft.lostInput (x : Shaft) (now : Nat) : Shaft :=
  { x with
    inputLoss := true, referenced := false, uncertain := true, refFault := false, lossFrom := x.angle, lossAt := now,
    freeSpeed := x.speed, freeSpeedDen := x.speedDen, hist := [], timed := false, prevInterval := 0, speedTime := none, passage := none,
    zTaken := none }

/-- Input loss of a shaft, before the shafts derived from it follow. -/
def State.lostInput (s : State) (i : Nat) : State :=
  let s := (s.modShaft i fun x => x.lostInput s.timebase).failFrames i 0
  let x := s.shaft i
  (if !x.standstill && x.speed = 0 then s.enterStill i else s).miss i

theorem State.enterLoss_eq (s : State) (i : Nat) : s.enterLoss i = (s.lostInput i).follow i false := rfl

section
variable {p : Nat → Prop} (s : State)

theorem State.lostInput_turns {i : Nat} (hi : p i) : Turns p s (s.lostInput i) := by
  unfold State.lostInput
  extract_lets s1 x
  have h1 : Turns p s s1 := (Turns.setShaft s _ hi).trans (State.failFrames_steady _ i 0).moved.turns
  exact (h1.trans (Turns.ite (s1.enterStill_turns hi) (Turns.refl p s1))).trans (State.miss_steady _ i).turns

/-- A shaft whose input is lost has lost it, and stands still where it has no speed. -/
theorem State.lostInput_own {i : Nat} (hi : i < 4) : (s.lostInput i).shaft i = (s.shaft i).lostInput s.timebase
    ∨ (s.lostInput i).shaft i = ((s.shaft i).lostInput s.timebase).rest := by
  unfold State.lostInput
  extract_lets s1 x
  have h1 : s1.shaft i = (s.shaft i).lostInput s.timebase := by
    rw [(State.failFrames_steady _ i 0).shaft (by decide), s.shaft_modShaft_same hi]
  rw [(State.miss_steady _ i).shaft (by decide)]
  split
  · exact Or.inr (by rw [s1.enterStill_own hi, h1])
  · exact Or.inl h1

theorem State.enterLoss_turns {i : Nat} (hi : p i) (h : ∀ d ∈ s.followers i, p d) : Turns p s (s.enterLoss i) := by
  rw [State.enterLoss_eq]
  have h1 : Turns p s (s.lostInput i) := s.lostInput_turns hi
  exact h1.trans (State.follow_turns _ (fun d hd => h d (by rwa [← h1.followers i])) false)

theorem State.enterLoss_own (i : Nat) : (s.enterLoss i).shaft i = (s.lostInput i).shaft i := by
  rw [State.enterLoss_eq]
  exact (State.follow_turns _ (p := (· ∈ (s.lostInput i).followers i)) (fun _ h => h) false).others i (State.not_mem_followers _ i)

end

/-- A shaft whose input has returned counts on from its extrapolated angle. -/
def Shaft.returned (x : Shaft) (now : Nat) : Shaft :=
  { x with
    inputLoss := false, counted := false, timed := false, armed := false, trackingBack := false, edge := 0, edgeAngle := x.angle,
    edgeTime := now, goodRef := x.angle, noRefRaised := false }

/-! ### Timers -/

section
variable (s : State) {i : Nat} (hi : i < 4)
include hi

/-- An encoder shaft put into standstill with a miss, the derived shafts after it. -/
theorem State.stilled (before : List Nat) {s : State} {t : State} (h : Turns (s.along i) s t) :
    (((((t.enterStill i).miss i).follow i false).resettle before).shaft i) = (t.shaft i).rest
      ∧ (∀ j < 4, j ≠ i → s.kind j ≠ 4 → ((((t.enterStill i).miss i).follow i false).resettle before).shaft j = s.shaft j)
      ∧ Keeps turnPieces s ((((t.enterStill i).miss i).follow i false).resettle before) := by
  have h1 : Turns (s.along i) s ((t.enterStill i).miss i) :=
    (h.trans (t.enterStill_turns (Or.inl rfl))).trans (State.miss_steady _ i).turns
  obtain ⟨hown, ho, hk⟩ := h1.closed (State.followed_turns _ i false before)
  refine ⟨?_, ho, hk⟩
  rw [hown, (State.miss_steady _ i).shaft (by decide), t.enterStill_own hi]

/-- An encoder shaft advanced stands at its interpolated angle. -/
theorem State.advance_own (hk : 1 ≤ s.kind i ∧ s.kind i ≤ 3) :
    ((s.advance i).shaft i).unmarked = { s.shaft i with angle := s.interpolated i }.unmarked := by
  unfold State.advance
  extract_lets x a s1
  split
  · next h =>
    have h : s.interpolated i = (s.shaft i).angle := (h.resolve_left (by omega)).resolve_left (by omega)
    rw [h]
  · have hf : Turns (· ∈ s1.followers i) s1 ((s1.followers i).foldl (fun s d => s.followOne false false true d) s1) :=
      Turns.foldl (fun s d hd => s.followOne_turns _ _ _ hd) s1
    rw [hf.others i (s1.not_mem_followers i), State.crossAll_own _ hi, s.shaft_setShaft_same hi]

end

/-! ### What each timer and each fault does -/

section
variable {s : State} {i : Nat}

theorem State.stillTimeout_due (ha : s.alive = true) (h1 : 1 ≤ s.kind i) (h3 : s.kind i ≤ 3) (hs : (s.shaft i).standstill = false)
    (hl : (s.shaft i).inputLoss = false)
    (h : 120000000 * s.pitchesAhead i ≤ (s.micros - (s.shaft i).edgeTime / 100) * s.edgesPer i) :
    s.stillTimeout i = (((s.enterStill i).miss i).follow i false).resettle s.statuses :=
  if_pos (by simp only [ha, h1, h3, hs, hl, decide_eq_true h]; decide)

/-- A shaft that has gone without a good reference (R75), with its record. -/
def State.unreferenced (s : State) (i : Nat) : State :=
  (s.setShaft i { s.shaft i with noRefRaised := true, uncertain := true }).raiseShaft i 0x2104 0

/-- A shaft set, with a record. -/
theorem State.raised_own (s : State) {i : Nat} (hi : i < 4) (x : Shaft) (code low : Nat) :
    ((s.setShaft i x).raiseShaft i code low).shaft i = x := by
  rw [(State.raiseShaft_steady _ _ _ _).shaft (by decide), s.shaft_setShaft_same hi]

theorem State.noReference_due (h1 : 1 ≤ s.kind i) (h3 : s.kind i ≤ 3) (hsrc : s.cfg i 4 ≠ 0)
    (hz : s.cfg i 4 = 1 → (s.shaft i).faultZ = false) (hl : (s.shaft i).inputLoss = false) (hr : (s.shaft i).noRefRaised = false)
    (h : 8 * turn.natAbs ≤ ((s.shaft i).angle - (s.shaft i).goodRef).natAbs) :
    s.noReference i = ((s.unreferenced i).follow i false).resettle s.statuses := by
  have hz' : (decide (s.cfg i 4 = 1) && (s.shaft i).faultZ) = false := by
    by_cases h : s.cfg i 4 = 1
    · simp [hz h]
    · simp [h]
  exact if_pos (by simp [h1, h3, hsrc, hz', hl, hr, h])

/-- A fault noted on a pair, with its record (R58). -/
def State.faultNoted (s : State) (i : Nat) (p : Pair) : State := (s.setShaft i ((s.shaft i).setFault p true)).raiseShaft i 0x2001 0

theorem State.pairFault_a (ha : s.alive = true) (hw : s.watches i .a = true) (hf : (s.shaft i).faultA = false)
    (hl : (s.shaft i).inputLoss = false) : s.pairFault i .a = ((s.faultNoted i .a).enterLoss i).resettle s.statuses :=
  (if_neg (by simp [Shaft.faulted, hf, ha, hw])).trans ((if_neg (by decide)).trans (if_neg (by simp [hl])))

theorem State.pairReturn_a (hi : i < 4) (hl : (s.shaft i).inputLoss = true) (hf : (s.shaft i).faultB = false) :
    s.pairReturn i .a = ((s.setShaft i (((s.shaft i).setFault .a false).returned s.timebase)).follow i false).resettle
      (s.setShaft i ((s.shaft i).setFault .a false)).statuses := by
  have hs : (s.modShaft i fun x => x.setFault .a false).shaft i = (s.shaft i).setFault .a false := s.shaft_modShaft_same hi _
  unfold State.pairReturn
  extract_lets s1 x lost before s2
  have hx : x = (s.shaft i).setFault .a false := hs
  have e : s2 = s.setShaft i (((s.shaft i).setFault .a false).returned s.timebase) :=
    (s.setShaft_setShaft i _ _).trans (by rw [hx]; rfl)
  rw [if_neg (by simp [lost, hx, Shaft.setFault, hl, hf]), e]
  rfl

theorem State.lossEnd_due (h1 : 1 ≤ s.kind i) (h3 : s.kind i ≤ 3) (hl : (s.shaft i).inputLoss = true)
    (hs : (s.shaft i).standstill = false) (h : turn.natAbs ≤ ((s.shaft i).covered (s.timebase - (s.shaft i).lossAt)).natAbs) :
    s.lossEnd i = ((((s.advance i).enterStill i).miss i).follow i false).resettle s.statuses :=
  if_pos (by simp [h1, h3, hl, hs, h])

theorem State.interpolated_lost (hl : (s.shaft i).inputLoss = true) (hs : (s.shaft i).standstill = false) :
    s.interpolated i = (s.shaft i).lossFrom + clampInt (-turn) turn ((s.shaft i).covered (s.timebase - (s.shaft i).lossAt)) :=
  (if_neg (by simp [hs])).trans (if_pos hl)

end

/-- Settles O27: in each case the shaft itself, then the shafts derived from it. -/
theorem shaftTimers : Obligations.ShaftTimers := by
  unfold Obligations.ShaftTimers
  intro s i hi
  have own (x : Shaft) : Turns (s.along i) s (s.setShaft i x) := Turns.setShaft s x (Or.inl rfl)
  refine ⟨fun ha h1 h3 hs hl hlate => ?_, fun h1 h3 hsrc hz hl hr hrev => ?_, fun ha hw hf hl => ?_, fun p hp => ?_,
    fun h1 h3 hl hf => ?_, fun hl hs h1 h3 hrev => ?_⟩
  · obtain ⟨hx, ho, hk⟩ := State.stilled hi s.statuses (Turns.refl (s.along i) s)
    exact ⟨_, congrArg Host.Outcome.next (State.stillTimeout_due ha h1 h3 hs hl hlate), by rw [hx]; rfl, by rw [hx]; rfl,
      by rw [hx]; rfl, by rw [hx]; rfl, ho, hk.mono (by decide)⟩
  · obtain ⟨hx, ho, hk⟩ := ((own _).trans (State.raiseShaft_steady _ _ _ _).turns).closed
      (State.followed_turns (s.unreferenced i) i false s.statuses)
    replace hx := hx.trans (s.raised_own hi _ _ _)
    exact ⟨_, congrArg Host.Outcome.next (State.noReference_due h1 h3 hsrc hz hl hr hrev), by rw [hx], by rw [hx], by rw [hx], ho,
      hk.mono (by decide)⟩
  · have h1 : Turns (s.along i) s (s.faultNoted i .a) := (own _).trans (State.raiseShaft_steady _ _ _ _).turns
    have hs : (s.faultNoted i .a).shaft i = (s.shaft i).setFault .a true := s.raised_own hi _ _ _
    have e := State.pairFault_a ha hw hf hl
    rw [State.enterLoss_eq] at e
    obtain ⟨hx, ho, hk⟩ := (h1.trans (State.lostInput_turns _ (Or.inl rfl))).closed (State.followed_turns _ i false s.statuses)
    have lost {β : Type} (f : Shaft → β) (v : β) (h : ∀ now, f (((s.shaft i).setFault .a true).lostInput now) = v)
        (hr : ∀ x, f (Shaft.rest x) = f x) :
        f (((((s.faultNoted i .a).lostInput i).follow i false).resettle s.statuses).shaft i) = v := by
      rw [hx]
      rcases (s.faultNoted i .a).lostInput_own hi with h' | h' <;> simp only [h', hs, hr, h]
    exact ⟨_, congrArg Host.Outcome.next e, lost Shaft.faultA _ (fun _ => rfl) fun _ => rfl,
      lost Shaft.inputLoss _ (fun _ => rfl) fun _ => rfl, lost Shaft.referenced _ (fun _ => rfl) fun _ => rfl,
      lost Shaft.uncertain _ (fun _ => rfl) fun _ => rfl, lost Shaft.angle _ (fun _ => rfl) fun _ => rfl, ho, hk.mono (by decide)⟩
  · exact congrArg Host.Outcome.next (if_pos (by simp [hp]))
  · obtain ⟨hx, ho, hk⟩ := (own _).closed (State.followed_turns _ i false _)
    rw [s.shaft_setShaft_same hi] at hx
    exact ⟨_, congrArg Host.Outcome.next (State.pairReturn_a hi hl hf), by rw [hx]; rfl, by rw [hx]; rfl, by rw [hx]; rfl,
      by rw [hx]; rfl, by rw [hx]; rfl, ho, hk.mono (by decide)⟩
  · obtain ⟨hx, ho, hk⟩ := State.stilled hi s.statuses (s.advance_turns (p := s.along i) (Or.inl rfl) fun _ => Or.inr)
    have ha := s.advance_own hi ⟨h1, h3⟩
    refine ⟨_, congrArg Host.Outcome.next (State.lossEnd_due h1 h3 hl hs hrev), by rw [hx]; rfl, by rw [hx]; rfl, ?_, ?_, ho,
      hk.mono (by decide)⟩
    · rw [hx]
      exact (Shaft.of_unmarked (f := Shaft.inputLoss) (fun _ => rfl) ha).trans hl
    · rw [hx]
      exact (Shaft.of_unmarked (f := Shaft.angle) (fun _ => rfl) ha).trans (State.interpolated_lost hl hs)

end Sys2Proof.Machine
end
section
/-! PROOFS. Writes of the shaft records (R60, R72). -/

namespace Sys2Proof.Machine

/-! ### A shaft whose configuration has changed -/

/-- A shaft as a change of its configuration leaves it: it counts on from its present angle, without a reference. -/
def Shaft.configured (x : Shaft) (kind now : Nat) : Shaft :=
  let x := { x with
    referenced := false, armed := false, counted := false, timed := false, edge := 0, edgeAngle := x.angle,
    edgeTime := now, hist := [], prevInterval := 0, speed := 0, speedDen := 1, accel := 0, accelDen := 1,
    speedTime := none, refFault := false, overspeed := false, beyond := false, backUnder := 0, trackingBack := false,
    inputLoss := false, reverse := false, passage := none, lastRef := none, zTaken := none, ratioFrom := none,
    noRefRaised := false, goodRef := x.angle, illegal := 0, illegalRaised := false }
  if kind = 0 then { x with standstill := false, uncertain := false } else x

/-- A reconfigured shaft, before it is carried and before the shafts derived from it follow: a shaft newly in use stands still, newly
watched faulted pairs are recorded, and a lost pair that the kind uses is an input loss. -/
def State.reshaft (s : State) (i was : Nat) (watched : Pair → Bool) : State :=
  let x := (s.shaft i).configured (s.kind i) s.timebase
  let kind := s.kind i
  let s := s.setShaft i x
  let s := if was = 0 ∧ 1 ≤ kind ∧ kind ≤ 3 then s.takeIntoUse i else s
  let lost := (s.watches i .a && x.faultA) || (s.watches i .b && x.faultB)
  let fresh (p : Pair) : Bool := s.watches i p && x.faulted p && !watched p
  let s := ([Pair.a, .b, .z].filter fresh).foldl (fun s _ => s.raiseShaft i 0x2001 0) s
  if lost then s.enterLoss i else s

theorem State.reconfigure_eq (s : State) (i was : Nat) (watched : Pair → Bool) : s.reconfigure i was watched =
    ((if s.kind i = 4 then (s.reshaft i was watched).followOne true true true i else s.reshaft i was watched).follow i true).resettle
      s.statuses := rfl

/-- The levels of the inputs of a shaft. -/
def Shaft.levels (x : Shaft) : Bool × Bool × Bool := (x.a, x.b, x.z)

/-- A shaft without a reference, at speed 0, without overspeed and within tracking. -/
def Shaft.idle (x : Shaft) : Prop := x.referenced = false ∧ x.speed = 0 ∧ x.overspeed = false ∧ x.beyond = false

theorem Shaft.configured_levels (x : Shaft) (kind now : Nat) : (x.configured kind now).levels = x.levels := by
  unfold Shaft.configured
  split <;> rfl

theorem Shaft.configured_idle (x : Shaft) (kind now : Nat) : (x.configured kind now).idle := by
  unfold Shaft.configured
  split <;> exact ⟨rfl, rfl, rfl, rfl⟩

theorem Shaft.idle.rest {x : Shaft} (h : x.idle) : x.rest.idle := ⟨h.1, rfl, rfl, h.2.2.2⟩

theorem Shaft.idle.lostInput {x : Shaft} (h : x.idle) (now : Nat) : (x.lostInput now).idle := ⟨rfl, h.2⟩

section
variable (s : State) {i : Nat} (hi : i < 4)
include hi

/-- A shaft taken into use stands still. -/
theorem State.takeIntoUse_own : (s.takeIntoUse i).shaft i = (s.shaft i).rest := by
  rw [State.takeIntoUse, (State.substStart_steady _ i).shaft (by decide), s.shaft_modShaft_same hi]

/-- Input loss leaves the levels, and an idle shaft idle. -/
theorem State.enterLoss_idle (h : (s.shaft i).idle) :
    ((s.enterLoss i).shaft i).levels = (s.shaft i).levels ∧ ((s.enterLoss i).shaft i).idle := by
  rw [s.enterLoss_own]
  rcases s.lostInput_own hi with e | e
  · rw [e]
    exact ⟨rfl, h.lostInput _⟩
  · rw [e]
    exact ⟨rfl, (h.lostInput _).rest⟩

/-- A change of its configuration leaves a shaft idle at its levels. -/
theorem State.reshaft_idle (was : Nat) (watched : Pair → Bool) :
    Turns (s.along i) s (s.reshaft i was watched) ∧ ((s.reshaft i was watched).shaft i).levels = (s.shaft i).levels
      ∧ ((s.reshaft i was watched).shaft i).idle := by
  unfold State.reshaft
  extract_lets x kind s1 s2 lost fresh s3
  have h1 : Turns (s.along i) s s1 := Turns.setShaft s x (Or.inl rfl)
  have e1 : s1.shaft i = x := s.shaft_setShaft_same hi x
  have h2 : Turns (s.along i) s1 s2 := Turns.ite
    ((Turns.setShaft s1 _ (Or.inl rfl)).trans (State.substStart_steady _ i).turns) (Turns.refl _ _)
  have x2 : (s2.shaft i).levels = x.levels ∧ (s2.shaft i).idle := by
    have hx : x.idle := (s.shaft i).configured_idle _ _
    unfold s2
    split
    · rw [s1.takeIntoUse_own hi, e1]
      exact ⟨rfl, hx.rest⟩
    · rw [e1]
      exact ⟨rfl, hx⟩
  have h3 : Steady movePieces lowKey s2 s3 := Steady.foldl (fun s _ => s.raiseShaft_steady i _ _) s2
  rw [(s.shaft i).configured_levels, ← h3.shaft (by decide) i] at x2
  have ht : Turns (s.along i) s s3 := (h1.trans h2).trans h3.turns
  split
  · have hfol : ∀ d ∈ s3.followers i, s.along i d := fun d hd => Or.inr (by rwa [← ht.followers i])
    obtain ⟨hl, hr⟩ := s3.enterLoss_idle hi x2.2
    exact ⟨ht.trans (s3.enterLoss_turns (Or.inl rfl) hfol), hl.trans x2.1, hr⟩
  · exact ⟨ht, x2⟩

/-- A reconfigured shaft keeps its levels, is idle unless it is a derived one, and changes no shaft that is not derived from it. -/
theorem State.reconfigure_spec (was : Nat) (watched : Pair → Bool) :
    Turns (s.along i) s (s.reconfigure i was watched) ∧ ((s.reconfigure i was watched).shaft i).levels = (s.shaft i).levels
      ∧ (s.kind i ≠ 4 → ((s.reconfigure i was watched).shaft i).idle) := by
  rw [State.reconfigure_eq]
  obtain ⟨h1, hl, hr⟩ := s.reshaft_idle hi was watched
  generalize s.reshaft i was watched = s1 at *
  have h2 : Turns (s.along i) s1 (if s.kind i = 4 then s1.followOne true true true i else s1) :=
    Turns.ite (s1.followOne_turns _ _ _ (Or.inl rfl)) (Turns.refl _ _)
  have hl2 : ((if s.kind i = 4 then s1.followOne true true true i else s1).shaft i).levels = (s1.shaft i).levels := by
    split
    · obtain ⟨hot, h⟩ := s1.followOne_own true true true hi
      exact (Shaft.of_unmarked (f := Shaft.levels) (fun _ => rfl) h).trans rfl
    · rfl
  have hr2 : s.kind i ≠ 4 → ((if s.kind i = 4 then s1.followOne true true true i else s1).shaft i).idle := fun hk => by
    rw [if_neg hk]
    exact hr
  generalize (if s.kind i = 4 then s1.followOne true true true i else s1) = s2 at *
  have h12 := h1.trans h2
  have hf := State.followed_turns s2 i true s.statuses
  have e := hf.others i (s2.not_mem_followers i)
  refine ⟨h12.trans (hf.widen fun d hd => Or.inr (by rwa [← h12.followers i])), ?_, ?_⟩
  · rw [e, hl2, hl]
  · rw [e]
    exact hr2

end

/-- A write to the configuration of one shaft is none to that of another. -/
theorem State.kind_setNum_ne (s : State) {i j : Nat} (h : j ≠ i) {sub : Nat} (hs : sub < 256) (v : Int) :
    (s.setNum (0x2200 + i) sub v).kind j = s.kind j :=
  s.nat_setNum_ne v (odKey_ne hs (by decide) (Or.inl (by omega)))

/-- Settles O24: the entry is stored, then the shaft is reconfigured on the state in which the write was judged. -/
theorem shaftConfigured : Obligations.ShaftConfigured := by
  unfold Obligations.ShaftConfigured
  intro s n i sub v hi h1 h14 h
  have hw : exec (.shaftConfigWrite n i sub v) s = .next (((s.asked n).shaftSet i sub v).answer n .ok) :=
    congrArg Host.Outcome.next (State.write_accepted _ h)
  have hsh (j : Nat) : ((s.asked n).setNum (0x2200 + i) sub v).shaft j = s.shaft j := by
    rw [State.shaft, State.setNum_shafts, s.asked_keeps n .shafts (by decide)]
    rfl
  obtain ⟨ht, hl, hr⟩ := State.reconfigure_spec ((s.asked n).setNum (0x2200 + i) sub v) hi
    ((s.asked n).kind i) ((s.asked n).watches i)
  have hs : (s.asked n).shaftSet i sub v =
    ((s.asked n).setNum (0x2200 + i) sub v).reconfigure i ((s.asked n).kind i) ((s.asked n).watches i) := rfl
  rw [← hs] at ht hl hr
  generalize (s.asked n).shaftSet i sub v = t at *
  rw [hsh i] at hl
  simp only [Shaft.levels, Prod.mk.injEq] at hl
  refine ⟨t.answer n .ok, hw, ?_, State.answer_answered t n, fun hk => ?_, hl.1, hl.2.1, hl.2.2, fun j hj hji hkj => ?_, ?_⟩
  · have e : t.get (0x2200 + i) sub = .num v := by
      rw [ht.steady.entries _ _ (by omega) (lowKey_cfg hi (by omega))]
      exact State.get_set_same _ _ _ _
    show (match t.get (0x2200 + i) sub with | .num m => m | .bytes _ => 0) = v
    rw [e]
  · refine hr fun h4 => hk ?_
    exact (ht.kind hi).trans h4
  · refine (ht.others j fun ha => hkj ?_).trans (hsh j)
    have h4 := (State.mem_followers.mp (ha.resolve_left hji)).2.2.2
    rw [State.kind_setNum_ne _ hji (by omega)] at h4
    exact ((s.asked_nat n _ _).symm.trans h4)
  · have hk : Keeps turnPieces (s.asked n) t :=
      ((State.setNum_keeps _ _ _ _).mono (by decide)).trans ht.keeps
    exact hk.taken.mono (by decide)

end Sys2Proof.Machine
end
section
/-! PROOFS. Counted edges (R56, R57, R90, R91). -/

namespace Sys2Proof.Machine

/-! ### The steps of an edge (R90) -/

/-- The missing teeth of a wheel of kind 2 or 3, whatever its reference is. -/
def State.wheelTeeth (s : State) (i : Nat) : Nat := if s.kind i = 2 ∨ s.kind i = 3 then s.cfg i 3 else 0

/-- The interval that a forward edge closes is that of a gap (R71). -/
def State.gapMet (s : State) (i : Nat) (fwd : Bool) : Bool :=
  let x := s.shaft i
  fwd && decide (0 < s.wheelTeeth i ∧ 0 < x.prevInterval
    ∧ (s.wheelTeeth i + 2) * x.prevInterval ≤ 2 * (s.timebase - x.edgeTime))

/-- Step 2: the index of the edge, and the angle that its interval covers. -/
def State.edgeTaken (s : State) (i : Nat) (fwd : Bool) : Nat × Int :=
  let x := s.shaft i
  let known := x.referenced && decide (0 < s.gapTeeth i)
  let p := edgeStep (s.edgesPer i) (if known then s.gapTeeth i else 0) x.edge fwd
  let p := if s.gapMet i fwd && !known then
      ((p.1 + s.wheelTeeth i) % max 1 (s.edgesPer i), edgePos (s.edgesPer i) (s.wheelTeeth i + 1))
    else p
  if x.counted then p else (x.edge, 0)

/-- The net edge count after an edge. -/
def Shaft.edgesAfter (x : Shaft) (fwd : Bool) : Int := x.edges + (if fwd then 1 else -1)

/-- The first forward edge of an active period of Z (R553). -/
def Shaft.zFirst (x : Shaft) (fwd z : Bool) : Bool :=
  fwd && z && !x.faultZ && decide (x.zTaken = none ∨ x.zTaken = some (x.edgesAfter fwd))

/-- A shaft that has counted an edge. -/
def State.edgeShaft (s : State) (i : Nat) (fwd z : Bool) : Shaft :=
  let x := s.shaft i
  { x with
    backward := !fwd, edge := (s.edgeTaken i fwd).1, edges := x.edgesAfter fwd, counted := true, timed := true, edgeTime := s.timebase,
    zTaken := if !z then none else if x.zFirst fwd z then some (x.edgesAfter fwd) else x.zTaken }

/-- The angle from which an edge counts, and the angle that it reaches. -/
def State.edgeFrom (s : State) (i : Nat) : Int := if (s.shaft i).counted then (s.shaft i).edgeAngle else (s.shaft i).angle

def State.edgeAngleAt (s : State) (i : Nat) (fwd : Bool) : Int := s.edgeFrom i + (s.edgeTaken i fwd).2

/-- Step 3: the decision on the reference. -/
def State.edgeJudged (s : State) (i : Nat) (fwd z : Bool) : Judged :=
  let src := s.cfg i 4
  let checks := decide (src = 2) || (decide (src = 1) && !(s.edgeShaft i fwd z).faultZ)
  let ref := fwd && (if src = 1 then (s.shaft i).zFirst fwd z else decide (src = 2) && s.gapMet i fwd)
  s.judgeRef i (s.edgeShaft i fwd z) (s.edgeFrom i) (s.edgeAngleAt i fwd) ref checks

/-- What a decision on the reference shows beside the shaft itself. -/
def State.judged (s : State) (i : Nat) (counted : Int) (j : Judged) : State :=
  let s := if j.taken then s.ratioCheck i counted j.angle else s
  let s := if j.moved then s.bump 0x2400 6 else s
  j.raised.foldl (fun s r => s.raiseShaft i r.1 r.2) s

/-- Step 4: the shaft at the angle decided. -/
def Judged.settled (j : Judged) (ratio : Option (Int × Int)) : Shaft :=
  let x := { j.shaft with ratioFrom := ratio }
  if x.beyond then x else { x with angle := j.angle, edgeAngle := j.angle }

/-- Step 5: speed, standstill, overspeed and tracking, where `r` is the state after step 3. -/
def State.edgePaced (s r : State) (i : Nat) (fwd z : Bool) : Paced :=
  let x := s.shaft i
  let w : Option (Int × Nat) := if x.counted then some ((s.edgeTaken i fwd).2, s.timebase - x.edgeTime) else none
  r.pace i ((s.edgeJudged i fwd z).settled (r.shaft i).ratioFrom) w (if x.timed then w else none)
    (x.counted && decide (x.backward = !fwd))

/-- The frames at a resynchronisation, on the shaft and on those derived from it. -/
def State.resynced (s : State) (i : Nat) (j : Judged) : State :=
  if j.resync then
    (s.followers i).foldl (fun s d => s.framesResync d (s.shaft d).hwm (s.derived d j.angle)) (s.framesResync i j.shaft.hwm j.angle)
  else s

/-- The end of step 5: records, standstill entered or left, and the frames at a resynchronisation. -/
def State.edgeStood (s : State) (i : Nat) (j : Judged) (p : Paced) : State :=
  let s := p.raised.foldl (fun s r => s.raiseShaft i r.1 r.2) (s.setShaft i p.shaft)
  let s := if p.enters then s.enterStill i else s
  (if p.leaves then s.substEnd i else s).resynced i j

/-- Step 6: the direction of running is judged, but for a first reference, and whether it was turned. -/
def State.banded (s : State) (i : Nat) (first : Bool) : State × Bool := if first then (s.substArm i, false) else s.testBand i

/-- Steps 6 to 8: the direction of running, the crossings, the marks, and the prediction. -/
def State.edgeCrossed (s : State) (i now : Nat) (j : Judged) (missed : Bool) : State :=
  let r := s.banded i j.first
  let s := (r.1.crossAll i (!j.resync)).framesEdge i
  (s.missIf i (j.missed || missed || r.2 || s.strays i)).modShaft i (fun y => y.publish now)

/-- The derived shafts after an edge. -/
def State.edgeCarried (s : State) (i now : Nat) (j : Judged) : State :=
  let s := (s.followers i).foldl (fun s d => s.followOne j.first true (!j.resync) d) s
  (s.followers i).foldl (fun s d => (s.framesEdge d).modShaft d (fun y => y.publish now)) s

/-- An edge up to the prediction of its shaft, before the shafts derived from it follow. -/
def State.edgeMade (s : State) (i : Nat) (fwd z : Bool) : State :=
  let j := s.edgeJudged i fwd z
  let r := s.judged i (s.edgeAngleAt i fwd) j
  let p := s.edgePaced r i fwd z
  (r.edgeStood i j p).edgeCrossed i s.timebase j p.missed

/-- An edge is these steps, one after the other. The index and the angle of step 2 come from three pairs in turn; each is made a
variable before the next is met, so that the steps after it are compared as they stand. -/
theorem State.edge_eq (s : State) (i : Nat) (fwd z : Bool) : s.edge i fwd z =
    (((s.edgeMade i fwd z).edgeCarried i s.timebase (s.edgeJudged i fwd z)).resettle s.statuses).loadWindow.orderRecords s := by
  unfold State.edgeMade
  extract_lets judge after paced
  unfold State.edge
  extract_lets s0 before x now e kind teeth dt sameWay gap known from_ edges zFirst src ref
  generalize hp : edgeStep e (if known = true then s.gapTeeth i else 0) x.edge fwd = p1
  obtain ⟨n1, step1⟩ := p1
  dsimp -zeta -zetaDelta only
  generalize hp2 : (if (gap && !known) = true then _ else (n1, step1) : Nat × Int) = p2
  obtain ⟨n2, step2⟩ := p2
  dsimp -zeta -zetaDelta only
  generalize hp3 : (if x.counted = true then (n2, step2) else (x.edge, 0) : Nat × Int) = p3
  obtain ⟨n3, step3⟩ := p3
  dsimp -zeta -zetaDelta only
  have htaken : s.edgeTaken i fwd = (n3, step3) := by
    unfold State.edgeTaken
    extract_lets q1 q2
    have h1 : q1 = (n1, step1) := hp
    have h2 : q2 = (n2, step2) := by
      rw [← hp2, ← h1]
      unfold q2
      rw [h1]
      rfl
    rw [h2, hp3]
  extract_lets w v y checks counted j s1 s2 s3 src1 y1 mark y2 p s4 s5 s6 s7
  have hjudged : s.edgeJudged i fwd z = j := by
    unfold State.edgeJudged State.edgeAngleAt State.edgeShaft
    rw [htaken]
    rfl
  have hafter : after = s3 := by
    unfold after State.edgeAngleAt
    rw [htaken, show judge = j from hjudged]
    rfl
  have hpaced : paced = p := by
    unfold paced State.edgePaced
    rw [htaken, hafter, hjudged]
    rfl
  have hstood : s3.edgeStood i j p = s7 := rfl
  rw [show judge = j from hjudged, hjudged, hafter, hpaced, hstood]
  clear_value s7 p j
  cases hf : j.first with
  | true => rfl
  | false => rfl

/-! ### What an edge leaves of the shaft -/

/-- The angle of a shaft; then its net edge count, direction, levels, time of the last edge and prediction. -/
def Shaft.tally (x : Shaft) : Int × Int × Bool × (Bool × Bool × Bool) × Nat × Trajectory :=
  (x.angle, x.edges, x.backward, (x.a, x.b, x.z), x.edgeTime, x.traj)

theorem Shaft.passages_tally (x : Shaft) (tol p a : Int) : (x.passages tol p a).1.tally = x.tally := by
  unfold Shaft.passages
  extract_lets
  split <;> rfl

theorem Shaft.estimate_tally (x : Shaft) (v : Int × Nat) (now : Nat) : (x.estimate v now).tally = x.tally := by
  unfold Shaft.estimate
  split
  · rfl
  · rfl

theorem Shaft.track_tally (x : Shaft) (v : Int × Nat) : (x.track v).tally = x.tally := by
  unfold Shaft.track
  split_ifs <;> rfl

theorem State.judgeRef_tally (s : State) (i : Nat) (x : Shaft) (p a : Int) (ref checks : Bool) :
    (s.judgeRef i x p a ref checks).shaft.tally = x.tally := by
  unfold State.judgeRef
  extract_lets off tol none_ g y g'
  have hy : y.tally = x.tally := by
    unfold y
    split <;> rfl
  have hp := x.passages_tally tol p a
  split_ifs
  · rfl
  · exact hy
  · rfl
  · rfl
  · rfl
  · rfl
  · refine Eq.trans ?_ hp
    generalize x.passages tol p a = q
    show Shaft.tally (if q.2 = true then _ else q.1) = _
    split <;> rfl
  · refine Eq.trans ?_ hp
    generalize x.passages tol p a = q
    obtain ⟨x', gone⟩ := q
    dsimp -zeta only
    extract_lets x1 log inside again whole good log1
    have h1 : x1.tally = x'.tally := by
      unfold x1
      split <;> rfl
    split <;> exact h1

theorem State.paceLimits_tally (s : State) (i : Nat) (x y : Shaft) (v : Int × Nat) (log : List (Nat × Nat)) (leaves : Bool) :
    (s.paceLimits i x y v log leaves).shaft.tally = y.tally := by
  unfold State.paceLimits
  generalize s.overspeedBit i y = o
  dsimp -zeta only
  extract_lets y1 log1
  split <;> rfl

theorem State.pace_tally (s : State) (i : Nat) (x : Shaft) (w v : Option (Int × Nat)) (sameWay : Bool) :
    (s.pace i x w v sameWay).shaft.tally = x.tally := by
  unfold State.pace
  extract_lets now y
  have hy : y.tally = x.tally := by
    cases w with
    | none => rfl
    | some w => exact x.track_tally w
  cases v with
  | none => exact hy
  | some v =>
    dsimp -zeta only
    extract_lets hist z slow
    have hz : z.tally = x.tally := (Shaft.estimate_tally _ _ _).trans hy
    split_ifs
    · exact (s.paceLimits_tally _ _ _ _ _ _).trans ((Shaft.estimate_tally _ _ _).trans hy)
    · exact hy
    · exact hz
    · exact (s.paceLimits_tally _ _ _ _ _ _).trans hz

/-- The angle decided on is that of the shaft, unless it is beyond tracking. -/
theorem Judged.settled_tally (j : Judged) (ratio : Option (Int × Int)) : (j.settled ratio).tally.2 = j.shaft.tally.2
    ∧ (j.shaft.beyond = false → (j.settled ratio).tally.1 = j.angle) := by
  unfold Judged.settled
  extract_lets x
  refine ⟨?_, fun h => ?_⟩
  · split <;> rfl
  · rw [if_neg (show ¬ x.beyond = true by rw [show x.beyond = false from h]; decide)]
    rfl

end Sys2Proof.Machine
end
section
/-! PROOFS. Counted edges: the shafts derived from the one that moves, and the whole of an edge (R56, R90, R91). -/

namespace Sys2Proof.Machine

/-! ### Which shafts an edge changes -/

section
variable {p : Nat → Prop} (s : State)

theorem State.ratioCheck_turns {i : Nat} (hi : p i) (counted angle : Int) : Turns p s (s.ratioCheck i counted angle) := by
  unfold State.ratioCheck
  extract_lets num den a0 s1
  split
  · exact Turns.refl p s
  refine Turns.trans (s := s1) ?_ (Turns.setShaft s1 _ hi)
  unfold s1
  split
  · exact Turns.refl p s
  · exact (Steady.ite (s.raiseShaft_steady _ _ _) (Steady.refl _ _ _)).turns

theorem State.judged_turns {i : Nat} (hi : p i) (counted : Int) (j : Judged) : Turns p s (s.judged i counted j) := by
  unfold State.judged
  extract_lets s1 s2
  have h1 : Turns p s s1 := Turns.ite (s.ratioCheck_turns hi _ _) (Turns.refl p s)
  have h2 : Steady movePieces lowKey s1 s2 :=
    Steady.ite ((Steady.bump s1 (lowKey_odKey (by decide) 6)).mono (by decide)) (Steady.refl _ _ _)
  exact h1.trans (h2.trans (s2.raiseAll_steady i j.raised)).turns

theorem State.resynced_steady (i : Nat) (j : Judged) : Steady movePieces lowKey s (s.resynced i j) :=
  Steady.ite ((s.framesResync_steady _ _ _).moved.trans (Steady.foldl (fun s d => (s.framesResync_steady d _ _).moved) _))
    (Steady.refl _ _ _)

theorem State.edgeStood_turns {i : Nat} (hi : p i) (j : Judged) (q : Paced) : Turns p s (s.edgeStood i j q) := by
  unfold State.edgeStood
  extract_lets s1 s2
  have h1 : Turns p s s1 := (Turns.setShaft s _ hi).trans (State.raiseAll_steady _ i _).turns
  have h2 : Turns p s1 s2 := Turns.ite (s1.enterStill_turns hi) (Turns.refl p s1)
  exact (h1.trans h2).trans ((Steady.ite (s2.substEnd_steady i) (Steady.refl _ _ _)).trans (State.resynced_steady _ i j)).turns

/-- The end of step 5 leaves the shaft as its speed has set it, but for a standstill. -/
theorem State.edgeStood_tally {i : Nat} (hi : i < 4) (j : Judged) (q : Paced) :
    ((s.edgeStood i j q).shaft i).tally = q.shaft.tally := by
  unfold State.edgeStood
  extract_lets s1 s2
  have e1 : s1.shaft i = q.shaft := by
    unfold s1
    rw [(State.raiseAll_steady _ i _).shaft (by decide), s.shaft_setShaft_same hi]
  have e2 : (s2.shaft i).tally = q.shaft.tally := by
    unfold s2
    split
    · rw [s1.enterStill_own hi, e1]
      rfl
    · rw [e1]
  rw [((Steady.ite (s2.substEnd_steady i) (Steady.refl _ _ _)).trans (State.resynced_steady _ i j)).shaft (by decide), e2]

theorem State.banded_turns {i : Nat} (hi : p i) (first : Bool) : Turns p s (s.banded i first).1 := by
  cases first with
  | true => exact (s.substArm_steady i).turns
  | false => exact s.testBand_turns hi

/-- Of the shaft, a judgement of the direction of running moves the marks alone. -/
theorem State.banded_own {i : Nat} (hi : i < 4) (first : Bool) : ((s.banded i first).1.shaft i).unmarked = (s.shaft i).unmarked := by
  cases first with
  | true => exact congrArg Shaft.unmarked ((s.substArm_steady i).shaft (by decide) i)
  | false => exact s.testBand_own hi

theorem State.edgeCrossed_turns {i : Nat} (hi : p i) (now : Nat) (j : Judged) (missed : Bool) :
    Turns p s (s.edgeCrossed i now j missed) := by
  unfold State.edgeCrossed
  extract_lets r s1
  have h1 : Turns p s s1 :=
    ((s.banded_turns hi _).trans (State.crossAll_turns _ hi _)).trans (State.framesEdge_steady _ i).moved.turns
  exact (h1.trans (s1.missIf_steady i _).turns).trans (Turns.setShaft _ _ hi)

/-- Steps 6 to 8 publish the shaft as step 5 has left it, but for its marks. -/
theorem State.edgeCrossed_own {i : Nat} (hi : i < 4) (now : Nat) (j : Judged) (missed : Bool) :
    ∃ y : Shaft, y.tally = (s.shaft i).tally ∧ (s.edgeCrossed i now j missed).shaft i = y.publish now := by
  unfold State.edgeCrossed
  extract_lets r s1
  have e1 : (s1.shaft i).unmarked = (s.shaft i).unmarked := by
    unfold s1
    rw [(State.framesEdge_steady _ i).shaft (by decide), State.crossAll_own _ hi, s.banded_own hi]
  refine ⟨s1.shaft i, Shaft.of_unmarked (fun _ => rfl) e1, ?_⟩
  rw [State.shaft_modShaft_same _ hi, (s1.missIf_steady i _).shaft (by decide)]

theorem State.edgeCarried_turns {i : Nat} (h : ∀ d ∈ s.followers i, p d) (now : Nat) (j : Judged) :
    Turns p s (s.edgeCarried i now j) := by
  unfold State.edgeCarried
  extract_lets s1
  have h1 : Turns p s s1 := Turns.foldl (fun s d hd => s.followOne_turns _ _ _ (h d hd)) s
  refine h1.trans (Turns.foldl (fun s d hd => ?_) s1)
  rw [h1.followers i] at hd
  exact (s.framesEdge_steady d).moved.turns.trans (Turns.setShaft _ _ (h d hd))

end

end Sys2Proof.Machine
end
section
/-! PROOFS. Counted edges, uncounted changes and illegal transitions (R56, R57). -/

namespace Sys2Proof.Machine

/-! ### The whole of an edge -/

section
variable (s : State) {i : Nat} (fwd z : Bool)

theorem State.edgeMade_turns {p : Nat → Prop} (hi : p i) : Turns p s (s.edgeMade i fwd z) :=
  ((s.judged_turns hi _ _).trans (State.edgeStood_turns _ hi _ _)).trans (State.edgeCrossed_turns _ hi _ _ _)

/-- The shaft that an edge moves: the levels, the count, the direction and the time are those of the edge, the angle is that
decided on within tracking, and the prediction is a new one. -/
theorem State.edgeMade_own (hi : i < 4) : ∃ y : Shaft, y.tally.2 = (s.edgeShaft i fwd z).tally.2
    ∧ ((s.edgeJudged i fwd z).shaft.beyond = false → y.angle = (s.edgeJudged i fwd z).angle)
    ∧ (s.edgeMade i fwd z).shaft i = y.publish s.timebase := by
  unfold State.edgeMade
  extract_lets j r p
  obtain ⟨y, hy, h⟩ := (r.edgeStood i j p).edgeCrossed_own hi s.timebase j p.missed
  have hp : p.shaft.tally = (j.settled (r.shaft i).ratioFrom).tally := r.pace_tally _ _ _ _ _
  have hj : j.shaft.tally = (s.edgeShaft i fwd z).tally := s.judgeRef_tally _ _ _ _ _ _
  obtain ⟨hs, ha⟩ := j.settled_tally (r.shaft i).ratioFrom
  replace hy := hy.trans ((r.edgeStood_tally hi j p).trans hp)
  exact ⟨y, (congrArg Prod.snd hy).trans (hs.trans (congrArg Prod.snd hj)), fun hb => (congrArg Prod.fst hy).trans (ha hb), h⟩

/-- The shafts derived from it follow, and change it no more; no other shaft has changed. -/
theorem State.edge_spec (i : Nat) : (s.edge i fwd z).shaft i = (s.edgeMade i fwd z).shaft i
    ∧ (∀ j < 4, j ≠ i → s.kind j ≠ 4 → (s.edge i fwd z).shaft j = s.shaft j)
    ∧ Keeps (.loadFrom :: turnPieces) s (s.edge i fwd z) := by
  have h1 : Turns (s.along i) s (s.edgeMade i fwd z) := s.edgeMade_turns fwd z (Or.inl rfl)
  obtain ⟨hx, ho, hk⟩ := h1.closed ((State.edgeCarried_turns _ (fun _ h => h) s.timebase (s.edgeJudged i fwd z)).trans
    (State.resettle_turns _ s.statuses))
  rw [s.edge_eq]
  generalize ((s.edgeMade i fwd z).edgeCarried i s.timebase (s.edgeJudged i fwd z)).resettle s.statuses = t at *
  have h2 : Steady [.od, .chips, .loadFrom, .faults, .boot] lowKey t (t.loadWindow.orderRecords s) :=
    (t.loadWindow_steady.mono (by decide)).trans (Steady.of_keeps (t.loadWindow.orderRecords_keeps s) (by decide) (by decide))
  refine ⟨(h2.shaft (by decide) i).trans hx, fun j hj hji hk => (h2.shaft (by decide) j).trans (ho j hj hji hk), ?_⟩
  exact (hk.mono (by decide)).trans (h2.keeps.mono (by decide))

/-- An edge of a quadrature shaft without a reference and within tracking, while Z is low, moves the angle by its pitch. -/
theorem State.edgeJudged_unreferenced (h1 : s.kind i = 1) (hsrc : s.cfg i 4 = 1) (hc : (s.shaft i).counted = true)
    (hr : (s.shaft i).referenced = false) (hb : (s.shaft i).beyond = false) :
    (s.edgeJudged i fwd false).shaft.beyond = false
      ∧ (s.edgeJudged i fwd false).angle = (s.shaft i).edgeAngle + (edgeStep (s.edgesPer i) 0 (s.shaft i).edge fwd).2 := by
  have hg : s.gapMet i fwd = false := by simp [State.gapMet, State.wheelTeeth, h1]
  have ht : s.edgeTaken i fwd = edgeStep (s.edgesPer i) 0 (s.shaft i).edge fwd := by simp [State.edgeTaken, hr, hg, hc]
  have hj : s.edgeJudged i fwd false =
      ⟨s.edgeShaft i fwd false, s.edgeAngleAt i fwd, [], false, false, false, false, false⟩ := by
    simp [State.edgeJudged, State.judgeRef, State.edgeShaft, Shaft.zFirst, hsrc, hr, hb]
  rw [hj]
  exact ⟨hb, by simp [State.edgeAngleAt, State.edgeFrom, hc, ht]⟩

end

/-! ### Uncounted changes and illegal transitions -/

section
variable {s : State} {i : Nat}

/-- A quadrature shaft senses no direction where A and B have changed together. -/
theorem State.edgeSense_both {x : Shaft} {a b : Bool} (h1 : s.kind i = 1) (ha : a ≠ x.a) (hb : b ≠ x.b) :
    s.edgeSense i x a b = none := by
  simp [State.edgeSense, h1, ha, hb]

/-- The levels behind the edge filter, taken by a shaft. -/
def Shaft.atLevels (x : Shaft) (a b z : Bool) : Shaft := { x with a := a, b := b, z := z }

/-- A change of levels, by what it means: an illegal transition, an edge in a sensed direction, or neither. -/
theorem State.edgeIn_eq {a b z : Level} {la lb lz : Bool} (ha : s.filtered i (s.shaft i).a a = la)
    (hb : s.filtered i (s.shaft i).b b = lb) (hz : s.filtered i (s.shaft i).z z = lz) : s.edgeIn i a b z =
      (let s0 := s.setShaft i ((s.shaft i).atLevels la lb lz)
      if !s.alive || (s.shaft i).inputLoss then s0
      else if s.kind i = 1 ∧ la ≠ (s.shaft i).a ∧ lb ≠ (s.shaft i).b then s0.illegal i
      else (s.edgeSense i (s.shaft i) la lb).elim s0 fun fwd => s0.edge i fwd lz) := by
  subst ha hb hz
  unfold State.edgeIn
  generalize State.edge = edge
  generalize State.illegal = illegal
  extract_lets x a b z s0
  cases s.edgeSense i x a b with
  | none => rfl
  | some fwd => rfl

section
variable {a b z : Level} {la lb lz : Bool} (ha : s.filtered i (s.shaft i).a a = la) (hb : s.filtered i (s.shaft i).b b = lb)
  (hal : s.alive = true) (hl : (s.shaft i).inputLoss = false)
include ha hb

theorem State.edgeIn_kept (hz : s.filtered i (s.shaft i).z z = lz)
    (h : (s.shaft i).inputLoss = true ∨ s.edgeSense i (s.shaft i) la lb = none
      ∧ (s.kind i ≠ 1 ∨ la = (s.shaft i).a ∨ lb = (s.shaft i).b)) :
    s.edgeIn i a b z = s.setShaft i ((s.shaft i).atLevels la lb lz) := by
  rw [State.edgeIn_eq ha hb hz]
  split
  · rfl
  next hc =>
    obtain ⟨h, hn⟩ := h.resolve_left fun hl => hc (by simp [hl])
    rw [if_neg (fun ⟨h1, h2, h3⟩ => hn.elim (· h1) (·.elim h2 h3)), h]
    rfl

include hal hl

theorem State.edgeIn_edge (hz : s.filtered i (s.shaft i).z z = lz) {fwd : Bool}
    (h : s.edgeSense i (s.shaft i) la lb = some fwd) :
    s.edgeIn i a b z = (s.setShaft i ((s.shaft i).atLevels la lb lz)).edge i fwd lz := by
  have hn : ¬ (s.kind i = 1 ∧ la ≠ (s.shaft i).a ∧ lb ≠ (s.shaft i).b) := fun ⟨h1, h2, h3⟩ => by
    rw [State.edgeSense_both h1 h2 h3] at h
    cases h
  rw [State.edgeIn_eq ha hb hz, h, if_neg (by simp [hal, hl]), if_neg hn]
  rfl

variable (h1 : s.kind i = 1) (h2 : la ≠ (s.shaft i).a) (h3 : lb ≠ (s.shaft i).b)
include h1 h2 h3

theorem State.edgeIn_illegal (hz : s.filtered i (s.shaft i).z z = lz) :
    s.edgeIn i a b z = (s.setShaft i ((s.shaft i).atLevels la lb lz)).illegal i := by
  rw [State.edgeIn_eq ha hb hz, if_neg (by simp [hal, hl]), if_pos ⟨h1, h2, h3⟩]

theorem State.illegalIn_illegal :
    s.illegalIn i a b = (s.setShaft i ((s.shaft i).atLevels la lb (s.shaft i).z)).illegal i := by
  subst ha hb
  exact if_pos (by simp [hal, hl, h1, h2, h3])

end

/-- A shaft at the illegal transition that makes its angle uncertain. -/
def Shaft.misread (x : Shaft) : Shaft := { x with illegal := x.illegal + 1, illegalRaised := true, uncertain := true }

section
variable (hi : i < 4) (x : Shaft) (h : x.illegalFrom = x.edges.fdiv (max 1 (s.edgesPer i)))
include hi h

/-- The revolution has not ended, and the transition is counted in it. -/
theorem State.illegal_eq : (s.setShaft i x).illegal i =
    if 4 < x.illegal + 1 && !x.illegalRaised then
      (((s.setShaft i x.misread).raiseShaft i 0x2002 0).follow i false).resettle (s.setShaft i x).statuses
    else s.setShaft i { x with illegal := x.illegal + 1 } := by
  have hx : (s.setShaft i x).shaft i = x := s.shaft_setShaft_same hi x
  unfold State.illegal
  rw [hx]
  extract_lets x0 rev x1 x2 before s1
  have e1 : x1 = x := if_pos h.symm
  have e : x2 = { x with illegal := x.illegal + 1 } := by
    unfold x2
    rw [e1]
  unfold s1
  rw [e, s.setShaft_setShaft, s.setShaft_setShaft]
  rfl

/-- Up to the fourth illegal transition of a revolution, each is only noted. -/
theorem State.illegal_few (h4 : x.illegal < 4) : (s.setShaft i x).illegal i = s.setShaft i { x with illegal := x.illegal + 1 } := by
  rw [State.illegal_eq hi x h, if_neg (by simp; omega)]

/-- The fifth makes the angle uncertain. -/
theorem State.illegal_fifth (h4 : x.illegal = 4) (hr : x.illegalRaised = false) : (s.setShaft i x).illegal i =
    (((s.setShaft i x.misread).raiseShaft i 0x2002 0).follow i false).resettle (s.setShaft i x).statuses := by
  rw [State.illegal_eq hi x h, if_pos (by simp [h4, hr])]

end

end

/-- Settles O25: an edge goes through the steps of R90, of which the count is the first. -/
theorem countedEdges : Obligations.CountedEdges := by
  unfold Obligations.CountedEdges
  intro s i a b z hi hal la lb lz ha hb hz
  refine ⟨fun fwd hl h => ?_, fun h => ?_, fun h1 hl h2 h3 hfrom => ⟨fun h4 => ⟨?_, ?_⟩, fun h4 hr => ?_⟩⟩
  · have e := State.edgeIn_edge ha hb hal hl hz h
    have hs0 : (s.setShaft i ((s.shaft i).atLevels la lb lz)).shaft i = (s.shaft i).atLevels la lb lz := s.shaft_setShaft_same hi _
    have own : Turns (· = i) s (s.setShaft i ((s.shaft i).atLevels la lb lz)) := Turns.setShaft s _ rfl
    have ht : (s.setShaft i ((s.shaft i).atLevels la lb lz)).timebase = s.timebase := rfl
    have hp : (s.setShaft i ((s.shaft i).atLevels la lb lz)).edgesPer i = s.edgesPer i := rfl
    generalize s.setShaft i ((s.shaft i).atLevels la lb lz) = s0 at *
    obtain ⟨hx, ho, hkeep⟩ := s0.edge_spec fwd lz i
    obtain ⟨y, hy, hang, hown⟩ := s0.edgeMade_own fwd lz hi
    rw [hown] at hx
    simp only [Shaft.tally, State.edgeShaft, hs0, ht, Prod.mk.injEq] at hy
    obtain ⟨hedges, hback, ⟨hya, hyb, hyz⟩, htime, htraj⟩ := hy
    refine ⟨_, congrArg Host.Outcome.next e, by rw [hx]; exact hedges, by rw [hx]; exact hback, by rw [hx]; exact hya,
      by rw [hx]; exact hyb, by rw [hx]; exact hyz, by rw [hx]; exact htime, ?_, fun h1 hsrc hz0 hc hr hb => ?_,
      fun j hj hji hk => ?_, (own.keeps.mono (by decide)).trans (hkeep.mono (by decide))⟩
    · rw [hx]
      show (y.traj.epoch + 1) % 65536 = _
      rw [htraj]
      rfl
    · subst hz0
      obtain ⟨hbey, hja⟩ := s0.edgeJudged_unreferenced (i := i) fwd ((own.kind hi).trans h1) ((own.cfg hi (by decide)).trans hsrc)
        (by rw [hs0]; exact hc) (by rw [hs0]; exact hr) (by rw [hs0]; exact hb)
      rw [hx]
      refine (hang hbey).trans (hja.trans ?_)
      rw [hs0, hp]
      rfl
    · exact (ho j hj hji (by rwa [own.kind hj])).trans (own.others j hji)
  · exact congrArg Host.Outcome.next (State.edgeIn_kept ha hb hz h)
  · exact congrArg Host.Outcome.next ((State.illegalIn_illegal ha hb hal hl h1 h2 h3).trans (State.illegal_few hi _ hfrom h4))
  · exact congrArg Host.Outcome.next ((State.edgeIn_illegal ha hb hal hl h1 h2 h3 hz).trans (State.illegal_few hi _ hfrom h4))
  · have e := (State.illegalIn_illegal ha hb hal hl h1 h2 h3).trans (State.illegal_fifth hi _ hfrom h4 hr)
    have h1 : Turns (s.along i) s ((s.setShaft i ((s.shaft i).atLevels la lb (s.shaft i).z).misread).raiseShaft i 0x2002 0) :=
      (Turns.setShaft s _ (Or.inl rfl)).trans (State.raiseShaft_steady _ _ _ _).turns
    obtain ⟨hx, ho, hk⟩ := h1.closed
      (State.followed_turns _ i false (s.setShaft i ((s.shaft i).atLevels la lb (s.shaft i).z)).statuses)
    replace hx := hx.trans (s.raised_own hi _ _ _)
    exact ⟨_, congrArg Host.Outcome.next e, by rw [hx]; rfl, by rw [hx]; rfl, by rw [hx]; rfl,
      by rw [hx]; rfl, ho, hk.mono (by decide)⟩

end Sys2Proof.Machine
end
section
/-! PROOFS. Angle events enabled and disabled, held crossings released, and substitutions at standstill (R78, R79, R86 to R89). -/

namespace Sys2Proof.Machine

/-! ### One event, one camera -/

/-- An event that a reference can name. -/
def validEv : EvRef → Prop
  | .tenant t e => t < 16 ∧ e < 16
  | .camera k => k < 2

section
variable (s : State)

theorem State.ev_modEv_same {t e : Nat} (ht : t < 16) (he : e < 16) (f : EvRun → EvRun) : (s.modEv t e f).ev t e = f (s.ev t e) := by
  simp [State.ev, ht, he]

theorem State.cam_modCam_same {k : Nat} (hk : k < 2) (f : Camera → Camera) : (s.modCam k f).cam k = f (s.cam k) :=
  vget_vmod_same _ _ hk

theorem State.cam_modCam_ne {j k : Nat} (h : j ≠ k) (f : Camera → Camera) : (s.modCam k f).cam j = s.cam j :=
  vget_vmod_ne _ _ h.symm

theorem State.evRun_modEvRun {ev : EvRef} (h : validEv ev) (f : EvRun → EvRun) : (s.modEvRun ev f).evRun ev = f (s.evRun ev) := by
  cases ev with
  | tenant t e => exact s.ev_modEv_same h.1 h.2 f
  | camera k => exact congrArg Camera.ev (s.cam_modCam_same h _)

/-- A camera in use stays in use, whatever its event does. -/
theorem State.evOn_camera {k : Nat} (hk : k < 2) (f : EvRun → EvRun) :
    (s.modEvRun (.camera k) f).evOn (.camera k) = s.evOn (.camera k) := by
  have e := s.cam_modCam_same hk (fun c => { c with ev := f c.ev })
  show (s.runs && ((s.modCam k _).cam k).enabled && !((s.modCam k _).cam k).failed) = _
  rw [e]
  rfl

/-- An event whose running side changes goes on taking crossings, unless it becomes inert. -/
theorem State.evOn_modEvRun {ev : EvRef} (h : validEv ev) {f : EvRun → EvRun} (hf : ∀ r, (f r).inert = r.inert) :
    (s.modEvRun ev f).evOn ev = s.evOn ev := by
  cases ev with
  | tenant t e =>
    show (s.flag (blk t (0x10 + e)) 1 && !((s.modEv t e f).ev t e).inert) = _
    rw [s.ev_modEv_same h.1 h.2, hf]
    rfl
  | camera k => exact s.evOn_camera h f

theorem State.evBusy_modEvRun {ev : EvRef} (h : validEv ev) {f : EvRun → EvRun} (hf : ∀ r, (f r).lastFire = r.lastFire) :
    (s.modEvRun ev f).evBusy ev = s.evBusy ev := by
  have ht : (s.modEvRun ev f).timebase = s.timebase := by cases ev <;> rfl
  simp only [State.evBusy, s.evRun_modEvRun h, hf, ht]

end

/-! ### Fires -/

/-- The running side of an event after a fire: it has fired at a time, and a single-angle event is inert. -/
def EvRun.fired (r : EvRun) (now : Nat) (single : Bool) : EvRun := { r with lastFire := some now, inert := r.inert || single }

/-- The number of fires of an event is 32 bits wide (Table 2.6). -/
theorem odRow_fires {t e : Nat} (ht : t < 16) (he : e < 16) : odRow (blk t (0x10 + e)) 10 = some (ownStat .u32 0 .tx) := by
  have h : odObj (blk t (0x10 + e)) = tenantObj t (0x10 + e) := by
    have h1 : (blk t (0x10 + e) - 0x3000) / 0x100 = t := by simp only [blk]; omega
    have h2 : blk t (0x10 + e) % 0x100 = 0x10 + e := by simp only [blk]; omega
    have h3 : 0x3000 ≤ blk t (0x10 + e) ∧ blk t (0x10 + e) < 0x4000 := by simp only [blk]; omega
    obtain ⟨h3, h4⟩ := h3
    unfold odObj
    rw [if_neg (by omega), if_neg (by omega), if_neg (by omega), if_pos h4, h1, h2]
  have h' : tenantObj t (0x10 + e) = some ⟨false, 13, eventRow⟩ := by
    unfold tenantObj
    rw [if_neg (by omega), if_neg (by omega), if_neg (by omega), if_pos (by omega)]
  rw [odRow, h, h']
  rfl

/-- A fire is counted, and shown with its angle. -/
theorem State.showFire_spec (s : State) {t e : Nat} (ht : t < 16) (he : e < 16) (angle : Int) :
    (s.showFire t e angle).nat (blk t (0x10 + e)) 10 = (s.nat (blk t (0x10 + e)) 10 + 1) % 2 ^ 32
      ∧ (s.showFire t e angle).num (blk t (0x10 + e)) 11 = angle := by
  refine ⟨?_, State.num_setNum_same _ _ _ _⟩
  rw [State.showFire, State.nat_setNum_ne _ _ (odKey_ne (by decide) (by decide) (Or.inr (by decide))), State.bump, State.add,
    odRow_fires ht he]
  exact State.nat_setNum_same _ _ _ _

/-- A fire of a tenant's event on a certain angle, outside learning: it is counted and shown, and the event has fired. -/
theorem State.fireNow_tenant (s : State) {t e : Nat} (ht : t < 16) (he : e < 16) (c : Crossing) (hl : s.tray ≠ .learning)
    (hu : (s.shaft (s.evShaft (.tenant t e))).uncertain = false) :
    (s.fireNow (.tenant t e) c).nat (blk t (0x10 + e)) 10 = (s.nat (blk t (0x10 + e)) 10 + 1) % 2 ^ 32
      ∧ (s.fireNow (.tenant t e) c).num (blk t (0x10 + e)) 11 = c.angle
      ∧ ∃ single, (s.fireNow (.tenant t e) c).ev t e = (s.ev t e).fired s.timebase single := by
  unfold State.fireNow
  extract_lets x flags s1 single s2
  rw [if_neg (by simp [x, hu]), State.deliverFire_tenant]
  extract_lets sh r
  have h1 : Steady movePieces fireKey s s2 := (s.evMerge_steady _ _).trans (State.modEvRun_steady _ _ _)
  have hr : Steady triggerPieces fireKey (s2.showFire t e c.angle) r := State.fireJobs_steady _ _ _ _ _ _ _
  have htray : r.tray = s.tray := (hr.keeps .tray (by decide)).trans (h1.keeps .tray (by decide))
  have key (j : Nat) (hj : j = 10 ∨ j = 11) : fireKey (odKey (blk t (0x10 + e)) j) = true := by
    have hm : odKey (blk t (0x10 + e)) j % 256 = j := by simp only [odKey]; omega
    have hb : 0x300000 ≤ odKey (blk t (0x10 + e)) j := by simp only [odKey, blk]; omega
    rcases hj with rfl | rfl <;> simp [fireKey, hm, hb]
  rw [if_neg (by rw [htray]; exact fun h => hl h.1)]
  obtain ⟨h10, h11⟩ := s2.showFire_spec ht he c.angle
  refine ⟨?_, ?_, single, ?_⟩
  · rw [State.nat, State.num, hr.entries _ 10 (by decide) (key 10 (Or.inl rfl))]
    refine h10.trans ?_
    rw [State.nat, State.num, h1.entries _ 10 (by decide) (key 10 (Or.inl rfl))]
    rfl
  · rw [State.num, hr.entries _ 11 (by decide) (key 11 (Or.inr rfl))]
    exact h11
  · have he2 : r.ev t e = s2.ev t e := by
      rw [State.ev, hr.keeps .events (by decide)]
      rfl
    exact he2.trans (s1.ev_modEv_same ht he _)

/-- A fire of a camera in use: it opens a capture, or is counted as coalesced into the open one. -/
theorem State.cameraFire_spec (s : State) {k : Nat} (hk : k < 2) (hon : s.evOn (.camera k) = true) (i angle : Int) (flags : Nat) :
    ((s.cameraFire k i angle flags).cam k).ev = (s.cam k).ev
      ∧ ((s.cam k).capture = none → ((s.cameraFire k i angle flags).cam k).pulse = true
        ∧ ((s.cameraFire k i angle flags).cam k).capture.map (fun o => (o.k, o.angle)) = some (i, angle))
      ∧ (∀ o, (s.cam k).capture = some o →
        (s.cameraFire k i angle flags).nat (camIndex k) 23 = (s.bump (camIndex k) 23).nat (camIndex k) 23)
      ∧ ∀ j < 2, j ≠ k → (s.cameraFire k i angle flags).cam j = s.cam j := by
  have hc : ¬ (!s.runs || !(s.cam k).enabled || (s.cam k).failed) = true := by
    simp only [State.evOn, Bool.and_eq_true, Bool.not_eq_true'] at hon
    simp [hon]
  unfold State.cameraFire
  extract_lets c x
  rw [if_neg hc]
  cases h : c.capture with
  | none =>
    refine ⟨?_, fun _ => ?_, fun o ho => (nomatch ho), fun j _ hj => s.cam_modCam_ne hj _⟩
    · rw [s.cam_modCam_same hk]
    · rw [s.cam_modCam_same hk]
      exact ⟨rfl, rfl⟩
  | some o =>
    have own (f : Camera → Camera) (j : Nat) : ((s.modCam k f).bump (camIndex k) 23).cam j = (s.modCam k f).cam j := rfl
    refine ⟨?_, fun hn => (nomatch hn), fun o _ => rfl, fun j _ hj => (own _ j).trans (s.cam_modCam_ne hj _)⟩
    dsimp only
    rw [own, s.cam_modCam_same hk]

end Sys2Proof.Machine
end
section
/-! PROOFS. What each command on an angle event does (Tables 2.5 and 2.6, R78, R79, R86, R88, R89). -/

namespace Sys2Proof.Machine

/-! ### Releases and substitutions -/

/-- The running side of an event whose held crossing is released. -/
def EvRun.released (r : EvRun) : EvRun := { r with held := none }

/-- The running side of an event whose next substitution falls due at a microsecond. -/
def EvRun.dueAt (due : Nat) (r : EvRun) : EvRun := { r with substDue := some due }

section
variable {s : State} {ev : EvRef}

/-- A held crossing whose 10 µs have ended is fired. -/
theorem State.holdRelease_due {c : Crossing} (hv : validEv ev) (hh : (s.evRun ev).held = some c) (hb : s.evBusy ev = false)
    (hon : s.evOn ev = true) : s.holdRelease ev =
      (s.modEvRun ev EvRun.released).fireNow ev { c with flags := Nat.lor c.flags 32 } := by
  have hon' : (s.modEvRun ev EvRun.released).evOn ev = true := (s.evOn_modEvRun hv (f := EvRun.released) fun _ => rfl).trans hon
  unfold State.holdRelease
  rw [hh]
  dsimp only
  exact (if_neg (by simp [hb])).trans (if_pos hon')

/-- A substitution that fell due at standstill in an earlier microsecond fires at the present angle. -/
theorem State.substitute_due {due : Nat} (hv : validEv ev) (hd : (s.evRun ev).substDue = some due) (hlate : due < s.micros)
    (hp : s.evPolicy ev = 1) (hon : s.evOn ev = true) (hb : s.evBusy ev = false)
    (hs : (s.shaft (s.evShaft ev)).standstill = true) (ha : (s.shaft (s.evShaft ev)).armed = true) :
    ∃ k, s.substitute ev = (s.modEvRun ev (EvRun.dueAt (due + s.evInterval ev))).fireNow ev
      ⟨k, (s.shaft (s.evShaft ev)).angle, 4, 1⟩ := by
  have hb' : (s.modEvRun ev (EvRun.dueAt (due + s.evInterval ev))).evBusy ev = false :=
    (s.evBusy_modEvRun hv (f := EvRun.dueAt _) fun _ => rfl).trans hb
  unfold State.substitute
  extract_lets x q k
  rw [hd]
  dsimp only
  rw [if_pos (by simp [x, hs, ha, hon, hp, hlate])]
  exact ⟨k, if_neg (fun h => Bool.noConfusion (hb'.symm.trans h))⟩

end

section
variable {s : State}

/-- The fire of an event of a tenant, whose running side has been changed before it. -/
theorem State.fireNow_tenant_after {t e : Nat} (ht : t < 16) (he : e < 16) (f : EvRun → EvRun) (c : Crossing)
    (hl : s.tray ≠ .learning) (hu : (s.shaft (s.evShaft (.tenant t e))).uncertain = false) :
    ((s.modEvRun (.tenant t e) f).fireNow (.tenant t e) c).nat (blk t (0x10 + e)) 10 = (s.nat (blk t (0x10 + e)) 10 + 1) % 2 ^ 32
      ∧ ((s.modEvRun (.tenant t e) f).fireNow (.tenant t e) c).num (blk t (0x10 + e)) 11 = c.angle
      ∧ (∃ single, ((s.modEvRun (.tenant t e) f).fireNow (.tenant t e) c).ev t e = (f (s.ev t e)).fired s.timebase single)
      ∧ Keeps movePieces s ((s.modEvRun (.tenant t e) f).fireNow (.tenant t e) c) := by
  obtain ⟨h10, h11, single, hev⟩ := (s.modEvRun (.tenant t e) f).fireNow_tenant ht he c hl hu
  refine ⟨h10, h11, ⟨single, ?_⟩, ((s.modEvRun_steady _ f).keeps).trans (State.fireNow_steady _ _ c).keeps⟩
  rw [hev]
  exact congrArg (EvRun.fired · s.timebase single) (s.ev_modEv_same ht he f)

/-- The fire of a camera in use: its event has fired, and the capture is opened or goes on. -/
theorem State.fireNow_camera (s : State) {k : Nat} (hk : k < 2) (c : Crossing) (hon : s.evOn (.camera k) = true) :
    (∃ single, ((s.fireNow (.camera k) c).cam k).ev = (s.cam k).ev.fired s.timebase single)
      ∧ ((s.cam k).capture = none → ((s.fireNow (.camera k) c).cam k).pulse = true
        ∧ ((s.fireNow (.camera k) c).cam k).capture.map (fun o => (o.k, o.angle)) = some (c.k, c.angle))
      ∧ (∀ o, (s.cam k).capture = some o →
        (s.fireNow (.camera k) c).nat (camIndex k) 23 = (s.bump (camIndex k) 23).nat (camIndex k) 23)
      ∧ (∀ j < 2, j ≠ k → (s.fireNow (.camera k) c).cam j = s.cam j) ∧ Keeps [.cams, .od] s (s.fireNow (.camera k) c) := by
  unfold State.fireNow
  extract_lets x flags s1 single s2
  rw [if_neg (by simp [State.evSuppress])]
  have hcam : s2.cam k = { s.cam k with ev := (s.cam k).ev.fired s.timebase single } := s.cam_modCam_same hk _
  have hon2 : s2.evOn (.camera k) = true := (s.evOn_camera hk _).trans hon
  obtain ⟨hev, hopen, hmore, ho⟩ := s2.cameraFire_spec hk hon2 c.k c.angle flags
  rw [hcam] at hev hopen hmore
  exact ⟨⟨single, hev⟩, hopen, hmore, fun j hj hjk => (ho j hj hjk).trans (s.cam_modCam_ne hjk _),
    ((keeps_cams s _).mono (by decide)).trans (s2.cameraFire_steady _ _ _ _).keeps⟩

/-- The same where the running side of the event has been changed before the fire. -/
theorem State.fireNow_camera_after {k : Nat} (hk : k < 2) (f : EvRun → EvRun) (c : Crossing)
    (hon : s.evOn (.camera k) = true) :
    let r := (s.modEvRun (.camera k) f).fireNow (.camera k) c
    (∃ single, (r.cam k).ev = (f (s.cam k).ev).fired s.timebase single)
      ∧ ((s.cam k).capture = none → (r.cam k).pulse = true ∧ (r.cam k).capture.map (fun o => (o.k, o.angle)) = some (c.k, c.angle))
      ∧ (∀ o, (s.cam k).capture = some o → r.nat (camIndex k) 23 = (s.bump (camIndex k) 23).nat (camIndex k) 23)
      ∧ (∀ j < 2, j ≠ k → r.cam j = s.cam j) ∧ Keeps [.cams, .od] s r := by
  intro r
  have hcam : (s.modEvRun (.camera k) f).cam k = { s.cam k with ev := f (s.cam k).ev } := s.cam_modCam_same hk _
  obtain ⟨hev, hopen, hmore, ho, hkeep⟩ := (s.modEvRun (.camera k) f).fireNow_camera hk c
    ((s.evOn_camera hk f).trans hon)
  rw [hcam] at hev hopen hmore
  exact ⟨hev, hopen, hmore, fun j hj hjk => (ho j hj hjk).trans (s.cam_modCam_ne hjk _),
    ((keeps_cams s _).mono (by decide)).trans hkeep⟩

end

/-! ### Enable and disable -/

section
variable (s : State) {t e : Nat} (ht : t < 16) (he : e < 16)
include ht he

theorem State.eventOn_spec : (s.eventOn t e).flag (blk t (0x10 + e)) 1 = true
    ∧ (s.flag (blk t (0x10 + e)) 1 = false → ((s.eventOn t e).ev t e).held = none ∧ ((s.eventOn t e).ev t e).inert = false)
    ∧ sameEntries (fun i => decide (i = blk t (0x10 + e))) s (s.eventOn t e) ∧ Keeps [.od, .events] s (s.eventOn t e) := by
  unfold State.eventOn
  extract_lets i due
  split
  · next h => exact ⟨h, fun hn => absurd h (by simp [i, hn]), sameEntries.refl _ s, Keeps.refl _ s⟩
  · refine ⟨?_, fun _ => ?_, ?_, ?_⟩
    · exact decide_eq_true (by
        rw [show ((s.setNum i 1 1).modEv t e _).num i 1 = (s.setNum i 1 1).num i 1 from rfl, State.num_setNum_same]
        decide)
    · rw [State.ev_modEv_same _ ht he]
      exact ⟨rfl, rfl⟩
    · exact s.set_same _ (by decide) (decide_eq_true rfl)
    · exact ((s.setNum_keeps _ _ _).mono (by decide)).trans ((keeps_events _ _).mono (by decide))

theorem State.eventOff_spec : (s.eventOff t e).flag (blk t (0x10 + e)) 1 = false
    ∧ ((s.eventOff t e).ev t e).held = none ∧ ((s.eventOff t e).ev t e).substDue = none
    ∧ sameEntries (fun i => decide (i = blk t (0x10 + e))) s (s.eventOff t e) ∧ Keeps [.od, .events] s (s.eventOff t e) := by
  unfold State.eventOff
  refine ⟨?_, ?_, ?_, ?_, ?_⟩
  · exact decide_eq_false (not_not.mpr (State.num_setNum_same s _ _ 0))
  · rw [State.ev_modEv_same _ ht he]
  · rw [State.ev_modEv_same _ ht he]
  · exact s.set_same _ (by decide) (decide_eq_true rfl)
  · exact ((s.setNum_keeps _ _ _).mono (by decide)).trans ((keeps_events _ _).mono (by decide))

end

/-- Settles O30: an enable and a disable are accepted writes, and a release and a substitution are fires. -/
theorem angleEvents : Obligations.AngleEvents := by
  unfold Obligations.AngleEvents
  intro s
  refine ⟨fun n t e ht he h => ?_, fun n t e ht he h => ?_, fun t e c ht he hh hb hon hl hu => ?_,
    fun t e due ht he hd hlate hp hon hb hl hs ha hu => ?_, fun k c hk hh hb hon => ?_, fun k due hk hd hlate hp hon hb hs ha => ?_⟩
  · obtain ⟨hflag, hev, hsame, hkeep⟩ := (s.asked n).eventOn_spec ht he
    refine ⟨((s.asked n).eventOn t e).answer n .ok, congrArg Host.Outcome.next (State.write_accepted _ h), hflag,
      State.answer_answered _ n, fun hf => hev ?_, fun i j hj hi => (hsame i j hj hi).trans (s.asked_get n i j),
      hkeep.taken.mono (by decide)⟩
    rw [State.flag, s.asked_num]
    exact hf
  · obtain ⟨hflag, hheld, hdue, hsame, hkeep⟩ := (s.asked n).eventOff_spec ht he
    exact ⟨((s.asked n).eventOff t e).answer n .ok, congrArg Host.Outcome.next (State.write_accepted _ h), hflag,
      State.answer_answered _ n, hheld, hdue, fun i j hj hi => (hsame i j hj hi).trans (s.asked_get n i j),
      hkeep.taken.mono (by decide)⟩
  · have e1 := State.holdRelease_due (ev := .tenant t e) ⟨ht, he⟩ hh hb hon
    obtain ⟨h10, h11, ⟨single, hev⟩, hkeep⟩ := State.fireNow_tenant_after ht he EvRun.released
      { c with flags := Nat.lor c.flags 32 } hl hu
    exact ⟨_, congrArg Host.Outcome.next e1, h10, h11, by rw [hev]; rfl, by rw [hev]; rfl, hkeep.mono (by decide)⟩
  · obtain ⟨k, e1⟩ := State.substitute_due (ev := .tenant t e) ⟨ht, he⟩ hd hlate hp hon hb hs ha
    obtain ⟨h10, h11, ⟨single, hev⟩, hkeep⟩ := State.fireNow_tenant_after ht he
      (EvRun.dueAt (due + s.evInterval (.tenant t e))) ⟨k, _, 4, 1⟩ hl hu
    exact ⟨_, congrArg Host.Outcome.next e1, h10, h11, by rw [hev]; rfl, hkeep.mono (by decide)⟩
  · have e1 := State.holdRelease_due (ev := .camera k) hk hh hb hon
    obtain ⟨⟨single, hev⟩, hopen, hmore, ho, hkeep⟩ := State.fireNow_camera_after hk EvRun.released
      { c with flags := Nat.lor c.flags 32 } hon
    exact ⟨_, congrArg Host.Outcome.next e1, by rw [hev]; rfl, by rw [hev]; rfl, hopen, hmore, ho, hkeep⟩
  · obtain ⟨i, e1⟩ := State.substitute_due (ev := .camera k) hk hd hlate hp hon hb hs ha
    obtain ⟨⟨single, hev⟩, hopen, -, ho, hkeep⟩ := State.fireNow_camera_after hk
      (EvRun.dueAt (due + s.evInterval (.camera k)))
      ⟨i, (s.shaft (s.evShaft (.camera k))).angle, 4, 1⟩ hon
    refine ⟨_, congrArg Host.Outcome.next e1, by rw [hev]; rfl, by rw [hev]; rfl, fun hn => ⟨(hopen hn).1, ?_⟩, ho, hkeep⟩
    have h := congrArg (Option.map Prod.snd) (hopen hn).2
    rwa [Option.map_map] at h

end Sys2Proof.Machine
end
section
/-! PROOFS. What frames, captures and triggers of jobs leave of the sensors (chapters 3 and 8): the entries of channels and
cameras, the frames under way, and the open captures. -/

namespace Sys2Proof.Machine

/-! ### Entries of the sensors -/

/-- The entries below OD 0x2400, by key: those of the channels and the cameras are the last of them. -/
def sensorKey (k : Nat) : Bool := decide (k < 0x240000)

/-- Those, but for the counters of frames not analysed, at sub-index 0x13. -/
def shownKey (k : Nat) : Bool := sensorKey k && decide (k % 256 ≠ 19)

/-- Those below the counters and measurements of a channel: its configuration (Table 3.2). -/
def setupKey (k : Nat) : Bool := sensorKey k && decide (k % 256 < 18)

theorem sensorKey_odKey {i j : Nat} (hi : i < 0x2400) (hj : j < 256) : sensorKey (odKey i j) = true :=
  decide_eq_true (by simp only [odKey]; omega)

theorem sensorKey_above {i : Nat} (hi : 0x2400 ≤ i) (j : Nat) : sensorKey (odKey i j) = false :=
  decide_eq_false (by simp only [odKey]; omega)

theorem odKey_sub (i : Nat) {j : Nat} (hj : j < 256) : odKey i j % 256 = j := by simp only [odKey]; omega

theorem shownKey_odKey {i j : Nat} (hi : i < 0x2400) (hj : j < 256) (h : j ≠ 19) : shownKey (odKey i j) = true := by
  simp [shownKey, sensorKey_odKey hi hj, odKey_sub i hj, h]

theorem setupKey_odKey {i j : Nat} (hi : i < 0x2400) (hj : j < 18) : setupKey (odKey i j) = true := by
  simp [setupKey, sensorKey_odKey hi (show j < 256 by omega), odKey_sub i (show j < 256 by omega), hj]

theorem sensorKey_of_shownKey {k : Nat} (h : shownKey k = true) : sensorKey k = true := (Bool.and_eq_true_iff.mp h).1

theorem shownKey_of_setupKey {k : Nat} (h : setupKey k = true) : shownKey k = true := by
  simp only [shownKey, setupKey, Bool.and_eq_true, decide_eq_true_eq] at h ⊢
  exact ⟨h.1, by omega⟩

theorem sensorKey_of_setupKey {k : Nat} (h : setupKey k = true) : sensorKey k = true := (Bool.and_eq_true_iff.mp h).1

/-- Fewer entries are steady where more are. -/
theorem Steady.weaken {l : List Piece} {q q' : Nat → Bool} {s t : State} (h : Steady l q s t) (hq : ∀ {k}, q' k = true → q k = true) :
    Steady l q' s t := ⟨h.keeps, fun i j hj hk => h.entries i j hj (hq hk)⟩

theorem Steady.nat {l : List Piece} {q : Nat → Bool} {s t : State} (h : Steady l q s t) {i j : Nat} (hj : j < 256)
    (hk : q (odKey i j) = true) : t.nat i j = s.nat i j := by
  rw [State.nat, State.num, h.entries i j hj hk]
  rfl

theorem Steady.flag {l : List Piece} {q : Nat → Bool} {s t : State} (h : Steady l q s t) {i j : Nat} (hj : j < 256)
    (hk : q (odKey i j) = true) : t.flag i j = s.flag i j := by
  rw [State.flag, State.num, h.entries i j hj hk]
  rfl

theorem State.raise_sensors (s : State) (a b c d : Nat) : Steady [.od, .boot, .mail, .faults] sensorKey s (s.raise a b c d) :=
  ⟨s.raise_keeps a b c d, fun i j hj hk => State.post_same s _ i j hj (decide_eq_false fun e => by
    subst e
    rw [sensorKey_above (by decide)] at hk
    cases hk)⟩

/-! ### Frames under way and open captures -/

/-- A view of an entry of a vector that an update keeps is the same at every index. -/
theorem vget_vmod_proj {α β : Type} [Inhabited α] {n : Nat} (v : Vector α n) (i j : Nat) {f : α → α} {p : α → β}
    (h : ∀ x, p (f x) = p x) : p (vget (vmod v i f) j) = p (vget v j) := by
  by_cases hij : i = j
  · subst hij
    by_cases hi : i < n
    · rw [vget_vmod_same _ _ hi, h]
    · simp [vget, vmod, vset, hi]
  · rw [vget_vmod_ne _ _ hij]

theorem Keeps.group {l : List Piece} {s t : State} (h : Keeps l s t) (hl : Piece.groups ∉ l) (g : Nat) : t.group g = s.group g :=
  congrArg (vget · g) (h .groups hl)

theorem Keeps.cam {l : List Piece} {s t : State} (h : Keeps l s t) (hl : Piece.cams ∉ l) (k : Nat) : t.cam k = s.cam k :=
  congrArg (vget · k) (h .cams hl)

/-- From `s` to `t` the frames under way and the open captures stay, the entries whose key is one of `q`, and every piece
outside `l`. -/
structure Spares (l : List Piece) (q : Nat → Bool) (s t : State) : Prop where
  steady : Steady l q s t
  runs : ∀ g, (t.group g).runs = (s.group g).runs
  captures : ∀ k, (t.cam k).capture = (s.cam k).capture

section
variable {k l : List Piece} {q : Nat → Bool} {r s t : State}

theorem Spares.refl (l : List Piece) (q : Nat → Bool) (s : State) : Spares l q s s := ⟨Steady.refl l q s, fun _ => rfl, fun _ => rfl⟩

theorem Spares.trans (h1 : Spares l q r s) (h2 : Spares l q s t) : Spares l q r t :=
  ⟨h1.steady.trans h2.steady, fun g => (h2.runs g).trans (h1.runs g), fun c => (h2.captures c).trans (h1.captures c)⟩

theorem Spares.mono (h : Spares k q s t) (hs : within k l = true) : Spares l q s t := ⟨h.steady.mono hs, h.runs, h.captures⟩

theorem Spares.weaken {q' : Nat → Bool} (h : Spares l q s t) (hq : ∀ {k}, q' k = true → q k = true) : Spares l q' s t :=
  ⟨h.steady.weaken hq, h.runs, h.captures⟩

theorem Spares.ite {u : State} {c : Prop} [Decidable c] (ht : Spares l q s t) (hu : Spares l q s u) :
    Spares l q s (if c then t else u) := by
  split
  · exact ht
  · exact hu

theorem Spares.foldl {α : Type} {f : State → α → State} {xs : List α} (hf : ∀ s x, Spares l q s (f s x)) (s : State) :
    Spares l q s (xs.foldl f s) := by
  induction xs generalizing s with
  | nil => exact Spares.refl l q s
  | cons x xs ih => exact (hf s x).trans (ih _)

/-- What is steady and leaves groups and cameras alone. -/
theorem Steady.spares (h : Steady l q s t) (hg : Piece.groups ∉ l) (hc : Piece.cams ∉ l) : Spares l q s t :=
  ⟨h, fun g => congrArg Group.runs (h.keeps.group hg g), fun c => congrArg Camera.capture (h.keeps.cam hc c)⟩

/-- What leaves the dictionary, the groups and the cameras alone. -/
theorem Spares.of_keeps (h : Keeps k s t) (hs : within k l = true) (hod : Piece.od ∉ k) (hg : Piece.groups ∉ k)
    (hc : Piece.cams ∉ k) : Spares l q s t :=
  (Steady.spares (Steady.of_keeps h (within_self k) hod) hg hc).mono hs

theorem Spares.bump {i j : Nat} (s : State) (h : q (odKey i j) = false) : Spares [.od] q s (s.bump i j) :=
  (Steady.bump s h).spares (by decide) (by decide)

theorem Spares.modGroup (s : State) (g : Nat) {f : Group → Group} (hs : within [.groups] l = true) (h : ∀ x, (f x).runs = x.runs) :
    Spares l q s (s.modGroup g f) :=
  ⟨Steady.of_keeps (keeps_groups s _) hs (by decide), fun _ => vget_vmod_proj _ _ _ h, fun _ => rfl⟩

theorem Spares.modCam (s : State) (c : Nat) {f : Camera → Camera} (hs : within [.cams] l = true)
    (h : ∀ x, (f x).capture = x.capture) : Spares l q s (s.modCam c f) :=
  ⟨Steady.of_keeps (keeps_cams s _) hs (by decide), fun _ => rfl, fun _ => vget_vmod_proj _ _ _ h⟩

end

theorem State.raise_spares (s : State) (a b c d : Nat) : Spares [.od, .boot, .mail, .faults] sensorKey s (s.raise a b c d) :=
  (s.raise_sensors a b c d).spares (by decide) (by decide)

/-- A counter of a tenant's object is no entry of a sensor. -/
theorem Spares.bump_blk (s : State) (t o j : Nat) : Spares [.od] sensorKey s (s.bump (blk t o) j) :=
  Spares.bump s (sensorKey_above (by simp only [blk]; omega) j)

/-! ### Issues squashed, frames released -/

theorem State.squash_spares (s : State) (id : Nat) : Spares squashPieces sensorKey s (s.squash id) := by
  unfold State.squash
  split
  · exact Spares.refl _ _ _
  · next i _ =>
    extract_lets s1 s2 s3
    have h1 : Spares squashPieces sensorKey s s1 :=
      Spares.foldl (fun s p => Spares.of_keeps (s.spoil_keeps i p) (by decide) (by decide) (by decide) (by decide)) s
    have h2 : Spares squashPieces sensorKey s1 s2 :=
      (Spares.of_keeps (s1.removeIssue_keeps id) (by decide) (by decide) (by decide) (by decide)).trans
        ((Spares.bump_blk _ _ _ _).mono (by decide))
    have h3 : Spares squashPieces sensorKey s2 s3 :=
      Spares.of_keeps (keeps_jobs s2 _) (by decide) (by decide) (by decide) (by decide)
    exact ((h1.trans h2).trans h3).trans ((Spares.bump_blk _ _ _ _).mono (by decide))

theorem State.squashIf_spares (s : State) (p : Issue → Bool) : Spares squashPieces sensorKey s (s.squashIf p) :=
  Spares.foldl (fun s (i : Issue) => s.squash_spares i.id) s

theorem State.modRing_spares (s : State) (r : Nat) (f : List Frame → List Frame) :
    Spares [.groups, .cams] sensorKey s (s.modRing r f) := by
  unfold State.modRing
  split
  · exact Spares.modGroup s r (by decide) fun _ => rfl
  · exact Spares.modCam s (r - 8) (by decide) fun _ => rfl

theorem State.release_spares (s : State) (frame : Option (Nat × Int)) (t j : Nat) :
    Spares [.groups, .cams] sensorKey s (s.release frame t j) := by
  unfold State.release
  split
  · exact Spares.refl _ _ s
  · split
    · exact Spares.modGroup s _ (by decide) fun _ => rfl
    · exact Spares.modCam s _ (by decide) fun _ => rfl

theorem State.serveFrame_spares (s : State) (frame : Option (Nat × Int)) (t : Nat) :
    Spares [.groups, .cams] sensorKey s (s.serveFrame frame t) := by
  unfold State.serveFrame
  split
  · exact Spares.refl _ _ s
  · exact s.modRing_spares _ _

/-! ### Triggers dropped and frames evicted -/

/-- What a dropped trigger may change. -/
def dropPieces : List Piece := [.boot, .cams, .chips, .draws, .faults, .groups, .issues, .jobs, .mail, .od]

theorem State.dropTrigger_spares (s : State) (t : Nat) (tr : Trigger) (code : Nat) :
    Spares dropPieces sensorKey s (s.dropTrigger t tr code) := by
  unfold State.dropTrigger
  extract_lets n s1 s2 s3 s4 s5
  have h1 : Spares dropPieces sensorKey s s1 := Spares.of_keeps (keeps_jobs s _) (by decide) (by decide) (by decide) (by decide)
  have h2 : Spares dropPieces sensorKey s1 s2 :=
    ((Spares.bump_blk s1 _ _ _).trans (Spares.bump_blk _ _ _ _)).mono (by decide)
  have h3 : Spares dropPieces sensorKey s2 s3 :=
    Spares.ite ((Spares.bump s2 (sensorKey_above (by decide) _)).mono (by decide)) (Spares.refl _ _ _)
  have h4 : Spares dropPieces sensorKey s3 s4 := (s3.raise_spares _ _ _ _).mono (by decide)
  have h5 : Spares dropPieces sensorKey s4 s5 := (s4.squashIf_spares _).mono (by decide)
  exact ((((h1.trans h2).trans h3).trans h4).trans h5).trans ((s5.release_spares _ _ _).mono (by decide))

theorem State.modPend_spares (s : State) (t : Nat) (f : Pend → Pend) : Spares [.pend] sensorKey s (s.modPend t f) :=
  Spares.of_keeps (keeps_pend s _) (by decide) (by decide) (by decide) (by decide)

theorem State.endDecimation_spares (s : State) (t : Nat) : Spares [.pend] sensorKey s (s.endDecimation t) :=
  Spares.ite (s.modPend_spares _ _) (Spares.refl _ _ _)

theorem State.evictOldest_spares (s : State) (r : Nat) : Spares (.pend :: dropPieces) sensorKey s (s.evictOldest r) := by
  unfold State.evictOldest
  split
  · exact Spares.refl _ _ _
  · extract_lets key lost s1 s2 s3
    have h1 : Spares (.pend :: dropPieces) sensorKey s s1 := (s.modRing_spares r _).mono (by decide)
    have h2 : Spares (.pend :: dropPieces) sensorKey s1 s2 :=
      Spares.foldl (fun s t => ((s.modPend_spares _ _).trans (State.endDecimation_spares _ t)).mono (by decide)) s1
    have h3 : Spares (.pend :: dropPieces) sensorKey s2 s3 :=
      Spares.ite (Spares.refl _ _ _) ((Spares.bump s2 (sensorKey_above (by decide) _)).mono (by decide))
    exact ((h1.trans h2).trans h3).trans (Spares.foldl (fun s w => (s.dropTrigger_spares _ _ _).mono (by decide)) s3)

theorem State.evictFrame_spares (s : State) (r : Nat) : Spares (.pend :: dropPieces) sensorKey s (s.evictFrame r) :=
  Spares.ite (s.evictOldest_spares r) (Spares.refl _ _ _)

/-! ### Triggers that reach a job -/

theorem State.countCommit_spares (s : State) (i : Issue) : Spares [.od] sensorKey s (s.countCommit i) :=
  (Spares.bump_blk s _ _ _).trans (Spares.bump_blk _ _ _ _)

theorem State.issueOn_spares (s : State) (t : Nat) (tr : Trigger) : Spares triggerPieces sensorKey s (s.issueOn t tr) := by
  unfold State.issueOn
  extract_lets d
  split
  · exact Spares.refl _ _ _
  · extract_lets x s1 s2 s3
    have h1 : Spares triggerPieces sensorKey s s1 :=
      Spares.of_keeps (keeps_issues_next s _ _) (by decide) (by decide) (by decide) (by decide)
    have h2 : Spares triggerPieces sensorKey s1 s2 :=
      (Spares.of_keeps (keeps_jobs s1 _) (by decide) (by decide) (by decide) (by decide)).trans
        ((State.serveFrame_spares _ _ _).mono (by decide))
    have h3 : Spares triggerPieces sensorKey s2 s3 := Spares.of_keeps (keeps_chips s2 _) (by decide) (by decide) (by decide) (by decide)
    exact ((h1.trans h2).trans h3).trans ((Spares.bump_blk s3 _ _ _).mono (by decide))

theorem State.enqueueTrigger_spares (s : State) (t : Nat) (tr : Trigger) :
    Spares triggerPieces sensorKey s (s.enqueueTrigger t tr) := by
  unfold State.enqueueTrigger
  extract_lets p put full policy dropOldest count keep s1
  have hput (s : State) : Spares triggerPieces sensorKey s (put s) := (s.modPend_spares _ _).mono (by decide)
  have hdrop (s : State) (o : Trigger) : Spares triggerPieces sensorKey s (s.dropTrigger t o 0x9101) :=
    (s.dropTrigger_spares t o _).mono (by decide)
  have hold (s : State) : Spares triggerPieces sensorKey s (dropOldest s) := by
    unfold dropOldest
    split
    · exact Spares.refl _ _ _
    · exact ((s.modPend_spares _ _).mono (by decide)).trans (hdrop _ _)
  have h1 : Spares triggerPieces sensorKey s s1 := (s.modPend_spares _ _).mono (by decide)
  split
  · refine Spares.ite (Spares.trans ?_ (hput _)) (h1.trans (hdrop s1 tr))
    exact Spares.ite (h1.trans (hold s1)) h1
  · exact Spares.ite (hput s) (Spares.ite ((hold s).trans (hput _)) (hdrop s tr))

theorem State.commitIssue_spares (s : State) (i : Issue) (tr : Trigger) :
    Spares triggerPieces sensorKey s (s.commitIssue i tr) := by
  unfold State.commitIssue
  extract_lets data chips wait s1 s2 s3
  have h1 : Spares triggerPieces sensorKey s s1 := Spares.of_keeps (keeps_issues s _) (by decide) (by decide) (by decide) (by decide)
  have h2 : Spares triggerPieces sensorKey s1 s2 :=
    (Spares.of_keeps (keeps_jobs s1 _) (by decide) (by decide) (by decide) (by decide)).trans
      ((State.serveFrame_spares _ _ _).mono (by decide))
  have h3 : Spares triggerPieces sensorKey s2 s3 := Spares.ite (Spares.refl _ _ _) ((s2.countCommit_spares i).mono (by decide))
  refine ((h1.trans h2).trans h3).trans ?_
  split
  · exact Spares.refl _ _ _
  · exact Spares.foldl (fun s p => Spares.ite (Spares.of_keeps (s.deliver_keeps _ _) (by decide) (by decide) (by decide) (by decide))
      (Spares.refl _ _ _)) s3

theorem State.trigger_spares (s : State) (t : Nat) (tr : Trigger) : Spares triggerPieces sensorKey s (s.trigger t tr) := by
  unfold State.trigger
  extract_lets tr1 s1 back mine s2 chips
  have h1 : Spares triggerPieces sensorKey s s1 :=
    (Spares.of_keeps (keeps_nextIssue s _) (by decide) (by decide) (by decide) (by decide)).trans
      (Spares.of_keeps (State.fallDue_keeps _ _ _ _) (by decide) (by decide) (by decide) (by decide))
  have h2 : Spares triggerPieces sensorKey s1 s2 := (s1.squashIf_spares _).mono (by decide)
  refine (h1.trans h2).trans ?_
  clear_value s2
  split
  · exact s2.commitIssue_spares _ _
  · exact Spares.ite ((s2.release_spares _ _ _).mono (by decide))
      (Spares.ite (s2.enqueueTrigger_spares _ _) (s2.issueOn_spares _ _))

/-- A complete frame that is staged, and triggers the jobs of its source, disturbs no other frame and no capture. -/
theorem State.frameReady_spares (s : State) (r shaft : Nat) (f : Frame) (flags : Nat) :
    Spares triggerPieces sensorKey s (s.frameReady r shaft f flags) := by
  unfold State.frameReady
  extract_lets jobs waits s1
  have h1 : Spares triggerPieces sensorKey s s1 :=
    ((s.evictFrame_spares r).mono (by decide)).trans ((State.modRing_spares _ r _).mono (by decide))
  refine Spares.ite (Spares.refl _ _ _) (h1.trans (Spares.foldl (fun s w => ?_) s1))
  exact Spares.ite (s.trigger_spares _ _) (Spares.ite (Spares.refl _ _ _) ((s.release_spares _ _ _).mono (by decide)))

/-! ### Frames that end with no data -/

/-- What a frame that is not analysed may change. -/
def haltPieces : List Piece := [.boot, .chips, .draws, .faults, .groups, .issues, .jobs, .mail, .od]

/-- A counter of frames not analysed. -/
theorem Spares.bump_stopped (s : State) (i : Nat) : Spares [.od] shownKey s (s.bump i 19) :=
  Spares.bump s (by simp [shownKey, odKey_sub i (show 19 < 256 by decide)])

/-- What follows the count of a frame not analysed leaves the counters. -/
theorem State.notAnalysed_counted (s : State) (g cause : Nat) (k : Int) : Spares haltPieces sensorKey
    ((s.groupChannels g).foldl (fun s c => s.bump (0x2300 + c) 19) s) (s.notAnalysed g cause k) := by
  unfold State.notAnalysed
  extract_lets s1 s2 s3
  have h2 : Spares haltPieces sensorKey s1 s2 := Spares.ite (Spares.refl _ _ _) ((s1.raise_spares _ _ _ _).mono (by decide))
  have h3 : Spares haltPieces sensorKey s2 s3 := Spares.modGroup s2 g (by decide) fun _ => rfl
  exact (h2.trans h3).trans ((s3.squashIf_spares _).mono (by decide))

theorem State.notAnalysed_spares (s : State) (g cause : Nat) (k : Int) :
    Spares haltPieces shownKey s (s.notAnalysed g cause k) :=
  (Spares.foldl (fun s c => (Spares.bump_stopped s _).mono (by decide)) s).trans
    ((s.notAnalysed_counted g cause k).weaken sensorKey_of_shownKey)

theorem State.stopFrame_spares (s : State) (g cause : Nat) (r : FrameRun) :
    Spares haltPieces shownKey s (s.stopFrame g cause r) := by
  unfold State.stopFrame
  extract_lets cs sh x flags h
  have h1 : Spares haltPieces shownKey s (s.modGroup g fun y => { y with stopped := h }) :=
    Spares.modGroup s g (by decide) fun _ => rfl
  exact h1.trans (State.notAnalysed_spares _ _ _ _)

end Sys2Proof.Machine
end
section
/-! PROOFS. Reset, setup and trigger pulse of a camera, and its captures (R119, R121 to R123, R528, R529). -/

namespace Sys2Proof.Machine

/-! ### One camera -/

theorem vset_vget {α : Type} [Inhabited α] {n : Nat} (v : Vector α n) (i : Nat) : vset v i (vget v i) = v := by
  ext j hj
  by_cases h : i = j
  · subst h
    simp [vset, vget, hj]
  · simp [vset, Vector.getElem_setIfInBounds_ne, h]

theorem State.modCam_keeps (s : State) (k : Nat) (f : Camera → Camera) : Keeps [.cams] s (s.modCam k f) := keeps_cams s _

/-- An update that leaves a camera as it is. -/
theorem State.modCam_self (s : State) (k : Nat) {f : Camera → Camera} (h : f (s.cam k) = s.cam k) : s.modCam k f = s := by
  have e : vmod s.cams k f = s.cams := by
    rw [vmod, show f (vget s.cams k) = vget s.cams k from h, vset_vget]
  rw [State.modCam, e]

/-- An update of a camera writes what it makes of the camera that stands there. -/
theorem State.modCam_of (s : State) (k : Nat) {f : Camera → Camera} {x : Camera} (h : f (s.cam k) = x) :
    s.modCam k f = { s with cams := vset s.cams k x } := by rw [← h]; rfl

/-- The record of something detected stays the last one written while faults and start-up stand still. -/
theorem State.wrote.after {s t u : State} {r : Record} (h : s.wrote t r) (hf : u.faults = t.faults) (hb : u.boot = t.boot) :
    s.wrote u r := ⟨fun hp => by rw [hf]; exact h.1 hp, fun hp hl => by rw [hb]; exact h.2 hp hl⟩

/-! ### Setup (R119) -/

theorem State.cciSend_silent {s : State} {k : Nat} (nack : Option Nat) (h : (s.cam k).enabled = false ∨ (s.cam k).resetN = false) :
    s.cciSend k nack = s := if_pos (by rcases h with h | h <;> simp [h])

theorem State.cciSend_all {s : State} {k : Nat} (he : (s.cam k).enabled = true) (hr : (s.cam k).resetN = true) :
    s.cciSend k none = s.modCam k fun c => { c with cci := cciSteps (s.bytes (camIndex k) 20) } := if_neg (by simp [he, hr])

theorem State.cciSend_wait {s : State} {k n : Nat} (h : byteAt (s.bytes (camIndex k) 20) (4 * n + 3) ≠ 0) :
    s.cciSend k (some n) = s := ite_eq_left_iff.mpr fun _ => if_pos (Or.inr h)

theorem State.cciSend_refused {s : State} {k n : Nat} (he : (s.cam k).enabled = true) (hr : (s.cam k).resetN = true)
    (hn : 4 * n < (s.bytes (camIndex k) 20).length) (hw : byteAt (s.bytes (camIndex k) 20) (4 * n + 3) = 0) :
    s.cciSend k (some n) = (s.modCam k fun c =>
        { c with cci := cciSteps ((s.bytes (camIndex k) 20).take (4 * (n + 1))), failed := true }).raise 0x3106 (camUnit k) noTenant
      (4096 * (8 + k) + n % 4096) :=
  (if_neg (by simp [he, hr])).trans (if_neg (by rw [not_or]; exact ⟨by omega, by simp [hw]⟩))

/-- Settles O36: each command writes one camera or leaves the state as it is. -/
theorem cameraControl : Obligations.CameraControl := by
  unfold Obligations.CameraControl
  intro s k hk
  refine ⟨fun hp => ?_, fun hp => ?_, fun he hr => ?_, fun n he hr hn hw => ?_, fun n hw => ?_, fun nack h => ?_,
    fun h => ?_, fun h => ?_⟩
  · exact congrArg Host.Outcome.next (s.modCam_of k (if_pos hp))
  · exact congrArg Host.Outcome.next (s.modCam_self k (if_neg (by simp [hp])))
  · exact congrArg Host.Outcome.next (State.cciSend_all he hr)
  · have hkeep := State.raise_keeps (s.modCam k fun c =>
      { c with cci := cciSteps ((s.bytes (camIndex k) 20).take (4 * (n + 1))), failed := true }) 0x3106 (camUnit k) noTenant
      (4096 * (8 + k) + n % 4096)
    refine ⟨_, congrArg Host.Outcome.next (State.cciSend_refused he hr hn hw), ?_, fun j hj => ?_, State.wrote_post (s.modCam k _) _,
      ((s.modCam_keeps k _).mono (by decide)).trans (hkeep.mono (by decide))⟩
    · exact (hkeep.cam (by decide) k).trans (s.cam_modCam_same hk _)
    · exact (hkeep.cam (by decide) j).trans (s.cam_modCam_ne hj _)
  · exact congrArg Host.Outcome.next (State.cciSend_wait hw)
  · exact congrArg Host.Outcome.next (State.cciSend_silent nack h)
  · exact congrArg Host.Outcome.next (if_pos h)
  · exact congrArg Host.Outcome.next (if_neg (by omega))

/-! ### Counters -/

/-- A counter of 32 bits wraps at its width. -/
theorem State.nat_bump (s : State) {i j : Nat} (h : (odRow i j).map (fun r => r.ty.bits) = some 32) :
    (s.bump i j).nat i j = (s.nat i j + 1) % 2 ^ 32 := by
  unfold State.bump State.add
  cases hr : odRow i j with
  | none => rw [hr] at h; cases h
  | some r =>
    rw [hr] at h
    have hb : r.ty.bits = 32 := Option.some.inj h
    simp only [hb, State.nat_setNum_same]

/-- The counters of a camera (Table 3.7). -/
theorem odRow_camera {k : Nat} (hk : k < 2) :
    (odRow (camIndex k) 21).map (fun r => r.ty.bits) = some 32 ∧ (odRow (camIndex k) 22).map (fun r => r.ty.bits) = some 32 := by
  interval_cases k <;> exact ⟨rfl, rfl⟩

theorem camIndex_sensor {k j : Nat} (hk : k < 2) (hj : j < 256) : sensorKey (odKey (camIndex k) j) = true :=
  sensorKey_odKey (by simp only [camIndex]; omega) hj

theorem State.bump_keeps (s : State) (i j : Nat) : Keeps [.od] s (s.bump i j) := s.add_keeps i j 1

/-! ### Captures (R121 to R123) -/

/-- A camera whose frame has ended well: no capture is open, and no episode of failed ones under way. -/
def Camera.closed (c : Camera) : Camera := { c with capture := none, ep1 := false, ep2 := false, ep3 := false }

/-- A camera whose open capture has had its frame start. -/
def Camera.begun (c : Camera) : Camera := { c with capture := c.capture.map fun o => { o with started := true } }

@[simp] theorem Camera.begun_capture (c : Camera) : c.begun.capture = c.capture.map fun o => { o with started := true } := rfl

/-- A capture that fails closes and is counted. -/
theorem State.failCapture_spec (s : State) {k : Nat} (hk : k < 2) {o : Capture} (ho : (s.cam k).capture = some o) (code : Nat) :
    ((s.failCapture k code).cam k).capture = none
      ∧ (s.failCapture k code).nat (camIndex k) 22 = (s.nat (camIndex k) 22 + 1) % 2 ^ 32
      ∧ Keeps [.boot, .cams, .chips, .draws, .faults, .issues, .jobs, .mail, .od] s (s.failCapture k code) := by
  unfold State.failCapture
  rw [ho]
  extract_lets c was s1 s2
  have h1 : (s1.cam k).capture = none ∧ s1.nat (camIndex k) 22 = (s.nat (camIndex k) 22 + 1) % 2 ^ 32 :=
    ⟨congrArg Camera.capture (s.cam_modCam_same hk _), State.nat_bump _ (odRow_camera hk).2⟩
  have hk1 : Keeps [.boot, .cams, .chips, .draws, .faults, .issues, .jobs, .mail, .od] s s1 :=
    ((s.modCam_keeps k _).mono (by decide)).trans ((State.bump_keeps _ _ _).mono (by decide))
  have h2 : Spares [.boot, .chips, .draws, .faults, .issues, .jobs, .mail, .od] sensorKey s1 s2 :=
    Spares.ite (Spares.refl _ _ _) ((s1.raise_spares _ _ _ _).mono (by decide))
  have h3 := h2.trans ((s2.squashIf_spares fun i => decide (i.kind = 2 ∧ i.index = k ∧ i.k = o.k)).mono (by decide))
  refine ⟨(h3.captures k).trans h1.1, ?_, hk1.trans (h3.steady.keeps.mono (by decide))⟩
  exact (h3.steady.nat (by decide) (camIndex_sensor hk (by decide))).trans h1.2

theorem State.csiStart_begins {s : State} {k : Nat} {o : Capture} (ho : (s.cam k).capture = some o) (hs : o.started = false)
    (hl : s.captureLate k o = false) : s.csiStart k 0 = ((s.evictFrame (8 + k)).modCam k Camera.begun).queueStrips 2 k o.k := by
  unfold State.csiStart
  rw [if_neg (by decide), ho]
  exact if_neg (by simp [hs, hl])

theorem State.csiStart_discards {s : State} {k : Nat}
    (h : ∀ o, (s.cam k).capture = some o → o.started = true ∨ s.captureLate k o = true) :
    s.csiStart k 0 = s.bump (camIndex k) 22 := by
  unfold State.csiStart
  rw [if_neg (by decide)]
  cases ho : (s.cam k).capture with
  | none => rfl
  | some o => exact if_pos (by rcases h o ho with h | h <;> simp [h])

/-- The bytes that a row payload adds to a frame of camera `k` with `rows` rows: its crop, or nothing outside the kept rows (R122). -/
def State.rowBytes (s : State) (k rows : Nat) (b : List Byte) : List Byte :=
  let i := camIndex k
  if decide (s.nat i 15 ≤ rows ∧ rows < s.nat i 15 + s.nat i 17) then
    (List.range (s.nat i 16)).flatMap (fun n => pixelBytes (s.nat i 10) (s.nat i 18) (pixelAt (s.nat i 10) b (s.nat i 14 + n)))
  else []

theorem State.csiRow_takes {s : State} {k : Nat} {o : Capture} {b : List Byte} (ho : (s.cam k).capture = some o)
    (hs : o.started = true) (hl : s.captureLate k o = false)
    (hb : b.length * 8 = s.nat (camIndex k) 11 * pixelBits (s.nat (camIndex k) 10)) (hr : o.rows < s.nat (camIndex k) 12) :
    s.csiRow k 0 (dataType (s.nat (camIndex k) 10)) .ok true b = s.modCam k fun c =>
      { c with capture := some { o with rows := o.rows + 1, data := o.data ++ s.rowBytes k o.rows b } } := by
  unfold State.csiRow
  extract_lets i f s1
  have e1 : s1 = s := if_neg (by decide)
  clear_value s1
  subst e1
  rw [if_neg (by decide), if_neg (by decide), ho]
  dsimp only
  rw [if_neg (by simp [hs]), if_neg (by simp [hl]), if_neg (by decide), if_neg (not_not.mpr rfl),
    if_neg (not_or.mpr ⟨not_not.mpr hb, not_le.mpr hr⟩)]
  rfl

theorem State.csiRow_other {s : State} {vc : Nat} (k : Nat) (hv : vc ≠ 0) (dt : Nat) (crc : Bool) (b : List Byte) :
    s.csiRow k vc dt .ok crc b = s.modCam k fun c => { c with otherVc := c.otherVc + 1 } := by
  unfold State.csiRow
  extract_lets i f s1
  exact (if_neg (by decide)).trans (if_pos hv)

/-- A full frame whose end comes in time closes its capture, is counted, and is staged (R122). -/
theorem State.csiEnd_stages {s : State} {k : Nat} {o : Capture} (ho : (s.cam k).capture = some o)
    (hs : o.started = true) (hl : s.captureLate k o = false) (hr : o.rows = s.nat (camIndex k) 12) :
    ∃ sh f flags, s.csiEnd k 0 = ((s.modCam k Camera.closed).bump (camIndex k) 21).frameReady (8 + k) sh f flags := by
  unfold State.csiEnd
  rw [if_neg (by decide), ho]
  dsimp only
  rw [if_neg (by simp [hs]), if_neg (by simp [hl, hr])]
  exact ⟨_, _, _, rfl⟩

/-- Settles O37: what each packet and the timeout make of the open capture. -/
theorem cameraFrames : Obligations.CameraFrames := by
  unfold Obligations.CameraFrames
  intro s k hk
  refine ⟨fun o ho hs hl => ?_, fun h => ?_, fun o b ho hs hl hb hr => ?_, fun o ho hs hl hr => ?_, fun o ho hl => ?_,
    fun h => ?_, fun vc hv => ?_⟩
  · have h1 := s.evictFrame_spares (8 + k)
    have h2 := State.queueStrips_keeps ((s.evictFrame (8 + k)).modCam k Camera.begun) 2 k o.k
    refine ⟨_, congrArg Host.Outcome.next (State.csiStart_begins ho hs hl), ?_, fun hn => ?_, ?_⟩
    · rw [h2.cam (by decide)]
      refine (congrArg Camera.capture (State.cam_modCam_same _ hk _)).trans ?_
      rw [Camera.begun_capture, h1.captures k, ho]
      rfl
    · have hf : s.evictFrame (8 + k) = s := if_neg (by omega)
      rw [hf] at h2 ⊢
      have hm := s.modCam_of k (f := Camera.begun)
        (x := { s.cam k with capture := some { o with started := true } }) (by simp [Camera.begun, ho])
      exact ⟨(h2 .cams (by decide)).trans (congrArg State.cams hm), ((s.modCam_keeps k _).mono (by decide)).trans (h2.mono (by decide))⟩
    · exact ((h1.steady.keeps.mono (by decide)).trans ((State.modCam_keeps _ k _).mono (by decide))).trans (h2.mono (by decide))
  · exact ⟨_, congrArg Host.Outcome.next (State.csiStart_discards h), State.nat_bump _ (odRow_camera hk).2, s.bump_keeps _ _⟩
  · refine ⟨_, s.rowBytes k o.rows b, congrArg Host.Outcome.next (State.csiRow_takes ho hs hl hb hr),
      congrArg Camera.capture (s.cam_modCam_same hk _), fun hout => if_neg ?_, fun h1 h2 => if_pos (decide_eq_true ⟨h1, h2⟩),
      fun j hj => s.cam_modCam_ne hj _, s.modCam_keeps k _⟩
    rw [decide_eq_true_eq]
    omega
  · obtain ⟨sh, f, flags, e⟩ := State.csiEnd_stages ho hs hl hr
    have h1 : Keeps triggerPieces s _ := ((s.modCam_keeps k Camera.closed).mono (by decide)).trans
      ((State.bump_keeps _ (camIndex k) 21).mono (by decide))
    have h2 := ((s.modCam k Camera.closed).bump (camIndex k) 21).frameReady_spares (8 + k) sh f flags
    refine ⟨_, congrArg Host.Outcome.next e, ?_, ?_, (h1.trans h2.steady.keeps).mono (by decide)⟩
    · exact (h2.captures k).trans (congrArg Camera.capture (s.cam_modCam_same hk _))
    · exact (h2.steady.nat (by decide) (camIndex_sensor hk (by decide))).trans (State.nat_bump _ (odRow_camera hk).1)
  · obtain ⟨hc, hn, hkeep⟩ := s.failCapture_spec hk ho (if o.started then 0x3103 else 0x3101)
    refine ⟨_, congrArg Host.Outcome.next ?_, hc, hn, hkeep⟩
    rw [ho]
    exact if_pos hl
  · refine congrArg Host.Outcome.next ?_
    cases ho : (s.cam k).capture with
    | none => rfl
    | some o => exact if_neg (by simp [h o ho])
  · exact ⟨congrArg Host.Outcome.next (if_pos hv), congrArg Host.Outcome.next (if_pos hv),
      fun dt crc b => congrArg Host.Outcome.next (State.csiRow_other k hv dt crc b)⟩

end Sys2Proof.Machine
end
section
/-! PROOFS. Frames that have passed their last position, and the strips that carry frames to the Loft (R110, R113, R117, R265). -/

namespace Sys2Proof.Machine

/-! ### Folds over channels -/

section
variable {α β : Type} {f : State → α → State} {key : α → Nat} {p : State → Nat → β}
  (ho : ∀ s x c, c ≠ key x → p (f s x) c = p s c)
include ho

/-- A fold whose steps change one place each leaves the places that it does not name. -/
theorem foldl_elsewhere {l : List α} {c : Nat} (hc : c ∉ l.map key) (s : State) : p (l.foldl f s) c = p s c := by
  induction l generalizing s with
  | nil => rfl
  | cons y l ih =>
    rw [List.map_cons, List.mem_cons, not_or] at hc
    exact (ih hc.2 _).trans (ho s y c hc.1)

/-- Where it names each place once, the step for a place finds and leaves there what the fold does. -/
theorem foldl_at {l : List α} (hl : (l.map key).Nodup) {x : α} (hx : x ∈ l) (s : State) :
    ∃ l', p (l.foldl f s) (key x) = p (f (List.foldl f s l') x) (key x) ∧ p (List.foldl f s l') (key x) = p s (key x) := by
  induction l generalizing s with
  | nil => cases hx
  | cons y l ih =>
    rw [List.map_cons, List.nodup_cons] at hl
    rcases List.mem_cons.mp hx with rfl | hx
    · exact ⟨[], foldl_elsewhere ho hl.1 _, rfl⟩
    · obtain ⟨l', h1, h2⟩ := ih hl.2 hx (f s y)
      have hne : key x ≠ key y := fun e => hl.1 (e ▸ List.mem_map_of_mem hx)
      exact ⟨y :: l', h1, h2.trans (ho s y _ hne)⟩

end

section
variable {β : Type} {f : State → Nat → State} {p : State → Nat → β} (ho : ∀ s x c, c ≠ x → p (f s x) c = p s c)
include ho

/-- The same for a fold over the places themselves. -/
theorem foldl_outside {l : List Nat} {c : Nat} (hc : c ∉ l) (s : State) : p (l.foldl f s) c = p s c :=
  foldl_elsewhere (key := id) ho (by rwa [List.map_id]) s

theorem foldl_own {l : List Nat} (hl : l.Nodup) {c : Nat} (hc : c ∈ l) (s : State) :
    ∃ l', p (l.foldl f s) c = p (f (List.foldl f s l') c) c ∧ p (List.foldl f s l') c = p s c :=
  foldl_at (key := id) ho (by rwa [List.map_id]) hc s

end

theorem State.groupChannels_nodup (s : State) (g : Nat) : (s.groupChannels g).Nodup := List.nodup_range.filter _

theorem State.lt_of_groupChannels {s : State} {g c : Nat} (h : c ∈ s.groupChannels g) : c < 8 :=
  List.mem_range.mp (List.mem_filter.mp h).1

/-! ### The counters of a channel (Table 3.2) -/

theorem odRow_channel {c : Nat} (hc : c < 8) :
    (odRow (0x2300 + c) 18).map (fun r => r.ty.bits) = some 32 ∧ (odRow (0x2300 + c) 19).map (fun r => r.ty.bits) = some 32 := by
  interval_cases c <;> exact ⟨rfl, rfl⟩

theorem State.nat_add_ne (s : State) {i j a b n : Nat} (h : odKey a b ≠ odKey i j) : (s.add i j n).nat a b = s.nat a b :=
  State.nat_setNum_ne s _ h

/-- A frame counted on a channel, with its saturated values. -/
def State.countFrame (s : State) (q : Nat × Nat) : State := (s.add (0x2300 + q.1) 20 q.2).bump (0x2300 + q.1) 18

theorem State.countFrame_keeps (s : State) (q : Nat × Nat) : Keeps [.od] s (s.countFrame q) :=
  (s.add_keeps _ _ _).trans (State.bump_keeps _ _ _)

theorem State.countFrame_other (s : State) (q : Nat × Nat) (c : Nat) (h : c ≠ q.1) :
    (s.countFrame q).nat (0x2300 + c) 18 = s.nat (0x2300 + c) 18 :=
  (State.nat_add_ne _ (odKey_ne (by decide) (by decide) (Or.inl (by omega)))).trans
    (State.nat_add_ne _ (odKey_ne (by decide) (by decide) (Or.inr (by decide))))

theorem State.countFrame_own (s : State) (q : Nat × Nat) (h : q.1 < 8) :
    (s.countFrame q).nat (0x2300 + q.1) 18 = (s.nat (0x2300 + q.1) 18 + 1) % 2 ^ 32 := by
  rw [State.countFrame, State.nat_bump _ (odRow_channel h).1, State.nat_add_ne _ (odKey_ne (by decide) (by decide) (Or.inr (by decide)))]

/-- A frame counted on each channel of a list. -/
theorem State.countFrames_at (s : State) {l : List (Nat × Nat)} (hl : (l.map Prod.fst).Nodup) {q : Nat × Nat} (hq : q ∈ l)
    (h : q.1 < 8) : (l.foldl State.countFrame s).nat (0x2300 + q.1) 18 = (s.nat (0x2300 + q.1) 18 + 1) % 2 ^ 32 := by
  obtain ⟨l', h1, h2⟩ := foldl_at (p := fun s c => s.nat (0x2300 + c) 18) State.countFrame_other hl hq s
  rw [h1, State.countFrame_own _ q h, h2]

/-- A frame that is not analysed is counted so on each channel of its group (R114). -/
theorem State.stopFrame_count (s : State) (g cause : Nat) (r : FrameRun) {c : Nat} (hc : c ∈ s.groupChannels g) :
    (s.stopFrame g cause r).nat (0x2300 + c) 19 = (s.nat (0x2300 + c) 19 + 1) % 2 ^ 32 := by
  unfold State.stopFrame
  extract_lets cs sh x flags h
  have h8 : c < 8 := State.lt_of_groupChannels hc
  have h1 := State.notAnalysed_counted (s.modGroup g fun y => { y with stopped := h }) g cause r.k
  rw [h1.steady.nat (by decide) (sensorKey_odKey (by omega) (by decide))]
  obtain ⟨l', h2, h3⟩ := foldl_own (f := fun s c => s.bump (0x2300 + c) 19) (p := fun s c => s.nat (0x2300 + c) 19)
    (fun s x c h => State.nat_add_ne s (odKey_ne (by decide) (by decide) (Or.inl (by omega))))
    (s.groupChannels_nodup g) hc (s.modGroup g fun y => { y with stopped := h })
  exact h2.trans ((State.nat_bump _ (odRow_channel h8).2).trans (congrArg (fun n => (n + 1) % 2 ^ 32) h3))

/-! ### The oldest frame of a group -/

/-- The oldest frame of a group leaves the frames under way. -/
def State.dropRun (s : State) (g : Nat) (rest : List FrameRun) : State := s.modGroup g fun x => { x with
  runs := rest, edges := if rest.isEmpty then x.edges.take 2 else x.edges }

theorem State.group_modGroup_same (s : State) {g : Nat} (hg : g < 8) (f : Group → Group) : (s.modGroup g f).group g = f (s.group g) :=
  vget_vmod_same _ _ hg

theorem State.dropRun_runs (s : State) {g : Nat} (hg : g < 8) (rest : List FrameRun) : ((s.dropRun g rest).group g).runs = rest :=
  congrArg Group.runs (s.group_modGroup_same hg _)

theorem State.frameComplete_lost {s : State} {g : Nat} {r : FrameRun} {rest : List FrameRun} {v : Int × Nat × Int}
    (hr : (s.group g).runs = r :: rest) (hv : r.last = some v) (hl : (s.groupChannels g).any s.chanLost = true) :
    s.frameComplete g = (s.dropRun g rest).stopFrame g 6 r := by
  unfold State.frameComplete
  rw [hr]
  dsimp only
  rw [hv]
  exact if_pos hl

theorem State.frameComplete_whole {s : State} {g : Nat} {r : FrameRun} {rest : List FrameRun} {v : Int × Nat × Int}
    (hr : (s.group g).runs = r :: rest) (hv : r.last = some v) (hl : (s.groupChannels g).any s.chanLost = false) :
    ∃ (sats : List (Nat × Nat)) (sh : Nat) (f : Frame) (flags : Nat), sats.map Prod.fst = s.groupChannels g
      ∧ s.frameComplete g = (((sats.foldl State.countFrame s).dropRun g rest).modGroup g
          fun x => { x with notAnalysed := false }).frameReady g sh f flags := by
  unfold State.frameComplete
  rw [hr]
  dsimp only
  rw [hv]
  refine ⟨(s.frameData g r (s.frameOrder g r)).2, _, _, _, ?_, if_neg (by simp [hl])⟩
  simp [State.frameData, Function.comp_def]

/-! ### Strips (R265) -/

/-- The strip transfers of a chip: under way, and waiting in Reeve. -/
def Chip.transfers (x : Chip) : List (StripFor × Nat) × List (StripFor × Nat) := (x.strips, x.stripsWait)

/-- A strip transfer of a chip has ended. -/
def Chip.stripOut (e : StripFor × Nat) (x : Chip) : Chip := { x with strips := x.strips.erase e }.feedStrips

theorem Chip.stripOut_first {x : Chip} {e : StripFor × Nat} {rest : List (StripFor × Nat)} (h : x.strips = e :: rest) :
    x.stripOut e = { x with strips := rest }.feedStrips := by simp [Chip.stripOut, h]

theorem Chip.stripOut_strips {x y : Chip} {e : StripFor × Nat} {rest : List (StripFor × Nat)} (h : x.strips = e :: rest)
    (hy : y.transfers = x.transfers) : (y.stripOut e).strips = rest ++ x.stripsWait.take (16 - rest.length) := by
  have h1 : y.strips = x.strips := congrArg Prod.fst hy
  have h2 : y.stripsWait = x.stripsWait := congrArg Prod.snd hy
  rw [Chip.stripOut_first (h1.trans h), ← h2, Chip.feedStrips]

/-- Bytes written into a Loft are no matter of any other chip, nor of the transfers. -/
theorem State.loftWrite_strips (s : State) (i : Issue) (p : PartRun) (h : Nat) (w : List (Nat × Byte)) :
    sameChips p.chip s (s.loftWrite i p h w) ∧ chipsAgree Chip.transfers s (s.loftWrite i p h w) := by
  unfold State.loftWrite
  induction w generalizing s with
  | nil => exact ⟨fun _ _ => rfl, chipsAgree.refl _ s⟩
  | cons o w ih =>
    rw [List.foldl_cons]
    split
    · next x _ =>
      have hg (y : Chip) : Chip.transfers { y with loft := memWrite y.loft x o.2 } = y.transfers := rfl
      obtain ⟨h1, h2⟩ := ih (s.modChip p.chip fun c => { c with loft := memWrite c.loft x o.2 })
      exact ⟨(s.modChip_others _ _).trans h1, (s.modChip_agree p.chip hg).trans h2⟩
    · exact ih s

/-- What the end of a transfer leaves: the queue of its chip, from which it has gone. -/
theorem State.stripDone_first {s t : State} {c : Nat} {e : StripFor × Nat} {rest : List (StripFor × Nat)}
    (hq : (s.chip c).strips = e :: rest) (ht : s.stripTry c e = some t) : s.stripDone c = t.modChip c (Chip.stripOut e) := by
  unfold State.stripDone
  rw [hq, List.findSome?_cons, ht]
  rfl

theorem State.stripDone_idle {s : State} {c : Nat} (hq : (s.chip c).strips = []) : s.stripDone c = s := by
  unfold State.stripDone
  rw [hq]
  rfl

theorem State.stripDone_waits {s : State} {c : Nat} {e : StripFor × Nat} (hq : (s.chip c).strips = [e])
    (ht : s.stripTry c e = none) : s.stripDone c = s := by
  unfold State.stripDone
  rw [hq, List.findSome?_cons, ht]
  rfl

/-- A transfer that has become needless leaves the queue as it is. -/
theorem State.stripDone_needless {s : State} {c : Nat} {e : StripFor × Nat} {rest : List (StripFor × Nat)}
    (hq : (s.chip c).strips = e :: rest) (ht : s.stripTry c e = some s) :
    s.stripDone c = { s with chips := vset s.chips c { s.chip c with strips := rest }.feedStrips } := by
  rw [State.stripDone_first hq ht, ← Chip.stripOut_first hq]
  rfl

/-- A transfer that writes into the Loft of its chip leaves the queue, and the next ones take its place. -/
theorem State.stripDone_moves {s t : State} {c : Nat} {e : StripFor × Nat} {rest : List (StripFor × Nat)} (hc : c < 16)
    (hq : (s.chip c).strips = e :: rest) (ht : s.stripTry c e = some t) (ho : sameChips c s t)
    (ha : chipsAgree Chip.transfers s t) :
    ((s.stripDone c).chip c).strips = rest ++ (s.chip c).stripsWait.take (16 - rest.length) ∧ sameChips c s (s.stripDone c)
      ∧ Keeps [.chips] t (s.stripDone c) := by
  rw [State.stripDone_first hq ht]
  refine ⟨?_, ho.trans (t.modChip_others c _), keeps_chips t _⟩
  rw [State.chip_modChip_same _ hc]
  exact Chip.stripOut_strips hq (ha c)

/-- The part of an issue on a chip runs there. -/
theorem Issue.part_chip {i : Issue} {c : Nat} {p : PartRun} (h : i.part c = some p) : p.chip = c := by
  unfold Issue.part at h
  exact of_decide_eq_true (List.find?_some (p := fun p : PartRun => decide (p.chip = c)) h)

/-- An issue that is changed under its number is found changed. -/
theorem State.issue_modIssue {s : State} {id : Nat} {i : Issue} {f : Issue → Issue} (hf : ∀ x, (f x).id = x.id)
    (h : s.issue id = some i) : (s.modIssue id f).issue id = some (f i) := by
  have hid : i.id = id := of_decide_eq_true (List.find?_some (p := fun x : Issue => decide (x.id = id)) h)
  have hpred : (fun x : Issue => decide (x.id = id)) ∘ (fun x => if x.id = id then f x else x)
      = fun x : Issue => decide (x.id = id) := by
    funext x
    by_cases hx : x.id = id <;> simp [hx, hf]
  rw [State.issue] at h
  rw [State.issue, State.modIssue, List.find?_map, hpred, h, Option.map_some, if_pos hid]

theorem State.stripTry_issueGone {s : State} {c id n : Nat} (h : s.issue id = none) : s.stripTry c (.issue id, n) = some s := by
  simp [State.stripTry, h]

/-- A strip of an issue that runs on the chip is written into its Loft, and noted with the issue. -/
theorem State.stripTry_issue {s : State} {c id n : Nat} {i : Issue} {p : PartRun} {b : List Byte} (hi : s.issue id = some i)
    (hp : i.part c = some p) (hcopy : p.copy.isSome = true) (hb : s.stripData i.kind i.index i.k n = some b) :
    ∃ h w, s.stripTry c (.issue id, n)
      = some ((s.loftWrite i p h w).modIssue id fun i => { i with stripsIn := (c, n) :: i.stripsIn }) := by
  have hn : p.copy.isNone = false := by simpa using hcopy
  simp only [State.stripTry, hi, hp, hb, hn, Option.bind_some, Option.map_some, Bool.false_eq_true, if_false]
  exact ⟨_, _, rfl⟩

theorem State.stripTry_frameGone {s : State} {c t j n : Nat} {k : Int} {m : Model} (hm : s.jobModel t j = some m)
    (hu : s.underWay (s.jobDesc t j).kind (s.jobDesc t j).index k = false) : s.stripTry c (.job t j k, n) = some s := by
  simp [State.stripTry, hm, hu]

theorem State.stripTry_jobWaits {s : State} {c t j n : Nat} {k : Int} {m : Model} {o : Issue} (hm : s.jobModel t j = some m)
    (hu : s.underWay (s.jobDesc t j).kind (s.jobDesc t j).index k = true) (ho : o ∈ s.issues) (hot : o.tenant = t)
    (hoj : o.job = j) (hf : o.finished = false) : s.stripTry c (.job t j k, n) = none := by
  have hany : s.issues.any (fun o => decide (o.tenant = t ∧ o.job = j) && !o.finished) = true :=
    List.any_eq_true.mpr ⟨o, ho, by simp [hot, hoj, hf]⟩
  simp only [State.stripTry, hm, hu, hany, Bool.not_true, Bool.false_eq_true, if_false, if_true]

/-- Writes into the Loft of one chip, for one partition after the other. -/
theorem State.loftWrites_strips {c : Nat} {i : Issue} {h : Nat} {p : Placed × Nat → PartRun} {w : State → List (Nat × Byte)}
    {l : List (Placed × Nat)} (hl : ∀ q ∈ l, (p q).chip = c) (s : State) :
    sameChips c s (l.foldl (fun s q => s.loftWrite i (p q) h (w s)) s)
      ∧ chipsAgree Chip.transfers s (l.foldl (fun s q => s.loftWrite i (p q) h (w s)) s)
      ∧ Keeps [.chips] s (l.foldl (fun s q => s.loftWrite i (p q) h (w s)) s) := by
  induction l generalizing s with
  | nil => exact ⟨fun _ _ => rfl, chipsAgree.refl _ s, Keeps.refl _ s⟩
  | cons q l ih =>
    obtain ⟨h1, h2⟩ := s.loftWrite_strips i (p q) h (w s)
    obtain ⟨k1, k2, k3⟩ := ih (fun x hx => hl x (List.mem_cons_of_mem q hx)) (s.loftWrite i (p q) h (w s))
    rw [hl q List.mem_cons_self] at h1
    exact ⟨h1.trans k1, h2.trans k2, (s.loftWrite_keeps i (p q) h (w s)).trans k3⟩

/-- A strip for a job that waits for the complete frame is written into the Loft of the chip alone. -/
theorem State.stripTry_job {s : State} {c t j n : Nat} {k : Int} {m : Model} {b : List Byte} (hm : s.jobModel t j = some m)
    (hu : s.underWay (s.jobDesc t j).kind (s.jobDesc t j).index k = true)
    (hf : ∀ o ∈ s.issues, o.tenant = t → o.job = j → o.finished = true)
    (hb : s.stripData (s.jobDesc t j).kind (s.jobDesc t j).index k n = some b) :
    ∃ u, s.stripTry c (.job t j k, n) = some u ∧ sameChips c s u ∧ chipsAgree Chip.transfers s u ∧ Keeps [.chips] s u := by
  have hany : s.issues.any (fun o => decide (o.tenant = t ∧ o.job = j) && !o.finished) = false := by
    rw [List.any_eq_false]
    intro o ho h
    simp only [Bool.and_eq_true, decide_eq_true_eq, Bool.not_eq_true'] at h
    rw [hf o ho h.1.1 h.1.2] at h
    exact Bool.noConfusion h.2
  simp only [State.stripTry, hm, hu, hany, hb, Bool.not_true, Bool.false_eq_true, if_false, Option.map_some]
  refine ⟨_, rfl, State.loftWrites_strips (fun q hq => ?_) s⟩
  exact of_decide_eq_true (List.mem_filter.mp hq).2

/-- Settles O35: the oldest frame of a group, and the first transfer of a chip. -/
theorem framesComplete : Obligations.FramesComplete := by
  unfold Obligations.FramesComplete
  intro s
  refine ⟨fun g _ hr => ?_, fun g r rest hr hv => ?_, fun g r rest v hg hr hv hl => ?_, fun g r rest v hg hr hv hl => ?_,
    fun c hq => ?_, fun c id n rest hc hq hi => ?_, fun c id n rest i p b hc hq hi hp hcopy hb => ?_,
    fun c t j k n rest m hc hq hm hu => ?_, fun c t j k n rest m b hc hq hm hu hf hb => ?_,
    fun c t j k n m o hq hm hu ho hot hoj hf => ?_⟩
  · exact congrArg Host.Outcome.next (by rw [State.frameComplete, hr])
  · exact congrArg Host.Outcome.next (by rw [State.frameComplete, hr]; dsimp only; rw [hv])
  · obtain ⟨sats, sh, f, flags, hsats, e⟩ := State.frameComplete_whole hr hv hl
    have h0 : Keeps [.od] s (sats.foldl State.countFrame s) := Keeps.foldl State.countFrame_keeps (Keeps.refl _ s)
    have h1 : Spares [.groups] sensorKey ((sats.foldl State.countFrame s).dropRun g rest) _ :=
      Spares.modGroup _ g (f := fun x => { x with notAnalysed := false }) (by decide) fun _ => rfl
    have h2 := h1.mono (l := triggerPieces) (by decide) |>.trans (State.frameReady_spares _ g sh f flags)
    refine ⟨_, congrArg Host.Outcome.next e, ?_, fun c hc => ?_, ?_⟩
    · exact (h2.runs g).trans (State.dropRun_runs _ hg rest)
    · obtain ⟨q, hq, rfl⟩ := List.mem_map.mp (hsats.symm ▸ hc)
      have h8 : q.1 < 8 := State.lt_of_groupChannels hc
      exact (h2.steady.nat (by decide) (sensorKey_odKey (by omega) (by decide))).trans
        (s.countFrames_at (by rw [hsats]; exact s.groupChannels_nodup g) hq h8)
    · exact ((h0.mono (by decide)).trans ((keeps_groups _ _).mono (by decide))).trans h2.steady.keeps
  · have h1 := (s.dropRun g rest).stopFrame_spares g 6 r
    refine ⟨_, congrArg Host.Outcome.next (State.frameComplete_lost hr hv hl), ?_, fun c hc => ?_, ?_⟩
    · exact (h1.runs g).trans (s.dropRun_runs hg rest)
    · exact State.stopFrame_count (s.dropRun g rest) g 6 r hc
    · exact ((keeps_groups s _).mono (by decide)).trans h1.steady.keeps
  · exact congrArg Host.Outcome.next (State.stripDone_idle hq)
  · exact congrArg Host.Outcome.next (State.stripDone_needless hq (State.stripTry_issueGone hi))
  · obtain ⟨h, w, e⟩ := State.stripTry_issue hi hp hcopy hb
    have h1 := s.loftWrite_strips i p h w
    have hpc : p.chip = c := Issue.part_chip hp
    rw [hpc] at h1
    obtain ⟨k1, k2, k3⟩ := State.stripDone_moves hc hq e h1.1 h1.2
    refine ⟨_, rfl, k1, ?_, k2, ?_⟩
    · rw [State.issue, k3 .issues (by decide)]
      refine State.issue_modIssue (fun _ => rfl) ?_
      rw [State.issue, s.loftWrite_keeps i p h w .issues (by decide)]
      exact hi
    · exact (((s.loftWrite_keeps i p h w).mono (by decide)).trans ((keeps_issues _ _).mono (by decide))).trans (k3.mono (by decide))
  · exact congrArg Host.Outcome.next (State.stripDone_needless hq (State.stripTry_frameGone hm hu))
  · obtain ⟨u, e, ho, ha, hk⟩ := State.stripTry_job hm hu hf hb
    obtain ⟨h1, h2, h3⟩ := State.stripDone_moves hc hq e ho ha
    exact ⟨_, rfl, h1, h2, hk.trans h3⟩
  · exact congrArg Host.Outcome.next (State.stripDone_waits hq (State.stripTry_jobWaits hm hu ho hot hoj hf))

end Sys2Proof.Machine
end
section
/-! PROOFS. Serial-audio ports: their frames, the loss of their clock and their measured rate (R101, R108, R116, R117). -/

namespace Sys2Proof.Machine

/-! ### Channels and ports -/

theorem keeps_channels (s : State) (v : Vector Channel 8) : Keeps [.channels] s { s with channels := v } := fun p hp => by
  cases p <;> simp at hp <;> rfl
theorem keeps_ports (s : State) (v : Vector TdmPort 2) : Keeps [.ports] s { s with ports := v } := fun p hp => by
  cases p <;> simp at hp <;> rfl

theorem State.modChan_keeps (s : State) (c : Nat) (f : Channel → Channel) : Keeps [.channels] s (s.modChan c f) := keeps_channels s _
theorem State.modTdm_keeps (s : State) (p : Nat) (f : TdmPort → TdmPort) : Keeps [.ports] s (s.modTdm p f) := keeps_ports s _

theorem State.tdm_modTdm_same (s : State) {p : Nat} (hp : p < 2) (f : TdmPort → TdmPort) : (s.modTdm p f).tdm p = f (s.tdm p) :=
  vget_vmod_same _ _ hp

theorem State.tdm_modTdm_ne (s : State) {p q : Nat} (h : q ≠ p) (f : TdmPort → TdmPort) : (s.modTdm p f).tdm q = s.tdm q :=
  vget_vmod_ne _ _ h.symm

theorem State.chan_modChan_same (s : State) {c : Nat} (hc : c < 8) (f : Channel → Channel) : (s.modChan c f).chan c = f (s.chan c) :=
  vget_vmod_same _ _ hc

theorem State.chan_modChan_ne (s : State) {c d : Nat} (h : d ≠ c) (f : Channel → Channel) : (s.modChan c f).chan d = s.chan d :=
  vget_vmod_ne _ _ h.symm

section
variable {l : List Piece} {q : Nat → Bool} {s t : State}

theorem Keeps.tdm (h : Keeps l s t) (hl : Piece.ports ∉ l) (p : Nat) : t.tdm p = s.tdm p := congrArg (vget · p) (h .ports hl)

theorem Keeps.chan (h : Keeps l s t) (hl : Piece.channels ∉ l) (c : Nat) : t.chan c = s.chan c := congrArg (vget · c) (h .channels hl)

/-- While the configuration of the channels stands, a port keeps its channels. -/
theorem Steady.portChannels (h : Steady l setupKey s t) (p : Nat) : t.portChannels p = s.portChannels p := by
  refine List.filter_congr fun c hc => ?_
  have hc := List.mem_range.mp hc
  rw [State.chanOn, State.chanOn, h.flag (by decide) (setupKey_odKey (by omega) (by decide)),
    h.nat (by decide) (setupKey_odKey (by omega) (by decide))]

theorem State.lt_of_portChannels {p c : Nat} (h : c ∈ s.portChannels p) : c < 8 := List.mem_range.mp (List.mem_filter.mp h).1

theorem State.portChannels_nodup (s : State) (p : Nat) : (s.portChannels p).Nodup := List.nodup_range.filter _

theorem Steady.chanNat (h : Steady l setupKey s t) {c j : Nat} (hc : c < 8) (hj : j < 18) :
    t.nat (0x2300 + c) j = s.nat (0x2300 + c) j := h.nat (by omega) (setupKey_odKey (by omega) hj)

theorem Steady.masterPort (h : Steady l setupKey s t) (p : Nat) : t.masterPort p = s.masterPort p := by
  have hc : (s.portChannels p).headD 0 < 8 := by
    cases hl : s.portChannels p with
    | nil => decide
    | cons c _ => exact State.lt_of_portChannels (p := p) (s := s) (by rw [hl]; exact List.mem_cons_self)
  rw [State.masterPort, h.portChannels, h.chanNat hc (by decide)]
  rfl

theorem Steady.sampleTime (h : Steady l setupKey s t) (hl : Piece.timebase ∉ l) {c : Nat} (hc : c < 8) (last : Option Nat) :
    t.sampleTime c last = s.sampleTime c last := by
  have ht : t.timebase = s.timebase := h.keeps .timebase hl
  simp only [State.sampleTime, h.chanNat hc (show 6 < 18 by decide), h.chanNat hc (show 3 < 18 by decide),
    h.chanNat hc (show 8 < 18 by decide), h.chanNat hc (show 7 < 18 by decide), ht]

end

/-! ### Frames under way that end -/

/-- The frames under way that fail leave those of the group alone that do not, and of every other group. -/
theorem State.failRuns_runs (s : State) (g cause : Nat) (p : FrameRun → Bool) (h : Nat) :
    ((s.failRuns g cause p).group h).runs = if h = g then (s.group g).runs.filter (fun r => !p r) else (s.group h).runs := by
  have h1 : Spares haltPieces shownKey (s.modGroup g fun x => { x with runs := x.runs.filter (fun r => !p r) }) (s.failRuns g cause p) :=
    Spares.foldl (fun s r => s.stopFrame_spares g cause r) _
  rw [h1.runs h]
  split
  · next e =>
    subst e
    by_cases hh : h < 8
    · exact congrArg Group.runs (s.group_modGroup_same hh _)
    · have hv : vget s.groups h = default := by simp [vget, hh]
      have hm : vmod s.groups h (fun x => { x with runs := x.runs.filter (fun r => !p r) }) = s.groups := by
        ext j hj
        simp [vmod, vset, Vector.getElem_setIfInBounds_ne, show h ≠ j by omega]
      rw [State.group, State.modGroup_groups, hm, State.group, hv]
      rfl
  · next e => exact congrArg Group.runs (vget_vmod_ne _ _ (Ne.symm e))

/-- Where no frame is under way, none fails. -/
theorem State.failRuns_none {s : State} {g : Nat} (cause : Nat) (p : FrameRun → Bool) (h : (s.group g).runs = []) :
    Keeps [.groups] s (s.failRuns g cause p) := by
  unfold State.failRuns
  rw [h]
  exact keeps_groups s _

theorem State.failRuns_shown (s : State) (g cause : Nat) (p : FrameRun → Bool) :
    Steady haltPieces shownKey s (s.failRuns g cause p) :=
  (Steady.of_keeps (keeps_groups s _) (by decide) (by decide)).trans
    (Steady.foldl (fun s r => (s.stopFrame_spares g cause r).steady) _)

theorem State.loseChannel_shown (s : State) (c : Nat) : Steady haltPieces shownKey s (s.loseChannel c) := s.failRuns_shown _ _ _

/-- The frames under way of a channel's group end where the channel is lost. -/
theorem State.loseChannel_runs (s : State) (c h : Nat) :
    ((s.loseChannel c).group h).runs = if h = s.nat (0x2300 + c) 14 then [] else (s.group h).runs := by
  rw [State.loseChannel, State.failRuns_runs]
  simp

section
variable {s : State} {l : List Nat}

theorem State.loseChannels_shown (s : State) (l : List Nat) : Steady haltPieces shownKey s (l.foldl State.loseChannel s) :=
  Steady.foldl State.loseChannel_shown s

theorem State.loseChannels_stay {h : Nat} (hr : (s.group h).runs = []) : ((l.foldl State.loseChannel s).group h).runs = [] := by
  induction l generalizing s with
  | nil => exact hr
  | cons c l ih =>
    refine ih ?_
    rw [State.loseChannel_runs, hr, ite_self]

/-- The groups of all channels that are lost have no frame under way left. -/
theorem State.loseChannels_runs (hl : ∀ c ∈ l, c < 8) {c : Nat} (hc : c ∈ l) :
    ((l.foldl State.loseChannel s).group (s.nat (0x2300 + c) 14)).runs = [] := by
  induction l generalizing s with
  | nil => cases hc
  | cons d l ih =>
    rcases List.mem_cons.mp hc with rfl | hc
    · exact State.loseChannels_stay (s := s.loseChannel c) (by rw [State.loseChannel_runs, if_pos rfl])
    · have hn := ((s.loseChannel_shown d).weaken shownKey_of_setupKey).chanNat (hl c (List.mem_cons_of_mem d hc)) (show 14 < 18 by decide)
      rw [← hn]
      exact ih (fun c hc => hl c (List.mem_cons_of_mem d hc)) hc

/-- Where none of them has a frame under way, nothing but the groups changes. -/
theorem State.loseChannels_none (hr : ∀ c ∈ l, (s.group (s.nat (0x2300 + c) 14)).runs = []) (hl : ∀ c ∈ l, c < 8) :
    Keeps [.groups] s (l.foldl State.loseChannel s) := by
  induction l generalizing s with
  | nil => exact Keeps.refl _ s
  | cons d l ih =>
    have h1 : Keeps [.groups] s (s.loseChannel d) := State.failRuns_none _ _ (hr d List.mem_cons_self)
    refine h1.trans (ih (fun c hc => ?_) fun c hc => hl c (List.mem_cons_of_mem d hc))
    rw [State.nat_of_od (h1 .od (by decide)), State.loseChannel_runs, hr c (List.mem_cons_of_mem d hc), ite_self]

end

end Sys2Proof.Machine
end
section
/-! PROOFS. What each command on a serial-audio port does (Table 3.2, R116, R117). -/

namespace Sys2Proof.Machine

/-! ### Samples -/

/-- What a sample may change: its channel, and where the channel becomes stuck what a lost one does. -/
def samplePieces : List Piece := .channels :: haltPieces

theorem State.takeSample_shown (s : State) (c time : Nat) (x : Int) : Steady samplePieces shownKey s (s.takeSample c time x) := by
  unfold State.takeSample
  extract_lets y code same stuck keep s1
  have h1 : Steady samplePieces shownKey s s1 := Steady.of_keeps (s.modChan_keeps c _) (by decide) (by decide)
  have h2 : Steady samplePieces shownKey s1 (s1.raise 0x3001 (channelUnit c) noTenant (4096 * c)) :=
    ((s1.raise_sensors _ _ _ _).mono (by decide)).weaken sensorKey_of_shownKey
  exact Steady.ite ((h1.trans h2).trans ((State.loseChannel_shown _ c).mono (by decide))) h1

theorem State.takeSample_chan (s : State) (c time : Nat) (x : Int) :
    (∀ d, d ≠ c → (s.takeSample c time x).chan d = s.chan d)
      ∧ (c < 8 → ((s.takeSample c time x).chan c).samples.head? = some (time, x)) := by
  unfold State.takeSample
  extract_lets y code same stuck keep s1
  have hs (d : Nat) : (if stuck && !y.stuck then (s1.raise 0x3001 (channelUnit c) noTenant (4096 * c)).loseChannel c
      else s1).chan d = s1.chan d := by
    refine Keeps.chan (l := haltPieces) ?_ (by decide) d
    exact Keeps.ite (((s1.raise_keeps _ _ _ _).mono (by decide)).trans (State.loseChannel_shown _ c).keeps) (Keeps.refl _ _)
  have hkeep : 0 < keep := by
    unfold keep
    split <;> omega
  refine ⟨fun d hd => (hs d).trans (s.chan_modChan_ne hd _), fun hc => ?_⟩
  rw [hs, s.chan_modChan_same hc]
  obtain ⟨n, hn⟩ : ∃ n, keep = n + 1 := ⟨keep - 1, by omega⟩
  rw [hn, List.take_succ_cons, List.head?_cons]

/-- The sample of a channel's slot in a frame (R101, R108). -/
def State.takeSlot (slots : List Nat) (last : Option Nat) (s : State) (c : Nat) : State :=
  s.takeSample c (s.sampleTime c last)
    (slotSample (s.nat (0x2300 + c) 4) (s.nat (0x2300 + c) 5) ((slots[s.nat (0x2300 + c) 3]?).getD 0))

/-- The sample of a channel in a bridged frame (R116). -/
def State.bridge (last : Option Nat) (s : State) (c : Nat) : State := (s.repeatSample c (s.sampleTime c last)).flagChannel c 7

theorem State.bridge_keeps (last : Option Nat) (s : State) (c : Nat) : Keeps [.channels, .groups] s (s.bridge last c) :=
  ((s.modChan_keeps c _).mono (by decide)).trans ((keeps_groups _ _).mono (by decide))

theorem State.bridge_chan (last : Option Nat) (s : State) (c : Nat) :
    (∀ d, d ≠ c → (s.bridge last c).chan d = s.chan d)
      ∧ (c < 8 → ((s.bridge last c).chan c).samples.head?
        = some (s.sampleTime c last, (((s.chan c).samples.head?).map Prod.snd).getD 0)) :=
  ⟨fun _ hd => s.chan_modChan_ne hd _, fun hc => congrArg (fun x => x.samples.head?) (s.chan_modChan_same hc _)⟩

section
variable {s : State} {l : List Nat} (slots : List Nat) (last : Option Nat)

theorem State.takeSlots_shown (s : State) (l : List Nat) :
    Steady samplePieces shownKey s (l.foldl (State.takeSlot slots last) s) :=
  Steady.foldl (fun s _ => s.takeSample_shown _ _ _) s

theorem State.takeSlots_other {c : Nat} (hc : c ∉ l) : (l.foldl (State.takeSlot slots last) s).chan c = s.chan c :=
  foldl_outside (p := State.chan) (fun s _ c h => (s.takeSample_chan _ _ _).1 c h) hc s

/-- The newest sample of each channel that takes the one of its slot. -/
theorem State.takeSlots_sample (hl : l.Nodup) {c : Nat} (hc : c ∈ l) (h8 : c < 8) :
    ((l.foldl (State.takeSlot slots last) s).chan c).samples.head? = some (s.sampleTime c last,
      slotSample (s.nat (0x2300 + c) 4) (s.nat (0x2300 + c) 5) ((slots[s.nat (0x2300 + c) 3]?).getD 0)) := by
  obtain ⟨l', h, -⟩ := foldl_own (f := State.takeSlot slots last) (p := State.chan)
    (fun s _ c h => (s.takeSample_chan _ _ _).1 c h) hl hc s
  have hst := (s.takeSlots_shown slots last l').weaken shownKey_of_setupKey
  rw [h, State.takeSlot, (State.takeSample_chan _ _ _ _).2 h8, hst.sampleTime (by decide) h8, hst.chanNat h8 (by decide),
    hst.chanNat h8 (by decide), hst.chanNat h8 (by decide)]

theorem State.bridges_keeps (s : State) (l : List Nat) : Keeps [.channels, .groups] s (l.foldl (State.bridge last) s) :=
  Keeps.foldl (fun s c => s.bridge_keeps last c) (Keeps.refl _ s)

/-- The newest sample of each channel of a bridged frame is its last one again. -/
theorem State.bridges_sample (hl : l.Nodup) {c : Nat} (hc : c ∈ l) (h8 : c < 8) :
    ((l.foldl (State.bridge last) s).chan c).samples.head?
      = some (s.sampleTime c last, (((s.chan c).samples.head?).map Prod.snd).getD 0) := by
  obtain ⟨l', h, h'⟩ := foldl_own (f := State.bridge last) (p := State.chan) (fun s x c h => (s.bridge_chan last x).1 c h) hl hc s
  have hst : Steady [.channels, .groups] setupKey s (l'.foldl (State.bridge last) s) :=
    Steady.of_keeps (s.bridges_keeps last l') (by decide) (by decide)
  rw [h, (State.bridge_chan last _ c).2 h8, hst.sampleTime (by decide) h8, h']

end

/-! ### Records about a port -/

section
variable (s : State) (p : Nat) (f : TdmPort → TdmPort) (a b c d : Nat)

theorem State.portRecord_setup : Steady [.ports, .od, .boot, .mail, .faults] setupKey s ((s.modTdm p f).raise a b c d) :=
  (Steady.of_keeps (s.modTdm_keeps p f) (by decide) (by decide)).trans
    (((State.raise_sensors _ a b c d).mono (by decide)).weaken sensorKey_of_setupKey)

theorem State.portRecord_tdm (hp : p < 2) : ((s.modTdm p f).raise a b c d).tdm p = f (s.tdm p) :=
  ((State.raise_keeps _ a b c d).tdm (by decide) p).trans (s.tdm_modTdm_same hp f)

end

/-! ### Frames -/

/-- A port on which a frame of the right length has ended. -/
def TdmPort.received (y : TdmPort) (now : Nat) : TdmPort :=
  { y with sync := some now, bad := 0, slip := false, bridged := false, clockLoss := false, good := min 16 (y.good + 1) }

/-- A port on which a first frame of the wrong length has ended. -/
def TdmPort.slipped (y : TdmPort) (now : Nat) : TdmPort :=
  { y with bad := 1, slip := true, sync := some now, good := if y.good < 16 then 0 else y.good }

theorem State.tdmFrame_good {s : State} {p bits : Nat} (slots : List Nat) (hr : s.runs = true) (hn : s.portChannels p ≠ [])
    (hb : s.masterPort p = true ∨ bits = s.nat (0x2300 + (s.portChannels p).headD 0) 6 * s.nat (0x2300 + (s.portChannels p).headD 0) 5) :
    s.tdmFrame p slots bits
      = (s.portChannels p).foldl (State.takeSlot slots (s.tdm p).sync) (s.modTdm p fun y => y.received s.timebase) := by
  unfold State.tdmFrame
  cases hl : s.portChannels p with
  | nil => exact absurd hl hn
  | cons c l =>
    rw [hl] at hb
    dsimp only
    rw [if_neg (by simp [hr]), if_neg (by rcases hb with h | h <;> simp [h])]
    exact congrArg (fun l => List.foldl (State.takeSlot slots (s.tdm p).sync) (s.modTdm p fun y => y.received s.timebase) l) hl

theorem State.tdmFrame_slip {s : State} {p bits : Nat} (slots : List Nat) (hr : s.runs = true) (hn : s.portChannels p ≠ [])
    (hm : s.masterPort p = false)
    (hb : bits ≠ s.nat (0x2300 + (s.portChannels p).headD 0) 6 * s.nat (0x2300 + (s.portChannels p).headD 0) 5) :
    s.tdmFrame p slots bits = s.slipFrame p := by
  unfold State.tdmFrame
  cases hl : s.portChannels p with
  | nil => exact absurd hl hn
  | cons c l =>
    rw [hl] at hb
    dsimp only
    rw [if_neg (by simp [hr]), if_pos]
    simpa [hm] using hb

/-- A first frame of the wrong length writes its record, and is bridged (R116). -/
theorem State.slipFrame_first {s : State} {p : Nat} (h : (s.tdm p).bad = 0) :
    s.slipFrame p = (s.portChannels p).foldl (State.bridge (s.tdm p).sync)
      (((s.modTdm p fun y => y.slipped s.timebase).raise 0x3003 (portUnit p) noTenant (s.portDetail p)).modTdm p
        fun y => { y with bridged := true }) := by
  unfold State.slipFrame
  extract_lets n last s1 s2 s3
  have hn : n = 1 := by rw [show n = (s.tdm p).bad + 1 from rfl, h]
  have e1 : s1 = s.modTdm p fun y => y.slipped s.timebase := by simp [s1, hn, TdmPort.slipped]
  have e2 : s2 = s1.raise 0x3003 (portUnit p) noTenant (s1.portDetail p) := if_pos hn
  have hc : s2.portChannels p = s.portChannels p := by
    rw [e2]
    exact (s.portRecord_setup p _ _ _ _ _).portChannels p
  rw [if_pos (by omega), show s3.portChannels p = s2.portChannels p from rfl, hc]
  rw [show s3 = s2.modTdm p fun y => { y with bridged := true } from rfl, e2, e1]
  rfl

/-! ### Lost ports -/

/-- A port whose clock is lost. -/
def TdmPort.unclocked (y : TdmPort) : TdmPort := { y with clockLoss := true, good := 0 }

theorem State.clockLoss_quiet {s : State} {p : Nat} (hr : s.runs = true) (hn : s.portChannels p ≠ []) (hm : s.masterPort p = false)
    (hc : (s.tdm p).clockLoss = false) (hq : s.portQuiet p = true) : s.clockLoss p =
      ((s.modTdm p TdmPort.unclocked).raise 0x3002 (portUnit p) noTenant (s.portDetail p)).losePort p :=
  if_neg (by simp [hr, hn, hm, hc, hq])

/-- A record about a port, and the loss of the port after it, change no port. -/
theorem State.raiseLose_shown (s : State) (p a b c d : Nat) : Steady haltPieces shownKey s ((s.raise a b c d).losePort p) :=
  (((s.raise_sensors a b c d).mono (by decide)).weaken sensorKey_of_shownKey).trans (State.loseChannels_shown _ _)

/-! ### Rates -/

/-- The rate of a port is more than 0.5 percent off the one that is set (R116). -/
def State.rateOff (s : State) (p rate : Nat) : Bool :=
  decide (100 * s.nat (0x2300 + (s.portChannels p).headD 0) 7
    < 200 * ((rate : Int) - (100 * s.nat (0x2300 + (s.portChannels p).headD 0) 7 : Nat)).natAbs)

/-- A measured rate shown on the channels of a port. -/
def State.showRate (s : State) (p rate : Nat) : State :=
  (s.portChannels p).foldl (fun s c => s.setNum (0x2300 + c) 22 (rate % 2 ^ 32 : Nat)) s

theorem State.showRate_setup (s : State) (p rate : Nat) : Steady [.od] setupKey s (s.showRate p rate) :=
  Steady.foldl (fun s c => Steady.setNum s _ (by simp [setupKey, odKey_sub (0x2300 + c) (show 22 < 256 by decide)])) s

theorem State.showRate_shows (s : State) (p rate : Nat) {c : Nat} (hc : c ∈ s.portChannels p) :
    (s.showRate p rate).nat (0x2300 + c) 22 = rate % 2 ^ 32 := by
  obtain ⟨l', h, -⟩ := foldl_own (f := fun s c => s.setNum (0x2300 + c) 22 (rate % 2 ^ 32 : Nat))
    (p := fun s c => s.nat (0x2300 + c) 22)
    (fun s x c h => State.nat_setNum_ne s _ (odKey_ne (by decide) (by decide) (Or.inl (by omega)))) (s.portChannels_nodup p) hc s
  exact h.trans (State.nat_setNum_same _ _ _ _)

/-- A port whose measured rate has been judged. -/
def TdmPort.judged (off : Bool) (y : TdmPort) : TdmPort := { y with rateLoss := off, good := if off then 0 else y.good }

theorem State.rateMeasured_eq {s : State} {p : Nat} (rate : Nat) (hn : s.portChannels p ≠ []) : s.rateMeasured p rate =
    if s.masterPort p then s.showRate p rate
    else
      let t := (s.showRate p rate).modTdm p (TdmPort.judged (s.rateOff p rate))
      if s.rateOff p rate && !((s.showRate p rate).tdm p).rateLoss then
        (t.raise 0x3004 (portUnit p) noTenant (t.portDetail p)).losePort p
      else t := by
  unfold State.rateMeasured State.rateOff
  cases hl : s.portChannels p with
  | nil => exact absurd hl hn
  | cons c l =>
    have e : (c :: l).foldl (fun s c => s.setNum (0x2300 + c) 22 (rate % 2 ^ 32 : Nat)) s = s.showRate p rate := by
      rw [State.showRate, hl]
    dsimp only
    rw [e, (s.showRate_setup p rate).masterPort]
    rfl

/-- In slave role the rate is shown and judged as well; a port whose rate is newly off is lost. -/
theorem State.rateMeasured_slave {s : State} {p : Nat} (rate : Nat) (hn : s.portChannels p ≠ []) (hm : s.masterPort p = false) :
    Steady haltPieces shownKey ((s.showRate p rate).modTdm p (TdmPort.judged (s.rateOff p rate))) (s.rateMeasured p rate) := by
  rw [State.rateMeasured_eq rate hn, if_neg (by simp [hm])]
  exact Steady.ite (State.raiseLose_shown _ _ _ _ _ _) (Steady.refl _ _ _)

/-- Settles O34: frames, clock and rate of a port, on each of its channels. -/
theorem serialAudio : Obligations.SerialAudio := by
  unfold Obligations.SerialAudio
  intro s p hp hr hn
  have h8 (c : Nat) (hc : c ∈ s.portChannels p) : c < 8 := State.lt_of_portChannels hc
  have hl : (s.portChannels p).Nodup := s.portChannels_nodup p
  refine ⟨fun slots bits hb => ?_, fun slots bits hm hb hbad => ?_, fun hm hc hq => ?_, fun h => ?_, fun rate hm => ?_,
    fun rate hm => ?_⟩
  · have hf := (s.modTdm p fun y => y.received s.timebase).takeSlots_shown slots (s.tdm p).sync (s.portChannels p)
    refine ⟨_, congrArg Host.Outcome.next (State.tdmFrame_good slots hr hn hb), ?_,
      fun c hc => State.takeSlots_sample slots _ hl hc (h8 c hc), fun c _ hc => State.takeSlots_other slots _ hc, fun q hq => ?_, ?_⟩
    · exact (hf.keeps.tdm (by decide) p).trans (s.tdm_modTdm_same hp _)
    · exact (hf.keeps.tdm (by decide) q).trans (s.tdm_modTdm_ne hq _)
    · exact ((s.modTdm_keeps p _).mono (by decide)).trans (hf.keeps.mono (by decide))
  · have e := (State.tdmFrame_slip slots hr hn hm hb).trans (State.slipFrame_first hbad)
    have h1 := s.portRecord_setup p (fun y => y.slipped s.timebase) 0x3003 (portUnit p) noTenant (s.portDetail p)
    have h2 := h1.trans (Steady.of_keeps (State.modTdm_keeps _ p fun y => { y with bridged := true }) (by decide) (by decide))
    have hf := State.bridges_keeps (s.tdm p).sync (((s.modTdm p fun y => y.slipped s.timebase).raise 0x3003 (portUnit p) noTenant
      (s.portDetail p)).modTdm p fun y => { y with bridged := true }) (s.portChannels p)
    refine ⟨_, congrArg Host.Outcome.next e, ?_, fun c hc => ?_, ?_, (h2.keeps.mono (by decide)).trans (hf.mono (by decide))⟩
    · rw [hf.tdm (by decide), State.tdm_modTdm_same _ hp, s.portRecord_tdm p _ _ _ _ _ hp]
      rfl
    · rw [State.bridges_sample _ hl hc (h8 c hc), h2.sampleTime (by decide) (h8 c hc), h2.keeps.chan (by decide)]
    · exact State.wrote.after (State.wrote_post (s.modTdm p _) _) (hf .faults (by decide)) (hf .boot (by decide))
  · have h1 := s.portRecord_setup p TdmPort.unclocked 0x3002 (portUnit p) noTenant (s.portDetail p)
    have h2 := State.loseChannels_shown ((s.modTdm p TdmPort.unclocked).raise 0x3002 (portUnit p) noTenant (s.portDetail p))
      (s.portChannels p)
    have e := State.clockLoss_quiet hr hn hm hc hq
    rw [State.losePort, h1.portChannels] at e
    refine ⟨_, congrArg Host.Outcome.next e, ?_, fun c hc => ?_, fun hnone => ?_,
      (h1.keeps.mono (by decide)).trans (h2.keeps.mono (by decide))⟩
    · exact (h2.keeps.tdm (by decide) p).trans (s.portRecord_tdm p _ _ _ _ _ hp)
    · rw [← h1.chanNat (h8 c hc) (by decide)]
      exact State.loseChannels_runs h8 hc
    · have hk := State.loseChannels_none (fun c hc => by
        rw [h1.chanNat (h8 c hc) (by decide), h1.keeps.group (by decide)]
        exact hnone c hc) h8
      exact State.wrote.after (State.wrote_post (s.modTdm p _) _) (hk .faults (by decide)) (hk .boot (by decide))
  · exact congrArg Host.Outcome.next (if_pos (by rcases h with h | h <;> simp [h]))
  · exact ⟨_, congrArg Host.Outcome.next ((if_pos hr).trans ((State.rateMeasured_eq rate hn).trans (if_pos hm))),
      fun c hc => s.showRate_shows p rate hc, (s.showRate_setup p rate).keeps⟩
  · have h1 := State.rateMeasured_slave rate hn hm
    refine ⟨_, congrArg Host.Outcome.next (if_pos hr), fun c hc => ?_, ?_, ?_⟩
    · exact (h1.nat (by decide) (shownKey_odKey (by have := h8 c hc; omega) (by decide) (by decide))).trans
        (s.showRate_shows p rate hc)
    · rw [h1.keeps.tdm (by decide), State.tdm_modTdm_same _ hp]
      rfl
    · exact (((s.showRate_setup p rate).keeps.mono (by decide)).trans ((State.modTdm_keeps _ p _).mono (by decide))).trans
        (h1.keeps.mono (by decide))

end Sys2Proof.Machine
end
section
/-! PROOFS. Chains on a chip (chapters 6 and 8): what the work of the engines leaves of the chain of an issue, and chains whose
descriptors complete (R231). -/

namespace Sys2Proof.Machine

/-! ### Issues and their parts -/

theorem State.issue_id {s : State} {id : Nat} {i : Issue} (h : s.issue id = some i) : i.id = id :=
  of_decide_eq_true (List.find?_some (p := fun x : Issue => decide (x.id = id)) h)

/-- A change of another issue is none of this one. -/
theorem State.issue_modIssue_ne {s : State} {j id : Nat} {f : Issue → Issue} (hf : ∀ x, (f x).id = x.id) (hj : id ≠ j) :
    (s.modIssue j f).issue id = s.issue id := by
  have hpred : (fun x : Issue => decide (x.id = id)) ∘ (fun x => if x.id = j then f x else x)
      = fun x : Issue => decide (x.id = id) := by
    funext x
    by_cases hx : x.id = j <;> simp [hx, hf]
  rw [State.issue, State.modIssue, List.find?_map, hpred]
  cases h : s.issues.find? (fun x => decide (x.id = id)) with
  | none => rw [State.issue, h]; rfl
  | some i =>
    have hid : i.id ≠ j := fun e => hj ((State.issue_id h).symm.trans e)
    rw [State.issue, h, Option.map_some, if_neg hid]

/-- A chain that is changed on its chip is found changed. -/
theorem Issue.part_modPart {i : Issue} {c : Nat} {p : PartRun} {f : PartRun → PartRun} (hf : ∀ x, (f x).chip = x.chip)
    (h : i.part c = some p) : (i.modPart c f).part c = some (f p) := by
  have hpred : (fun x : PartRun => decide (x.chip = c)) ∘ (fun x => if x.chip = c then f x else x)
      = fun x : PartRun => decide (x.chip = c) := by
    funext x
    by_cases hx : x.chip = c <;> simp [hx, hf]
  have hc := Issue.part_chip h
  rw [Issue.part] at h
  rw [Issue.part, Issue.modPart, List.find?_map, hpred, h, Option.map_some, if_pos hc]

/-! ### The chain of an issue on a chip -/

/-- From `s` to `t` nothing but pieces of `l` has changed, and of the chips none but `c`; in `t` issue `id`, a pass of micro-batch
`m` or of none, runs the chain `p` on that chip. -/
structure Chained (l : List Piece) (c id : Nat) (m : Option Micro) (p : PartRun) (s t : State) : Prop where
  keeps : Keeps l s t
  others : sameChips c s t
  runs : ∃ i, t.issue id = some i ∧ i.micro = m ∧ i.part c = some p

/-- What the clusters leave of a descriptor that they work on: its index, its units completed and whether it has completed. -/
def DescRun.mark (d : DescRun) : Nat × Nat × Bool := (d.idx, d.fin, d.complete)

/-- What the clusters leave of a chain that they work on. -/
def PartRun.line (p : PartRun) : Option Nat × List (Nat × Nat × Bool) := (p.next, p.descs.map DescRun.mark)

theorem map_modify_of_eq {α β : Type} {g : α → β} {f : α → α} (h : ∀ x, g (f x) = g x) (l : List α) (n : Nat) :
    (l.modify n f).map g = l.map g := by
  refine List.ext_getElem? fun k => ?_
  by_cases hk : n = k
  · simp [hk, Function.comp_def, h]
  · simp [hk]

/-- A change of one descriptor that leaves its mark leaves the line of the chain. -/
theorem PartRun.line_modify (p : PartRun) (n : Nat) {f : DescRun → DescRun} (h : ∀ d, (f d).mark = d.mark) :
    PartRun.line { p with descs := p.descs.modify n f } = p.line := congrArg (Prod.mk p.next) (map_modify_of_eq h _ _)

/-- Chains of one line have the same descriptors and go on with the same one. -/
theorem PartRun.idx_of_line {p q : PartRun} (h : q.line = p.line) :
    q.next = p.next ∧ q.descs.map DescRun.idx = p.descs.map DescRun.idx := by
  obtain ⟨hn, hd⟩ := Prod.mk.inj h
  exact ⟨hn, by simpa only [List.map_map, Function.comp_def, DescRun.mark] using congrArg (List.map Prod.fst) hd⟩

/-- In chains of one line the same mark is read at each position. -/
theorem PartRun.read_of_line {α : Type} {p q : PartRun} (h : q.line = p.line) (n : Nat) (g : Nat × Nat × Bool → α) :
    (q.descs[n]?).map (fun d => g d.mark) = (p.descs[n]?).map (fun d => g d.mark) := by
  have hd : q.descs.map DescRun.mark = p.descs.map DescRun.mark := congrArg Prod.snd h
  have hn : (q.descs[n]?).map DescRun.mark = (p.descs[n]?).map DescRun.mark := by
    rw [← List.getElem?_map, ← List.getElem?_map, hd]
  simpa only [Option.map_map, Function.comp_def] using congrArg (Option.map g) hn

section
variable {l : List Piece} {c id : Nat} {m : Option Micro} {p : PartRun} {s t : State}

theorem Chained.start {i : Issue} (l : List Piece) (hi : s.issue id = some i) (hp : i.part c = some p) :
    Chained l c id i.micro p s s := ⟨Keeps.refl l s, fun _ _ => rfl, i, hi, rfl, hp⟩

/-- What leaves the issues alone, and of the chips all but one. -/
theorem Chained.step {k : List Piece} {u : State} (h : Chained l c id m p s t) (hk : Keeps k t u) (ho : sameChips c t u)
    (hl : within k l = true) (hi : Piece.issues ∉ k) : Chained l c id m p s u := by
  obtain ⟨i, hid, hm, hp⟩ := h.runs
  refine ⟨h.keeps.trans (hk.mono hl), h.others.trans ho, i, ?_, hm, hp⟩
  rw [State.issue, hk .issues hi]
  exact hid

theorem Chained.mono {k : List Piece} (h : Chained k c id m p s t) (hl : within k l = true) : Chained l c id m p s t :=
  ⟨h.keeps.mono hl, h.others, h.runs⟩

theorem Chained.ite {u : State} {q : Prop} [Decidable q] (ht : Chained l c id m p s t) (hu : Chained l c id m p s u) :
    Chained l c id m p s (if q then t else u) := by
  split
  · exact ht
  · exact hu

theorem Chained.foldl {α : Type} {f : State → α → State} (hf : ∀ t x, Chained l c id m p s t → Chained l c id m p s (f t x))
    (h : Chained l c id m p s t) (xs : List α) : Chained l c id m p s (xs.foldl f t) := by
  induction xs generalizing t with
  | nil => exact h
  | cons x xs ih => exact ih (hf t x h)

theorem Chained.modChip (h : Chained l c id m p s t) (hl : within [.chips] l = true) (g : Chip → Chip) :
    Chained l c id m p s (t.modChip c g) := h.step (keeps_chips t _) (t.modChip_others c g) hl (by decide)

theorem Chained.loftWrite (h : Chained l c id m p s t) (hl : within [.chips] l = true) {q : PartRun} (hq : q.chip = c) (i : Issue)
    (a : Nat) (w : List (Nat × Byte)) : Chained l c id m p s (t.loftWrite i q a w) :=
  h.step (t.loftWrite_keeps i q a w) (hq ▸ (t.loftWrite_strips i q a w).1) hl (by decide)

/-- A change of the issue beside its chains. -/
theorem Chained.modIssue (h : Chained l c id m p s t) (hl : within [.issues] l = true) {g : Issue → Issue}
    (hg : ∀ i, (g i).id = i.id ∧ (g i).micro = i.micro ∧ (g i).parts = i.parts := by exact fun _ => ⟨rfl, rfl, rfl⟩) :
    Chained l c id m p s (t.modIssue id g) := by
  obtain ⟨i, hid, hm, hp⟩ := h.runs
  refine ⟨h.keeps.trans ((keeps_issues t _).mono hl), h.others.trans fun _ _ => rfl, g i,
    State.issue_modIssue (fun i => (hg i).1) hid, (hg i).2.1.trans hm, ?_⟩
  rw [Issue.part, (hg i).2.2]
  exact hp

/-- A change of the chain itself. -/
theorem Chained.modPart (h : Chained l c id m p s t) (hl : within [.issues] l = true) {f : PartRun → PartRun}
    (hf : ∀ q, (f q).chip = q.chip := by exact fun _ => rfl) :
    Chained l c id m (f p) s (t.modIssue id fun i => i.modPart c f) := by
  obtain ⟨i, hid, hm, hp⟩ := h.runs
  exact ⟨h.keeps.trans ((keeps_issues t _).mono hl), h.others.trans fun _ _ => rfl, i.modPart c f,
    State.issue_modIssue (fun _ => rfl) hid, hm, Issue.part_modPart hf hp⟩

/-- A change of one chain of an issue, this one or another, that leaves its line. -/
theorem Chained.modLine (h : Chained l c id m p s t) (hl : within [.issues] l = true) (j : Nat) {f : PartRun → PartRun}
    (hf : ∀ q, (f q).chip = q.chip ∧ (f q).line = q.line) :
    ∃ q, Chained l c id m q s (t.modIssue j fun i => i.modPart c f) ∧ q.line = p.line := by
  by_cases hj : id = j
  · subst hj
    exact ⟨f p, h.modPart hl fun q => (hf q).1, (hf p).2⟩
  · obtain ⟨i, hid, hm, hp⟩ := h.runs
    exact ⟨p, ⟨h.keeps.trans ((keeps_issues t _).mono hl), h.others.trans fun _ _ => rfl, i,
      (State.issue_modIssue_ne (f := fun i => i.modPart c f) (fun _ => rfl) hj).trans hid, hm, hp⟩, rfl⟩

/-- A round that a cluster takes leaves the line of the chain. -/
theorem Chained.takeRound (h : Chained l c id m p s t) (hl : within [.chips, .issues] l = true) (k : Nat) (b : Bool) :
    ∃ q, Chained l c id m q s (t.takeRound c k b) ∧ q.line = p.line := by
  have hchips : within [.chips] l = true := by simp_all [within]
  have hissues : within [.issues] l = true := by simp_all [within]
  unfold State.takeRound
  dsimp only
  split
  · exact ⟨p, h, rfl⟩
  · split
    · split
      · split
        · exact ⟨p, h.modChip hchips _, rfl⟩
        · split
          · exact ⟨p, h, rfl⟩
          · refine (h.modLine hissues _ ?_).imp fun q hq => ⟨hq.1.modChip hchips _, hq.2⟩
            exact fun q => ⟨rfl, q.line_modify _ fun _ => rfl⟩
      · exact ⟨p, h, rfl⟩
    · exact ⟨p, h, rfl⟩

/-- Work taken up again on the chip leaves the line of the chain. -/
theorem Chained.resume (h : Chained l c id m p s t) (hl : within [.chips, .issues] l = true) :
    ∃ q, Chained l c id m q s ((t.fill c).startEngines c) ∧ q.line = p.line := by
  have all (ks : List Nat) : ∀ {p : PartRun} {t : State}, Chained l c id m p s t → ∃ q, Chained l c id m q s
      (ks.foldl (fun s k => (s.takeRound c k false).takeRound c k true) t) ∧ q.line = p.line := by
    induction ks with
    | nil => exact fun {p} _ h => ⟨p, h, rfl⟩
    | cons k ks ih =>
      intro p t h
      obtain ⟨q1, h1, e1⟩ := h.takeRound hl k false
      obtain ⟨q2, h2, e2⟩ := h1.takeRound hl k true
      obtain ⟨q3, h3, e3⟩ := ih h2
      exact ⟨q3, h3, e3.trans (e2.trans e1)⟩
  obtain ⟨q, hq, e⟩ := all (List.range 8) h
  have hw := State.startEngines_works (t.fill c) c
  exact ⟨q, hq.step hw.keeps hw.others (by simp_all [within]) (by decide), e⟩

/-! ### Descriptors that complete (R231) -/

/-- The descriptors of a chain of which `n` from position `ord` on have completed. -/
def doneFrom (ord n : Nat) (l : List DescRun) : List DescRun := (l.zip (List.range l.length)).map fun (d, k) =>
  if ord ≤ k ∧ k < ord + n then { d with complete := true, started := true } else d

theorem getElem?_doneFrom (ord n : Nat) (l : List DescRun) (k : Nat) : (doneFrom ord n l)[k]? = (l[k]?).map fun d =>
    if ord ≤ k ∧ k < ord + n then { d with complete := true, started := true } else d := by
  by_cases hk : k < l.length <;> simp [doneFrom, hk]

/-- A partition of an issue in no micro-batch holds no saved window (R355). -/
theorem State.freeSaved_plain (s : State) {i : Issue} (h : i.micro = none) (p : PartRun) (b : Bool) : s.freeSaved i p b = s := by
  simp [State.freeSaved, h]

/-- An issue in no micro-batch outlasts the end of its chains: it waits to be published. -/
theorem Chained.partEnd (h : Chained l c id none p s t) (hl : within [.issues] l = true) :
    ∃ q, Chained l c id none q s (t.partEnd id c) ∧ q.descs = p.descs := by
  obtain ⟨i, hi, hm, hp⟩ := h.runs
  unfold State.partEnd
  rw [hi, Option.bind_some, hp]
  dsimp only
  split
  · exact ⟨p, h, rfl⟩
  · rw [State.freeSaved_plain _ hm]
    have h1 : Chained l c id none { p with complete := true, endedAt := t.micros } s (t.modIssue id fun j => {
        j.modPart c (fun p => { p with complete := true, endedAt := t.micros }) with
        out := j.out ++ [(p.part, t.finalOut i p)] }) :=
      ⟨h.keeps.trans ((keeps_issues t _).mono hl), h.others.trans fun _ _ => rfl, _, State.issue_modIssue (fun _ => rfl) hi, hm,
        Issue.part_modPart (fun _ => rfl) hp⟩
    obtain ⟨j, hj, hjm, -⟩ := h1.runs
    simp only [hj, hjm, Option.isSome_none, Bool.false_eq_true, if_false]
    exact ⟨_, Chained.ite h1 (h1.modIssue hl), rfl⟩

/-- Descriptors of an issue in no micro-batch complete (R231). -/
theorem Chained.descsDone (h : Chained l c id none p s t) (hl : within [.issues] l = true) (ord n : Nat) :
    ∃ q, Chained l c id none q s (t.descsDone id c ord n) ∧ q.descs = doneFrom ord n p.descs := by
  obtain ⟨i, hi, hm, hp⟩ := h.runs
  have hrec (k : Nat) : t.recordOutput id c k = t := by simp [State.recordOutput, hi, hp, hm]
  have h1 := h.modPart hl (f := fun q => { q with descs := doneFrom ord n q.descs })
  obtain ⟨j, hj, hjm, hjp⟩ := h1.runs
  have e : t.descsDone id c ord n
      = (t.modIssue id fun i => i.modPart c fun q => { q with descs := doneFrom ord n q.descs }).partEnd id c := by
    simp only [doneFrom] at hj ⊢
    simp only [State.descsDone, hrec, hj, Option.bind_some, hjp, State.freeSaved_plain _ hjm]
  rw [e]
  exact h1.partEnd hl

end

end Sys2Proof.Machine
end
section
/-! PROOFS. What a descriptor that is issued, a round that ends well and an engine that ends its descriptor leave of the chain
(R198, R230, R231, R278). -/

namespace Sys2Proof.Machine

/-! ### Descriptors that are issued (R198, R230, R268) -/

/-- A loaded chain whose next descriptor is ready issues it. -/
theorem State.issueDesc_ready {s : State} {c id idx : Nat} {i : Issue} {p : PartRun} (hi : s.issue id = some i)
    (hp : i.part c = some p) (hw : (s.chip c).works = true) (hn : p.complete = false) (hl : p.loaded = true)
    (hx : p.next = some idx) (hr : s.ready i p idx) :
    s.issueDesc c id = s.enqueue i p idx (s.descAt p.chip i.slot p.part idx) := by
  obtain ⟨hrow, hcheck, htag, hrun, hbar, hstrip, hpiece, hlayer, hspec, hcred⟩ := hr
  have hmay : ((s.descAt p.chip i.slot p.part idx).speculable || (decide (i.st = .committed) && !i.waitsSlot)) = true := by
    rcases hrun with h | ⟨h1, h2⟩
    · simp [h]
    · simp [h1, h2]
  have hissue : s.issueDesc c id = s.issueNext i p := by simp [State.issueDesc, hi, hp, hw, hn, hl]
  rw [hissue, State.issueNext, hx]
  simp only [hrow, hcheck, htag, hmay, hbar, hstrip, hpiece, hlayer, hspec, hcred, Bool.not_true, Bool.or_self, ne_eq,
    not_true_eq_false, Bool.false_eq_true, if_false]

/-- A chain whose next descriptor has been issued. -/
def PartRun.issued (p : PartRun) (idx : Nat) (d : Desc) : PartRun :=
  { p with
    descs := p.descs ++ [⟨idx, d.unitOf, 0, 0, 0, false, false, [], []⟩], next := if d.last then none else some d.next,
    refetch := false }

theorem PartRun.issued_idx (p : PartRun) (idx : Nat) (d : Desc) :
    (p.issued idx d).descs.map DescRun.idx = p.descs.map DescRun.idx ++ [idx] := by simp [PartRun.issued]

/-- A descriptor that enters its queue is the last one issued of its chain. -/
theorem State.enqueue_issues {s : State} {c idx : Nat} {i : Issue} {p : PartRun} (hi : s.issue i.id = some i)
    (hp : i.part c = some p) (d : Desc) :
    ∃ q, Chained [.issues, .chips] c i.id i.micro q s (s.enqueue i p idx d) ∧ q.line = (p.issued idx d).line := by
  unfold State.enqueue
  rw [Issue.part_chip hp]
  extract_lets ord run s1 e s2 s3
  have h1 : Chained [.issues, .chips] c i.id i.micro (p.issued idx d) s s1 :=
    (Chained.start [.issues, .chips] hi hp).modPart (by decide) (f := (·.issued idx d))
  have h2 : Chained [.issues, .chips] c i.id i.micro (p.issued idx d) s s2 := Chained.ite (h1.modChip (by decide) _) h1
  have h3 : ∃ q, Chained [.issues, .chips] c i.id i.micro q s s3 ∧ q.line = (p.issued idx d).line := by
    unfold s3
    split
    · split
      · obtain ⟨j, hj, -, hjp⟩ := h2.runs
        rw [hj, Option.bind_some, hjp]
        dsimp only
        rw [Issue.part_chip hjp, State.issue_id hj]
        exact ⟨_, h2.modPart (by decide), PartRun.line_modify _ _ fun _ => rfl⟩
      · exact ⟨_, h2, rfl⟩
    · exact ⟨_, Chained.ite (h1.modChip (by decide) _) (Chained.ite (h1.modChip (by decide) _) (h1.modChip (by decide) _)), rfl⟩
  obtain ⟨q, hq, e1⟩ := h3
  obtain ⟨q', hq', e2⟩ := hq.resume (by decide)
  exact ⟨q', hq', e2.trans e1⟩

/-! ### Rounds that end well (R278) -/

theorem State.groupOf_ne_nil (s : State) (i : Issue) (p : PartRun) (n : Nat) : s.groupOf i p n ≠ [] := by
  simp [State.groupOf]

theorem State.countRound_plain (s : State) {i : Issue} (h : i.micro = none) (p : PartRun) (idx : Nat) (d : Desc) (sat clips : Nat) :
    s.countRound i p idx d sat clips
      = s.modIssue i.id fun i => { i with saturated := i.saturated + sat, satFlag := i.satFlag || decide (0 < sat) } := by
  simp [State.countRound, h]

theorem State.gradients_plain (s : State) {i : Issue} (h : i.micro = none) (p : PartRun) (idx : Nat) (d : Desc) :
    s.gradients i p idx d = s := by
  simp [State.gradients, h]

/-- A completed descriptor has the units completed that it had. -/
theorem fin_doneFrom (ord n : Nat) (l : List DescRun) (k : Nat) :
    ((doneFrom ord n l)[k]?).map DescRun.fin = (l[k]?).map DescRun.fin := by
  rw [getElem?_doneFrom, Option.map_map]
  congr 1
  funext d
  dsimp only [Function.comp_apply]
  split <;> rfl

/-- A chain with `n` more units of one of its descriptors completed. -/
def PartRun.counted (p : PartRun) (ord n : Nat) : PartRun :=
  { p with descs := p.descs.modify ord fun d => { d with fin := d.fin + n } }

theorem PartRun.counted_fin {p : PartRun} {ord : Nat} {run : DescRun} (h : p.descs[ord]? = some run) (n : Nat) :
    ((p.counted ord n).descs[ord]?).map DescRun.fin = some (run.fin + n) := by simp [PartRun.counted, h]

/-- A round of an issue in no micro-batch that ends well counts its units as completed. -/
theorem State.roundEnd_counts {s : State} {c k b : Nat} {r : Round} {i : Issue} {p : PartRun} {run : DescRun}
    (hi : s.issue r.issue = some i) (hp : i.part c = some p) (hm : i.micro = none) (hr : p.descs[r.ord]? = some run) :
    ∃ q, Chained [.issues, .chips] c i.id none q s (s.roundEnd c k b r i p run)
      ∧ (q.descs[r.ord]?).map DescRun.fin = some (run.fin + r.units) := by
  have hc := Issue.part_chip hp
  have hid := State.issue_id hi
  unfold State.roundEnd
  extract_lets n g idx x us entries sat final
  split
  · next hg => exact absurd (List.getLast?_eq_none_iff.mp hg) (s.groupOf_ne_nil _ _ _)
  · next d _ =>
    extract_lets codes clips s1 s2 s3 s4 s5 s6 s7
    have h0 : Chained [.issues, .chips] c i.id none p s s := hm ▸ Chained.start _ (hid ▸ hi) hp
    have h1 : Chained [.issues, .chips] c i.id none p s s1 :=
      Chained.ite (h0.foldl (fun t _ h => h.loftWrite (by decide) hc _ _ _) codes) h0
    have h2 : Chained [.issues, .chips] c i.id none p s s2 := by
      unfold s2
      rw [State.countRound_plain _ hm]
      exact h1.modIssue (by decide)
    have h3 : Chained [.issues, .chips] c i.id none p s s3 := h2.modChip (by decide) _
    have h4 : Chained [.issues, .chips] c i.id none p s s4 := Chained.ite (h3.modChip (by decide) _) h3
    have h5 : Chained [.issues, .chips] c i.id none (p.counted r.ord r.units) s s5 :=
      h4.modPart (by decide) (f := (·.counted r.ord r.units))
    have h6 : Chained [.issues, .chips] c i.id none (p.counted r.ord r.units) s s6 := by
      unfold s6
      rw [State.gradients_plain _ hm]
      exact Chained.ite h5 (h5.loftWrite (by decide) hc _ _ _)
    have h7 : ∃ q, Chained [.issues, .chips] c i.id none q s s7
        ∧ (q.descs[r.ord]?).map DescRun.fin = some (run.fin + r.units) := by
      unfold s7
      split
      · exact ⟨_, h5, PartRun.counted_fin hr _⟩
      · obtain ⟨q, hq, e⟩ := h6.descsDone (by decide) r.ord n
        exact ⟨q, hq, e ▸ (fin_doneFrom _ _ _ _).trans (PartRun.counted_fin hr _)⟩
    obtain ⟨q, hq, e⟩ := h7
    obtain ⟨q', hq', e'⟩ := hq.resume (by decide)
    exact ⟨q', hq', (PartRun.read_of_line e' r.ord (·.2.1)).trans e⟩

/-! ### Descriptors of engines 1 to 3 that end (R231) -/

theorem complete_doneFrom {ord n : Nat} {l : List DescRun} {d : DescRun} (h : l[ord]? = some d) (hn : 0 < n) :
    ((doneFrom ord n l)[ord]?).map DescRun.complete = some true := by
  rw [getElem?_doneFrom, h, Option.map_some, if_pos (by omega)]
  rfl

/-- The descriptor of an engine has completed: the engine is free for the next one. -/
def State.releaseEngine (s : State) (c e id ord : Nat) : State :=
  (((s.modChip c (fun x => x.freeEngine e)).descsDone id c ord 1).fill c).startEngines c

theorem Chained.releaseEngine {l : List Piece} {c id ord : Nat} {p : PartRun} {s t : State} {run : DescRun}
    (h : Chained l c id none p s t) (hl : within [.chips, .issues] l = true) (hr : p.descs[ord]? = some run) (e : Nat) :
    ∃ q, Chained l c id none q s (t.releaseEngine c e id ord) ∧ (q.descs[ord]?).map DescRun.complete = some true := by
  obtain ⟨q1, h1, e1⟩ := (h.modChip (by simp_all [within]) fun x => x.freeEngine e).descsDone (by simp_all [within]) ord 1
  obtain ⟨q, hq, e2⟩ := h1.resume hl
  refine ⟨q, hq, (PartRun.read_of_line e2 ord (·.2.2)).trans ?_⟩
  rw [e1]
  exact complete_doneFrom hr Nat.one_pos

/-- The move engine ends a descriptor whose map, where it fetches one, keeps R245. -/
theorem State.engineEnd_move {s : State} {c ord : Nat} {i : Issue} {p : PartRun} {run : DescRun} {d : Desc}
    (hd : s.descAt c i.slot p.part run.idx = d) (hm : i.micro = none)
    (hz : d.op = opPrefetch → d.inMap.zbFault (fun a => memRead (s.window c 0) (64 * d.inHandle + a)) = none) :
    s.engineEnd c 3 ord i p run = (s.moveMap i p run.idx d).releaseEngine c 3 i.id ord := by
  have hz' : (if d.op = opPrefetch then d.inMap.zbFault (fun a => memRead (s.window c 0) (64 * d.inHandle + a)) else none) = none := by
    split
    · next h => exact hz h
    · rfl
  simp only [State.engineEnd, hd, hm, Option.map_none, Option.getD_none, hz', if_true]
  rfl

/-- The Smithy ends an UPDATE of a chain. -/
theorem State.engineEnd_update {s : State} {c e ord : Nat} {i : Issue} {p : PartRun} {run : DescRun} {d : Desc}
    (hd : s.descAt c i.slot p.part run.idx = d) (he : e ≠ 3) (hu : d.op = opUpdate) :
    ∃ layer bad w, s.engineEnd c e ord i p run = ((s.updateChecked c i layer bad).loftWrite i p 0 w).releaseEngine c e i.id ord := by
  simp only [State.engineEnd, hd, if_neg he, if_pos hu]
  exact ⟨_, _, _, rfl⟩

/-- What the Smithy or the Bellwether has computed is written, and noted with the issue. -/
def State.putOut (s : State) (i : Issue) (p : PartRun) (d : Desc) (out : EngineOut) : State :=
  let s := s.loftWrite i p d.outHandle out.writes
  let s := if out.sat then s.modIssue i.id (fun i => { i with satFlag := true }) else s
  if d.op = opSelect then s.modIssue i.id (fun i => { i with tokens := out.tokens }) else s

theorem Chained.putOut {l : List Piece} {c : Nat} {i : Issue} {m : Option Micro} {p q : PartRun} {s t : State}
    (h : Chained l c i.id m q s t) (hl : within [.chips, .issues] l = true) (hc : p.chip = c) (d : Desc) (out : EngineOut) :
    Chained l c i.id m q s (t.putOut i p d out) := by
  have hissues : within [.issues] l = true := by simp_all [within]
  have h1 := h.loftWrite (by simp_all [within]) hc i d.outHandle out.writes
  have h2 := Chained.ite (q := out.sat) (h1.modIssue hissues (g := fun i => { i with satFlag := true })) h1
  exact Chained.ite (h2.modIssue hissues (g := fun i => { i with tokens := out.tokens })) h2

/-- The Smithy and the Bellwether end a descriptor of an issue in no micro-batch whose input maps keep R245. -/
theorem State.engineEnd_compute {s : State} {c e ord : Nat} {i : Issue} {p : PartRun} {run : DescRun} {d : Desc} {out : EngineOut}
    (hd : s.descAt c i.slot p.part run.idx = d) (hm : i.micro = none) (he : e ≠ 3) (hu : d.op ≠ opUpdate)
    (ho : (if e = 2 then bellwetherRun d (s.ctx i p run.idx) else smithyRun (s.groupOf i p ord) d (s.ctx i p run.idx)) = out)
    (hz : out.zb = none) : s.engineEnd c e ord i p run = (s.putOut i p d out).releaseEngine c e i.id ord := by
  simp only [State.engineEnd, hd, if_neg he, if_neg hu, ho, hz, hm, Option.isSome_none, Bool.false_eq_true, if_false]
  rfl

/-- What a descriptor of engines 1 to 3 may change when it ends. -/
def enginePieces : List Piece := [.issues, .chips, .learn, .od, .boot, .mail, .faults]

section
variable {s : State} {c e ord : Nat} {i : Issue} {p : PartRun} {run : DescRun} {d : Desc} (hi : s.issue i.id = some i)
  (hp : i.part c = some p) (hm : i.micro = none) (hr : p.descs[ord]? = some run) (hd : s.descAt c i.slot p.part run.idx = d)
include hi hp hm hr hd

theorem State.engineEnd_move_completes
    (hz : d.op = opPrefetch → d.inMap.zbFault (fun a => memRead (s.window c 0) (64 * d.inHandle + a)) = none) :
    ∃ q, Chained enginePieces c i.id none q s (s.engineEnd c 3 ord i p run) ∧ (q.descs[ord]?).map DescRun.complete = some true := by
  rw [State.engineEnd_move hd hm hz]
  have h0 : Chained enginePieces c i.id none p s s := hm ▸ Chained.start _ hi hp
  refine Chained.releaseEngine (Chained.ite ?_ ?_) (by decide) hr 3
  · exact h0.step (keeps_learn s _) (fun _ _ => rfl) (by decide) (by decide)
  · exact h0.loftWrite (by decide) (Issue.part_chip hp) _ _ _

theorem State.engineEnd_update_completes (he : e ≠ 3) (hu : d.op = opUpdate) :
    ∃ q, Chained enginePieces c i.id none q s (s.engineEnd c e ord i p run) ∧ (q.descs[ord]?).map DescRun.complete = some true := by
  obtain ⟨layer, bad, w, e1⟩ := State.engineEnd_update (p := p) (ord := ord) hd he hu
  have h0 : Chained enginePieces c i.id none p s s := hm ▸ Chained.start _ hi hp
  have h1 : Chained enginePieces c i.id none p s (s.updateChecked c i layer bad) := by
    simp only [State.updateChecked, hm, Option.isSome_none, Bool.false_eq_true, if_false]
    exact Chained.ite h0 (h0.step (s.raise_keeps _ _ _ _) (fun _ _ => by simp [State.chip]) (by decide) (by decide))
  rw [e1]
  exact (h1.loftWrite (by decide) (Issue.part_chip hp) _ _ _).releaseEngine (by decide) hr e

theorem State.engineEnd_compute_completes (he : e ≠ 3) (hu : d.op ≠ opUpdate)
    (hz : (if e = 2 then bellwetherRun d (s.ctx i p run.idx) else smithyRun (s.groupOf i p ord) d (s.ctx i p run.idx)).zb = none) :
    ∃ q, Chained [.issues, .chips] c i.id none q s (s.engineEnd c e ord i p run)
      ∧ (q.descs[ord]?).map DescRun.complete = some true := by
  rw [State.engineEnd_compute hd hm he hu rfl hz]
  have h0 : Chained [.issues, .chips] c i.id none p s s := hm ▸ Chained.start _ hi hp
  exact (h0.putOut (by decide) (Issue.part_chip hp) d _).releaseEngine (by decide) hr e

/-- A descriptor of engines 1 to 3 that ends well has completed; one that computes changes the issues and its chip alone. -/
theorem State.engineEnd_completes (he : 1 ≤ e ∧ e ≤ 3)
    (h1 : e = 1 → d.op ≠ opUpdate → (smithyRun (s.groupOf i p ord) d (s.ctx i p run.idx)).zb = none)
    (h2 : e = 2 → d.op ≠ opUpdate ∧ (bellwetherRun d (s.ctx i p run.idx)).zb = none)
    (h3 : e = 3 → d.op = opPrefetch → d.inMap.zbFault (fun a => memRead (s.window c 0) (64 * d.inHandle + a)) = none) :
    ∃ q, Chained enginePieces c i.id none q s (s.engineEnd c e ord i p run) ∧ (q.descs[ord]?).map DescRun.complete = some true
      ∧ (e ≠ 3 → d.op ≠ opUpdate → Keeps [.issues, .chips] s (s.engineEnd c e ord i p run)) := by
  by_cases e3 : e = 3
  · subst e3
    obtain ⟨q, hq, hc⟩ := State.engineEnd_move_completes hi hp hm hr hd (h3 rfl)
    exact ⟨q, hq, hc, fun h => absurd rfl h⟩
  by_cases hu : d.op = opUpdate
  · obtain ⟨q, hq, hc⟩ := State.engineEnd_update_completes hi hp hm hr hd e3 hu
    exact ⟨q, hq, hc, fun _ h => absurd hu h⟩
  · have hz : (if e = 2 then bellwetherRun d (s.ctx i p run.idx)
        else smithyRun (s.groupOf i p ord) d (s.ctx i p run.idx)).zb = none := by
      split
      · next e2 => exact (h2 e2).2
      · next e2 => exact h1 (by omega) hu
    obtain ⟨q, hq, hc⟩ := State.engineEnd_compute_completes hi hp hm hr hd e3 hu hz
    exact ⟨q, hq.mono (by decide), hc, fun _ _ => hq.keeps⟩

end

end Sys2Proof.Machine
end
section
/-! PROOFS. Errors of rounds and of the Smithy, and what the commands on descriptors do (R193, R230, R231, R278, R407). -/

namespace Sys2Proof.Machine

/-! ### Units put under test (R407, R410) -/

/-- A detected error of an on-chip unit that has not been retired. -/
theorem State.detect_onChip {s : State} {u : UnitRef} {c : Nat} (hu : u.chip = some c) (ho : u.onChip = true)
    (hr : s.isRetired u = false) (code tenant detail : Nat) :
    s.detect u code tenant detail = s.modChip c (fun x => x.suspect (s.newTest u code tenant detail) s.micros) := by
  unfold State.detect
  rw [hr, hu, ho]
  rfl

theorem State.underTest_onChip {s : State} {u : UnitRef} {c : Nat} (hu : u.chip = some c)
    (h : hasTest u (s.chip c).onChipTests = true) : s.underTest u = true := by
  unfold State.underTest
  rw [hu]
  show hasTest _ (Chip.onChipTests _ ++ _ ++ _) = true
  rw [hasTest_append, hasTest_append, h]
  rfl

/-- A unit that a test of its chip names stays under test when the chip is raised for it. -/
theorem State.liftTest_underTest {s : State} {u : UnitRef} {c : Nat} (hu : u.chip = some c)
    (h : hasTest u (s.chip c).onChipTests = true) : (s.liftTest c).underTest u = true :=
  State.underTest_onChip hu ((congrArg (fun q : List Test × Bool => hasTest u q.1) (s.liftTest_checks c c)).trans h)

/-- An error in a bank round names a unit of the chip that an on-chip test tests. -/
theorem upsetUnit_onChip {u : Upset} {c k b : Nat} {cl : Cluster} {r : Round} {g : List Desc} {x : EngineCtx} {unit : UnitRef}
    {code detail : Nat} (h : upsetUnit u c k b cl r g x = some (unit, code, detail)) : unit.chip = some c ∧ unit.onChip = true := by
  have named {q : Prop} [Decidable q] {v : UnitRef} {n m : Nat} (hv : v.chip = some c ∧ v.onChip = true)
      (hq : (if q then some (v, n, m) else none) = some (unit, code, detail)) : unit.chip = some c ∧ unit.onChip = true := by
    obtain ⟨-, hs⟩ := Option.ite_none_right_eq_some.mp hq
    exact (Prod.mk.inj (Option.some.inj hs)).1 ▸ hv
  cases u with
  | accResidue e => exact (Prod.mk.inj (Option.some.inj h)).1 ▸ ⟨rfl, rfl⟩
  | _ => exact named ⟨rfl, rfl⟩ h

/-- The epoch of the bank is that of the final pass: without an upset the round has no error (R280). -/
theorem upsetUnit_none {c k b : Nat} {cl : Cluster} {r : Round} {g : List Desc} {x : EngineCtx}
    (h : (vget cl.banks b).epoch = (g.getLastD ⟨[]⟩).epoch) : upsetUnit .none c k b cl r g x = none := by
  simp only [upsetUnit, h, ne_eq, not_true_eq_false, if_false]

/-- What a targeted test leaves of the Smithy: its present descriptor, and whether that is a rerun. -/
def Chip.smithyWork (x : Chip) : Option (Nat × Nat × Nat) × Bool := (x.run1, x.smithyAgain)

theorem Chip.startWhole_smithy (x : Chip) : x.startWhole.smithyWork = x.smithyWork := by
  unfold Chip.startWhole
  split <;> rfl

theorem Chip.startTest_smithy (x : Chip) : x.startTest.smithyWork = x.smithyWork := by
  unfold Chip.startTest
  split
  · split <;> rfl
  · rfl

theorem Chip.suspect_smithy (x : Chip) (t : Test) (now : Nat) : (x.suspect t now).smithyWork = x.smithyWork := by
  unfold Chip.suspect Chip.addTest
  split
  · rfl
  · extract_lets recent y
    split
    · rfl
    · rw [Chip.startTest_smithy, Chip.startWhole_smithy]
      rfl

theorem State.liftTest_smithy (s : State) (c : Nat) : chipsAgree Chip.smithyWork s (s.liftTest c) := by
  unfold State.liftTest
  split
  · exact s.modChip_agree c fun x => by rw [Chip.aim_eq]; rfl
  · exact chipsAgree.refl _ s

/-- A first error of the Smithy on a descriptor puts it under test; the descriptor stays, to be run again (R193, R412). -/
theorem State.smithyUpset_first {s : State} {c : Nat} (hc : c < 16) (ha : (s.chip c).smithyAgain = false)
    (hr : s.isRetired (.smithy c) = false) (code tenant : Nat) :
    (s.smithyUpset c code tenant).underTest (.smithy c) = true
      ∧ ((s.smithyUpset c code tenant).chip c).smithyWork = ((s.chip c).run1, true)
      ∧ sameChips c s (s.smithyUpset c code tenant) ∧ Keeps [.chips] s (s.smithyUpset c code tenant) := by
  have e : s.smithyUpset c code tenant = ((s.modChip c fun x => x.suspect (s.newTest (.smithy c) code tenant 0) s.micros).modChip c
      fun x => { x with smithyAgain := true }).liftTest c := by
    simp only [State.smithyUpset, ha, Bool.false_eq_true, if_false, State.detect_onChip (c := c) rfl rfl hr]
  rw [e]
  refine ⟨State.liftTest_underTest rfl ?_, ?_, ((s.modChip_others c _).trans (State.modChip_others _ c _)).trans
    (State.liftTest_others _ c), ((keeps_chips s _).trans (keeps_chips _ _)).trans (State.liftTest_keeps _ c)⟩
  · rw [State.chip_modChip_same _ hc]
    exact (State.suspected hc (s.newTest (.smithy c) code tenant 0) s.micros).1
  · rw [State.liftTest_smithy, State.chip_modChip_same _ hc, State.chip_modChip_same _ hc]
    exact congrArg (fun q : Option (Nat × Nat × Nat) × Bool => (q.1, true)) (Chip.suspect_smithy _ _ _)

/-! ### BANK_ROUND_COMPLETE and DESCRIPTOR_COMPLETE on work that nothing holds up -/

section
variable {s : State} {c k b : Nat} {u : Upset} {r : Round} {i : Issue} {p : PartRun} {run : DescRun}
  (hround : (vget (vget (s.chip c).clusters k).banks b).round = some r) (hw : (s.chip c).works = true)
  (hdrop : (s.chip c).dropTo = none) (hwait : s.roundWaits c k b = false) (hrow : s.rowWaits c r.issue = false)
  (hi : s.issue r.issue = some i) (hp : i.part c = some p) (hr : p.descs[r.ord]? = some run)
  (hs : s.piecesShort i p (r.ord + (s.descAt c i.slot p.part run.idx).passes - 1) = false) {g : List Desc}
  (hg : s.groupOf i p (r.ord + (s.descAt c i.slot p.part run.idx).passes - 1) = g)
include hround hw hdrop hwait hrow hi hp hr hs hg

theorem State.bankRound_upset {unit : UnitRef} {code detail : Nat}
    (hu : upsetUnit u c k b (vget (s.chip c).clusters k) r g (s.ctx i p run.idx) = some (unit, code, detail)) :
    s.bankRound c k b u = .next ((s.detect unit code i.tenant detail).liftTest c) := by
  simp only [State.bankRound, hround, hw, hdrop, hwait, hrow, hi, hp, hr, hs, hg, hu, Option.bind_some, Option.isSome_none,
    Bool.not_true, Bool.or_self, Bool.false_eq_true, if_false]

/-- A round without an error is stopped by an address beyond the Loft alone. -/
theorem State.bankRound_clean (hu : upsetUnit u c k b (vget (s.chip c).clusters k) r g (s.ctx i p run.idx) = none)
    (hz : r.zbFault g (s.ctx i p run.idx) = none) : s.bankRound c k b u =
      if g.any (s.beyond i p (kernelOf g)) then .fault .absentAddress else .next (s.roundEnd c k b r i p run) := by
  simp only [State.bankRound, hround, hw, hdrop, hwait, hrow, hi, hp, hr, hs, hg, hu, hz, Option.bind_some, Option.isSome_none,
    Bool.not_true, Bool.or_self, Bool.false_eq_true, if_false]

end

section
variable {s : State} {c e id q ord : Nat} {i : Issue} {p : PartRun} {run : DescRun}
  (hrun : (s.chip c).running e = some (id, q, ord)) (hw : (s.chip c).works = true)
  (h1 : e = 1 → s.underTest (.smithy c) = false ∧ 2 ≤ (s.chip c).tier) (h2 : e = 2 → s.underTest (.bellwether c) = false)
  (hrow : s.rowWaits c id = false) (hi : s.issue id = some i) (hp : i.part c = some p)
  (hs : e = 1 → s.piecesShort i p ord = false) (hr : p.descs[ord]? = some run)
include h1 h2

/-- Neither a test nor the tier holds the engine up. -/
theorem State.engine_free : (decide (e = 1) && (s.underTest (.smithy c) || decide ((s.chip c).tier < 2))) = false
    ∧ (decide (e = 2) && s.underTest (.bellwether c)) = false := by
  refine ⟨?_, ?_⟩
  · by_cases e1 : e = 1
    · simp [e1, (h1 e1).1, Nat.not_lt.mpr (h1 e1).2]
    · simp [e1]
  · by_cases e2 : e = 2
    · simp [e2, h2 e2]
    · simp [e2]

include hrun hw hrow hi hp hs hr

/-- A descriptor that ends without an error is stopped by an address beyond the Loft alone. -/
theorem State.engineDone_clean : s.engineDone c e .none =
    if s.beyond i p (kernelOf (s.groupOf i p ord)) (s.descAt c i.slot p.part run.idx) then .fault .absentAddress
    else .next (s.engineEnd c e ord i p run) := by
  obtain ⟨hsmithy, hbell⟩ := State.engine_free h1 h2
  have hpieces : (decide (e = 1) && s.piecesShort i p ord) = false := by
    by_cases e1 : e = 1 <;> simp [e1, hs]
  unfold State.engineDone
  simp only [hw, hsmithy, hbell, hrun, hrow, hi, hp, hr, hpieces, Option.bind_some, Option.map_some,
    Option.getD_some, Bool.not_true, Bool.or_self, Bool.false_eq_true, if_false, reduceCtorEq, ite_self]

/-- An error of the Smithy on the descriptor that it runs. -/
theorem State.engineDone_upset (he : e = 1) {u : Upset} {code : Nat}
    (hcode : (if u = .smithyInt then some 0x5301 else if u = .smithySig then some 0x5302 else none) = some code) :
    s.engineDone c e u = .next (s.smithyUpset c code i.tenant) := by
  obtain ⟨hsmithy, hbell⟩ := State.engine_free h1 h2
  unfold State.engineDone
  simp only [hw, hsmithy, hbell, hrun, hrow, hi, hp, hr, hs he, hcode, if_pos he, Option.bind_some, Option.map_some,
    Option.getD_some, Bool.not_true, Bool.or_self, Bool.and_false, Bool.false_eq_true, if_false]

end

/-- Settles O40: issue, rounds, errors and ends of descriptors, each by what it leaves of the chain of the issue. -/
theorem descriptorsRun : Obligations.DescriptorsRun := by
  unfold Obligations.DescriptorsRun
  intro s c hc
  refine ⟨?_, ?_, ?_, ?_, ?_⟩
  · intro id i p idx hi hp hw hn hl hx hr
    obtain rfl := State.issue_id hi
    obtain rfl := Issue.part_chip hp
    obtain ⟨q, hq, e⟩ := State.enqueue_issues (idx := idx) hi hp (s.descAt p.chip i.slot p.part idx)
    have ht := hq.step (State.liftTest_keeps _ p.chip) (State.liftTest_others _ p.chip) (by decide) (by decide)
    obtain ⟨j, hj, -, hjq⟩ := ht.runs
    obtain ⟨hnext, hidx⟩ := PartRun.idx_of_line e
    refine ⟨_, j, q, ?_, hj, hjq, hidx.trans (p.issued_idx _ _), hnext, ht.others, ht.keeps⟩
    exact congrArg (fun t => Host.Outcome.next (t.liftTest p.chip)) (State.issueDesc_ready hi hp hw hn hl hx hr)
  · intro k b r i p run g _ _ hround hw hdrop hwait hrow hi hp hm hr hg hs he hz
    have hu := upsetUnit_none (c := c) (k := k) (x := s.ctx i p run.idx) (r := r) he
    have hx := State.bankRound_clean hround hw hdrop hwait hrow hi hp hr hs hg hu hz
    refine ⟨fun hb => ?_, fun hb => hx.trans (if_pos hb)⟩
    obtain ⟨q, hq, hfin⟩ := State.roundEnd_counts (k := k) (b := b) hi hp hm hr
    obtain ⟨j, hj, -, hjq⟩ := hq.runs
    exact ⟨_, j, q, hx.trans (if_neg (by simp [hb])), State.issue_id hi ▸ hj, hjq, hfin, hq.others, hq.keeps⟩
  · intro k b r i p run u unit code detail hround hw hdrop hwait hrow hi hp hr hs hu hret
    obtain ⟨hchip, hon⟩ := upsetUnit_onChip hu
    have hx := State.bankRound_upset hround hw hdrop hwait hrow hi hp hr hs rfl hu
    rw [State.detect_onChip hchip hon hret] at hx
    have hkeeps := (keeps_chips s _).trans (State.liftTest_keeps (s.modChip c fun x =>
      x.suspect (s.newTest unit code i.tenant detail) s.micros) c)
    exact ⟨_, hx, State.liftTest_underTest hchip (State.suspected hc _ _).1, hkeeps .issues (by decide),
      (s.modChip_others c _).trans (State.liftTest_others _ c), hkeeps⟩
  · intro e id q ord i p run d he1 he3 hrun hw h1 h2 hrow hi hp hm hs hr hd
    have hx := State.engineDone_clean hrun hw h1 h2 hrow hi hp hs hr
    rw [hd] at hx
    refine ⟨fun hb hz1 hz2 hz3 => ?_, fun hb => hx.trans (if_pos hb)⟩
    obtain rfl := State.issue_id hi
    obtain ⟨q, hq, hcomp, hkeeps⟩ := State.engineEnd_completes hi hp hm hr hd ⟨he1, he3⟩ hz1 hz2 hz3
    obtain ⟨j, hj, -, hjq⟩ := hq.runs
    exact ⟨_, j, q, hx.trans (if_neg (by simp [hb])), hj, hjq, hcomp, hq.others, hq.keeps, hkeeps⟩
  · intro u id q ord i p run hu hrun hw hsm ht hrow hi hp hs hr ha hret
    obtain ⟨code, hcode⟩ : ∃ code, (if u = .smithyInt then some 0x5301 else if u = .smithySig then some 0x5302 else none)
        = some code := by
      rcases hu with rfl | rfl
      · exact ⟨_, rfl⟩
      · exact ⟨_, rfl⟩
    have hx := State.engineDone_upset (e := 1) hrun hw (fun _ => ⟨hsm, ht⟩) (fun h => absurd h (by decide)) hrow hi hp
      (fun _ => hs) hr rfl hcode
    obtain ⟨hunder, hwork, hothers, hkeeps⟩ := State.smithyUpset_first hc ha hret code i.tenant
    exact ⟨_, hx, hunder, hkeeps .issues (by decide), congrArg Prod.fst hwork, congrArg Prod.snd hwork, hothers, hkeeps⟩

end Sys2Proof.Machine
end
section
/-! PROOFS. Jobs enabled and disabled (R257, R259). -/

namespace Sys2Proof.Machine

/-! ### What a frame leaves to be read -/

section
variable {l : List Piece} {s t : State}

theorem Keeps.flag (h : Keeps l s t) (hl : Piece.od ∉ l) (i j : Nat) : t.flag i j = s.flag i j := by
  rw [State.flag, State.num, State.get, h .od hl]
  rfl

theorem Keeps.job (h : Keeps l s t) (hl : Piece.jobs ∉ l) (i j : Nat) : t.job i j = s.job i j :=
  congrArg (fun v => vget (vget v i) j) (h .jobs hl)

theorem Keeps.pendOf (h : Keeps l s t) (hl : Piece.pend ∉ l) (i : Nat) : t.pendOf i = s.pendOf i :=
  congrArg (vget · i) (h .pend hl)

theorem Keeps.sameEntries (h : Keeps l s t) (hl : Piece.od ∉ l) (p : Nat → Bool) : sameEntries p s t :=
  sameEntries.of_od (h .od hl)

end

theorem State.flag_setNum_same (s : State) (i j : Nat) (v : Int) : (s.setNum i j v).flag i j = decide (v ≠ 0) := by
  rw [State.flag, State.num_setNum_same]

theorem State.job_modJob_same (s : State) {t j : Nat} (ht : t < 16) (hj : j < 15) (f : JobRun → JobRun) :
    (s.modJob t j f).job t j = f (s.job t j) := by
  rw [State.job, State.modJob_jobs, vget_vmod_same _ _ ht, vget_vmod_same _ _ hj]
  rfl

theorem State.pendOf_modPend_same (s : State) {t : Nat} (ht : t < 16) (f : Pend → Pend) :
    (s.modPend t f).pendOf t = f (s.pendOf t) := vget_vmod_same _ _ ht

/-- The end of decimation leaves the queues as they are. -/
theorem State.endDecimation_queue (s : State) (t u : Nat) : ((s.endDecimation t).pendOf u).queue = (s.pendOf u).queue := by
  unfold State.endDecimation
  split
  · exact vget_vmod_proj (p := Pend.queue) _ _ _ fun _ => rfl
  · rfl

theorem State.endDecimation_keeps (s : State) (t : Nat) : Keeps [.pend] s (s.endDecimation t) :=
  Keeps.ite (keeps_pend s _) (Keeps.refl _ s)

/-! ### Jobs enabled and disabled (R257, R259) -/

/-- A job that begins anew: no drop counted, no on-time issue, no hold-over, and no k squashed. -/
def JobRun.begun (r : JobRun) : JobRun := { r with drops := 0, onTime := false, holdOver := none, noSpec := [] }

theorem State.jobStart_off {s : State} {t j : Nat} (h : s.jobOn t j = false) :
    s.jobStart t j = ((s.setNum (blk t (0x20 + j)) 1 1).modJob t j JobRun.begun).retier :=
  if_neg (by simp [h])

theorem State.releaseJob_keeps (s : State) (t j : Nat) : Keeps [.groups, .cams] s (s.releaseJob t j) :=
  Keeps.forEach (fun s _ => Keeps.foldl (fun s _ => Keeps.ite (s.release_keeps _ t j) (Keeps.refl _ s)) (Keeps.refl _ s))
    (Keeps.refl _ s)

/-- A job disabled, its frames and the tiers of the chips apart. -/
def State.jobCleared (s : State) (t j : Nat) : State :=
  (((s.setNum (blk t (0x20 + j)) 1 0).modPend t fun p =>
    { p with queue := p.queue.filter fun q => decide (q.job ≠ j) }).endDecimation t).modJob t j fun r => { r with holdOver := none }

theorem State.jobStop_on {s : State} {t j : Nat} (h : s.jobOn t j = true) :
    s.jobStop t j = ((s.jobCleared t j).releaseJob t j).retier := if_neg (by simp [h])

section
variable (s : State) {t j : Nat} (ht : t < 16) (hj : j < 15)

theorem State.jobStart_keeps : Keeps [.chips, .jobs, .od] s (s.jobStart t j) :=
  Keeps.ite (Keeps.refl _ s) ((((keeps_od s _).mono (by decide)).trans ((keeps_jobs _ _).mono (by decide))).trans
    ((State.retier_keeps _).mono (by decide)))

theorem State.jobStart_same : sameEntries (fun i => decide (i = blk t (0x20 + j))) s (s.jobStart t j) := by
  by_cases h : s.jobOn t j
  · rw [State.jobStart, if_pos h]
    exact sameEntries.refl _ s
  · rw [State.jobStart_off (by simpa using h)]
    exact (s.set_same _ (by decide) (decide_eq_true rfl)).trans
      ((keeps_jobs _ _).sameEntries (by decide) _ |>.trans ((State.retier_keeps _).sameEntries (by decide) _))

theorem State.jobStart_flag : (s.jobStart t j).flag (blk t (0x20 + j)) 1 = true := by
  by_cases h : s.jobOn t j
  · rw [State.jobStart, if_pos h]
    exact h
  · rw [State.jobStart_off (by simpa using h), (State.retier_keeps _).flag (by decide)]
    exact (s.flag_setNum_same _ _ _).trans (by decide)

include ht hj in
theorem State.jobStart_begun (h : s.jobOn t j = false) : (s.jobStart t j).job t j = (s.job t j).begun := by
  rw [State.jobStart_off h, (State.retier_keeps _).job (by decide), State.job_modJob_same _ ht hj]
  rfl

theorem State.jobCleared_keeps : Keeps [.jobs, .od, .pend] s (s.jobCleared t j) :=
  ((((keeps_od s _).mono (by decide)).trans ((keeps_pend _ _).mono (by decide))).trans
    ((State.endDecimation_keeps _ t).mono (by decide))).trans ((keeps_jobs _ _).mono (by decide))

/-- What follows a job's clearing leaves its entries, its triggers and its hold-over. -/
theorem State.jobCleared_stop (h : s.jobOn t j = true) : Keeps [.groups, .cams, .chips] (s.jobCleared t j) (s.jobStop t j) := by
  rw [State.jobStop_on h]
  exact ((State.releaseJob_keeps _ t j).mono (by decide)).trans ((State.retier_keeps _).mono (by decide))

theorem State.jobCleared_od : (s.jobCleared t j).od = (s.setNum (blk t (0x20 + j)) 1 0).od :=
  (State.endDecimation_keeps _ t) .od (by decide)

theorem State.jobStop_keeps : Keeps [.cams, .chips, .groups, .jobs, .od, .pend] s (s.jobStop t j) := by
  by_cases h : s.jobOn t j
  · exact (s.jobCleared_keeps.mono (by decide)).trans ((s.jobCleared_stop h).mono (by decide))
  · rw [State.jobStop, if_pos (by simpa using h)]
    exact Keeps.refl _ s

theorem State.jobStop_same : sameEntries (fun i => decide (i = blk t (0x20 + j))) s (s.jobStop t j) := by
  by_cases h : s.jobOn t j
  · exact (s.set_same _ (by decide) (decide_eq_true rfl)).trans
      ((sameEntries.of_od s.jobCleared_od).trans ((s.jobCleared_stop h).sameEntries (by decide) _))
  · rw [State.jobStop, if_pos (by simpa using h)]
    exact sameEntries.refl _ s

theorem State.jobStop_flag : (s.jobStop t j).flag (blk t (0x20 + j)) 1 = false := by
  by_cases h : s.jobOn t j
  · rw [(s.jobCleared_stop h).flag (by decide), State.flag, State.num, State.get, s.jobCleared_od]
    exact (s.flag_setNum_same _ _ _).trans (by decide)
  · rw [State.jobStop, if_pos (by simpa using h)]
    exact Bool.eq_false_iff.mpr h

include ht in
theorem State.jobStop_queue (h : s.jobOn t j = true) : ∀ q ∈ ((s.jobStop t j).pendOf t).queue, q.job ≠ j := by
  rw [(s.jobCleared_stop h).pendOf (by decide)]
  show ∀ q ∈ ((State.endDecimation _ t).pendOf t).queue, _
  rw [State.endDecimation_queue, State.pendOf_modPend_same _ ht]
  exact fun q hq => of_decide_eq_true (List.mem_filter.mp hq).2

include ht hj in
theorem State.jobStop_holdOver (h : s.jobOn t j = true) : ((s.jobStop t j).job t j).holdOver = none := by
  rw [(s.jobCleared_stop h).job (by decide), State.jobCleared, State.job_modJob_same _ ht hj]

end

theorem State.asked_jobOn (s : State) (n : Net) (t j : Nat) : (s.asked n).jobOn t j = s.jobOn t j :=
  (s.asked_keeps n).flag (by decide) _ _

/-- Settles O38: the effects of the two commands, on the state in which the request was judged. -/
theorem jobsEnabled : Obligations.JobsEnabled := by
  unfold Obligations.JobsEnabled
  intro s n t j ht hj
  have hasked := (s.asked_keeps n).sameEntries (by decide) fun i => decide (i = blk t (0x20 + j))
  refine ⟨fun h => ⟨((s.asked n).jobStart t j).answer n .ok, ?_, State.jobStart_flag _, State.answer_answered _ n,
      fun hoff => ?_, hasked.trans (State.jobStart_same _), (State.jobStart_keeps _).taken.mono (by decide)⟩,
    fun h => ⟨((s.asked n).jobStop t j).answer n .ok, ?_, State.jobStop_flag _, State.answer_answered _ n, fun hon => ?_,
      hasked.trans (State.jobStop_same _), (State.jobStop_keeps _).taken.mono (by decide)⟩⟩
  · exact congrArg Host.Outcome.next (State.write_accepted _ h)
  · have hjob := State.jobStart_begun (s.asked n) ht hj ((s.asked_jobOn n t j).trans hoff)
    exact ⟨congrArg JobRun.drops hjob, congrArg JobRun.onTime hjob, congrArg JobRun.holdOver hjob⟩
  · exact congrArg Host.Outcome.next (State.write_accepted _ h)
  · have hon' := (s.asked_jobOn n t j).trans hon
    exact ⟨State.jobStop_queue _ ht hon', State.jobStop_holdOver _ ht hj hon'⟩

end Sys2Proof.Machine
end
section
/-! PROOFS. Pending triggers that become committed issues, and speculative issues (R264, R267, R273). -/

namespace Sys2Proof.Machine

/-! ### Pending triggers (R264) -/

theorem Keeps.nextIssue {l : List Piece} {s t : State} (h : Keeps l s t) (hl : Piece.nextIssue ∉ l) :
    t.nextIssue = s.nextIssue := h .nextIssue hl

theorem Keeps.jobDesc {l : List Piece} {s t : State} (h : Keeps l s t) (hl : Piece.od ∉ l) (i j : Nat) :
    t.jobDesc i j = s.jobDesc i j := by
  rw [State.jobDesc, State.bytes, State.get, h .od hl]
  rfl

theorem Keeps.jobModel {l : List Piece} {s t : State} (h : Keeps l s t) (hod : Piece.od ∉ l) (hsl : Piece.slots ∉ l)
    (i j : Nat) : t.jobModel i j = s.jobModel i j := by
  have hn (a b : Nat) : t.nat a b = s.nat a b := State.nat_of_od (h .od hod) a b
  have hs (a : Nat) : t.slot a = s.slot a := congrArg (vget · a) (h .slots hsl)
  simp only [State.jobModel, State.model, h.jobDesc hod, hn, hs]

/-- What an issue on a trigger appends to the issues (R261). -/
structure Made (s : State) (t : Nat) (tr : Trigger) (x : Issue) (r : State) : Prop where
  issues : r.issues = s.issues ++ [x]
  next : r.nextIssue = s.nextIssue + 1
  source : x.tenant = t ∧ x.job = tr.job ∧ x.k = tr.k ∧ x.angle = tr.angle
  committed : x.st = .committed ∧ x.waitsSlot = false ∧ x.id = s.nextIssue
  place : x.slot = (s.jobDesc t tr.job).slot ∧ x.entry = (s.jobDesc t tr.job).entry
  keeps : Keeps [.cams, .chips, .groups, .issues, .jobs, .nextIssue, .od] s r

/-- What follows the new issue of a trigger: its job, its frame, its strips and the counter of committed issues. -/
def State.noteIssue (s : State) (t : Nat) (tr : Trigger) : State :=
  (((s.modJob t tr.job fun r => { r with drops := 0 }).serveFrame tr.frame t).dropStrips (.job t tr.job tr.k)).bump
    (blk t (0x20 + tr.job)) 3

theorem State.noteIssue_keeps (s : State) (t : Nat) (tr : Trigger) :
    Keeps [.cams, .chips, .groups, .jobs, .od] s (s.noteIssue t tr) :=
  ((((keeps_jobs s _).mono (by decide)).trans ((State.serveFrame_keeps _ _ _).mono (by decide))).trans
    ((keeps_chips _ _).mono (by decide))).trans ((State.add_keeps _ _ _ _).mono (by decide))

theorem State.issueOn_made {s : State} {t : Nat} {tr : Trigger} {m : Model} (hm : s.jobModel t tr.job = some m) :
    ∃ x, Made s t tr x (s.issueOn t tr) := by
  unfold State.issueOn
  extract_lets d
  split
  · next h => exact absurd (h.symm.trans hm) (by simp)
  extract_lets x s1 s2 s3
  have h : Keeps [.cams, .chips, .groups, .jobs, .od] s1 (s3.bump (blk t (0x20 + tr.job)) 3) := s1.noteIssue_keeps t tr
  exact ⟨x, h .issues (by decide), h .nextIssue (by decide), ⟨rfl, rfl, rfl, rfl⟩, ⟨rfl, rfl, rfl⟩, ⟨rfl, rfl⟩,
    ((keeps_issues_next s _ _).mono (by decide)).trans (h.mono (by decide))⟩

/-- An issue that waits for a committed slot no more. -/
def Issue.promoted (i : Issue) : Issue := { i with waitsSlot := false }

/-- An issue that takes a committed slot where one has freed. -/
def State.promoteOne (s : State) (i : Issue) : State :=
  if i.waitsSlot && decide (i.st = .committed) && !s.outranked i.tenant i.order (i.parts.map PartRun.chip)
    && s.slotFree false i.tenant (i.parts.map PartRun.chip) then (s.modIssue i.id Issue.promoted).countCommit i else s

theorem State.promote_eq (s : State) : s.promote = s.issues.foldl State.promoteOne s := rfl

/-- From `s` to `t` issues keep their places, and all but the mark that they wait for a slot. -/
def Promotes (s t : State) : Prop := ∃ g : Issue → Issue, t.issues = s.issues.map g ∧ ∀ i, g i = i ∨ g i = i.promoted

theorem Promotes.refl (s : State) : Promotes s s := ⟨id, (List.map_id _).symm, fun _ => Or.inl rfl⟩

theorem Promotes.trans {r s t : State} (h1 : Promotes r s) (h2 : Promotes s t) : Promotes r t := by
  obtain ⟨f, hf, hfi⟩ := h1
  obtain ⟨g, hg, hgi⟩ := h2
  refine ⟨g ∘ f, by rw [hg, hf, List.map_map], fun i => ?_⟩
  rcases hfi i with e | e
  · rw [Function.comp_apply, e]
    exact hgi i
  · rw [Function.comp_apply, e]
    exact Or.inr ((hgi i.promoted).elim id id)

theorem State.promoteOne_promotes (s : State) (i : Issue) : Promotes s (s.promoteOne i) := by
  unfold State.promoteOne
  split
  · refine ⟨fun x => if x.id = i.id then x.promoted else x, State.countCommit_keeps _ i .issues (by decide), fun x => ?_⟩
    by_cases hx : x.id = i.id
    · exact Or.inr (if_pos hx)
    · exact Or.inl (if_neg hx)
  · exact Promotes.refl s

/-- Issues that wait take the committed slots that have freed (R261, R273). -/
theorem State.promote_promotes (s : State) : Promotes s s.promote := by
  have all (l : List Issue) (s : State) : Promotes s (l.foldl State.promoteOne s) := by
    induction l generalizing s with
    | nil => exact Promotes.refl s
    | cons i l ih => exact (s.promoteOne_promotes i).trans (ih _)
  exact all s.issues s

/-- An issue that waits for no slot is left as it is. -/
theorem eq_of_promoted {i j : Issue} (h : j = i ∨ j = i.promoted) (hi : i.waitsSlot = false) : j = i := by
  refine h.elim id fun h => ?_
  rw [h, Issue.promoted, ← hi]

theorem id_of_promoted {i j : Issue} (h : j = i ∨ j = i.promoted) : j.id = i.id := by
  rcases h with rfl | rfl <;> rfl

/-- The oldest pending trigger of a tenant, which slots are free for and no earlier trigger outranks. -/
theorem State.issuePending_first {s : State} {t : Nat} {tr : Trigger} {rest : List Trigger} {m : Model}
    (hq : (s.pendOf t).queue = tr :: rest) (hm : s.jobModel t tr.job = some m) (hc : s.canIssue t tr.job = true)
    (ho : s.outranked t tr.order m.chips = false) :
    s.issuePending t = (((s.modPend t fun p => { p with queue := rest }).endDecimation t).issueOn t tr).promote := by
  simp only [State.issuePending, hq, hc, hm, Option.map_some, Option.getD_some, ho, Bool.not_true, Bool.or_self,
    Bool.false_eq_true, if_false]

/-- A trigger that leaves its queue. -/
theorem State.dequeue_keeps (s : State) (t : Nat) (f : Pend → Pend) : Keeps [.pend] s ((s.modPend t f).endDecimation t) :=
  (keeps_pend s _).trans (State.endDecimation_keeps _ t)

theorem State.dequeue_others (s : State) {t u : Nat} (h : u ≠ t) (f : Pend → Pend) :
    ((s.modPend t f).endDecimation t).pendOf u = s.pendOf u := by
  have hne (s : State) (f : Pend → Pend) : (s.modPend t f).pendOf u = s.pendOf u := vget_vmod_ne _ _ h.symm
  unfold State.endDecimation
  split
  · rw [hne, hne]
  · exact hne s f

/-! ### Speculative issues (R267) -/

/-- The strips of a frame that an issue awaits, queued on its chips. -/
def State.awaitStrips (s : State) (m : Model) (id : Nat) : State :=
  m.chips.eraseDups.foldl (fun s c => s.modChip c fun x =>
    { x with stripsWait := x.stripsWait ++ (List.range 8).map fun n => (StripFor.issue id, n) }.feedStrips) s

theorem State.awaitStrips_keeps (s : State) (m : Model) (id : Nat) : Keeps [.chips] s (s.awaitStrips m id) :=
  Keeps.foldl (fun s _ => keeps_chips s _) (Keeps.refl _ s)

/-- All that an issue ahead of its trigger needs (R267): the job, enabled with its source, may speculate on the next `k`; its shaft
runs forward, referenced and tracked, and is due; neither an issue nor a trigger of that `k` is there, and a slot is free. -/
structure State.Foresees (s : State) (t j : Nat) (k a : Int) (sh : Nat) (m : Model) : Prop where
  expected : s.expected t j = some (k, a, sh)
  model : s.jobModel t j = some m
  job : s.jobOn t j = true ∧ s.sourceOn t j = true ∧ (s.job t j).noSpec.contains k = false ∧ s.listens t j = true
    ∧ (s.jobDesc t j).speculate = true
  shaft : (s.shaft sh).armed = true ∧ (s.shaft sh).referenced = true ∧ (s.shaft sh).standstill = false
    ∧ (s.shaft sh).reverse = false ∧ (s.shaft sh).beyond = false ∧ (s.shaft sh).inputLoss = false
  fresh : m.chips.any (fun c => (s.chip c).mirror.stale) = false
  due : (s.shaft sh).traj.reaches s.timebase (a - (s.jobDesc t j).lead) = true
  unissued : s.issues.any (fun i => decide (i.tenant = t ∧ i.job = j ∧ i.k = k)) = false
  unqueued : (s.pendOf t).queue.any (fun q => decide (q.job = j ∧ q.k = k)) = false
  free : s.slotFree true t m.chips = true

/-- The issue ahead of the trigger is the last one, and beside the issues its counter and its strips alone are changed. -/
theorem State.speculate_issues {s : State} {t j sh : Nat} {k a : Int} {m : Model} (h : s.Foresees t j k a sh m) :
    ∃ x : Issue, (s.speculate t j).issues = s.issues ++ [x] ∧ (s.speculate t j).nextIssue = s.nextIssue + 1
      ∧ (x.tenant = t ∧ x.job = j ∧ x.k = k ∧ x.angle = a ∧ x.shaft = sh ∧ x.st = .speculative ∧ x.id = s.nextIssue)
      ∧ Keeps [.od, .issues, .nextIssue, .chips] s (s.speculate t j) := by
  obtain ⟨hon, hsource, hspec, hlistens, hmay⟩ := h.job
  obtain ⟨harmed, href, hstand, hrev, hbeyond, hloss⟩ := h.shaft
  unfold State.speculate
  extract_lets d
  split
  · next k' a' sh' m' he hm =>
    obtain ⟨rfl, rfl, rfl⟩ : k' = k ∧ a' = a ∧ sh' = sh := by simpa using he.symm.trans h.expected
    obtain rfl : m' = m := by simpa using hm.symm.trans h.model
    extract_lets x own fresh mine quiet due i s1 s2
    have hgo : ¬ (!fresh || !s.listens t j || !d.speculate || quiet || !due || s.issues.any mine
        || (s.pendOf t).queue.any (fun q => decide (q.job = j ∧ q.k = k')) || !s.slotFree true t m'.chips) = true := by
      simp only [fresh, hon, hsource, hspec, hlistens, d, hmay, quiet, x, harmed, href, hstand, hrev, hbeyond, hloss, h.fresh, due,
        h.due, mine, h.unissued, h.unqueued, h.free, Bool.not_true, Bool.not_false, Bool.and_self, Bool.or_self,
        Bool.false_eq_true, not_false_eq_true]
    rw [if_neg hgo]
    have h2 : Keeps [.od, .chips] s1 (if d.kind = 1 ∨ d.kind = 2 then s2.awaitStrips m' i.id else s2) :=
      Keeps.ite (((s1.add_keeps _ _ _).mono (by decide)).trans ((s2.awaitStrips_keeps m' i.id).mono (by decide)))
        ((s1.add_keeps _ _ _).mono (by decide))
    exact ⟨i, h2 .issues (by decide), h2 .nextIssue (by decide), ⟨rfl, rfl, rfl, rfl, rfl, rfl, rfl⟩,
      ((keeps_issues_next s _ _).mono (by decide)).trans (h2.mono (by decide))⟩
  · next hno => exact absurd h.model (hno _ _ _ _ h.expected)

/-- Settles O39: the pending trigger by what its issue appends, the speculative issue by what lets it be made. -/
theorem issuesMade : Obligations.IssuesMade := by
  unfold Obligations.IssuesMade
  intro s
  refine ⟨fun t tr rest m ht hq hm hc ho => ?_, fun t hq => ?_, fun t tr rest hq hc => ?_, ?_⟩
  · have hd := s.dequeue_keeps t fun p => { p with queue := rest }
    obtain ⟨x, hx⟩ := State.issueOn_made ((hd.jobModel (by decide) (by decide) t tr.job).trans hm)
    have hpend (u : Nat) :=
      ((State.promote_keeps (State.issueOn _ t tr)).pendOf (by decide) u).trans (hx.keeps.pendOf (by decide) u)
    obtain ⟨g, hg, hgi⟩ := State.promote_promotes (State.issueOn _ t tr)
    rw [hx.issues, hd .issues (by decide), List.map_append, List.map_singleton,
      eq_of_promoted (hgi x) hx.committed.2.1] at hg
    obtain ⟨htenant, hjob, hk, hangle⟩ := hx.source
    have hnext := hd.nextIssue (by decide)
    refine ⟨_, x, congrArg Host.Outcome.next (State.issuePending_first hq hm hc ho), ?_, ?_, fun hw => ?_, htenant, hjob, hk, hangle,
      hx.committed.1, hx.committed.2.2.trans hnext, ?_, ?_, ?_, fun u hu => ?_, ?_, ?_⟩
    · rw [hg, List.getLast?_concat]
    · rw [hg, List.map_append, List.map_map, List.map_singleton, hx.committed.2.2, hnext]
      exact congrArg (· ++ _) (List.map_congr_left fun i _ => id_of_promoted (hgi i))
    · rw [hg]
      exact congrArg (· ++ _) ((List.map_congr_left fun i hi => eq_of_promoted (hgi i) (hw i hi)).trans (List.map_id _))
    · rw [hx.place.1, hd.jobDesc (by decide)]
    · rw [hx.place.2, hd.jobDesc (by decide)]
    · rw [hpend, State.endDecimation_queue, State.pendOf_modPend_same _ ht]
    · rw [hpend, State.dequeue_others s hu]
    · exact (State.promote_keeps _ .nextIssue (by decide)).trans (hx.next.trans (congrArg (· + 1) hnext))
    · exact (hd.mono (by decide)).trans ((hx.keeps.mono (by decide)).trans ((State.promote_keeps _).mono (by decide)))
  · exact congrArg Host.Outcome.next (by simp only [State.issuePending, hq])
  · exact congrArg Host.Outcome.next (by simp [State.issuePending, hq, hc])
  · intro t j k a sh m he hm hl hs hj hsrc hno harm href hstand hrev hbey hloss hst hdue hi hq hf
    obtain ⟨x, hissues, hnext, ⟨h1, h2, h3, h4, h5, h6, h7⟩, hkeeps⟩ := State.speculate_issues (s := s) (t := t) (j := j)
      ⟨he, hm, ⟨hj, hsrc, hno, hl, hs⟩, ⟨harm, href, hstand, hrev, hbey, hloss⟩, hst, hdue,
        List.any_eq_false.mpr fun i h => by simpa using hi i h, List.any_eq_false.mpr fun q h => by simpa using hq q h, hf⟩
    exact ⟨_, x, rfl, hissues, h1, h2, h3, h4, h5, h6, h7, hnext, hkeeps⟩

end Sys2Proof.Machine
end
section
/-! PROOFS. Hand-offs, streamed pieces and model images that reach the chips (R266, R309, R321, R324). -/

namespace Sys2Proof.Machine

/-! ### Records owed, and links that are calm again (R421) -/

/-- What records, links and transfers of images may change. -/
def linkPieces : List Piece := [.chips, .od, .boot, .mail, .faults]

/-- Records that are written at last leave what a chip shows beside the records it owes. -/
theorem State.writeOwed_spec {α : Type} {f : Chip → α} (hf : ∀ (x : Chip) l, f { x with owed := l } = f x) (s : State) :
    Keeps linkPieces s s.writeOwed ∧ chipsAgree f s s.writeOwed := by
  have posts (l : List Owed) (s : State) : Keeps linkPieces s (l.foldl (fun s o => s.post (o.test.record o.verdict)) s)
      ∧ chipsAgree f s (l.foldl (fun s o => s.post (o.test.record o.verdict)) s) :=
    ⟨Keeps.foldl (fun s o => (s.post_keeps _).mono (by decide)) (Keeps.refl _ s),
      chipsAgree.foldl (fun s o => chipsAgree.of_chips (s.post_chips _)) l s⟩
  unfold State.writeOwed
  refine ⟨Keeps.forEach (fun s c => Keeps.ite (Keeps.refl _ s) ?_) (Keeps.refl _ s), chipsAgree.foldl (fun s c => ?_) _ s⟩
  · exact ((keeps_chips s _).mono (by decide)).trans (posts _ _).1
  · dsimp only
    split
    · exact chipsAgree.refl f s
    · exact (s.modChip_agree c fun x => hf x _).trans (posts _ _).2

theorem State.writeOwed_keeps (s : State) : Keeps linkPieces s s.writeOwed :=
  (s.writeOwed_spec (f := fun _ => ()) fun _ _ => rfl).1

theorem State.calmLinks_keeps (s : State) (c : Nat) : Keeps [.chips] s (s.calmLinks c) :=
  ((keeps_chips s _).trans (keeps_chips _ _)).trans (keeps_chips _ _)

/-! ### Hand-offs (R309) -/

/-- A hand-off whose source chain is complete lands: its destination holds a scratch copy, and it is noted with the issue. -/
theorem State.handOff_lands {s : State} {id n k : Nat} {i : Issue} {m : Model} {h : HandOff} {a b : PartRun}
    (hi : s.issue id = some i) (hm : s.model i.slot = some m) (hn : m.variant.handOffs[n]? = some h) (ho : s.handsOver m i h = true)
    (ha : i.parts.find? (fun p => decide (p.part = h.src)) = some a) (hb : i.parts.find? (fun p => decide (p.part = h.dst)) = some b)
    (hc : a.complete = true) (hr : i.arrived.contains n = false) (hs : s.routed a.chip b.chip = true)
    (hk : b.copy = some k ∨ (b.copy = none ∧ s.freeCopy i b = some k)) :
    ∃ w, s.handOff id n = ((s.modIssue id fun i => i.modPart b.chip fun p => { p with copy := some k }).loftWrite i
      { b with copy := some k } h.dstHandle w).modIssue id fun i => { i with arrived := n :: i.arrived } := by
  have hgo : ¬ ((some m).map (fun m => s.handsOver m i h) ≠ some true ∨ (!a.complete) = true ∨ i.arrived.contains n = true
      ∨ (!s.routed a.chip b.chip) = true) := by
    rw [Option.map_some, ho, hc, hr, hs]
    decide
  unfold State.handOff
  simp only [hi, hm, Option.bind_some, hn, ha, hb]
  rw [if_neg hgo]
  rcases hk with h1 | ⟨h1, h2⟩
  · simp only [h1]
    exact ⟨_, rfl⟩
  · simp only [h1, h2]
    exact ⟨_, rfl⟩

/-- The issue after its hand-off, and the chain on the chip that the hand-off ends on. -/
theorem State.landed_issue {s : State} {id k : Nat} {i : Issue} {b p : PartRun} (n d : Nat) (w : List (Nat × Byte))
    (hi : s.issue id = some i) (hp : i.part b.chip = some p) :
    ∃ j, (((s.modIssue id fun i => i.modPart b.chip fun p => { p with copy := some k }).loftWrite i
        { b with copy := some k } d w).modIssue id fun i => { i with arrived := n :: i.arrived }).issue id = some j
      ∧ j.arrived = n :: i.arrived ∧ j.part b.chip = some { p with copy := some k } := by
  have h1 : (s.modIssue id fun i => i.modPart b.chip fun p => { p with copy := some k }).issue id
      = some (i.modPart b.chip fun p => { p with copy := some k }) := State.issue_modIssue (fun _ => rfl) hi
  have h2 (t : State) : (t.loftWrite i { b with copy := some k } d w).issue id = t.issue id := by
    rw [State.issue, t.loftWrite_keeps _ _ _ _ .issues (by decide)]
    rfl
  exact ⟨_, State.issue_modIssue (f := fun i => { i with arrived := n :: i.arrived }) (fun _ => rfl) ((h2 _).trans h1), rfl,
    Issue.part_modPart (f := fun p => { p with copy := some k }) (fun _ => rfl) hp⟩

/-- A hand-off that has landed leaves its links calm, and the records that waited for it written (R421). -/
theorem State.handOffEnd_keeps {s : State} {id n : Nat} {i j : Issue} (hi : s.issue id = some i)
    (hj : (s.handOff id n).issue id = some j) (hne : i.arrived.length ≠ j.arrived.length) :
    Keeps linkPieces (s.handOff id n) (s.handOffEnd id n) := by
  unfold State.handOffEnd
  extract_lets ends t
  have hends : ¬ ends s = ends t := by simpa only [ends, t, hi, hj, Option.map_some, Option.getD_some] using hne
  rw [if_neg hends]
  split
  · exact (((State.calmLinks_keeps _ _).mono (by decide)).trans ((State.calmLinks_keeps _ _).mono (by decide))).trans
      (State.writeOwed_keeps _)
  · exact Keeps.refl _ _

theorem Keeps.issue {l : List Piece} {s t : State} (h : Keeps l s t) (hl : Piece.issues ∉ l) (id : Nat) :
    t.issue id = s.issue id := by
  rw [State.issue, h .issues hl]
  rfl

/-! ### Streamed pieces (R321) -/

theorem State.putPiece_spec (s : State) (c slot part n : Nat) (piece : Nat × Nat) :
    Keeps [.chips] s (s.putPiece c slot part n piece) ∧ sameChips c s (s.putPiece c slot part n piece) := by
  unfold State.putPiece
  split
  · exact ⟨Keeps.refl _ s, fun _ _ => rfl⟩
  · exact ⟨keeps_chips s _, s.modChip_others c _⟩

/-- The next piece of a loaded chain, for which a half of the double buffer is free, is put there and counted. -/
theorem State.pieceArrive_counts {s : State} {c id : Nat} {i : Issue} {p : PartRun} {m : Model} {piece : Nat × Nat}
    (hi : s.issue id = some i) (hp : i.part c = some p) (hm : s.model i.slot = some m) (hl : p.loaded = true)
    (hq : (s.piecesOf i p (s.chainFrom c i.slot p.part (m.variant.entryOn (s.entryOf m i p.part) p.part).first
      (m.variant.part p.part).descCount))[p.pieces]? = some piece) (hh : s.piecesHeld c i.slot < 2) :
    s.pieceArrive c id = (s.putPiece c i.slot p.part p.pieces piece).modIssue id fun i =>
      i.modPart c fun p => { p with pieces := p.pieces + 1 } := by
  simp only [State.pieceArrive, hi, Option.bind_some, hp, hm, hq, hl, hh, decide_true, Bool.and_self, if_true]

/-- While both halves are full, no piece arrives. -/
theorem State.pieceArrive_full {s : State} {c id : Nat} {i : Issue} (hi : s.issue id = some i) (hh : 2 ≤ s.piecesHeld c i.slot) :
    s.pieceArrive c id = s := by
  unfold State.pieceArrive
  rw [hi]
  split
  · next j p hj _ =>
    obtain rfl := Option.some.inj hj
    split
    · rfl
    · dsimp only
      split
      · exact if_neg (by simp [Nat.not_lt.mpr hh])
      · rfl
  · rfl

/-! ### Model images (R324) -/

/-- The images that a chip holds in its pool, and those that it loads. -/
def Chip.images (x : Chip) : List Nat × List Nat := (x.pool, x.loading)

/-- An image that has crossed PCIe enters its pool where the pool can make room. -/
theorem State.imageLoaded_enters {s : State} {c slot : Nat} {l : List Nat} (hc : c < 16)
    (hw : (s.chip c).loading.contains slot = true) (hl : evictPool (s.imageSize c) (s.imageUsed c) (s.poolSize c 256)
      (s.imageSize c slot) ((s.chip c).pool.length + 1) (s.chip c).pool = some l) :
    ((s.imageLoaded c slot).chip c).images = (slot :: l, (s.chip c).loading.filter (· ≠ slot)) := by
  simp only [State.imageLoaded, hw, hl, Bool.not_true, Bool.false_eq_true, if_false, State.chip_setChip_same _ hc, Chip.images]

/-- It waits where the pool cannot. -/
theorem State.imageLoaded_waits {s : State} {c slot : Nat} (hl : evictPool (s.imageSize c) (s.imageUsed c) (s.poolSize c 256)
      (s.imageSize c slot) ((s.chip c).pool.length + 1) (s.chip c).pool = none) : s.imageLoaded c slot = s := by
  simp only [State.imageLoaded, hl, ite_self]

theorem State.imageLoaded_keeps (s : State) (c slot : Nat) : Keeps [.chips] s (s.imageLoaded c slot) := by
  unfold State.imageLoaded
  dsimp only
  split
  · exact Keeps.refl _ s
  · split
    · exact Keeps.refl _ s
    · exact keeps_chips s _

/-- Settles O41: the hand-off by where it lands, the piece by its count, the image by what its pool can take. -/
theorem chainsFed : Obligations.ChainsFed := by
  unfold Obligations.ChainsFed
  intro s
  have himages (r : State) := r.writeOwed_spec (f := Chip.images) fun _ _ => rfl
  refine ⟨fun id n i m h a b k hi hm hn ho ha hb hc hr hs hk => ?_, fun c id i p m piece hc hi hp hm hl hq hh => ?_,
    fun c id i hi hh => congrArg Host.Outcome.next (State.pieceArrive_full hi hh), fun c slot l hc hw hl => ?_,
    fun c slot hc hw hl => ?_⟩
  · obtain ⟨p, hp⟩ : ∃ p, i.part b.chip = some p :=
      Option.isSome_iff_exists.mp (List.find?_isSome.mpr ⟨b, List.mem_of_find?_eq_some hb, decide_eq_true rfl⟩)
    obtain ⟨w, hw⟩ := State.handOff_lands hi hm hn ho ha hb hc hr hs hk
    obtain ⟨j, hj, harr, hpart⟩ := State.landed_issue (k := k) n h.dstHandle w hi hp
    rw [← hw] at hj
    have hend := State.handOffEnd_keeps hi hj (by simp [harr])
    have hland : Keeps [.issues, .chips] s (s.handOff id n) := hw ▸ (((keeps_issues s _).mono (by decide)).trans
      ((State.loftWrite_keeps _ _ _ _ _).mono (by decide))).trans ((keeps_issues _ _).mono (by decide))
    rw [← hend.issue (by decide)] at hj
    refine ⟨_, rfl, ?_, ?_, (hland.mono (by decide)).trans (hend.mono (by decide))⟩
    · rw [hj, Option.map_some, harr]
    · rw [hj, Option.bind_some, hpart, Option.map_some]
  · obtain ⟨hput, hothers⟩ := s.putPiece_spec c i.slot p.part p.pieces piece
    have hi' := (hput.issue (by decide) id).trans hi
    refine ⟨_, { p with pieces := p.pieces + 1 }, congrArg Host.Outcome.next (State.pieceArrive_counts hi hp hm hl hq hh), ?_, rfl,
      hothers, (hput.mono (by decide)).trans ((keeps_issues _ _).mono (by decide))⟩
    rw [State.issue_modIssue (f := fun i => i.modPart c fun p => { p with pieces := p.pieces + 1 }) (fun _ => rfl) hi',
      Option.bind_some]
    exact Issue.part_modPart (f := fun p => { p with pieces := p.pieces + 1 }) (fun _ => rfl) hp
  · obtain ⟨hkeeps, hsame⟩ := himages (s.imageLoaded c slot)
    have h := (hsame c).trans (State.imageLoaded_enters hc hw hl)
    refine ⟨_, rfl, congrArg Prod.fst h, ?_, ((s.imageLoaded_keeps c slot).mono (by decide)).trans hkeeps⟩
    rw [show ((s.imageLoaded c slot).writeOwed.chip c).loading = _ from congrArg Prod.snd h]
    simp
  · obtain ⟨hkeeps, hsame⟩ := himages s
    have h := hsame c
    refine ⟨_, congrArg (Host.Outcome.next ∘ State.writeOwed) (State.imageLoaded_waits hl), congrArg Prod.fst h,
      congrArg Prod.snd h, hkeeps⟩

end Sys2Proof.Machine
end
section
/-! PROOFS. What the completion of an issue leaves of its tenant's counters, and a wake job that completes while a trigger of no job
is pending (R183, R283, R286). -/

namespace Sys2Proof.Machine

/-! ### Completion (R260, R283) -/

/-- Of the entries of tenant `t`, by key, the counter of wake words that woke and the descriptors of the jobs. -/
def wakeKey (t k : Nat) : Bool :=
  decide (k = odKey (blk t 0x2F) 7 ∨ (k % 256 = 2 ∧ blk t 0x20 ≤ k / 256 ∧ k / 256 < blk t 0x2F))

theorem wakeKey_sub (t i : Nat) {j : Nat} (hj : j < 256) (h : j ≠ 2 ∧ j ≠ 7) : wakeKey t (odKey i j) = false :=
  decide_eq_false (by simp only [odKey]; omega)

theorem wakeKey_far {t i j : Nat} (hj : j < 256) (h : i < blk t 0x20 ∨ blk t 0x2F < i) : wakeKey t (odKey i j) = false :=
  decide_eq_false (by simp only [odKey, blk] at h ⊢; omega)

/-- The counter of issues that saturated stands at the sub-index of a descriptor, in an object that is no job's. -/
theorem wakeKey_saturated (t : Nat) : wakeKey t (odKey (blk t 0x2F) 2) = false :=
  decide_eq_false (by simp only [odKey, blk]; omega)

theorem wakeKey_woken (t : Nat) : wakeKey t (odKey (blk t 0x2F) 7) = true := decide_eq_true (Or.inl rfl)

theorem wakeKey_desc (t : Nat) {j : Nat} (hj : j < 15) : wakeKey t (odKey (blk t (0x20 + j)) 2) = true :=
  decide_eq_true (by simp only [odKey, blk]; omega)

/-- What the completion of an issue that no job follows may change. -/
def completePieces : List Piece := [.boot, .cams, .can, .chips, .faults, .groups, .issues, .jobs, .learn, .mail, .od, .sets]

section
variable (s : State) {t : Nat}

/-- An entry at another sub-index than those two. -/
theorem Steady.wakeSub (i : Nat) {j : Nat} (v : Int) (hj : j < 256) (h : j ≠ 2 ∧ j ≠ 7) :
    Steady completePieces (wakeKey t) s (s.setNum i j v) := (Steady.setNum s v (wakeKey_sub t i hj h)).mono (by decide)

theorem Steady.wakeBump (i : Nat) {j : Nat} (hj : j < 256) (h : j ≠ 2 ∧ j ≠ 7) :
    Steady completePieces (wakeKey t) s (s.bump i j) := Steady.wakeSub s i _ hj h

theorem State.post_wake (r : Record) : Steady [.od, .boot, .mail, .faults] (wakeKey t) s (s.post r) :=
  ⟨s.post_keeps r, fun i j hj hk => s.post_same r i j hj (decide_eq_false fun e => by
    subst e
    rw [wakeKey_far hj (Or.inl (by simp only [blk]; omega))] at hk
    cases hk)⟩

theorem State.countLoads_keeps (i : Issue) : Keeps [.chips] s (s.countLoads i) := by
  unfold State.countLoads
  split
  · exact Keeps.refl _ s
  · exact Keeps.foldl (fun s _ => keeps_chips s _) (Keeps.refl _ s)

theorem State.sendResults_keeps (i : Issue) (j flags : Nat) : Keeps [.chips] s (s.sendResults i j flags) :=
  Keeps.foldl (fun s _ => keeps_chips s _) (Keeps.refl _ s)

theorem State.takeResults_keeps (i : Issue) : Keeps [.chips] s (s.takeResults i) :=
  Keeps.foldl (fun s _ => keeps_chips s _) (Keeps.refl _ s)

theorem State.keepSample_keeps (i : Issue) : Keeps [.learn] s (s.keepSample i) :=
  Keeps.ite (keeps_learn s _) (Keeps.refl _ s)

/-- A result that is published is shown in the counters of its output set, and in the condition output. -/
theorem State.publish_wake (ht : t < 16) (j : Nat) (out : List (Nat × List Byte)) (angle k : Int) (flags shaft : Nat) :
    Steady completePieces (wakeKey t) s (s.publish t j out angle k flags shaft) := by
  unfold State.publish
  extract_lets d o i part takes valid was
  refine Steady.ite (Steady.refl _ _ s) ?_
  split
  · exact Steady.wakeBump s _ (by decide) (by decide)
  next q _ =>
  refine Steady.ite (Steady.wakeBump s _ (by decide) (by decide)) ?_
  extract_lets v alarm s1 s2
  have h2 : Steady completePieces (wakeKey t) s s2 :=
    (Steady.of_keeps (keeps_sets s _) (by decide) (by decide)).trans (Steady.wakeBump _ _ (by decide) (by decide))
  split
  · exact h2
  next c hc =>
  have hfar {n : Nat} (hn : n < 256) : wakeKey t (odKey c n) = false := wakeKey_far hn (Or.inr (by
    simp only [State.conditionOf, Option.ite_none_right_eq_some, Option.some.injEq] at hc
    simp only [blk]
    omega))
  have hset (s : State) {n : Nat} (hn : n < 256) (v : Int) : Steady completePieces (wakeKey t) s (s.setNum c n v) :=
    (Steady.setNum s v (hfar hn)).mono (by decide)
  have hcount (s : State) {n : Nat} (hn : n < 256) : Steady completePieces (wakeKey t) s (s.bump c n) :=
    (Steady.bump s (hfar hn)).mono (by decide)
  refine h2.trans (Steady.trans ?_ (Steady.of_keeps (keeps_can _ _) (by decide) (by decide)))
  exact (((((((hset _ (by decide) _).trans (hset _ (by decide) _)).trans (hset _ (by decide) _)).trans (hcount _ (by decide))).trans
    (hset _ (by decide) _)).trans (hset _ (by decide) _)).trans (hset _ (by decide) _)).trans (hset _ (by decide) _)

theorem State.promote_wake : Steady completePieces (wakeKey t) s s.promote := by
  rw [State.promote_eq]
  refine Steady.foldl (fun s i => Steady.ite ?_ (Steady.refl _ _ s)) s
  exact ((Steady.of_keeps (keeps_issues s _) (by decide) (by decide)).trans (Steady.wakeBump _ _ (by decide) (by decide))).trans
    (Steady.wakeBump _ _ (by decide) (by decide))

theorem State.writeOwed_wake : Steady completePieces (wakeKey t) s s.writeOwed := by
  refine Steady.foldl (fun s c => Steady.ite (Steady.refl _ _ s) ?_) s
  exact (Steady.of_keeps (keeps_chips s _) (by decide) (by decide)).trans
    (Steady.foldl (fun s o => (s.post_wake _).mono (by decide)) _)

/-- The jobs of a tenant are 0 to 14. -/
theorem State.enabledJobs_lt {p : Nat × Nat} (h : p ∈ s.enabledJobs) : p.2 < 15 := by
  obtain ⟨⟨k, v⟩, -, hkv⟩ := List.mem_filterMap.mp h
  obtain ⟨hk, hp⟩ := Option.ite_none_right_eq_some.mp hkv
  rw [← Option.some.inj hp]
  dsimp only at hk ⊢
  omega

/-- Where no job of a tenant follows another one, no trigger comes of a completion (R260). -/
theorem State.chained_none (h : ∀ j < 15, (s.jobDesc t j).kind ≠ 3) (src : Nat) (k angle : Int) (flags shaft : Nat) :
    s.chained t src k angle flags shaft = s := by
  unfold State.chained
  rw [List.filter_eq_nil_iff.mpr fun p hp => ?_]
  · rfl
  · simp only [decide_eq_true_eq]
    rintro ⟨rfl, hk, -⟩
    exact h _ (s.enabledJobs_lt hp) hk

end

theorem Steady.jobDesc {l : List Piece} {t : Nat} {r s : State} (h : Steady l (wakeKey t) r s) {j : Nat} (hj : j < 15) :
    s.jobDesc t j = r.jobDesc t j := by
  rw [State.jobDesc, State.bytes, h.entries _ _ (by decide) (wakeKey_desc t hj)]
  rfl

/-- The completion of an issue that no job follows leaves the counter of wake words that woke, and the descriptors of the jobs. -/
theorem State.complete_wake {s : State} {i : Issue} (ht : i.tenant < 16) (hk : ∀ j < 15, (s.jobDesc i.tenant j).kind ≠ 3) :
    Steady completePieces (wakeKey i.tenant) s (s.complete i) := by
  have hkeep {l : List Piece} {r s : State} (h : Keeps l r s) (hl : within l completePieces = true) (hod : Piece.od ∉ l) :
      Steady completePieces (wakeKey i.tenant) r s := Steady.of_keeps h hl hod
  unfold State.complete
  extract_lets d r st late s1 s2 s3 first s4 s5 s6 s7 s8 s9 s10 s11
  have h1 : Steady completePieces (wakeKey i.tenant) s s1 :=
    ((Steady.wakeBump s _ (by decide) (by decide)).trans (Steady.wakeSub _ _ _ (by decide) (by decide))).trans
      (Steady.wakeBump _ _ (by decide) (by decide))
  have h2 : Steady completePieces (wakeKey i.tenant) s1 s2 :=
    Steady.ite ((Steady.bump s1 (wakeKey_saturated _)).mono (by decide)) (Steady.refl _ _ _)
  have h3 : Steady completePieces (wakeKey i.tenant) s2 s3 := Steady.wakeSub s2 _ _ (by decide) (by decide)
  have h4 : Steady completePieces (wakeKey i.tenant) s3 s4 := hkeep (keeps_jobs s3 _) (by decide) (by decide)
  have h5 : Steady completePieces (wakeKey i.tenant) s4 s5 :=
    Steady.ite ((Steady.wakeBump _ _ (by decide) (by decide)).trans (Steady.wakeBump _ _ (by decide) (by decide)))
      (Steady.refl _ _ _)
  have h6 : Steady completePieces (wakeKey i.tenant) s5 s6 := Steady.ite ((s5.post_wake _).mono (by decide)) (Steady.refl _ _ _)
  have h7 : Steady completePieces (wakeKey i.tenant) s6 s7 :=
    hkeep (((s6.countLoads_keeps i).trans (State.sendResults_keeps _ i _ _)).trans (State.takeResults_keeps _ i)) (by decide)
      (by decide)
  have h8 : Steady completePieces (wakeKey i.tenant) s7 s8 := s7.publish_wake ht _ _ _ _ _ _
  have h9 : Steady completePieces (wakeKey i.tenant) s8 s9 := hkeep (s8.keepSample_keeps i) (by decide) (by decide)
  have h10 : Steady completePieces (wakeKey i.tenant) s9 s11 :=
    hkeep (((s9.removeIssue_keeps i.id).mono (l := [.cams, .chips, .groups, .issues]) (by decide)).trans
      ((s10.release_keeps _ _ _).mono (by decide))) (by decide) (by decide)
  have h11 : Steady completePieces (wakeKey i.tenant) s s11.promote :=
    (((((((((h1.trans h2).trans h3).trans h4).trans h5).trans h6).trans h7).trans h8).trans h9).trans h10).trans s11.promote_wake
  rw [State.chained_none s11.promote fun j hj => h11.jobDesc hj ▸ hk j hj]
  exact (h11.trans (State.writeOwed_wake _)).trans (hkeep (State.retier_keeps _) (by decide) (by decide))

/-! ### A wake job counted twice as woken -/

/-- The gated jobs of a wake job on its wake word (R183): those whose output fired issue on its trigger, each with a hold-over from
the present angle (R184), and the others release its frame. -/
def State.wakeGated (s : State) (i : Issue) (wake turns : Nat) : State :=
  (s.gatedJobs i.tenant i.job).foldl (fun s g =>
    if bit wake (s.jobDesc i.tenant g).gateOutput then
      let s := s.modJob i.tenant g fun r => { r with holdOver := some ((s.shaft i.shaft).angle, turns, i.shaft) }
      if s.runs && decide (s.tenantState i.tenant = 1) && (s.jobModel i.tenant g).isSome then
        s.trigger i.tenant ⟨g, i.k, i.angle, i.flags, i.shaft, i.frame, i.frameFlags, 0, true⟩
      else s.release i.frame i.tenant g
    else s.release i.frame i.tenant g) s

/-- A wake job before its completion: its wake word is counted, and its gated jobs are set off. -/
def State.woken (s : State) (i : Issue) (p : PartRun) (d : Desc) (wake : Nat) : State :=
  (s.bump (blk i.tenant 0x2F) (if wake = 0 then 8 else 7)).wakeGated i wake
    (Network.holdOver ⟨s.granByte p.chip i.slot p.part, 32 * d.weightBase⟩)

theorem State.wakeEnd_eq {s : State} {id : Nat} {i : Issue} {p : PartRun} {d : Desc} {wake : Nat} (hi : s.issue id = some i)
    (hr : s.ripe i = true) (hw : s.isWakeJob i.tenant i.job = true) (hs : s.streamOf i = some (p, d))
    (hwake : leNat ((List.range 2).map fun a => s.loftByte i p (64 * d.outHandle + a)) = wake) :
    s.wakeEnd id = (s.woken i p d wake).complete i := by
  subst hwake
  simp only [State.wakeEnd, hi, hr, hw, hs, Bool.not_true, Bool.or_self, Bool.false_eq_true, if_false]
  rfl

/-- A trigger of job 15. A tenant has jobs 0 to 14: where the record of job 15 would be stands the object of the tenant's counters,
OD 3x2F, of which entry 7 counts the wake words that woke, as entry 7 of a job's record counts its dropped windows. -/
def strayTrigger : Trigger := ⟨15, 1, 2, 0, 0, none, 0, 0, false⟩

/-- A model of one partition on chip 0, whose only descriptor is a STREAM. -/
def streamModel : Model where
  bundle := []
  learnable := false
  placed := [⟨0, 64, 0⟩]
  variant :=
    { number := 0, p := 1, chain := false, kvBytes := 0, vocab := 0, batch := 1, stopToken := 0
      parts := [⟨64, 64, 0, 0, 1, 1, 0, 0, leBytes 4 (2 ^ 26 * opStream), [], []⟩], entries := [[⟨0, 0, 0, []⟩]]
      handOffs := [], learn := [] }

/-- Its chain, which has ended. -/
def streamPart : PartRun :=
  { part := 0, chip := 0, next := none, copy := some 0, pieces := 0, loaded := true, complete := true
    descs := [{ idx := 0, engine := 1, units := 0, taken := 0, fin := 0, started := true, complete := true }] }

/-- An issue of wake job 0 of tenant 0 on that model, which is ready to complete. -/
def wakingIssue : Issue :=
  { id := 0, tenant := 0, job := 0, slot := 0, entry := 0, kind := 0, index := 0, st := .committed, ranAhead := false
    waitsSlot := false, order := 0, epoch := 0, traj := default, k := 0, angle := 0, flags := 0, shaft := 0, frame := none
    frameFlags := 0, gated := false, parts := [streamPart], arrived := [], saturated := 0, satFlag := false, frameData := []
    stripsIn := [], finished := true, rows := [], micro := none, out := [] }

/-- A watching tray with that model in slot 0 of tenant 0, and that issue, whose wake word in the Loft is 1: output 0 has fired,
which job 1 is gated by. The pending queue of the tenant is full of triggers of job 15, and its policy is to drop the oldest
(R286). -/
def strayState : State :=
  { (((((State.reset.setNum 0x3021 1 1).setBytes 0x3021 2 (leBytes 4 (2 ^ 17))).setNum 0x3050 1 1).setNum 0x4000 1 0).modSlot 0
      fun x => { x with model := some streamModel }) with
    tray := .watching, issues := [wakingIssue], nextIssue := 1
    chips := vmod State.reset.chips 0 fun x => { x with regions := [⟨0, 0, 0, 0, 64, false, false⟩], loft := [(0, 1)] }
    pend := vmod State.reset.pend 0 fun p => { p with queue := List.replicate 8 strayTrigger } }

/-- The wake issue is there and ripe, and its wake word is 1. -/
theorem strayState_wakes : strayState.issue 0 = some wakingIssue ∧ strayState.ripe wakingIssue = true
    ∧ strayState.isWakeJob wakingIssue.tenant wakingIssue.job = true
    ∧ strayState.streamOf wakingIssue = some (streamPart, strayState.descAt 0 0 0 0)
    ∧ leNat ((List.range 2).map fun a =>
      strayState.loftByte wakingIssue streamPart (64 * (strayState.descAt 0 0 0 0).outHandle + a)) = 1 := by
  decide +kernel

/-- The state before the completion. -/
def strayWoken : State := strayState.woken wakingIssue streamPart (strayState.descAt 0 0 0 0) 1

/-- One wake word is counted as two: once as woken, and once as the drop of the oldest trigger, which makes room for job 1. -/
theorem strayWoken_counts : strayState.nat (blk wakingIssue.tenant 0x2F) 7 = 0
    ∧ strayWoken.nat (blk wakingIssue.tenant 0x2F) 7 = 2
    ∧ ∀ j < 15, (strayWoken.jobDesc wakingIssue.tenant j).kind ≠ 3 := by
  decide +kernel

/-- Refutes O42: its clause on wake jobs is false of an ill-formed state, in which triggers of a job 15 are pending. The wake job
issues a gated job into the full queue, the oldest trigger is dropped to make room, and its drop is counted where the wake words
that woke are counted, so that one of these counts 2. -/
theorem not_jobsComplete : ¬ Obligations.JobsComplete := by
  unfold Obligations.JobsComplete
  intro h
  obtain ⟨hi, hripe, hwake, hstream, hword⟩ := strayState_wakes
  obtain ⟨hbefore, hdropped, hkinds⟩ := strayWoken_counts
  have hend : strayState.wakeEnd 0 = strayWoken.complete wakingIssue := State.wakeEnd_eq hi hripe hwake hstream hword
  obtain ⟨-, hclause, -⟩ := h strayState
  obtain ⟨t, ht, -, -, hcount, -⟩ := hclause 0 wakingIssue _ _ 1 hi hripe hwake (by decide) (by decide) hstream hword
  obtain rfl : strayWoken.complete wakingIssue = t := hend.symm.trans (Host.Outcome.next.inj ht)
  have hsteady := State.complete_wake (s := strayWoken) (i := wakingIssue) (by decide) hkinds
  have hafter : (strayWoken.complete wakingIssue).nat (blk wakingIssue.tenant 0x2F) 7 = 2 :=
    (hsteady.nat (by decide) (wakeKey_woken _)).trans hdropped
  rw [if_neg (by decide), hbefore] at hcount
  exact absurd (hafter.symm.trans hcount) (by decide)

end Sys2Proof.Machine
end
section
/-! PROOFS. Requests to the objects of a tenant, and bundle keys (R306, Table 14.1). -/

namespace Sys2Proof.Machine

/-! ### What a request leaves before it is judged -/

section
variable (s : State) (n : Net)

@[simp] theorem State.asked_tenant (t : Nat) : (s.asked n).tenant t = s.tenant t :=
  congrArg (vget · t) (s.asked_keeps n .tenants (by decide))

@[simp] theorem State.asked_draws : (s.asked n).draws = s.draws := s.asked_keeps n .draws (by decide)

@[simp] theorem State.asked_micros : (s.asked n).micros = s.micros :=
  congrArg (· / 100) (s.asked_keeps n .timebase (by decide))

@[simp] theorem State.asked_stamp : (s.asked n).stamp = s.stamp := by
  have hsh : (s.asked n).shaft 0 = s.shaft 0 := congrArg (vget · 0) (s.asked_keeps n .shafts (by decide))
  simp [State.stamp, State.alive, hsh]

end

/-! ### One tenant of the sixteen -/

section
variable (s : State) {t : Nat} (f : Tenant → Tenant)

theorem State.tenant_modTenant_same (ht : t < 16) : (s.modTenant t f).tenant t = f (s.tenant t) := vget_vmod_same _ _ ht

theorem State.tenant_modTenant_ne {u : Nat} (h : u ≠ t) : (s.modTenant t f).tenant u = s.tenant u := vget_vmod_ne _ _ h.symm

theorem State.modTenant_keeps : Keeps [.tenants] s (s.modTenant t f) := fun p hp => by cases p <;> simp at hp <;> rfl

end

/-- Tenants stay where the piece that holds them does. -/
theorem Keeps.tenant {l : List Piece} {s t : State} (h : Keeps l s t) (hl : Piece.tenants ∉ l) (u : Nat) : t.tenant u = s.tenant u :=
  congrArg (vget · u) (h .tenants hl)

/-! ### The entry's own check (Table 14.1) -/

/-- Where nothing else refuses a write, the entry's own check decides. -/
theorem State.writeDeny_check {s : State} {n : Net} {i j : Nat} {b : List Byte} (h : s.writeDeny n i j b none = none)
    (c : Option Deny) : s.writeDeny n i j b c = c := by
  simp only [State.writeDeny, Option.orElse_eq_none] at h
  obtain ⟨hr, hv, -, hs, -⟩ := h
  cases c with
  | none => simp [State.writeDeny, hr, hv, hs]
  | some d =>
    simp only [State.writeDeny, hr, hv, hs, Option.filter]
    split <;> rfl

/-- A write that nothing but its check can refuse is accepted where the check passes. -/
theorem State.accepts_check {s : State} {n : Net} {i j : Nat} {b : List Byte} {c : State → Option Deny} (hs : s.serves n = true)
    (h : (s.asked n).writeDeny n i j b none = none) (hc : c (s.asked n) = none) : s.accepts n i j b c :=
  ⟨hs, (State.writeDeny_check h _).trans hc⟩

/-- And refused in the words of its check where that fails. -/
theorem State.rejects_check {s : State} {n : Net} {i j : Nat} {b : List Byte} {c : State → Option Deny} {d : Deny} (hs : s.serves n = true)
    (h : (s.asked n).writeDeny n i j b none = none) (hc : c (s.asked n) = some d) : s.rejects n i j b c d :=
  ⟨hs, (State.writeDeny_check h _).trans hc⟩

/-! ### Refusals that write a record -/

/-- The last record written is the refusal's. -/
theorem State.refuse_wrote (s : State) (n : Net) {d : Deny} {r : Record} (h : d.record = some r) : s.wrote (s.refuse n d) r := by
  have hf : (s.refuse n d).faults.last = (s.post r).faults.last := by simp only [State.refuse, h]; rfl
  have hb : (s.refuse n d).boot = (s.post r).boot := by simp only [State.refuse, h]; rfl
  refine ⟨fun hl => ?_, fun hl hk => ?_⟩
  · rw [hf, s.post_placed r hl]
  · rw [hb, (s.post_unplaced r hl hk).1]

/-- Of the dictionary, a refusal changes the counters of OD 0x2400 alone. -/
theorem State.refuse_same (s : State) (n : Net) (d : Deny) : sameEntries (fun i => decide (i = 0x2400)) s (s.refuse n d) := by
  unfold State.refuse
  cases d.record with
  | none => exact sameEntries.of_od rfl
  | some r => exact (s.post_same r).trans (sameEntries.of_od rfl)

/-! ### Bundle keys (R306) -/

/-- The wrapping key stands in the fuses, which no request changes. -/
@[simp] theorem State.asked_unwrap (s : State) (n : Net) (t : Nat) (w : List Byte) : (s.asked n).unwrap t w = s.unwrap t w := by
  simp [State.unwrap]

/-- A key that has been accepted is held as it was written, and unwrapped. -/
theorem State.bundleKeySet_spec (s : State) {t : Nat} (ht : t < 16) (w : List Byte) :
    ((s.bundleKeySet t w).tenant t).bundleKey = (s.unwrap t w).getD [] ∧ (s.bundleKeySet t w).bytes (blk t 2) 8 = w
      ∧ (∀ u, u ≠ t → (s.bundleKeySet t w).tenant u = s.tenant u) ∧ Keeps [.od, .tenants] s (s.bundleKeySet t w) := by
  refine ⟨?_, s.bytes_setBytes_same _ _ w, fun u hu => State.tenant_modTenant_ne _ _ hu, ?_⟩
  · rw [State.bundleKeySet, State.tenant_modTenant_same _ _ ht]
  · exact ((keeps_od s _).mono (by decide)).trans ((State.modTenant_keeps _ _).mono (by decide))

/-- Settles O44: the check of the entry is the tag, and the write is accepted or refused by it alone. -/
theorem bundleKeysUnwrapped : Obligations.BundleKeysUnwrapped := by
  unfold Obligations.BundleKeysUnwrapped
  intro s n t w ht hs hw hd
  refine ⟨fun key hkey => ?_, fun hkey => ?_⟩
  · have hu : s.unwrap t w = some key := hkey
    have hc : (s.asked n).bundleKeyDeny n t w = none := by simp [State.bundleKeyDeny, hw, hu]
    obtain ⟨hk, hb, ho, hkeep⟩ := (s.asked n).bundleKeySet_spec ht w
    have hrun : exec (.bundleKeyWrite n t w) s = .next (((s.asked n).bundleKeySet t w).answer n .ok) :=
      congrArg _ (State.write_accepted _ (State.accepts_check hs hd hc))
    refine ⟨_, hrun, State.answer_answered _ n, ?_, hb, fun u hne => (ho u hne).trans (s.asked_tenant n u), hkeep.taken.mono (by decide)⟩
    show (((s.asked n).bundleKeySet t w).tenant t).bundleKey = key
    rw [hk, State.asked_unwrap, hu, Option.getD_some]
  · have hu : s.unwrap t w = none := hkey
    have hc : (s.asked n).bundleKeyDeny n t w = some ((badValue (blk t 2) 8).raising (s.asked n) 0x8204 (netUnit n) t 0) := by
      simp [State.bundleKeyDeny, hw, hu]
    have hrun : exec (.bundleKeyWrite n t w) s =
        .next ((s.asked n).refuse n ((badValue (blk t 2) 8).raising (s.asked n) 0x8204 (netUnit n) t 0)) :=
      congrArg _ (State.write_rejected _ (State.rejects_check hs hd hc))
    obtain ⟨hplaced, hheld⟩ := (s.asked n).refuse_wrote n (d := (badValue (blk t 2) 8).raising (s.asked n) 0x8204 (netUnit n) t 0) rfl
    simp only [State.asked_stamp, State.asked_store, State.asked_boot] at hplaced hheld
    refine ⟨_, hrun, State.refuse_answer _ n _, ?_, ⟨netUnit n, 0, hplaced, hheld⟩, ?_, ?_⟩
    · rw [State.refuse_shown]; rfl
    · exact (sameEntries.of_od (s.asked_od n)).trans (State.refuse_same _ n _)
    · exact ((s.asked_keeps n).mono (by decide)).trans ((State.refuse_keeps _ n _).mono (by decide))

end Sys2Proof.Machine
end
section
/-! PROOFS. Challenges, responses and the end of a session (R299, R301, Table 9.4). -/

namespace Sys2Proof.Machine

/-! ### Requests and answers -/

/-- A request that a network carries is judged in the state that the request itself leaves. -/
theorem State.serve_asked {s : State} {n : Net} (h : s.serves n = true) (f : State → State) : s.serve n f = f (s.asked n) := if_pos h

theorem Net.other_ne (n : Net) : n.other ≠ n := by cases n <;> decide

theorem Net.num_ne_other (n : Net) : n.num ≠ n.other.num := by cases n <;> decide

section
variable (s : State) (n : Net) (a : Answer)

/-- An answer leaves the session of every network. -/
@[simp] theorem State.answer_session (m : Net) : (s.answer n a).session m = s.session m := by
  by_cases h : m = n
  · subst h
    simp [State.session]
  · rw [State.session, State.session, State.answer, State.box_modBox_ne s n h]

@[simp] theorem State.answer_tenant (t : Nat) : (s.answer n a).tenant t = s.tenant t := rfl

end

/-! ### Challenges (R299) -/

/-- The challenge of one network consumed. -/
def Tenant.consume (n : Net) (x : Tenant) : Tenant := { x with challenge := vset x.challenge n.num none }

@[simp] theorem Tenant.consume_challenge (n : Net) (x : Tenant) : vget (x.consume n).challenge n.num = none :=
  vget_vset_same _ _ (Net.num_lt n)

@[simp] theorem Tenant.consume_other (n : Net) (x : Tenant) :
    vget (x.consume n).challenge n.other.num = vget x.challenge n.other.num := vget_vset_ne _ _ (Net.num_ne_other n)

/-- The bytes of the draw `d`. -/
def challengeBytes (d : Nat) : List Byte := (List.range 16).map (Config.challengeByte d)

/-- A challenge drawn is answered and held with its time. -/
theorem State.drawChallenge_spec (s : State) (n : Net) {t : Nat} (ht : t < 16) :
    ((s.drawChallenge n t).box n).answer = .data (challengeBytes s.draws)
      ∧ vget ((s.drawChallenge n t).tenant t).challenge n.num = some (challengeBytes s.draws, s.micros)
      ∧ (s.drawChallenge n t).draws = s.draws + 1 ∧ (∀ u, u ≠ t → (s.drawChallenge n t).tenant u = s.tenant u)
      ∧ Keeps [.draws, .tenants, .mail] s (s.drawChallenge n t) := by
  refine ⟨?_, ?_, rfl, fun u hu => State.tenant_modTenant_ne _ _ hu, ?_⟩
  · simp only [State.drawChallenge, State.answer_box]
    rfl
  · simp only [State.drawChallenge, State.answer_tenant, State.tenant_modTenant_same _ _ ht]
    exact vget_vset_same _ _ (Net.num_lt n)
  · exact ((keeps_draws s _).mono (by decide)).trans
      (((State.modTenant_keeps _ _).mono (by decide)).trans ((State.answer_keeps _ n _).mono (by decide)))

/-- A challenge read that nothing refuses, of a tenant whose challenges are not locked. -/
theorem State.challengeFor_open {s : State} {n : Net} {t : Nat} (hs : s.serves n = true)
    (hd : (s.asked n).readDeny n (blk t 2) 2 = none) (hl : (s.tenant t).locked = false) :
    s.challengeFor n t = (s.asked n).drawChallenge n t := by
  simp [State.challengeFor, State.serve_asked hs, hd, hl]

/-- And of one whose challenges are locked (R300). -/
theorem State.challengeFor_locked {s : State} {n : Net} {t : Nat} (hs : s.serves n = true)
    (hd : (s.asked n).readDeny n (blk t 2) 2 = none) (hl : (s.tenant t).locked = true) :
    s.challengeFor n t = (s.asked n).refuse n { abort := abStore, index := blk t 2, sub := 2 } := by
  simp [State.challengeFor, State.serve_asked hs, hd, hl]

/-! ### Responses (R299) -/

@[simp] theorem State.asked_authKey (s : State) (n : Net) (t : Nat) : (s.asked n).authKey t = s.authKey t := by
  simp [State.authKey, State.bytes]

/-- Whether a response verifies does not change by the request itself. -/
@[simp] theorem State.asked_authOk (s : State) (n : Net) (t : Nat) (sig : List Byte) :
    (s.asked n).authOk n t sig = s.authOk n t sig := by
  simp [State.authOk, State.authMessage]

/-- A response that the tray takes is judged, and the challenge is consumed. -/
theorem State.authResponse_judged {s : State} {n : Net} {t : Nat} {sig : List Byte} (hs : s.serves n = true)
    (hr : (s.asked n).rightsDeny n (blk t 2) 3 = none) (hv : valueDeny (blk t 2) 3 sig = none) :
    s.authResponse n t sig = (s.asked n).authJudge n t sig := by
  simp only [State.authResponse, State.serve_asked hs, hr, hv, Option.orElse_eq_orElse, Option.orElse_none]

/-- One that verifies opens the session of the network. -/
theorem State.authJudge_good {s : State} {n : Net} {t : Nat} {sig : List Byte} (h : s.authOk n t sig = true) :
    s.authJudge n t sig
      = ((s.modTenant t (Tenant.consume n)).modBox n (fun b => { b with session := some ⟨t, s.micros⟩ })).answer n .ok := if_pos h

/-- One that does not is a failure. -/
theorem State.authJudge_bad {s : State} {n : Net} {t : Nat} {sig : List Byte} (h : s.authOk n t sig = false) :
    s.authJudge n t sig = (s.modTenant t (Tenant.consume n)).authFail n t := if_neg (by simp [h])

/-- The session opened is the tenant's, and the other network's is as it was. -/
theorem State.openSession_spec (s : State) (n : Net) (x : Session) :
    let r := s.modBox n (fun b => { b with session := some x })
    r.session n = some x.tenant ∧ r.session n.other = s.session n.other ∧ Keeps [.mail] s r := by
  refine ⟨?_, ?_, keeps_mail s _⟩
  · rw [State.session, State.box_modBox_same]
    rfl
  · rw [State.session, State.session, State.box_modBox_ne _ _ (Net.other_ne n)]

theorem challengeExpiry_eq {s : State} {n : Net} {t : Nat} {c : List Byte} {a : Nat}
    (h : vget (s.tenant t).challenge n.num = some (c, a)) :
    exec (.challengeExpiry n t) s = .next (if a + 10000000 ≤ s.micros then s.modTenant t (Tenant.consume n) else s) := by
  show Host.Outcome.next _ = _
  rw [h]
  rfl

theorem sessionIdleTimeout_eq {s : State} {n : Net} {x : Session} (h : (s.box n).session = some x) :
    exec (.sessionIdleTimeout n) s
      = .next (if x.last + 1000000 * s.nat (blk x.tenant 2) 6 ≤ s.micros then s.endNetSession n else s) := by
  show Host.Outcome.next _ = _
  rw [h]

/-- Settles O45: what a challenge read, a response, a write of :05 and the two time limits do to challenge and session. -/
theorem sessionsOpenAndEnd : Obligations.SessionsOpenAndEnd := by
  unfold Obligations.SessionsOpenAndEnd
  intro s n t ht
  refine ⟨fun hs hd hl => ?_, fun c a hc ha => ?_, fun c a hc ha => ?_, fun sig hs hr hv hok => ?_, fun v h => ?_,
    fun x hx hi => ?_, fun x hx hi => ?_⟩
  · obtain ⟨h1, h2, h3, h4, h5⟩ := (s.asked n).drawChallenge_spec n ht
    simp only [State.asked_draws, State.asked_micros, State.asked_tenant] at h1 h2 h3 h4
    exact ⟨_, congrArg Host.Outcome.next (State.challengeFor_open hs hd hl), h1, h2, h3, h4,
      ((s.asked_keeps n).mono (by decide)).trans (h5.mono (by decide))⟩
  · refine ⟨s.modTenant t (Tenant.consume n), ?_, ?_, ?_, fun u hu => State.tenant_modTenant_ne _ _ hu, State.modTenant_keeps s _⟩
    · rw [challengeExpiry_eq hc, if_pos ha]
    · rw [State.tenant_modTenant_same _ _ ht, Tenant.consume_challenge]
    · rw [State.tenant_modTenant_same _ _ ht, Tenant.consume_other]
  · rw [challengeExpiry_eq hc, if_neg (by omega)]
  · obtain ⟨h1, h2, h3⟩ := ((s.asked n).modTenant t (Tenant.consume n)).openSession_spec n ⟨t, s.micros⟩
    have hrun := (State.authResponse_judged hs hr hv).trans (State.authJudge_good ((s.asked_authOk n t sig).trans hok))
    rw [State.asked_micros] at hrun
    refine ⟨_, congrArg Host.Outcome.next hrun, (State.answer_session _ n _ n).trans h1, State.answer_answered _ n,
      ?_, ?_, fun u hu => ?_, ?_⟩
    · rw [State.answer_tenant, h3.tenant (by decide), State.tenant_modTenant_same _ _ ht, Tenant.consume_challenge]
    · exact (State.answer_session _ n _ n.other).trans (h2.trans (s.asked_session n _))
    · rw [State.answer_tenant, h3.tenant (by decide), State.tenant_modTenant_ne _ _ hu, State.asked_tenant]
    · have hk : Keeps [.tenants, .mail] (s.asked n) _ := ((State.modTenant_keeps _ _).mono (by decide)).trans (h3.mono (by decide))
      exact hk.taken.mono (by decide)
  · refine ⟨_, congrArg Host.Outcome.next (State.write_accepted _ h), ?_, ?_, State.answer_answered _ n,
      ((s.asked n).endNetSession_keeps n).taken.mono (by decide)⟩
    · rw [State.answer_session, State.endNetSession_session]
    · rw [State.answer_session, State.session, State.endNetSession_other _ _ (Net.other_ne n)]
      exact s.asked_session n _
  · refine ⟨s.endNetSession n, ?_, s.endNetSession_session n, s.endNetSession_other n (Net.other_ne n), s.endNetSession_keeps n⟩
    rw [sessionIdleTimeout_eq hx, if_pos hi]
  · rw [sessionIdleTimeout_eq hx, if_neg (by omega)]

end Sys2Proof.Machine
end
section
/-! PROOFS. Failed responses and the lock of a tenant's challenges (R300). -/

namespace Sys2Proof.Machine

/-! ### What a record leaves of the mailboxes and of the last refusal -/

section
variable {α : Type} {f : Mail → α} (hf : ∀ b l a, f { b with emcy := l, emcyAt := a } = f b)
include hf

/-- An emergency touches the emergencies of a mailbox alone. -/
theorem State.emergencyOn_box (s : State) (n m : Net) (e : Emergency) : f ((s.emergencyOn n e).box m) = f (s.box m) := by
  unfold State.emergencyOn
  extract_lets ready
  split
  · by_cases h : m = n
    · subst h
      rw [State.box_modBox_same, hf]
    · rw [State.box_modBox_ne _ _ h]
  · rfl

theorem State.post_box (s : State) (r : Record) (m : Net) : f ((s.post r).box m) = f (s.box m) := by
  have hw : (s.writeRecord r).box m = s.box m := State.box_of_mail (s.writeRecord_keeps r .mail (by decide)) m
  unfold State.post State.emergency
  extract_lets w e
  split
  · rw [State.emergencyOn_box hf, State.emergencyOn_box hf, hw]
  · rw [hw]

end

@[simp] theorem State.post_answer (s : State) (r : Record) (m : Net) : ((s.post r).box m).answer = (s.box m).answer :=
  State.post_box (f := Mail.answer) (fun _ _ _ => rfl) s r m

@[simp] theorem State.post_session (s : State) (r : Record) (m : Net) : (s.post r).session m = s.session m :=
  State.post_box (f := fun b => b.session.map Session.tenant) (fun _ _ _ => rfl) s r m

/-- OD 0x2401 shows the last refusal, whatever is recorded after it. -/
@[simp] theorem State.post_refusal (s : State) (r : Record) : (s.post r).faults.refusal = s.faults.refusal := by
  rw [State.post_faults, State.writeRecord]
  split
  · rw [State.pushLog_faults]
  · split <;> rfl

/-- A refusal leaves the session of every network. -/
@[simp] theorem State.refuse_session (s : State) (n m : Net) (d : Deny) : (s.refuse n d).session m = s.session m := by
  unfold State.refuse
  rw [State.answer_session]
  cases d.record with
  | none => rfl
  | some r => exact State.post_session s r m

/-- What agrees outside some objects agrees outside more. -/
theorem sameEntries.mono {p q : Nat → Bool} {s t : State} (h : sameEntries p s t) (hp : ∀ i, q i = false → p i = false) :
    sameEntries q s t := fun i j hj hq => h i j hj (hp i hq)

/-! ### A failed response (R300) -/

/-- The failures of a tenant within 60 s, with one now. -/
def State.failsNow (s : State) (t : Nat) : List Nat :=
  s.micros :: (s.tenant t).failTimes.filter (fun m => decide (s.micros < m + 60000000))

/-- A failure now locks the tenant's challenges. -/
def State.failLocks (s : State) (t : Nat) : Bool := !(s.tenant t).locked && decide (8 ≤ (s.failsNow t).length)

/-- The failures noted, unless the tenant is locked already. -/
def Tenant.noteFails (fails : List Nat) (locks : Bool) (x : Tenant) : Tenant :=
  if x.locked then x else { x with failTimes := fails, locked := locks }

/-- The failure counted in :07 and noted of its tenant. -/
def State.countFail (s : State) (t : Nat) : State :=
  (s.bump (blk t 2) 7).modTenant t (Tenant.noteFails (s.failsNow t) (s.failLocks t))

/-- How a failed response is refused. -/
def State.failDeny (s : State) (n : Net) (t : Nat) : Deny :=
  ({ abort := abStore, index := blk t 2, sub := 3 } : Deny).raising s 0x8101 (netUnit n) t 0

/-- A failure is counted, refused, and the lock is recorded where it locks. -/
theorem State.authFail_eq (s : State) (n : Net) (t : Nat) : s.authFail n t =
    let r := (s.countFail t).refuse n ((s.countFail t).failDeny n t)
    if s.failLocks t then r.raise 0x8102 (netUnit n) t 0 else r := rfl

/-- The counter :07 of a tenant's authentication object has 32 bits. -/
theorem odRow_authFails {t : Nat} (ht : t < 16) : (odRow (blk t 2) 7).map (fun r => r.ty.bits) = some 32 := by
  interval_cases t <;> rfl

theorem Tenant.noteFails_challenge (fails : List Nat) (locks : Bool) (x : Tenant) :
    (x.noteFails fails locks).challenge = x.challenge := by
  unfold Tenant.noteFails
  split <;> rfl

theorem Tenant.noteFails_locked (fails : List Nat) (locks : Bool) (x : Tenant) :
    (x.noteFails fails locks).locked = (x.locked || locks) := by
  unfold Tenant.noteFails
  cases h : x.locked <;> simp [h]

theorem State.countFail_keeps (s : State) (t : Nat) : Keeps [.od, .tenants] s (s.countFail t) :=
  ((s.bump_keeps _ _).mono (by decide)).trans ((State.modTenant_keeps _ _).mono (by decide))

theorem State.countFail_same (s : State) (t : Nat) : sameEntries (fun i => decide (i = blk t 2)) s (s.countFail t) :=
  (State.add_same s (by decide) (by simp)).trans (sameEntries.of_od rfl)

theorem State.countFail_tenant (s : State) {t : Nat} (ht : t < 16) :
    (s.countFail t).tenant t = (s.tenant t).noteFails (s.failsNow t) (s.failLocks t) := State.tenant_modTenant_same _ _ ht

theorem State.countFail_other (s : State) {t u : Nat} (hu : u ≠ t) : (s.countFail t).tenant u = s.tenant u :=
  State.tenant_modTenant_ne _ _ hu

/-- What a failed response leaves of a state, whether it locks or not. -/
structure FailNoted (n : Net) (t : Nat) (s r : State) : Prop where
  answer : (r.box n).answer = .abort abStore
  tenant : r.tenants = (s.countFail t).tenants
  count : r.nat (blk t 2) 7 = (s.nat (blk t 2) 7 + 1) % 2 ^ 32
  shown : r.faults.refusal.code = 0x8101
  session : r.session n = s.session n
  same : sameEntries (fun i => decide (i = blk t 2 ∨ i = 0x2400)) s r
  keeps : Keeps [.od, .boot, .mail, .faults, .tenants] s r

theorem blk_ne_counters (t o : Nat) : blk t o ≠ 0x2400 := by simp only [blk]; omega

/-- The refusal of a failure. -/
theorem State.refuseFail_noted (s : State) (n : Net) {t : Nat} (ht : t < 16) :
    FailNoted n t s ((s.countFail t).refuse n ((s.countFail t).failDeny n t)) where
  answer := State.refuse_answer _ n _
  tenant := State.refuse_keeps _ n _ .tenants (by decide)
  count := by
    have h := State.refuse_same (s.countFail t) n ((s.countFail t).failDeny n t) (blk t 2) 7 (by decide)
      (decide_eq_false (blk_ne_counters t 2))
    rw [State.nat, State.num, h]
    exact s.nat_bump (odRow_authFails ht)
  shown := by rw [State.refuse_shown]; rfl
  session := by rw [State.refuse_session]; exact State.session_of_mail rfl n
  same := ((s.countFail_same t).mono fun i h => by simp_all).trans
    ((State.refuse_same _ n _).mono fun i h => by simp_all)
  keeps := ((s.countFail_keeps t).mono (by decide)).trans ((State.refuse_keeps _ n _).mono (by decide))

/-- A record after it leaves all of that. -/
theorem FailNoted.post {n : Net} {t : Nat} {s r : State} (h : FailNoted n t s r) (x : Record) : FailNoted n t s (r.post x) where
  answer := (r.post_answer x n).trans h.answer
  tenant := (r.post_keeps x .tenants (by decide)).trans h.tenant
  count := by
    rw [State.nat, State.num, r.post_same x _ _ (by decide) (decide_eq_false (blk_ne_counters t 2))]
    exact h.count
  shown := (congrArg _ (r.post_refusal x)).trans h.shown
  session := (r.post_session x n).trans h.session
  same := h.same.trans ((r.post_same x).mono fun i h => by simp_all)
  keeps := h.keeps.trans ((r.post_keeps x).mono (by decide))

theorem State.authFail_noted (s : State) (n : Net) {t : Nat} (ht : t < 16) : FailNoted n t s (s.authFail n t) := by
  rw [State.authFail_eq]
  extract_lets r
  split
  · exact (s.refuseFail_noted n ht).post _
  · exact s.refuseFail_noted n ht

/-- The newest record is that of the lock where the failure locks, and that of the failure otherwise. -/
theorem State.authFail_last (s : State) (n : Net) (t : Nat) (h : s.store.logPlaced = true) :
    ∃ a u d, (s.authFail n t).faults.last = some ⟨a, if s.failLocks t then 0x8102 else 0x8101, u, t, 0, d⟩ := by
  have hstore : (s.countFail t).store.logPlaced = true := h
  rw [State.authFail_eq]
  extract_lets r
  split
  · have hr : r.store = s.store := State.refuse_keeps _ n _ .store (by decide)
    exact ⟨_, _, _, congrArg Faults.last (r.post_placed _ (by rw [hr]; exact h))⟩
  · exact ⟨_, _, _, (State.refuse_wrote _ n rfl).1 hstore⟩

/-- The conditions of R300 under which a response does not verify. -/
theorem State.authOk_fails {s : State} {n : Net} {t : Nat} {sig : List Byte}
    (h : vget (s.tenant t).challenge n.num = none ∨ ∃ c a, vget (s.tenant t).challenge n.num = some (c, a) ∧ (a + 10000000 ≤ s.micros
      ∨ s.authKey t = [] ∨ ecdsaVerify (s.authKey t) (sha256 (s.authMessage n t c)) sig = false)) : s.authOk n t sig = false := by
  unfold State.authOk
  rcases h with h | ⟨c, a, h, ha | hk | hv⟩
  · rw [h]
  · simp [h, Nat.not_lt.mpr ha]
  · simp [h, hk]
  · simp [h, hv]

/-- With the challenge consumed, the failures of the tenant are those of before. -/
theorem State.failsNow_consumed (s : State) (n : Net) {t : Nat} (ht : t < 16) :
    (((s.asked n).modTenant t (Tenant.consume n)).failsNow t) = s.failsNow t := by
  have hm : ((s.asked n).modTenant t (Tenant.consume n)).micros = s.micros := s.asked_micros n
  rw [State.failsNow, State.tenant_modTenant_same _ _ ht, hm, State.asked_tenant]
  rfl

theorem State.failLocks_consumed (s : State) (n : Net) {t : Nat} (ht : t < 16) :
    (((s.asked n).modTenant t (Tenant.consume n)).failLocks t) = s.failLocks t := by
  rw [State.failLocks, State.failsNow_consumed s n ht, State.tenant_modTenant_same _ _ ht, State.asked_tenant]
  rfl

/-- The tenant after a response that failed: its challenge is gone, and the failure noted. -/
theorem FailNoted.tenant_spec {s r : State} {n : Net} {t : Nat} (ht : t < 16)
    (h : FailNoted n t ((s.asked n).modTenant t (Tenant.consume n)) r) :
    vget (r.tenant t).challenge n.num = none ∧ (r.tenant t).locked = ((s.tenant t).locked || s.failLocks t)
      ∧ ∀ u, u ≠ t → r.tenant u = s.tenant u := by
  have hr (u : Nat) : r.tenant u = (State.countFail _ t).tenant u := congrArg (vget · u) h.tenant
  refine ⟨?_, ?_, fun u hu => ?_⟩
  · rw [hr, State.countFail_tenant _ ht, Tenant.noteFails_challenge, State.tenant_modTenant_same _ _ ht, Tenant.consume_challenge]
  · rw [hr, State.countFail_tenant _ ht, Tenant.noteFails_locked, State.failLocks_consumed s n ht,
      State.tenant_modTenant_same _ _ ht, State.asked_tenant]
    rfl
  · rw [hr, State.countFail_other _ hu, State.tenant_modTenant_ne _ _ hu, State.asked_tenant]

/-- The eighth failure within 60 s locks, and no failure does while the tenant is locked. -/
theorem State.failLocks_iff (s : State) (t : Nat) : s.failLocks t = true ↔ (s.tenant t).locked = false
    ∧ 7 ≤ ((s.tenant t).failTimes.filter (fun m => decide (s.micros < m + 60000000))).length := by
  simp [State.failLocks, State.failsNow]

theorem authLockEnd_eq (s : State) (t : Nat) : exec (.authLockEnd t) s =
    .next (if (s.tenant t).locked && decide ((s.tenant t).failTimes.headD 0 + 60000000 ≤ s.micros) then
      s.modTenant t (fun x => { x with locked := false, failTimes := [] }) else s) := rfl

/-- Settles O46: what a failed response leaves, when it locks, and when the lock ends. -/
theorem authenticationFailures : Obligations.AuthenticationFailures := by
  unfold Obligations.AuthenticationFailures
  intro s n t ht
  refine ⟨fun sig hs hr hv hbad => ?_, fun hs hd hl => ?_, fun hl hend => ?_, fun hend => ?_⟩
  · have hrun := (State.authResponse_judged hs hr hv).trans
      (State.authJudge_bad ((s.asked_authOk n t sig).trans (State.authOk_fails hbad)))
    have hn := ((s.asked n).modTenant t (Tenant.consume n)).authFail_noted n ht
    have hlast := ((s.asked n).modTenant t (Tenant.consume n)).authFail_last n t
    obtain ⟨hchal, hlock, hother⟩ := hn.tenant_spec ht
    rw [State.failLocks_consumed s n ht] at hlast
    refine ⟨_, congrArg Host.Outcome.next hrun, hn.answer, hchal, ?_, hn.shown, ?_, hother, ?_, ?_, fun hopen hseven => ?_, fun hno => ?_⟩
    · rw [hn.count]
      exact congrArg (fun x => (x + 1) % 2 ^ 32) (s.asked_nat n (blk t 2) 7)
    · exact hn.session.trans ((State.session_of_mail rfl n).trans (s.asked_session n n))
    · exact (sameEntries.of_od (s.asked_od n)).trans (sameEntries.trans (sameEntries.of_od rfl) hn.same)
    · exact ((s.asked_keeps n).mono (by decide)).trans
        (((State.modTenant_keeps _ _).mono (by decide)).trans (hn.keeps.mono (by decide)))
    · have h := (s.failLocks_iff t).mpr ⟨hopen, hseven⟩
      rw [h] at hlock hlast
      exact ⟨by simpa using hlock, fun hp => hlast (by simpa using hp)⟩
    · have h : s.failLocks t = false := by
        rw [← Bool.not_eq_true, State.failLocks_iff]
        rintro ⟨hopen, hseven⟩
        rcases hno with hl | hl
        · rw [hopen] at hl; cases hl
        · omega
      rw [h] at hlock hlast
      exact ⟨by simpa using hlock, fun hp => hlast (by simpa using hp)⟩
  · exact ⟨_, congrArg Host.Outcome.next (State.challengeFor_locked hs hd hl), State.refuse_answer _ n _,
      ((s.asked_keeps n).mono (by decide)).trans ((State.refuse_plain_keeps _ n rfl).mono (by decide))⟩
  · refine ⟨s.modTenant t (fun x => { x with locked := false, failTimes := [] }), ?_, ?_,
      fun u hu => State.tenant_modTenant_ne _ _ hu, State.modTenant_keeps s _⟩
    · rw [authLockEnd_eq, if_pos (by rw [hl, decide_eq_true hend]; rfl)]
    · rw [State.tenant_modTenant_same _ _ ht]
  · rw [authLockEnd_eq, if_neg (by rw [decide_eq_false (Nat.not_le.mpr hend), Bool.and_false]; decide)]

end Sys2Proof.Machine
end
section
/-! PROOFS. What the deletion of a tenant does with a token session that a step names twice (Table 9.2, R328, R329). -/

namespace Sys2Proof.Machine

/-! ### The last issue leaves -/

/-- With no issue left, clusters take no rounds. -/
theorem State.takeRound_idle {s : State} (h : s.issues = []) (c k : Nat) (b : Bool) : s.takeRound c k b = s := by
  have hnone (id : Nat) : s.issue id = none := by rw [State.issue, h]; rfl
  unfold State.takeRound
  dsimp only
  split
  · rfl
  · split
    · rw [hnone]
    · rfl

theorem State.fill_idle {s : State} (h : s.issues = []) (c : Nat) : s.fill c = s := by
  have all (l : List Nat) : l.foldl (fun s k => (s.takeRound c k false).takeRound c k true) s = s := by
    induction l with
    | nil => rfl
    | cons k l ih => rwa [List.foldl_cons, State.takeRound_idle h, State.takeRound_idle h]
  exact all _

/-- The end of the last issue leaves none. -/
theorem State.removeIssue_last {s : State} {id : Nat} (h : ∀ i ∈ s.issues, i.id = id) : (s.removeIssue id).issues = [] := by
  have all (l : List Nat) (s : State) (h : s.issues = []) :
      (l.foldl (fun s c => (s.fill c).startEngines c) s).issues = [] := by
    induction l generalizing s with
    | nil => exact h
    | cons c l ih =>
      refine ih _ ?_
      have hfill : s.fill c = s := State.fill_idle h c
      show ((s.fill c).startEngines c).issues = []
      rw [hfill]
      exact ((s.startEngines_works c).keeps .issues (by decide)).trans h
  exact all _ _ (List.filter_eq_nil_iff.mpr fun i hi => by simp [h i hi])

/-- With no issue left, none takes a slot. -/
theorem State.promote_idle {s : State} (h : s.issues = []) : s.promote = s := by
  rw [State.promote_eq, h]
  rfl

/-! ### Token sessions by a fault (R328, R329) -/

/-- One token session of the eight. -/
theorem State.token_modToken_same (s : State) {k : Nat} (hk : k < 8) (f : Token → Token) : (s.modToken k f).token k = f (s.token k) :=
  vget_vmod_same _ _ hk

/-- A session shut has no owner, and asks for nothing. -/
theorem State.tokenShut_closed (s : State) {k : Nat} (hk : k < 8) :
    (s.tokenShut k).nat (0x6100 + k) 2 = 0xFF ∧ (s.tokenShut k).token k = {} := by
  refine ⟨?_, ?_⟩
  · unfold State.tokenShut
    rw [State.nat_setNum_ne _ _ (odKey_ne (by decide) (by decide) (Or.inr (by decide)))]
    exact State.nat_setNum_same _ _ _ 0xFF
  · exact State.token_modToken_same _ hk _

/-- A session that asks for no close is idle after a fault, whoever its owner is. -/
theorem State.tokenFault_idle {s : State} {k : Nat} (h : (s.token k).closeAsked = false) :
    (s.tokenFault k).nat (0x6100 + k) 3 = 1 ∧ (s.tokenFault k).nat (0x6100 + k) 2 = s.nat (0x6100 + k) 2 := by
  unfold State.tokenFault
  rw [h]
  refine ⟨?_, ?_⟩
  · exact (State.nat_setNum_ne _ _ (odKey_ne (by decide) (by decide) (Or.inr (by decide)))).trans (State.nat_setNum_same _ _ _ 1)
  · exact (State.nat_setNum_ne _ _ (odKey_ne (by decide) (by decide) (Or.inr (by decide)))).trans
      (State.nat_setNum_ne _ _ (odKey_ne (by decide) (by decide) (Or.inr (by decide))))

/-- A session that waits for its close and whose step ends by a fault twice is shut by the first and idle by the second, without an
owner. -/
theorem State.tokenFault_twice {s : State} {k : Nat} (hk : k < 8) (h : (s.token k).closeAsked = true) :
    ((s.tokenFault k).tokenFault k).nat (0x6100 + k) 3 = 1 ∧ ((s.tokenFault k).tokenFault k).nat (0x6100 + k) 2 = 0xFF := by
  have hshut : s.tokenFault k = s.tokenShut k := if_pos h
  obtain ⟨howner, htoken⟩ := s.tokenShut_closed hk
  rw [hshut]
  obtain ⟨h3, h2⟩ := State.tokenFault_idle (s := s.tokenShut k) (k := k) (by rw [htoken])
  exact ⟨h3, h2.trans howner⟩

/-! ### The deletion of a tenant (Table 9.2) -/

/-- Steps that each leave the entries outside some objects leave them together. -/
theorem sameEntries.foldl {p : Nat → Bool} {α : Type} {f : State → α → State} {l : List α} (s : State)
    (h : ∀ s, ∀ x ∈ l, sameEntries p s (f s x)) : sameEntries p s (l.foldl f s) := by
  induction l generalizing s with
  | nil => exact sameEntries.refl p s
  | cons x l ih =>
    exact (h s x List.mem_cons_self).trans (ih _ fun s y hy => h s y (List.mem_cons_of_mem x hy))

theorem sameEntries.forEach {p : Nat → Bool} {f : State → Nat → State} {n : Nat} (s : State)
    (h : ∀ s, ∀ k < n, sameEntries p s (f s k)) : sameEntries p s (forEach n s f) :=
  sameEntries.foldl s fun s k hk => h s k (List.mem_range.mp hk)

/-- An object cleared leaves the others. -/
theorem State.clearObject_same (s : State) {i : Nat} {p : Nat → Bool} (hp : p i = true) : sameEntries p s (s.clearObject i) := by
  intro a b hb ha
  have hne : a ≠ i := fun e => by rw [e, hp] at ha; cases ha
  have hkey : odKey a b / 256 = a := by simp only [odKey]; omega
  simp only [State.get, State.clearObject, OdStore.get]
  rw [lookupKey_filter (p := fun k => decide (k / 256 ≠ i)) (odKey a b) (by simp [hkey, hne])]

/-- A number set leaves the other objects. -/
theorem State.setNum_same (s : State) {i j : Nat} (v : Int) {p : Nat → Bool} (hj : j < 256) (hp : p i = true) :
    sameEntries p s (s.setNum i j v) := s.set_same _ hj hp

/-- A number set changes its own object alone. -/
theorem State.setNum_own (s : State) (i : Nat) {j : Nat} (v : Int) (hj : j < 256) :
    sameEntries (fun a => decide (a = i)) s (s.setNum i j v) := s.setNum_same v hj (decide_eq_true rfl)

theorem State.showSlot_same (s : State) (k : Nat) : sameEntries (fun i => decide (i = 0x4000 + k)) s (s.showSlot k) := by
  have five (a b c d e : Int) : sameEntries (fun i => decide (i = 0x4000 + k)) s
      (((((s.setNum (0x4000 + k) 6 a).setNum (0x4000 + k) 7 b).setNum
      (0x4000 + k) 8 c).setNum (0x4000 + k) 9 d).setNum (0x4000 + k) 10 e) :=
    ((((State.setNum_own _ _ _ (by decide)).trans (State.setNum_own _ _ _ (by decide))).trans
      (State.setNum_own _ _ _ (by decide))).trans (State.setNum_own _ _ _ (by decide))).trans (State.setNum_own _ _ _ (by decide))
  unfold State.showSlot
  split
  · exact five _ _ _ _ _
  · exact five _ _ _ _ _

theorem State.evict_same (s : State) (k : Nat) : sameEntries (fun i => decide (i = 0x4000 + k)) s (s.evict k) := by
  have shown (u : State) (h : u.od = s.od) : sameEntries (fun i => decide (i = 0x4000 + k)) s
      ((((u.setNum (0x4000 + k) 4 1).setNum (0x4000 + k) 12 0).setNum (0x4000 + k) 13 0).showSlot k) :=
    (sameEntries.of_od h).trans ((((u.setNum_own _ _ (by decide)).trans (State.setNum_own _ _ _ (by decide))).trans
      (State.setNum_own _ _ _ (by decide))).trans (State.showSlot_same _ k))
  exact shown _ rfl

theorem State.tokenClose_same (s : State) (k : Nat) : sameEntries (fun i => decide (i = 0x6100 + k)) s (s.tokenClose k) := by
  refine sameEntries.trans ?_ ((State.retier_keeps _).sameEntries (by decide) _)
  unfold State.tokenShut
  extract_lets s1 s2 s3
  have h3 : sameEntries (fun i => decide (i = 0x6100 + k)) s s3 := sameEntries.of_od rfl
  exact h3.trans (((State.setNum_own _ _ _ (by decide)).trans (State.setNum_own _ _ _ (by decide))).trans
    (State.setNum_own _ _ _ (by decide)))

/-- A set's clearing changes the set's condition output, OD 0x6000 to 0x600F. -/
theorem State.clearSet_same (s : State) (t o : Nat) : sameEntries (fun i => decide (0x6000 ≤ i ∧ i < 0x6010)) s (s.clearSet t o) := by
  unfold State.clearSet
  extract_lets s1
  have h1 : sameEntries (fun i => decide (0x6000 ≤ i ∧ i < 0x6010)) s s1 := sameEntries.of_od rfl
  refine h1.trans ?_
  split
  · next c hc =>
    have hp : (fun i : Nat => decide (0x6000 ≤ i ∧ i < 0x6010)) c = true := by
      simp only [State.conditionOf, Option.ite_none_right_eq_some, Option.some.injEq] at hc
      exact decide_eq_true (by omega)
    split
    · exact (s1.setNum_same _ (by decide) hp).trans (State.setNum_same _ _ (by decide) hp)
    · exact sameEntries.refl _ _
  · exact sameEntries.refl _ _

/-- Every object but that of token session 0. -/
def notSession0 (i : Nat) : Bool := decide (i ≠ 0x6100)

theorem sameEntries.session0 {p : Nat → Bool} {s t : State} (h : sameEntries p s t) (hp : p 0x6100 = false) :
    sameEntries notSession0 s t := h.mono fun i hi => by
  have : i = 0x6100 := by simpa [notSession0] using hi
  rw [this, hp]

/-- The issues of a tenant end. -/
def State.endTenantIssues (s : State) (t : Nat) : State :=
  (s.issues.filter (fun i => decide (i.tenant = t))).foldl (fun s i => s.endIssue i.id) s

/-- What the deletion of a tenant does once its issues have ended: its token sessions close, then its jobs, events and output sets
stop. -/
def State.stopTenantWork (s : State) (t : Nat) : State :=
  forEach 16 (forEach 16 (forEach 15 ((s.tokensOf t).foldl State.tokenClose s) fun s j => s.jobStop t j) fun s e => s.eventOff t e)
    fun s o => if s.flag (blk t (0x40 + o)) 1 then s.setOff t o else s

/-- A slot evicted and given back. -/
def State.freeSlot (s : State) (k : Nat) : State := ((s.evict k).setNum (0x4000 + k) 1 0xFF).setNum (0x4000 + k) 4 0

/-- Its slots are evicted and freed, and its block returns to defaults. -/
def State.freeTenant (s : State) (t : Nat) : State :=
  forEach 256 (((List.range 256).filter fun n => decide (s.nat (0x4000 + n) 1 = t)).foldl (fun s n => s.freeSlot n) s)
    fun s k => s.clearObject (blk t k)

/-- And what the state holds of it is as at reset. -/
def State.forgetTenant (s : State) (t : Nat) : State :=
  (({ s with
    store := { s.store with stored := s.store.stored.filter fun c => !decide (blk t 0 ≤ c.1 / 256 ∧ c.1 / 256 < blk t 0 + 256) },
    jobs := vset s.jobs t (Vector.replicate 15 {}), events := vset s.events t (Vector.replicate 16 {}),
    sets := vset s.sets t (Vector.replicate 16 {}), pend := vset s.pend t {} } : State).modTenant t fun _ => {}).retier

theorem State.forgetTenant_eq (s : State) (t : Nat) : s.forgetTenant t =
    (let r : State := { s with
      store := { s.store with stored := s.store.stored.filter fun c => !decide (blk t 0 ≤ c.1 / 256 ∧ c.1 / 256 < blk t 0 + 256) },
      jobs := vset s.jobs t (Vector.replicate 15 {}), events := vset s.events t (Vector.replicate 16 {}),
      sets := vset s.sets t (Vector.replicate 16 {}), pend := vset s.pend t {} }
    (r.modTenant t fun _ => {}).retier) := rfl

theorem State.tenantDrop_eq (s : State) (t : Nat) :
    s.tenantDrop t = ((((s.endSessions t).endTenantIssues t).stopTenantWork t).freeTenant t).forgetTenant t := by
  unfold State.tenantDrop
  extract_lets s1 s2 s3 s4 s5 s6 mine s7 s8
  have hfreed : s8 = (((s.endSessions t).endTenantIssues t).stopTenantWork t).freeTenant t := rfl
  exact (State.forgetTenant_eq s8 t).symm.trans (congrArg (fun x => x.forgetTenant t) hfreed)

theorem blk_ne_session {t k : Nat} (ht : t < 16) (hk : k < 256) : blk t k ≠ 0x6100 := by simp only [blk]; omega

theorem State.stopTenantWork_session0 (s : State) {t : Nat} (ht : t < 16) (h : 0 ∉ s.tokensOf t) :
    sameEntries notSession0 s (s.stopTenantWork t) := by
  have hclose : sameEntries notSession0 s ((s.tokensOf t).foldl State.tokenClose s) := sameEntries.foldl s fun s k hk => by
    have hk : k ≠ 0 := fun e => h (e ▸ hk)
    exact (s.tokenClose_same k).session0 (decide_eq_false (by omega))
  have hjobs (s : State) : sameEntries notSession0 s (forEach 15 s fun s j => s.jobStop t j) := sameEntries.forEach s fun s j hj =>
    (State.jobStop_same s).session0 (decide_eq_false fun e => blk_ne_session ht (by omega) e.symm)
  have hevents (s : State) : sameEntries notSession0 s (forEach 16 s fun s e => s.eventOff t e) := sameEntries.forEach s fun s e he =>
    (s.setNum_same 0 (by decide) (p := notSession0) (decide_eq_true (blk_ne_session ht (by omega)))).trans (sameEntries.of_od rfl)
  refine ((hclose.trans (hjobs _)).trans (hevents _)).trans (sameEntries.forEach _ fun s o ho => ?_)
  split
  · exact (((s.clearSet_same t o).session0 (by decide)).trans
      (State.setNum_same _ 0 (by decide) (decide_eq_true (blk_ne_session ht (by omega))))).trans (sameEntries.of_od rfl)
  · exact sameEntries.refl _ s

theorem State.freeTenant_session0 (s : State) {t : Nat} (ht : t < 16) : sameEntries notSession0 s (s.freeTenant t) := by
  refine (sameEntries.foldl s fun s n hn => ?_).trans (sameEntries.forEach _ fun s k hk =>
    s.clearObject_same (decide_eq_true (blk_ne_session ht hk)))
  have hn : n < 256 := List.mem_range.mp (List.mem_filter.mp hn).1
  have hp : notSession0 (0x4000 + n) = true := decide_eq_true (by omega)
  exact ((s.evict_same n).session0 (decide_eq_false (by omega))).trans
    ((State.setNum_same _ _ (by decide) hp).trans (State.setNum_same _ _ (by decide) hp))

theorem State.forgetTenant_od (s : State) (t : Nat) : (s.forgetTenant t).od = s.od := State.retier_keeps _ .od (by decide)

/-- Once its issues have ended, the deletion of a tenant leaves token session 0, unless the tenant owns it open. -/
theorem State.tenantDrop_session0 (s : State) {t : Nat} (ht : t < 16) (h : 0 ∉ ((s.endSessions t).endTenantIssues t).tokensOf t) :
    (s.tenantDrop t).nat 0x6100 3 = ((s.endSessions t).endTenantIssues t).nat 0x6100 3 := by
  rw [State.tenantDrop_eq, State.nat_of_od (State.forgetTenant_od _ t), State.nat, State.num,
    ((State.stopTenantWork_session0 _ ht h).trans (State.freeTenant_session0 _ ht)) 0x6100 3 (by decide) (by decide)]
  rfl

theorem State.tenantDo_delete (s : State) (t : Nat) : s.tenantDo t 4 = s.tenantDrop t := by rw [State.tenantDo]

/-- A deletion that is accepted drops the tenant. -/
theorem tenantDelete_accepted {s : State} {n : Net} {t : Nat} (h : s.accepts n (blk t 0) 3 (leBytes 1 4) (fun s => s.tenantDeny t 4)) :
    exec (.tenantDelete n t) s = .next (((s.asked n).tenantDrop t).answer n .ok) := by
  rw [← State.tenantDo_delete]
  exact congrArg Host.Outcome.next (State.write_accepted _ h)

/-! ### A session that a step names twice -/

theorem State.endSessions_keeps (s : State) (t : Nat) : Keeps [.mail] s (s.endSessions t) :=
  Keeps.foldl (fun s n => Keeps.ite (s.endNetSession_keeps n) (Keeps.refl _ s)) (Keeps.refl _ s)

/-- The only issue, a step whose rows are one session twice, ends: that session waited for its close, and is idle now. -/
theorem State.endIssue_twice {s : State} {i : Issue} {k : Nat} (hs : s.issues = [i]) (hst : i.st = .committed) (hkind : i.kind = 4)
    (hrows : i.rows = [k, k]) (hk : k < 8) (hc : (s.token k).closeAsked = true) :
    (s.endIssue i.id).nat (0x6100 + k) 3 = 1 ∧ (s.endIssue i.id).nat (0x6100 + k) 2 = 0xFF := by
  have hi : s.issue i.id = some i := by simp [State.issue, hs]
  let u := ((s.removeIssue i.id).bump (blk i.tenant 0x2F) 11).release i.frame i.tenant i.job
  have hu : Keeps [.cams, .chips, .groups, .issues, .od] s u :=
    (((s.removeIssue_keeps i.id).mono (by decide)).trans ((State.bump_keeps _ _ _).mono (by decide))).trans
      ((State.release_keeps _ _ _ _).mono (by decide))
  have hlast : (s.removeIssue i.id).issues = [] := State.removeIssue_last fun j hj => by
    rw [hs] at hj
    rw [List.mem_singleton.mp hj]
  have hissues : u.issues = [] :=
    ((State.release_keeps _ _ _ _) .issues (by decide)).trans (((State.bump_keeps _ _ _) .issues (by decide)).trans hlast)
  have htoken : (u.token k).closeAsked = true := (congrArg (fun v => (vget v k).closeAsked) (hu .tokens (by decide))).trans hc
  have hend : s.endIssue i.id = ((u.tokenFault k).tokenFault k).promote := by
    simp [State.endIssue, hi, hst, hkind, hrows, hk, u]
  have hkeep (s : State) : (s.tokenFault k).issues = s.issues := by
    unfold State.tokenFault
    split <;> rfl
  rw [hend, State.promote_idle ((hkeep _).trans ((hkeep u).trans hissues))]
  exact State.tokenFault_twice hk htoken

/-- The only step of tenant 15, whose rows are session 0 twice. -/
def twiceIssue : Issue :=
  { id := 0, tenant := 15, job := 15, slot := 0, entry := 0, kind := 4, index := 0, st := .committed, ranAhead := false
    waitsSlot := false, order := 0, epoch := 0, traj := default, k := 0, angle := 0, flags := 0, shaft := 0, frame := none
    frameFlags := 0, gated := false, parts := [], arrived := [], saturated := 0, satFlag := false, frameData := []
    stripsIn := [], finished := false, rows := [0, 0], micro := none, out := [] }

/-- A ready tray with tenant 15 suspended and that step under way, for whose end a close of session 0 waits. Tenant 0 has a session on
each network. -/
def twiceState : State :=
  { (((State.reset.setNum (blk 15 0) 2 2).setNum 0x6100 2 15).setNum 0x6100 3 2) with
    tray := .ready, ecat := { al := .preop }, mail := Vector.replicate 2 { session := some ⟨0, 0⟩ }
    issues := [twiceIssue], nextIssue := 1
    tokens := vset State.reset.tokens 0 { outstanding := true, closeAsked := true } }

theorem twiceState_accepts : twiceState.accepts .ecat (blk 15 0) 3 (leBytes 1 4) (fun s => s.tenantDeny 15 4) := by
  unfold State.accepts
  decide +kernel

theorem twiceState_open : twiceState.nat 0x6100 2 = 15 ∧ twiceState.nat 0x6100 3 = 2 := by decide +kernel

/-- Deleting tenant 15 leaves session 0 idle: the step's end by the issue's end closes it, and the same end makes it idle once more. -/
theorem twiceState_drop : ((twiceState.asked .ecat).tenantDrop 15).nat 0x6100 3 = 1 := by
  have hkeep : Keeps [.mail, .slots] twiceState ((twiceState.asked .ecat).endSessions 15) :=
    (State.asked_keeps _ _).trans ((State.endSessions_keeps _ 15).mono (by decide))
  have hissues : ((twiceState.asked .ecat).endSessions 15).issues = [twiceIssue] := hkeep .issues (by decide)
  have htoken : (((twiceState.asked .ecat).endSessions 15).token 0).closeAsked = true :=
    (congrArg (fun v => (vget v 0).closeAsked) (hkeep .tokens (by decide))).trans (by decide +kernel)
  have hend : ((twiceState.asked .ecat).endSessions 15).endTenantIssues 15 =
      ((twiceState.asked .ecat).endSessions 15).endIssue twiceIssue.id := by
    rw [State.endTenantIssues, hissues, List.filter_cons_of_pos (by decide), List.filter_nil, List.foldl_cons, List.foldl_nil]
  obtain ⟨h3, h2⟩ := State.endIssue_twice hissues rfl rfl rfl (by decide) htoken
  rw [← hend] at h3 h2
  rw [State.tenantDrop_session0 _ (by decide) fun h => ?_]
  · exact h3
  · have howner := (decide_eq_true_iff.mp (List.mem_filter.mp h).2).2
    rw [h2] at howner
    cases howner

/-- Refutes O43: where the rows of a step name one token session twice, the deletion of its tenant leaves that session idle. -/
theorem not_tenantsManaged : ¬ Obligations.TenantsManaged := by
  unfold Obligations.TenantsManaged
  intro h
  obtain ⟨-, -, -, hdelete, -⟩ := h twiceState .ecat 15 (by decide)
  obtain ⟨r, hr, -, -, -, -, -, -, -, -, hclosed, -⟩ := hdelete twiceState_accepts
  rw [tenantDelete_accepted twiceState_accepts] at hr
  obtain rfl := Host.Outcome.next.inj hr
  obtain ⟨howner, hopen⟩ := twiceState_open
  have hshut := hclosed 0 (by decide) howner (by rw [hopen]; decide)
  rw [State.nat_of_od (State.answer_od _ _ _)] at hshut
  exact absurd (twiceState_drop.symm.trans hshut) (by decide)

end Sys2Proof.Machine
end
section
/-! PROOFS. A token step whose job record stands where a token session's object does (R329, R331). -/

namespace Sys2Proof.Machine

/-! ### The token that a step of a session selects (R329) -/

/-- Records that are written at last change the counters of OD 0x2400 alone. -/
theorem State.writeOwed_same (s : State) : sameEntries (fun i => decide (i = 0x2400)) s s.writeOwed := by
  refine sameEntries.forEach s fun s c _ => ?_
  dsimp only
  split
  · exact sameEntries.refl _ s
  · exact (sameEntries.of_od (t := s.modChip c _) rfl).trans (sameEntries.foldl _ fun s o _ => s.post_same _)

/-- A selected token that ends nothing is fed next: the session runs on. -/
theorem State.tokenAdvance_runs {s : State} {k token : Nat} (hc : (s.token k).closeAsked = false) (hp : (s.token k).prompt = [])
    (hs : (s.token k).stopAsked = false) (hpos : s.nat (tokIndex k) 13 + 1 < 1024) (hstop : s.num (tokIndex k) 10 < 0)
    (htoken : token ≠ ((s.model (s.nat (tokIndex k) 4)).map (fun m => m.variant.stopToken)).getD 0)
    (hmade : (s.token k).made + 1 < s.nat (tokIndex k) 9) :
    (s.tokenAdvance k token).nat (tokIndex k) 3 = s.nat (tokIndex k) 3 := by
  unfold State.tokenAdvance
  extract_lets x t pos s1 s2 s3 s4 stop0 stop
  have hnum {j : Nat} (hj : j < 256) (h : j ≠ 12 ∧ j ≠ 13 ∧ j ≠ 14 ∧ j ≠ 15) : s4.num x j = s.num x j := by
    have ne {i : Nat} (hi : i < 256) (hne : j ≠ i) : odKey x j ≠ odKey x i := odKey_ne hi hj (Or.inr hne)
    calc s4.num x j = (s3.num x j) := rfl
      _ = _ := State.num_setNum_ne _ _ (ne (by decide) h.2.2.2)
      _ = _ := State.num_setNum_ne _ _ (ne (by decide) h.2.2.1)
      _ = s2.num x j := by simp only [State.num, State.setBytes, State.get_set_ne _ _ (ne (by decide) h.1)]
      _ = s.num x j := State.num_setNum_ne _ _ (ne (by decide) h.2.1)
  have hnat {j : Nat} (hj : j < 256) (h : j ≠ 12 ∧ j ≠ 13 ∧ j ≠ 14 ∧ j ≠ 15) : s4.nat x j = s.nat x j :=
    congrArg Int.toNat (hnum hj h)
  have hstop : stop = ((s.model (s.nat x 4)).map (fun m => m.variant.stopToken)).getD 0 := by
    have hneg : s4.num x 10 < 0 := by rwa [hnum (by decide) (by decide)]
    rw [show stop = _ from if_pos hneg, hnat (by decide) (by decide)]
    rfl
  simp only [t, hc, hp, hs]
  rw [if_neg (by decide), if_neg (Nat.not_le.mpr hpos), if_neg (by rwa [hstop]),
    if_neg (by rw [hnat (by decide) (by decide)]; exact Nat.not_le.mpr hmade), if_neg (by decide)]
  exact (State.nat_of_od (s := s4) rfl x 3).trans (hnat (by decide) (by decide))

section
variable {l : List Piece} {s t : State}

/-- A number of an object that two states agree in. -/
theorem sameEntries.num {p : Nat → Bool} (h : sameEntries p s t) {i j : Nat} (hj : j < 256) (hp : p i = false) :
    t.num i j = s.num i j := by
  simp only [State.num, h i j hj hp]

theorem sameEntries.nat {p : Nat → Bool} (h : sameEntries p s t) {i j : Nat} (hj : j < 256) (hp : p i = false) :
    t.nat i j = s.nat i j := congrArg Int.toNat (h.num hj hp)

/-- Entries, token sessions and models stay where the pieces that hold them do. -/
theorem Keeps.num (h : Keeps l s t) (hl : Piece.od ∉ l) (i j : Nat) : t.num i j = s.num i j := by
  have hod : t.od = s.od := h .od hl
  simp only [State.num, State.get, hod]

theorem Keeps.nat (h : Keeps l s t) (hl : Piece.od ∉ l) (i j : Nat) : t.nat i j = s.nat i j := State.nat_of_od (h .od hl) i j

theorem Keeps.token (h : Keeps l s t) (hl : Piece.tokens ∉ l) (k : Nat) : t.token k = s.token k := congrArg (vget · k) (h .tokens hl)

theorem Keeps.slot (h : Keeps l s t) (hl : Piece.slots ∉ l) (k : Nat) : t.slot k = s.slot k := congrArg (vget · k) (h .slots hl)

theorem Keeps.model (h : Keeps l s t) (hl : Piece.slots ∉ l) (k : Nat) : t.model k = s.model k := congrArg Slot.model (h.slot hl k)

end

/-! ### A job record that is a session's object -/

/-- The model of the stream job, which stops at token 5. -/
def stopModel : Model := { streamModel with variant := { streamModel.variant with stopToken := 5 } }

/-- The issue of a step of session 0, which has chosen token 5. The job whose completion it counts is job 224 of tenant 48: where that
record would be stands the object of session 0, OD 6x100, of which entry 4 names the slot, as entry 4 of a job's record counts its
completions. -/
def strayStep : Issue := { wakingIssue with kind := 4, rows := [0], tokens := [5], tokenJobs := [(48, 224)], parts := [] }

/-- A tray with that model in slot 0, session 0 running on it, and that step, which is finished. -/
def strayStepState : State :=
  { State.reset.setNum 0x6100 3 2 with
    issues := [strayStep], nextIssue := 1, slots := vset State.reset.slots 0 { model := some stopModel } }

/-- The state once the step's job has been counted. -/
def strayCounted : State := strayStepState.tokenCount strayStep (48, 224)

/-- The session names slot 1 then, which holds no model. -/
theorem strayCounted_entries : strayCounted.nat (tokIndex 0) 3 = 2 ∧ strayCounted.nat (tokIndex 0) 4 = 1
    ∧ strayCounted.num (tokIndex 0) 10 = -1 ∧ strayCounted.nat (tokIndex 0) 9 = 64 ∧ strayCounted.nat (tokIndex 0) 13 = 0 := by
  decide +kernel

theorem strayCounted_rest : strayCounted.token 0 = {} ∧ (strayCounted.model 1).map (fun m => m.variant.stopToken) = none
    ∧ strayCounted.issues.map Issue.id = [0] := by
  decide +kernel

/-- The end of a step of one session that counts in one job. -/
theorem State.tokenStepEnd_single {s : State} {id k : Nat} {i : Issue} {p : Nat × Nat} (hi : s.issue id = some i)
    (hf : i.finished = true) (hk : i.kind = 4) (hr : i.rows = [k]) (hj : i.tokenJobs = [p]) :
    s.tokenStepEnd id = ((((s.tokenCount i p).removeIssue id).promote).tokenAdvance k (i.tokenOf 0)).writeOwed := by
  simp [State.tokenStepEnd, hi, hf, hk, hr, hj]

/-- The step's end feeds token 5 on, as no model of slot 1 stops at it. -/
theorem strayStepState_runs : (strayStepState.tokenStepEnd 0).nat (tokIndex 0) 3 = 2 := by
  obtain ⟨h3, h4, h10, h9, h13⟩ := strayCounted_entries
  obtain ⟨htoken, hmodel, hids⟩ := strayCounted_rest
  have hu : Keeps [.chips, .issues] strayCounted (strayCounted.removeIssue 0) := strayCounted.removeIssue_keeps 0
  have hempty : (strayCounted.removeIssue 0).issues = [] := State.removeIssue_last fun i hi => by
    have hid : i.id ∈ strayCounted.issues.map Issue.id := List.mem_map_of_mem hi
    rw [hids] at hid
    exact List.mem_singleton.mp hid
  have hruns : ((strayCounted.removeIssue 0).tokenAdvance 0 5).nat (tokIndex 0) 3 = 2 := by
    have htok : (strayCounted.removeIssue 0).token 0 = {} := (hu.token (by decide) 0).trans htoken
    refine (State.tokenAdvance_runs (by rw [htok]) (by rw [htok]) (by rw [htok]) ?_ ?_ ?_ ?_).trans ((hu.nat (by decide) _ 3).trans h3)
    · rw [hu.nat (by decide), h13]
      decide
    · rw [hu.num (by decide), h10]
      decide
    · rw [hu.nat (by decide), h4, hu.model (by decide), hmodel]
      decide
    · rw [htok, hu.nat (by decide), h9]
      decide
  have hend : strayStepState.tokenStepEnd 0 = (((strayCounted.removeIssue 0).promote).tokenAdvance 0 (strayStep.tokenOf 0)).writeOwed :=
    State.tokenStepEnd_single rfl rfl rfl rfl rfl
  rw [hend, State.promote_idle hempty, (State.writeOwed_same _).nat (by decide) (by decide)]
  exact hruns

theorem strayStepState_entries : strayStepState.num (tokIndex 0) 10 < 0 ∧ strayStepState.nat (tokIndex 0) 13 + 1 < 1024
    ∧ ((strayStepState.model (strayStepState.nat (tokIndex 0) 4)).map fun m => m.variant.stopToken).getD 0 = 5 := by decide +kernel

/-- What O48 says of a step of one session that selects the stop token: the session is idle. -/
theorem idle_of_tokenSessions (h : Obligations.TokenSessions) {s : State} {id k : Nat} {x : Issue} (hx : s.issue id = some x)
    (hf : x.finished = true) (hkind : x.kind = 4) (hrows : x.rows = [k]) (hk : k < 8) (hclose : (s.token k).closeAsked = false)
    (hprompt : (s.token k).prompt = []) (hpos : s.nat (tokIndex k) 13 + 1 < 1024) (hneg : s.num (tokIndex k) 10 < 0)
    (hstop : x.tokenOf 0 = ((s.model (s.nat (tokIndex k) 4)).map (fun m => m.variant.stopToken)).getD 0) :
    (s.tokenStepEnd id).nat (tokIndex k) 3 = 1 := by
  obtain ⟨-, -, -, -, -, -, -, hstep⟩ := h s 0 (by decide)
  obtain ⟨t, ht, -, hends, -⟩ := hstep id x hx hf hkind (by simp [hrows]) (by simpa [hrows] using hk)
  obtain rfl := Host.Outcome.next.inj ht
  obtain ⟨-, -, hnext⟩ := hends 0 k (by rw [hrows]; rfl)
  obtain ⟨-, -, hselect⟩ := hnext hclose
  obtain ⟨-, -, -, hidle⟩ := hselect hprompt
  dsimp only at hidle
  rw [if_neg (Nat.not_le.mpr hpos), if_pos hneg, if_pos hstop] at hidle
  exact hidle.1

/-- Refutes O48: session 0 selects the stop token of the model that it runs on and runs on, where the job record that its step counts
in is the session's own object. -/
theorem not_tokenSessions : ¬ Obligations.TokenSessions := fun h => by
  obtain ⟨h10, h13, hstop⟩ := strayStepState_entries
  have hidle := idle_of_tokenSessions h (s := strayStepState) (id := 0) (x := strayStep) rfl rfl rfl rfl (by decide) rfl rfl h13 h10
    hstop.symm
  rw [strayStepState_runs] at hidle
  exact absurd hidle (by decide)

end Sys2Proof.Machine
end
section
/-! PROOFS. Slots: bundles staged, admitted, evicted, and residence changed (R311 to R316, R325). -/

namespace Sys2Proof.Machine

/-! ### One slot of the 256 -/

section
variable (s : State) {k : Nat} (f : Slot → Slot)

theorem State.slot_modSlot_same (hk : k < 256) : (s.modSlot k f).slot k = f (s.slot k) := vget_vmod_same _ _ hk

theorem State.slot_modSlot_ne {j : Nat} (h : j ≠ k) : (s.modSlot k f).slot j = s.slot j := vget_vmod_ne _ _ h.symm

end

/-- The entries of a slot record below :06 do not follow its placement. -/
theorem State.showSlot_low (s : State) (k : Nat) {j : Nat} (hj : j < 6) :
    (s.showSlot k).nat (0x4000 + k) j = s.nat (0x4000 + k) j := by
  have ne (s : State) {i : Nat} (hi : 6 ≤ i ∧ i < 256) (v : Int) :
      (s.setNum (0x4000 + k) i v).nat (0x4000 + k) j = s.nat (0x4000 + k) j :=
    State.nat_setNum_ne _ _ (odKey_ne hi.2 (by omega) (Or.inr (by omega)))
  unfold State.showSlot
  extract_lets i
  split <;> simp only [i, ne _ (i := 6) (by decide), ne _ (i := 7) (by decide), ne _ (i := 8) (by decide), ne _ (i := 9) (by decide),
    ne _ (i := 10) (by decide)]

/-! ### Bundles staged (R312) -/

/-- The slot of a bundle stored. -/
theorem State.stage_spec (s : State) {k : Nat} (hk : k < 256) (b : List Byte) :
    (s.stage k b).slot k = { s.slot k with staged := some b, download := none } ∧ (s.stage k b).nat (0x4000 + k) 4 = 2
      ∧ sameEntries (fun i => decide (i = 0x4000 + k)) s (s.stage k b) ∧ Keeps [.od, .slots] s (s.stage k b) := by
  refine ⟨State.slot_modSlot_same s _ hk, State.nat_setNum_same _ _ _ 2, ?_, ?_⟩
  · exact (sameEntries.of_od (t := s.modSlot k _) rfl).trans (State.setNum_own _ _ _ (by decide))
  · exact ((keeps_slots s _).mono (by decide)).trans ((State.setNum_keeps _ _ _ _).mono (by decide))

/-- A mailbox updated, and its request answered: the answer, and what `f` made of the rest. -/
theorem State.answered_modBox (s : State) (n : Net) (f : Mail → Mail) :
    ((s.modBox n f).answer n .ok).answered n ∧ ((s.modBox n f).answer n .ok).box n = { f (s.box n) with answer := .ok }
      ∧ Keeps [.mail] s ((s.modBox n f).answer n .ok) :=
  ⟨State.answer_answered _ n, by rw [State.answer_box, State.box_modBox_same], (keeps_mail s _).trans (State.answer_keeps _ n _)⟩

theorem State.bundleEnd_foe {s : State} {k : Nat} {n : Net} (hd : (s.slot k).download = some n) (hf : (s.box n).foe = some k) :
    s.bundleEnd k
      = ((s.stage k (s.box n).foeData).modBox n (fun b => { b with foe := none, foeData := [] })).answer n .ok := by
  simp only [State.bundleEnd, hd, hf, if_true]

theorem State.bundleEnd_xfer {s : State} {k : Nat} {n : Net} {x : Xfer} (hd : (s.slot k).download = some n)
    (hf : (s.box n).foe ≠ some k) (hx : (s.box n).xfer = some x) (hw : x.whole = true) (hi : x.index = 0x4000 + k) :
    s.bundleEnd k = ((s.stage k x.data).modBox n (fun b => { b with xfer := none })).answer n .ok := by
  simp only [State.bundleEnd, hd, if_neg hf, hx, hw, hi, and_self, if_true]

/-- What the end of a download leaves of slot and entries, whatever it makes of the mailbox. -/
theorem State.staged_answered (s : State) {k : Nat} (hk : k < 256) (b : List Byte) (n : Net) (f : Mail → Mail) :
    let t := ((s.stage k b).modBox n f).answer n .ok
    (t.slot k).staged = some b ∧ t.nat (0x4000 + k) 4 = 2 ∧ (t.slot k).download = none ∧ t.answered n
      ∧ t.box n = { f (s.box n) with answer := .ok } ∧ sameEntries (fun i => decide (i = 0x4000 + k)) s t
      ∧ Keeps [.od, .slots, .mail] s t := by
  obtain ⟨hslot, hnat, hsame, hkeep⟩ := s.stage_spec hk b
  obtain ⟨hans, hbox, hmail⟩ := (s.stage k b).answered_modBox n f
  intro t
  have hs : t.slot k = { s.slot k with staged := some b, download := none } := (hmail.slot (by decide) k).trans hslot
  refine ⟨by rw [hs], (hmail.nat (by decide) _ _).trans hnat, by rw [hs], hans, ?_, ?_, ?_⟩
  · exact hbox.trans (by rw [State.box_of_mail (hkeep .mail (by decide))])
  · exact hsame.trans (hmail.sameEntries (by decide) _)
  · exact (hkeep.mono (by decide)).trans (hmail.mono (by decide))

/-! ### Commands of a slot record (Table 9.7) -/

/-- Admit, evict and discard name no plan: they are plain writes. -/
theorem State.slotWrite_plain {s : State} {n : Net} {k cmd : Nat} (h : cmd ≠ 3 ∧ cmd ≠ 4) : s.slotWrite n k cmd =
    s.write n (0x4000 + k) 3 (leBytes 1 cmd) (fun s => s.slotDeny k cmd) (fun s => s.slotDo k cmd) := by
  simp only [State.slotWrite, if_neg h.1, if_neg h.2]

/-- A slot command that is accepted has its effect and is answered. -/
theorem State.slotWrite_accepted {s : State} {n : Net} {k cmd : Nat}
    (h : s.accepts n (0x4000 + k) 3 (leBytes 1 cmd) (fun s => s.slotDeny k cmd)) :
    s.slotWrite n k cmd = ((s.asked n).slotDo k cmd).answer n .ok := by
  have hok (p : Prop) : ¬ (((((s.asked n).slotDo k cmd).answer n .ok).box n).answer = .abort abState ∧ p) := by
    rw [State.answer_box]
    rintro ⟨h, -⟩
    cases h
  unfold State.slotWrite
  rw [State.write_accepted _ h]
  dsimp only
  split
  · exact if_neg (hok _)
  · rfl

/-- A command asks for a state of the slot. -/
theorem State.slotIn_none {s : State} {k : Nat} {l : List Nat} (h : s.slotIn k l = none) : s.nat (0x4000 + k) 4 ∈ l := by
  unfold State.slotIn at h
  split at h
  · next hc => exact List.contains_iff_mem.mp hc
  · cases h

/-! ### Residence changed (R325) -/

/-- A residence change that nothing refuses has a plan. -/
theorem State.changeDeny_none {s : State} {k from_ : Nat} {plan : Except AdmFault (Model × List Placed)}
    (h : s.changeDeny k from_ plan = none) : s.nat (0x4000 + k) 4 = from_ ∧ ∃ m l, plan = .ok (m, l) := by
  simp only [State.changeDeny, Option.orElse_eq_none] at h
  obtain ⟨hin, -, hplan⟩ := h
  refine ⟨List.mem_singleton.mp (State.slotIn_none hin), ?_⟩
  cases plan with
  | error f => cases hplan
  | ok q => exact ⟨q.1, q.2, rfl⟩

/-- The regions laid again are of chips alone; the slot shows its new residence. -/
theorem State.reside_spec (s : State) (k : Nat) (m : Model) (l : List Placed) (want : Bool) :
    (s.reside k m l want).nat (0x4000 + k) 4 = (if want then 5 else 4) ∧ Keeps [.chips, .slots, .od] s (s.reside k m l want) := by
  unfold State.reside
  extract_lets parts variant m2 move s1 s2
  have h1 : Keeps [.chips] s s1 := Keeps.foldl (fun s q => by
    unfold move
    split
    · exact Keeps.refl _ s
    · exact keeps_chips s _) (Keeps.refl _ s)
  refine ⟨?_, ?_⟩
  · rw [(State.trimPools_keeps _).nat (by decide), State.showSlot_low _ _ (by decide)]
    cases want <;> exact State.nat_setNum_same _ _ _ _
  · exact (((h1.mono (by decide)).trans ((keeps_slots s1 _).mono (by decide))).trans ((s2.setNum_keeps _ _ _).mono (by decide))).trans
      (((State.showSlot_keeps _ _).mono (by decide)).trans ((State.trimPools_keeps _).mono (by decide)))

/-- A change whose plan stands gives the slot the residence asked for. -/
theorem State.changeTo_spec (s : State) (k : Nat) (want : Bool) {plan : Except AdmFault (Model × List Placed)} {m : Model}
    {l : List Placed} (h : plan = .ok (m, l)) : (s.changeTo k want plan).nat (0x4000 + k) 4 = (if want then 5 else 4)
      ∧ Keeps [.chips, .slots, .od] s (s.changeTo k want plan) := by
  subst h
  obtain ⟨hnat, hkeep⟩ := s.reside_spec k m l want
  exact ⟨((State.retier_keeps _).nat (by decide) _ _).trans hnat, hkeep.trans ((State.retier_keeps _).mono (by decide))⟩

/-! ### Eviction (R316) -/

/-- A chip that has released a slot holds neither region nor image of it. -/
theorem Chip.release_free (k : Nat) (x : Chip) : (x.release k).hasImage k = false ∧ (x.release k).region k = none := by
  have hregion : (x.release k).region k = none := by
    refine List.find?_eq_none.mpr fun r hr => ?_
    obtain ⟨q, -, rfl⟩ := List.mem_map.mp hr
    split <;> simp_all
  refine ⟨?_, hregion⟩
  rw [Chip.hasImage, hregion]
  simp [Chip.release]

/-- What a chip shows of a slot: its image and its region. -/
def Chip.shows (k : Nat) (x : Chip) : Bool × Option Region := (x.hasImage k, x.region k)

@[simp] theorem Chip.aim_shows (x : Chip) (n k : Nat) : (x.aim n).shows k = x.shows k := by rw [Chip.aim_eq]; rfl

/-- Choosing the tiers anew leaves what the chips hold of a slot. -/
theorem State.retier_shows (s : State) (k : Nat) : chipsAgree (Chip.shows k) s s.retier := by
  unfold State.retier
  split
  · exact chipsAgree.foldl (fun s c => s.modChip_agree c fun x => x.aim_shows _ k) _ s
  · exact chipsAgree.refl _ s

/-- What an issue that ends may change. -/
def endPieces : List Piece := [.cams, .chips, .draws, .groups, .issues, .jobs, .od, .tokens]

theorem State.tokenFault_keeps (s : State) (k : Nat) : Keeps [.chips, .tokens, .od] s (s.tokenFault k) := by
  unfold State.tokenFault State.tokenShut
  split <;> exact fun p hp => by cases p <;> simp at hp <;> rfl

theorem State.endIssue_keeps (s : State) (id : Nat) : Keeps endPieces s (s.endIssue id) := by
  unfold State.endIssue
  split
  · exact Keeps.refl _ s
  · next i _ =>
    split
    · exact (s.squash_keeps id).mono (by decide)
    · extract_lets s1 s2 s3 s4
      have h3 : Keeps endPieces s s3 := (((s.removeIssue_keeps id).mono (by decide)).trans ((s1.bump_keeps _ _).mono (by decide))).trans
        ((s2.release_keeps _ _ _).mono (by decide))
      have h4 : Keeps endPieces s3 s4 :=
        Keeps.ite (Keeps.foldl (fun s k => (s.tokenFault_keeps k).mono (by decide)) (Keeps.refl _ s3)) (Keeps.refl _ s3)
      exact (h3.trans h4).trans (s4.promote_keeps.mono (by decide))

/-- A slot without its model, its regions and its bundle, before its record shows it. -/
def State.emptied (s : State) (k : Nat) : State :=
  { s with
    chips := s.chips.map (Chip.release k),
    store := { s.store with flash := eraseKey k s.store.flash } }.modSlot k fun x =>
      { x with model := none, staged := none, unplaced := false, fromFlash := false }

theorem State.evict_eq (s : State) (k : Nat) : s.evict k =
    ((((s.emptied k).setNum (0x4000 + k) 4 1).setNum (0x4000 + k) 12 0).setNum (0x4000 + k) 13 0).showSlot k := rfl

theorem State.evict_shown (s : State) (k : Nat) : Keeps [.od] (s.emptied k) (s.evict k) := by
  rw [State.evict_eq]
  exact (((State.setNum_keeps _ _ _ _).trans (State.setNum_keeps _ _ _ _)).trans (State.setNum_keeps _ _ _ _)).trans
    (State.showSlot_keeps _ _)

theorem State.emptied_keeps (s : State) (k : Nat) : Keeps [.chips, .store, .slots] s (s.emptied k) := fun p hp => by
  cases p <;> simp at hp <;> rfl

theorem State.emptied_chip (s : State) (k : Nat) {c : Nat} (hc : c < 16) : (s.emptied k).chip c = (s.chip c).release k := by
  simp [State.emptied, State.chip, State.modSlot, vget, hc]

/-- An evicted slot is empty in every respect, and on every chip. -/
theorem State.evict_spec (s : State) {k : Nat} (hk : k < 256) :
    (s.evict k).nat (0x4000 + k) 4 = 1 ∧ (s.evict k).model k = none ∧ ((s.evict k).slot k).staged = none
      ∧ lookupKey k (s.evict k).store.flash = none ∧ (∀ c < 16, ((s.evict k).chip c).shows k = (false, none))
      ∧ Keeps [.chips, .store, .slots, .od] s (s.evict k) := by
  have hshown := s.evict_shown k
  have hslot := State.slot_modSlot_same { s with chips := s.chips.map (Chip.release k), store := (s.emptied k).store }
    (fun x => { x with model := none, staged := none, unplaced := false, fromFlash := false }) hk
  refine ⟨?_, ?_, ?_, ?_, fun c hc => ?_, ((s.emptied_keeps k).mono (by decide)).trans (hshown.mono (by decide))⟩
  · rw [State.evict_eq, State.showSlot_low _ _ (by decide), State.nat_setNum_ne _ _ (odKey_ne (by decide) (by decide) (Or.inr (by decide))),
      State.nat_setNum_ne _ _ (odKey_ne (by decide) (by decide) (Or.inr (by decide)))]
    exact State.nat_setNum_same _ _ _ 1
  · exact (hshown.model (by decide) k).trans (congrArg Slot.model hslot)
  · exact (congrArg Slot.staged (hshown.slot (by decide) k)).trans (congrArg Slot.staged hslot)
  · rw [hshown .store (by decide)]
    exact lookupKey_eraseKey_same k s.store.flash
  · have hchip : (s.evict k).chip c = (s.chip c).release k := (congrArg (vget · c) (hshown .chips (by decide))).trans (s.emptied_chip k hc)
    obtain ⟨himage, hregion⟩ := (s.chip c).release_free k
    rw [hchip, Chip.shows, himage, hregion]

theorem State.endSlotIssues_keeps (s : State) (k : Nat) : Keeps endPieces s (s.endSlotIssues k) :=
  Keeps.foldl (fun s i => s.endIssue_keeps i.id) (Keeps.refl _ s)

/-- The eviction of a slot: its issues end, it is emptied, and the tiers are chosen anew. -/
theorem State.evictSlot_spec (s : State) {k : Nat} (hk : k < 256) :
    (s.evictSlot k).nat (0x4000 + k) 4 = 1 ∧ (s.evictSlot k).model k = none ∧ ((s.evictSlot k).slot k).staged = none
      ∧ lookupKey k (s.evictSlot k).store.flash = none
      ∧ (∀ c < 16, ((s.evictSlot k).chip c).hasImage k = false ∧ ((s.evictSlot k).chip c).region k = none)
      ∧ Keeps (.store :: .slots :: endPieces) s (s.evictSlot k) := by
  obtain ⟨h4, hm, hs, hf, hc, hk2⟩ := (s.endSlotIssues k).evict_spec hk
  have hr := ((s.endSlotIssues k).evict k).retier_keeps
  have hshows := ((s.endSlotIssues k).evict k).retier_shows k
  refine ⟨(hr.nat (by decide) _ _).trans h4, (hr.model (by decide) k).trans hm, ?_, ?_, fun c h => ?_, ?_⟩
  · exact (congrArg Slot.staged (hr.slot (by decide) k)).trans hs
  · exact (congrArg (fun x => lookupKey k x.flash) (hr .store (by decide))).trans hf
  · exact Prod.mk.inj ((hshows c).trans (hc c h))
  · exact (((s.endSlotIssues_keeps k).mono (by decide)).trans (hk2.mono (by decide))).trans (hr.mono (by decide))

/-! ### Admission (R313, R314) -/

/-- What an admission leaves of a slot, its record and its bundle. -/
structure Admitted (s : State) (k : Nat) (m : Model) (want : Bool) (t : State) : Prop where
  state : t.nat (0x4000 + k) 4 = if want then 5 else 4
  slot : t.slot k = { s.slot k with model := some m, staged := none, unplaced := false }
  others : ∀ j, j ≠ k → t.slot j = s.slot j
  store : t.store = { s.store with flash := insertKey k m.bundle s.store.flash }
  same : sameEntries (fun i => decide (i = 0x4000 + k ∨ i = 0x2400)) s t
  keeps : Keeps [.boot, .chips, .faults, .mail, .od, .slots, .store] s t

/-- The images of a model laid into its chips, and its slot, before its record shows it. -/
def State.laid (s : State) (k : Nat) (m : Model) (want : Bool) : State :=
  ((List.range m.variant.p).foldl (fun s q => s.layPart k m want q) s).modSlot k fun x =>
    { x with model := some m, staged := none, unplaced := false }

/-- The record of a model laid into its chips. -/
def State.recordModel (s : State) (k : Nat) (m : Model) (want : Bool) : State :=
  ((s.setNum (0x4000 + k) 4 (if want then 5 else 4)).setNum (0x4000 + k) 12 (bundleModelId m.bundle)).setNum (0x4000 + k) 13
    (bundleVersion m.bundle)

theorem State.layModel_eq (s : State) (k : Nat) (m : Model) (want : Bool) :
    s.layModel k m want = (((s.laid k m want).recordModel k m want).showSlot k).trimPools := rfl

theorem State.recordModel_spec (s : State) (k : Nat) (m : Model) (want : Bool) :
    (s.recordModel k m want).nat (0x4000 + k) 4 = (if want then 5 else 4)
      ∧ sameEntries (fun i => decide (i = 0x4000 + k)) s (s.recordModel k m want) ∧ Keeps [.od] s (s.recordModel k m want) := by
  refine ⟨?_, ((s.setNum_own _ _ (by decide)).trans (State.setNum_own _ _ _ (by decide))).trans (State.setNum_own _ _ _ (by decide)),
    ((State.setNum_keeps _ _ _ _).trans (State.setNum_keeps _ _ _ _)).trans (State.setNum_keeps _ _ _ _)⟩
  refine (State.nat_setNum_ne _ _ (odKey_ne (by decide) (by decide) (Or.inr (by decide)))).trans
    ((State.nat_setNum_ne _ _ (odKey_ne (by decide) (by decide) (Or.inr (by decide)))).trans ?_)
  cases want <;> exact State.nat_setNum_same _ _ _ _

/-- A model laid into its chips: its slot and its record. -/
theorem State.layModel_spec (s : State) {k : Nat} (hk : k < 256) (m : Model) (want : Bool) :
    (s.layModel k m want).nat (0x4000 + k) 4 = (if want then 5 else 4)
      ∧ (s.layModel k m want).slot k = { s.slot k with model := some m, staged := none, unplaced := false }
      ∧ (∀ j, j ≠ k → (s.layModel k m want).slot j = s.slot j)
      ∧ sameEntries (fun i => decide (i = 0x4000 + k)) s (s.layModel k m want) := by
  let s1 := (List.range m.variant.p).foldl (fun s q => s.layPart k m want q) s
  have h1 : Keeps [.chips] s s1 := Keeps.foldl (fun s q => s.layPart_keeps k m want q) (Keeps.refl _ s)
  obtain ⟨h4, hsame, h3⟩ := (s.laid k m want).recordModel_spec k m want
  have htrim := (((s.laid k m want).recordModel k m want).showSlot k).trimPools_keeps
  have hslots : Keeps [.od, .chips] (s.laid k m want) (s.layModel k m want) :=
    ((h3.mono (by decide)).trans ((State.showSlot_keeps _ k).mono (by decide))).trans (htrim.mono (by decide))
  refine ⟨?_, ?_, fun j hj => ?_, ?_⟩
  · rw [State.layModel_eq, htrim.nat (by decide), State.showSlot_low _ _ (by decide), h4]
  · rw [hslots.slot (by decide), ← h1.slot (by decide)]
    exact State.slot_modSlot_same s1 _ hk
  · rw [hslots.slot (by decide), ← h1.slot (by decide)]
    exact State.slot_modSlot_ne s1 _ hj
  · exact ((h1.sameEntries (by decide) _).trans (sameEntries.of_od (t := s.laid k m want) rfl)).trans
      (hsame.trans ((State.showSlot_same _ k).trans (htrim.sameEntries (by decide) _)))

/-- What follows an admission and touches neither slots nor store nor, beside the counters of OD 0x2400, entries. -/
theorem Admitted.after {s t u : State} {k : Nat} {m : Model} {want : Bool} (h : Admitted s k m want t)
    (hk : Keeps [.boot, .chips, .faults, .mail, .od] t u) (hs : sameEntries (fun i => decide (i = 0x2400)) t u) (hlt : k < 256) :
    Admitted s k m want u where
  state := (hs.nat (by decide) (decide_eq_false (by omega))).trans h.state
  slot := (hk.slot (by decide) k).trans h.slot
  others j hj := (hk.slot (by decide) j).trans (h.others j hj)
  store := (hk .store (by decide)).trans h.store
  same := h.same.trans (hs.mono fun i hi => by simp_all)
  keeps := h.keeps.trans (hk.mono (by decide))

/-- The bundle of a slot kept in model flash (R315). -/
def State.keepBundle (s : State) (k : Nat) (m : Model) : State :=
  { s with store := { s.store with flash := insertKey k m.bundle s.store.flash } }

theorem State.keepBundle_keeps (s : State) (k : Nat) (m : Model) : Keeps [.store] s (s.keepBundle k m) := fun p hp => by
  cases p <;> simp at hp <;> rfl

/-- The event of a tight fit comes last (R321). -/
theorem State.admitted_cases (s : State) (k : Nat) (m : Model) (want : Bool) :
    s.admitted k m want = (s.layModel k m want).keepBundle k m
      ∨ ∃ r, s.admitted k m want = ((s.layModel k m want).keepBundle k m).post r := by
  unfold State.admitted
  dsimp only
  split
  · exact Or.inr ⟨_, rfl⟩
  · exact Or.inl rfl

/-- A model admitted is laid into its chips, kept in model flash, and the tiers are chosen anew. -/
theorem State.admitted_spec (s : State) {k : Nat} (hk : k < 256) (m : Model) (want : Bool) :
    Admitted s k m want (s.admitted k m want).retier := by
  obtain ⟨h4, hslot, hothers, hsame⟩ := s.layModel_spec hk m want
  have hkeep := s.layModel_keeps k m want
  have hflash := (s.layModel k m want).keepBundle_keeps k m
  have hlaid : Admitted s k m want ((s.layModel k m want).keepBundle k m) :=
    { state := (hflash.nat (by decide) _ _).trans h4
      slot := (hflash.slot (by decide) k).trans hslot
      others := fun j hj => (hflash.slot (by decide) j).trans (hothers j hj)
      store := by rw [State.keepBundle, hkeep .store (by decide)]
      same := (hsame.mono fun i hi => by simp_all).trans (hflash.sameEntries (by decide) _)
      keeps := (hkeep.mono (by decide)).trans (hflash.mono (by decide)) }
  have hevent : Admitted s k m want (s.admitted k m want) := by
    rcases s.admitted_cases k m want with e | ⟨r, e⟩
    · rw [e]
      exact hlaid
    · rw [e]
      exact hlaid.after ((State.post_keeps _ r).mono (by decide)) (State.post_same _ r) hk
  exact hevent.after ((State.retier_keeps _).mono (by decide)) ((State.retier_keeps _).sameEntries (by decide) _) hk

/-- A refusal: the slot is staged again, with the fault in its record and in OD 0x2401. -/
theorem State.refuseAdmission_spec (s : State) {k : Nat} (f : AdmFault) :
    (s.refuseAdmission k f).nat (0x4000 + k) 4 = 2 ∧ (s.refuseAdmission k f).nat (0x4000 + k) 15 = f.code
      ∧ (s.refuseAdmission k f).faults.refusal.code = f.code
      ∧ sameEntries (fun i => decide (i = 0x4000 + k ∨ i = 0x2400)) s (s.refuseAdmission k f)
      ∧ Keeps [.boot, .faults, .mail, .od] s (s.refuseAdmission k f) := by
  unfold State.refuseAdmission
  extract_lets i t r s1 d
  have hpost := s1.post_same r
  have hk1 : Keeps [.od] s s1 := ((s.setNum_keeps _ _ _).trans (State.setNum_keeps _ _ _ _)).trans (State.setNum_keeps _ _ _ _)
  have hrecord : sameEntries (fun a => decide (a = i)) s s1 :=
    ((s.setNum_own _ _ (by decide)).trans (State.setNum_own _ _ _ (by decide))).trans (State.setNum_own _ _ _ (by decide))
  have shown (u : State) (d : Deny) (j : Nat) : (u.refuseLate d).nat i j = u.nat i j := rfl
  have hi : (fun i => decide (i = 0x2400)) i = false := decide_eq_false (by simp only [i]; omega)
  refine ⟨?_, ?_, rfl, ?_, ?_⟩
  · rw [shown, hpost.nat (by decide) hi]
    exact (State.nat_setNum_ne _ _ (odKey_ne (by decide) (by decide) (Or.inr (by decide)))).trans
      ((State.nat_setNum_ne _ _ (odKey_ne (by decide) (by decide) (Or.inr (by decide)))).trans (State.nat_setNum_same _ _ _ 2))
  · rw [shown, hpost.nat (by decide) hi]
    exact (State.nat_setNum_ne _ _ (odKey_ne (by decide) (by decide) (Or.inr (by decide)))).trans (State.nat_setNum_same _ _ _ f.code)
  · exact (hrecord.mono fun a ha => by simp_all [i]).trans
      ((hpost.mono fun i hi => by simp_all).trans (sameEntries.of_od rfl))
  · exact ((hk1.mono (by decide)).trans ((s1.post_keeps r).mono (by decide))).trans
      ((keeps_faults _ _).mono (by decide))

/-! ### Models of model flash admitted again (R315, R501) -/

/-- A bundle opens by the entries, the fuses and the tenants of a state. -/
theorem Keeps.openBundle {l : List Piece} {s t : State} (h : Keeps l s t) (hod : Piece.od ∉ l) (hboot : Piece.boot ∉ l)
    (hten : Piece.tenants ∉ l) (k : Nat) (b : List Byte) : t.openBundle k b = s.openBundle k b := by
  have hbytes (i j : Nat) : t.bytes i j = s.bytes i j := by
    have hget : t.get i j = s.get i j := congrArg (fun o => OdStore.get o i j) (h .od hod)
    simp only [State.bytes, hget]
  have hb : t.boot = s.boot := h .boot hboot
  simp only [State.openBundle, h.nat hod, hbytes, hb, h.tenant hten]

/-- The first slot to admit again is taken from its queue, and its slot marked as one of model flash. -/
def State.readmitting (s : State) (k : Nat) : State :=
  { s with store := { s.store with readmit := s.store.readmit.drop 1 } }.modSlot k fun x => { x with fromFlash := true }

theorem State.readmitting_keeps (s : State) (k : Nat) : Keeps [.store, .slots] s (s.readmitting k) := fun p hp => by
  cases p <;> simp at hp <;> rfl

theorem State.readmitting_slot (s : State) {k : Nat} (hk : k < 256) :
    (s.readmitting k).slot k = { s.slot k with fromFlash := true } :=
  State.slot_modSlot_same { s with store := (s.readmitting k).store } _ hk

theorem State.readmitting_other (s : State) {k j : Nat} (h : j ≠ k) : (s.readmitting k).slot j = s.slot j :=
  State.slot_modSlot_ne { s with store := (s.readmitting k).store } _ h

/-- A placed model whose bundle opens and whose descriptors pass is admitted with the residence that its record shows. -/
theorem State.readmitEnd_places {s : State} {k : Nat} (hk : k < 256) {m : Model} {secs : List (Section × List Byte)}
    (hstep : s.power.step = 13) (hhead : s.store.readmit.head? = some k) (hm : s.model k = some m)
    (hu : (s.slot k).unplaced = false) (hopen : s.openBundle k m.bundle = .ok secs)
    (htable : tableFault m.variant (s.nat (0x4000 + k) 1) k m.placed = none) :
    s.readmitEnd k = ((s.readmitting k).admitted k m (s.resident k)).retier := by
  have hr := s.readmitting_keeps k
  have hslot := s.readmitting_slot hk
  have hm1 : (s.readmitting k).model k = some m := (congrArg Slot.model hslot).trans hm
  have hu1 : ((s.readmitting k).slot k).unplaced = false := (congrArg Slot.unplaced hslot).trans hu
  have hopen1 : (s.readmitting k).openBundle k m.bundle = .ok secs :=
    (hr.openBundle (by decide) (by decide) (by decide) k m.bundle).trans hopen
  have htable1 : tableFault m.variant ((s.readmitting k).nat (0x4000 + k) 1) k m.placed = none := by rwa [hr.nat (by decide)]
  have hgo : ¬ (s.store.readmit.head? ≠ some k ∨ s.power.step ≠ 13) := by simp [hhead, hstep]
  unfold State.readmitEnd
  rw [if_neg hgo]
  extract_lets store s1 s2
  rw [show s2 = s.readmitting k from rfl]
  simp only [hm1, hu1, hopen1, htable1, Bool.false_eq_true, if_false]
  rfl

theorem State.admissionEnd_selfTest {s : State} (k : Nat) (h : s.tray = .selfTest) : s.admissionEnd k = s.readmitEnd k := if_pos h

theorem State.admissionEnd_ok {s : State} {k : Nat} {m : Model} (ht : s.tray ≠ .selfTest) (h3 : s.nat (0x4000 + k) 4 = 3)
    (hj : s.judge k ((s.slot k).staged.getD []) (s.flag (0x4000 + k) 5) = .ok m) :
    s.admissionEnd k = (s.admitted k m (s.flag (0x4000 + k) 5)).retier := by
  simp only [State.admissionEnd, if_neg ht, h3, ne_eq, not_true_eq_false, if_false, hj]

theorem State.admissionEnd_error {s : State} {k : Nat} {f : AdmFault} (ht : s.tray ≠ .selfTest) (h3 : s.nat (0x4000 + k) 4 = 3)
    (hj : s.judge k ((s.slot k).staged.getD []) (s.flag (0x4000 + k) 5) = .error f) : s.admissionEnd k = s.refuseAdmission k f := by
  simp only [State.admissionEnd, if_neg ht, h3, ne_eq, not_true_eq_false, if_false, hj]

/-- Whether a job or a session names a slot does not change by a request. -/
@[simp] theorem State.asked_slotNamed (s : State) (n : Net) (k : Nat) : (s.asked n).slotNamed k = s.slotNamed k := by
  have hjobs : (s.asked n).enabledJobs = s.enabledJobs := by rw [State.enabledJobs, State.asked_od]; rfl
  have hdesc (t j : Nat) : (s.asked n).jobDesc t j = s.jobDesc t j := (s.asked_keeps n).jobDesc (by decide) t j
  simp only [State.slotNamed, State.tokensOf, hjobs, hdesc, State.asked_nat]

/-- A slot that an enabled job or an open session names is not evicted, whatever its state. -/
theorem State.evictDeny_named {s : State} {k : Nat} (h : s.slotNamed k = true) : s.evictDeny k = some (notNow (0x4000 + k) 3) := by
  unfold State.evictDeny State.slotIn
  rw [h]
  split <;> rfl

theorem State.admitDeny_none {s : State} {k : Nat} (h : s.admitDeny k = none) : s.nat (0x4000 + k) 4 = 2 := by
  unfold State.admitDeny at h
  split at h
  · exact List.mem_singleton.mp (State.slotIn_none h)
  · cases h

/-- A residence change that is accepted: the state of the slot before it and after it, and what it leaves. -/
theorem State.changed_answered {s : State} {n : Net} {k from_ : Nat} {want : Bool} {plan : Except AdmFault (Model × List Placed)}
    (h : (s.asked n).changeDeny k from_ plan = none) :
    let t := ((s.asked n).changeTo k want plan).answer n .ok
    s.nat (0x4000 + k) 4 = from_ ∧ t.nat (0x4000 + k) 4 = (if want then 5 else 4) ∧ t.answered n
      ∧ Keeps [.od, .chips, .slots, .mail] s t := by
  obtain ⟨hfrom, m, l, hplan⟩ := State.changeDeny_none h
  obtain ⟨hnat, hkeep⟩ := (s.asked n).changeTo_spec k want hplan
  exact ⟨(s.asked_nat n _ _).symm.trans hfrom, hnat, State.answer_answered _ n, hkeep.taken.mono (by decide)⟩

/-- A staged bundle discarded. -/
theorem State.discard_spec (s : State) {k : Nat} (hk : k < 256) :
    (s.discard k).nat (0x4000 + k) 4 = 1 ∧ ((s.discard k).slot k).staged = none ∧ Keeps [.od, .slots] s (s.discard k) :=
  ⟨State.nat_setNum_same _ _ _ 1, congrArg Slot.staged (State.slot_modSlot_same s _ hk),
    ((keeps_slots s _).mono (by decide)).trans ((State.setNum_keeps _ _ _ _).mono (by decide))⟩

/-- Settles O47: what each command, the end of a download and the end of an admission leave of a slot. -/
theorem slotsAdmitAndEvict : Obligations.SlotsAdmitAndEvict := by
  unfold Obligations.SlotsAdmitAndEvict
  intro s k hk
  refine ⟨fun n hd hf => ?_, fun n x hd hf hx hw hi => ?_, fun n h => ?_, fun m ht h3 hj => ?_, fun f ht h3 hj => ?_,
    fun m secs ht hstep hhead hm hu hopen htable => ?_, fun n h => ?_, fun n hs hd hnamed => ?_, fun n h => ?_, fun n h => ?_,
    fun n h => ?_⟩
  · obtain ⟨h1, h2, h3, h4, h5, h6, h7⟩ := s.staged_answered hk (s.box n).foeData n fun b => { b with foe := none, foeData := [] }
    exact ⟨_, congrArg Host.Outcome.next (State.bundleEnd_foe hd hf), h1, h2, h3, h4, by rw [h5], h6, h7⟩
  · obtain ⟨h1, h2, h3, h4, h5, h6, h7⟩ := s.staged_answered hk x.data n fun b => { b with xfer := none }
    exact ⟨_, congrArg Host.Outcome.next (State.bundleEnd_xfer hd hf hx hw hi), h1, h2, h3, h4, by rw [h5], h6, h7⟩
  · refine ⟨_, congrArg Host.Outcome.next (State.slotWrite_accepted h), ?_, State.nat_setNum_same _ _ _ 3, State.answer_answered _ n,
      ?_, ((s.asked n).setNum_keeps (0x4000 + k) 4 3).taken.mono (by decide)⟩
    · exact (s.asked_nat n _ _).symm.trans (State.admitDeny_none (State.check_of_accepts h))
    · exact (sameEntries.of_od (s.asked_od n)).trans (State.setNum_own _ _ 3 (by decide))
  · have ha := s.admitted_spec hk m (s.flag (0x4000 + k) 5)
    refine ⟨_, congrArg Host.Outcome.next (State.admissionEnd_ok ht h3 hj), ha.state, ?_, ?_, ha.others, ha.same, ha.keeps⟩
    · rw [State.model, ha.slot]
    · rw [ha.store]
      exact lookupKey_insertKey_same _ _ _
  · exact ⟨_, congrArg Host.Outcome.next (State.admissionEnd_error ht h3 hj), s.refuseAdmission_spec f⟩
  · have ha := (s.readmitting k).admitted_spec hk m (s.resident k)
    have hrun := (State.admissionEnd_selfTest k ht).trans (State.readmitEnd_places hk hstep hhead hm hu hopen htable)
    refine ⟨_, congrArg Host.Outcome.next hrun, ?_, ?_, ha.state, ?_, fun j hne => (ha.others j hne).trans (s.readmitting_other hne),
      ((s.readmitting_keeps k).mono (by decide)).trans ha.keeps⟩
    · rw [ha.store]
      rfl
    · rw [State.model, ha.slot]
    · rw [ha.slot]
  · obtain ⟨h4, hm, hs, hf, hc, hkeep⟩ := (s.asked n).evictSlot_spec hk
    exact ⟨_, congrArg Host.Outcome.next (State.slotWrite_accepted h), h4, hm, hs, hf, hc, State.answer_answered _ n,
      hkeep.taken.mono (by decide)⟩
  · have hdeny : (s.asked n).slotDeny k 2 = some (notNow (0x4000 + k) 3) := State.evictDeny_named (by rwa [State.asked_slotNamed])
    obtain ⟨ha, hkeep⟩ := State.write_refused (c := fun s => s.slotDeny k 2) (fun s => s.slotDo k 2)
      (State.rejects_check hs hd hdeny) rfl
    exact ⟨_, congrArg Host.Outcome.next (State.slotWrite_plain (by decide)), ha, hkeep⟩
  · obtain ⟨h1, h2, h3, h4⟩ := State.changed_answered (want := true) (State.check_of_accepts h)
    exact ⟨_, congrArg Host.Outcome.next (State.slotWrite_accepted h), h1, h2, h3, h4⟩
  · obtain ⟨h1, h2, h3, h4⟩ := State.changed_answered (want := false) (State.check_of_accepts h)
    exact ⟨_, congrArg Host.Outcome.next (State.slotWrite_accepted h), h1, h2, h3, h4⟩
  · obtain ⟨h4, hs, hkeep⟩ := (s.asked n).discard_spec hk
    refine ⟨_, congrArg Host.Outcome.next (State.slotWrite_accepted h), ?_, h4, hs, State.answer_answered _ n,
      hkeep.taken.mono (by decide)⟩
    exact (s.asked_nat n _ _).symm.trans (List.mem_singleton.mp (State.slotIn_none (State.check_of_accepts h)))

end Sys2Proof.Machine
end
section
/-! PROOFS. Entry into watching and into learning (R29, R43, R336 to R339, Table 1.9). -/

namespace Sys2Proof.Machine

/-! ### Command 0x01: entry into watching -/

/-- What entry into watching may change. -/
def watchPieces : List Piece := [.od, .tray, .power, .boot, .mail, .cams, .ports, .chips, .faults]

theorem State.modPower_keeps (s : State) (f : Power → Power) : Keeps [.power] s (s.modPower f) := fun p hp => by
  cases p <;> simp at hp <;> rfl

theorem State.supply_keeps (s : State) (c : Nat) (on : Bool) : Keeps [.power, .cams] s (s.supply c on) := by
  have hp : Keeps [.power, .cams] s (s.modPower fun p => { p with extOn := vset p.extOn c on }) :=
    (s.modPower_keeps _).mono (by decide)
  exact Keeps.ite (hp.trans ((State.modCam_keeps _ _ _).mono (by decide))) hp

/-- A camera switched on by entry into watching changes cameras and supplies alone. -/
theorem State.cameraOn_keeps (s : State) (k : Nat) : Keeps [.power, .cams] s (s.cameraOn k) :=
  Keeps.ite ((s.supply_keeps (13 + k) true).trans ((State.modCam_keeps _ _ _).mono (by decide))) (Keeps.refl _ s)

/-- After the change of the tray state, entry into watching goes on with cameras, ports and tiers. -/
theorem State.startWatch_prepares (s : State) : Keeps [.power, .cams, .ports, .chips] (s.enter .watching) s.startWatch := by
  have hcams := ((s.enter .watching).cameraOn_keeps 0).trans (State.cameraOn_keeps _ 1)
  exact ((hcams.mono (by decide)).trans ((keeps_ports _ _).mono (by decide))).trans ((State.retier_keeps _).mono (by decide))

theorem State.startWatch_keeps (s : State) : Keeps watchPieces s s.startWatch :=
  ((s.enter_keeps .watching).mono (by decide)).trans (s.startWatch_prepares.mono (by decide))

@[simp] theorem State.startWatch_tray (s : State) : s.startWatch.tray = .watching :=
  (s.startWatch_prepares .tray (by decide)).trans (s.enter_tray _)

/-! ### Changes that leave the firmware of the boot -/

/-- From `s` to `t` nothing but pieces of `l` has changed, and the firmware of the boot has not. -/
structure SameFirmware (l : List Piece) (s t : State) : Prop where
  keeps : Keeps l s t
  firmware : t.boot.firmware = s.boot.firmware

theorem SameFirmware.refl (l : List Piece) (s : State) : SameFirmware l s s := ⟨Keeps.refl l s, rfl⟩

theorem SameFirmware.trans {l : List Piece} {r s t : State} (h1 : SameFirmware l r s) (h2 : SameFirmware l s t) :
    SameFirmware l r t := ⟨h1.keeps.trans h2.keeps, h2.firmware.trans h1.firmware⟩

theorem SameFirmware.mono {k l : List Piece} {s t : State} (h : SameFirmware k s t) (hs : within k l = true) : SameFirmware l s t :=
  ⟨h.keeps.mono hs, h.firmware⟩

theorem SameFirmware.ite {l : List Piece} {s t u : State} {c : Prop} [Decidable c] (ht : SameFirmware l s t)
    (hu : SameFirmware l s u) : SameFirmware l s (if c then t else u) := by
  split
  · exact ht
  · exact hu

/-- A change that does not reach the boot leaves its firmware. -/
theorem Keeps.sameFirmware {k l : List Piece} {s t : State} (h : Keeps k s t) (hb : Piece.boot ∉ k) (hs : within k l = true) :
    SameFirmware l s t := ⟨h.mono hs, congrArg Boot.firmware (h .boot hb)⟩

theorem State.raise_sameFirmware (s : State) (a b c d : Nat) : SameFirmware [.od, .boot, .mail, .faults] s (s.raise a b c d) :=
  ⟨s.raise_keeps a b c d, s.post_firmware _⟩

theorem State.enter_sameFirmware (s : State) (d : TrayState) : SameFirmware [.od, .tray, .boot, .mail, .faults] s (s.enter d) :=
  ⟨s.enter_keeps d, State.post_firmware _ _⟩

theorem State.review_sameFirmware (s : State) : SameFirmware viewPieces s s.review := by
  refine ⟨s.review_keeps, ?_⟩
  unfold State.review
  split
  · rfl
  · extract_lets s1 l changed st p s2
    have h2 : s2.boot.firmware = s.boot.firmware := rfl
    split
    · exact (s2.raise_sameFirmware _ _ _ _).firmware.trans h2
    · exact h2

/-- Tiers and view chosen anew leave the firmware. -/
theorem State.settled_sameFirmware (s : State) : SameFirmware (.chips :: viewPieces) s (s.retier).review :=
  (s.retier_keeps.sameFirmware (by decide) (by decide)).trans ((State.review_sameFirmware _).mono (by decide))

/-! ### What command 0x03 sets up (R337 to R339) -/

theorem State.modLearn_keeps (s : State) (f : Learn → Learn) : Keeps [.learn] s (s.modLearn f) := keeps_learn s _

theorem State.placeCopy_keeps {s t : State} {m : Model} (h : s.placeCopy m = some t) : Keeps [.chips, .learn] s t := by
  unfold State.placeCopy at h
  split at h
  · cases h
  · extract_lets lay s1 at h
    cases h
    have h1 : Keeps [.chips] s s1 := Keeps.foldl (fun s q => by
      unfold lay
      split
      · exact Keeps.refl _ s
      · exact keeps_chips s _) (Keeps.refl _ s)
    exact ((h1.mono (by decide)).trans ((s1.modLearn_keeps _).mono (by decide))).trans
      ((State.trimPools_keeps _).mono (by decide))

/-- Copies are laid into the chips, whatever their number. -/
theorem State.placeCopies_keeps {s t : State} {m : Model} {n : Nat} (h : s.placeCopies m n = some t) :
    Keeps [.chips, .learn] s t := by
  induction n generalizing t with
  | zero =>
    cases h
    exact (s.modLearn_keeps _).mono (by decide)
  | succ n ih =>
    obtain ⟨r, hr, ht⟩ := Option.bind_eq_some_iff.mp h
    exact (ih hr).trans (State.placeCopy_keeps ht)

/-- Where `o` is a state at all, it differs from `s` at most in pieces of `l`. -/
def KeepsIfSome (l : List Piece) (s : State) (o : Option State) : Prop := ∀ t, o = some t → Keeps l s t

theorem KeepsIfSome.some_refl (l : List Piece) (s : State) : KeepsIfSome l s (some s) := fun _ e =>
  Option.some.inj e ▸ Keeps.refl l s

/-- Windows are laid chip by chip, for each copy in turn. -/
theorem State.layWindows_keeps {s t : State} (h : s.layWindows = some t) : Keeps [.chips] s t := by
  refine List.foldlRecOn (motive := KeepsIfSome [.chips] s) _ _ (KeepsIfSome.some_refl _ s) (fun o ho chips _ => ?_) t h
  refine List.foldlRecOn (motive := KeepsIfSome [.chips] s) _ _ ho (fun o ho x _ t ht => ?_)
  obtain ⟨r, hr, ht⟩ := Option.bind_eq_some_iff.mp ht
  split at ht
  · cases ht
  · cases ht
    exact (ho r hr).trans (keeps_chips r _)

/-- A plan for learning places copies and windows in the chips, and changes nothing else. -/
theorem State.learnPlan_keeps {s t : State} (h : s.learnPlan = .ok t) : Keeps [.chips, .learn] s t := by
  unfold State.learnPlan at h
  split at h
  · cases h
  · split at h
    · cases h
    · split at h
      · cases h
      · split at h
        · cases h
        · next r hcopies =>
          extract_lets r1 at h
          have h1 : Keeps [.chips, .learn] s r1 := (State.placeCopies_keeps hcopies).trans ((r.modLearn_keeps _).mono (by decide))
          split at h
          · cases h
          · next u hlaid =>
            extract_lets need commit at h
            have h2 : Keeps [.chips, .learn] s u := h1.trans ((State.layWindows_keeps hlaid).mono (by decide))
            split at h
            · cases h
            · split at h
              · cases h
              · cases h
                exact Keeps.ite (Keeps.refl _ s) h2

/-! ### Latents at the start of learning (R353, R400, R518) -/

/-- What the latents of a start of learning may change. -/
def latentPieces : List Piece := [.od, .boot, .mail, .faults, .chips, .learn, .slots]

theorem State.takeShards_keeps (s : State) (lat mom : LayerRec → List Nat) : Keeps [.learn] s (s.takeShards lat mom) :=
  s.modLearn_keeps _

theorem State.formAll_keeps (s : State) (lat : LayerRec → List Nat) : Keeps [.chips, .learn, .slots] s (s.formAll lat) :=
  Keeps.foldl (fun s _ => Keeps.forEach (fun s _ => Keeps.foldl (fun s _ => s.landRows_keeps _) (Keeps.refl _ s)) (Keeps.refl _ s))
    (Keeps.refl _ s)

theorem State.setNum_setNum_keeps (s : State) (i a b : Nat) (u v : Int) : Keeps [.od] s ((s.setNum i a u).setNum i b v) :=
  (s.setNum_keeps i a u).trans (State.setNum_keeps _ i b v)

/-- A checkpoint loaded leaves the firmware: of the boot it touches the records alone. -/
theorem State.loadCkpt_sameFirmware (s : State) (c : Checkpoint) : SameFirmware latentPieces s (s.loadCkpt c) := by
  unfold State.loadCkpt
  extract_lets s1 whole same s2 s3 s4 s5
  have h1 : Keeps [.learn] s s1 := s.modLearn_keeps _
  have h3 : Keeps [.learn] s s3 := (h1.trans (s1.takeShards_keeps _ _)).trans (s2.modLearn_keeps _)
  have h4 : Keeps [.od, .learn] s s4 := (h3.mono (by decide)).trans
    (((s3.setNum_setNum_keeps _ _ _ _ _).trans (State.setNum_keeps _ _ _ _)).mono (by decide))
  have h5 : SameFirmware latentPieces s4 s5 := SameFirmware.ite (SameFirmware.refl _ s4)
    (((s4.modLearn_keeps _).sameFirmware (by decide) (by decide)).trans ((State.raise_sameFirmware _ _ _ _ _).mono (by decide)))
  exact ((h4.sameFirmware (by decide) (by decide)).trans h5).trans ((s5.formAll_keeps _).sameFirmware (by decide) (by decide))

/-- Learning starts from the latents held, from a checkpoint, or from the bundle. -/
theorem State.beginLearning_sameFirmware (s : State) (q : Nat) : SameFirmware latentPieces s (s.beginLearning q) := by
  unfold State.beginLearning
  split
  · exact SameFirmware.refl _ s
  · extract_lets id s1 s2
    have h1 : Keeps [.od, .learn] s s1 := Keeps.ite (Keeps.refl _ s) ((s.modLearn_keeps _).mono (by decide))
    have h2 : Keeps [.od, .learn] s1 s2 := Keeps.ite ((s1.setNum_setNum_keeps _ _ _ _ _).mono (by decide)) (Keeps.refl _ s1)
    refine (h1.sameFirmware (by decide) (by decide)).trans (SameFirmware.ite (SameFirmware.refl _ s1) (SameFirmware.ite ?_ ?_))
    · split
      · exact s1.loadCkpt_sameFirmware _
      · exact ((s1.takeShards_keeps _ _).sameFirmware (by decide) (by decide)).trans
          ((State.setNum_setNum_keeps _ _ _ _ _ _).sameFirmware (by decide) (by decide))
    · exact (h2.sameFirmware (by decide) (by decide)).trans (SameFirmware.ite
        ((s2.takeShards_keeps _ _).sameFirmware (by decide) (by decide)) (SameFirmware.refl _ s2))

/-! ### Command 0x03: entry into learning -/

/-- What entry into learning may change. -/
def learnPieces : List Piece := .learn :: .slots :: enterPieces

theorem State.startLearn_of_plan {s t : State} (h : s.learnPlan = .ok t) :
    s.startLearn = (((t.enter .learning).beginLearning s.learn.q).retier).review := by
  rw [State.startLearn, h]

/-- Where there is a plan, command 0x03 enters learning. -/
theorem State.startLearn_enters {s t : State} (h : s.learnPlan = .ok t) :
    s.startLearn.tray = .learning ∧ SameFirmware learnPieces s s.startLearn := by
  rw [State.startLearn_of_plan h]
  have hplan := (State.learnPlan_keeps h).sameFirmware (l := learnPieces) (by decide) (by decide)
  have henter := t.enter_sameFirmware .learning
  have hbegin := (t.enter .learning).beginLearning_sameFirmware s.learn.q
  have hsettle := ((t.enter .learning).beginLearning s.learn.q).settled_sameFirmware
  refine ⟨?_, ((hplan.trans (henter.mono (by decide))).trans (hbegin.mono (by decide))).trans
    (hsettle.mono (by decide))⟩
  exact (hsettle.keeps .tray (by decide)).trans ((hbegin.keeps .tray (by decide)).trans (t.enter_tray _))

/-- A command 0x03 that is taken has its plan (R336 to R339). -/
theorem State.plan_of_takes {s : State} {n : Net} (h : s.takes n 3) : ∃ t, (s.asked n).learnPlan = .ok t := by
  obtain ⟨hcommand, hvalid⟩ := State.valid_of_takes h
  have hcheck : (s.asked n).commandCheck 3 = none := by
    have hdeny := State.check_of_accepts h
    rwa [State.commandDeny, if_neg (by decide), if_neg (by simpa [hcommand] using hvalid)] at hdeny
  unfold State.commandCheck at hcheck
  cases hplan : (s.asked n).learnPlan with
  | ok t => exact ⟨t, rfl⟩
  | error e => simp [hplan] at hcheck

/-- Settles O14: each command by what its effect keeps, on the state in which the request was judged. -/
theorem watchingAndLearningEntered : Obligations.WatchingAndLearningEntered := by
  unfold Obligations.WatchingAndLearningEntered
  intro s n
  refine ⟨fun h => ?_, fun h => ?_⟩
  · exact ⟨(s.asked n).startWatch.answer n .ok, congrArg Host.Outcome.next (State.commandWrite_of_takes h),
      by simpa [State.commandValid] using (State.valid_of_takes h).2, by simp, by simp,
      (s.asked n).startWatch_keeps.taken.mono (by decide)⟩
  · obtain ⟨t, hplan⟩ := State.plan_of_takes h
    obtain ⟨htray, hkeep, hfirm⟩ := State.startLearn_enters hplan
    have hbanks : (s.asked n).startLearn.boot.banks = (s.asked n).boot.banks := congrArg (fun f => f.2.1) hfirm
    exact ⟨(s.asked n).startLearn.answer n .ok, congrArg Host.Outcome.next (State.commandWrite_of_takes h),
      by simpa [State.commandValid] using (State.valid_of_takes h).2, by simpa using htray, by simp,
      by simpa using hbanks, hkeep.taken .shafts (by decide), hkeep.taken .jobs (by decide), hkeep.taken .tenants (by decide)⟩

end Sys2Proof.Machine
end

section
/-! PROOFS. A peer that is not heard while a pause of the step timeout has outlived its retransmissions (R373, R382, R419). -/

namespace Sys2Proof.Machine

/-- The health timeout of a peer past its 16 heartbeat intervals ends with the pause of the step timeout judged anew. -/
theorem peerHealthTimeout_late {s : State} {p m : Nat} (hheard : (s.peer p).heard = some m) (hin : s.inParish = true)
    (hlate : m + 16 * s.beat < s.micros) : exec (.peerHealthTimeout p) s = .next (s.losePeer p).pauseStep := by
  show execPeerHealthTimeout p s = _
  simp only [execPeerHealthTimeout, hheard, hin, hlate, decide_true, Bool.and_true, if_true]

/-- A peer that is not healthy cannot be lost again. -/
theorem State.losePeer_unhealthy {s : State} {p : Nat} (h : (s.peer p).healthy = false) : s.losePeer p = s := by
  simp [State.losePeer, h]

/-- A tray of a parish whose peers are all unhealthy and were last heard at its start. The step timeout is paused, though no frame
is being sent again. -/
def pausedState : State :=
  { State.reset.setNum 0x2800 1 1 with
    timebase := 1000000000000
    parish := { peers := Vector.replicate 64 { heard := some 0 }, timerFrom := some 0, pauseFrom := some 0 } }

theorem pausedState_late : (pausedState.peer 2).heard = some 0 ∧ (pausedState.peer 2).healthy = false
    ∧ pausedState.inParish = true ∧ 0 + 16 * pausedState.beat < pausedState.micros := by decide +kernel

/-- The pause is over. -/
theorem pausedState_resumes : pausedState.parish.pauseFrom = some 0 ∧ pausedState.pauseStep.parish.pauseFrom = none := by
  decide +kernel

/-- Refutes O51: the health timeout of an unhealthy peer that has long not been heard does change the state. It loses no peer, but it
judges the pause of the step timeout anew, and here ends one that no live retransmission stands behind. -/
theorem not_parishSeats : ¬ Obligations.ParishSeats := by
  unfold Obligations.ParishSeats
  intro h
  obtain ⟨hheard, hunhealthy, hin, hlate⟩ := pausedState_late
  obtain ⟨hbefore, hafter⟩ := pausedState_resumes
  obtain ⟨-, -, -, -, -, -, hclause, -⟩ := h pausedState
  have hsame : pausedState.pauseStep = pausedState := by
    have hexec := (peerHealthTimeout_late hheard hin hlate).symm.trans (hclause 2 0 hheard (Or.inr hunhealthy))
    rw [State.losePeer_unhealthy hunhealthy] at hexec
    exact Host.Outcome.next.inj hexec
  rw [hsame, hbefore] at hafter
  cases hafter

end Sys2Proof.Machine
end

section
/-! PROOFS. The traffic of the parish (R378 to R381): what frames that are sent, acknowledged and received leave as it is, and the state
in which a received frame is delivered. -/

namespace Sys2Proof.Machine

/-! ### Entries and peers that traffic leaves -/

/-- The entries outside OD 0x2400, the counters of the fault log, and OD 0x2810, those of the ports. -/
def setKey (k : Nat) : Bool := decide (k / 256 ≠ 0x2400 ∧ k / 256 ≠ 0x2810)

theorem setKey_odKey {i j : Nat} (hi : i ≠ 0x2400 ∧ i ≠ 0x2810) (hj : j < 256) : setKey (odKey i j) = true := by
  have hkey : odKey i j / 256 = i := by simp only [odKey]; omega
  simp [setKey, hkey, hi]

theorem setKey_counter {i j : Nat} (hi : i = 0x2400 ∨ i = 0x2810) (hj : j < 256) : setKey (odKey i j) = false := by
  have hkey : odKey i j / 256 = i := by simp only [odKey]; omega
  simp only [setKey, hkey, decide_eq_false_iff_not]
  omega

/-- A record leaves the entries outside the fault log's counters. -/
theorem State.raise_set (s : State) (a b c d : Nat) : Steady [.od, .boot, .mail, .faults] setKey s (s.raise a b c d) :=
  ⟨s.raise_keeps a b c d, fun i j hj hk => State.post_same s _ i j hj (decide_eq_false fun e => by
    rw [e, setKey_counter (Or.inl rfl) hj] at hk
    cases hk)⟩

/-- A peer without what this tray keeps of its own frames to it. -/
def Peer.inward (x : Peer) : Peer := { x with nextSend := 0, unacked := [], ackOwed := false, nextPort := 0 }

/-- A peer as a tray of the parish: without the numbering of frames in either direction, and without the time of the last one. -/
def Peer.standing (x : Peer) : Peer := { x.inward with heard := none, nextExpect := 0, held := [], ackFrom := 0 }

/-- The parish without its peers, the frames sent, and the pauses of the step timeout that retransmissions cause. -/
def Parish.standing (p : Parish) : Parish :=
  { p with peers := Vector.replicate 64 {}, sent := [], paused := 0, pauseFrom := none }

/-- From `s` to `t` frames have come and gone: what `g` reads of each peer stays, and so do the rest of the parish and the entries
that are not counters of ports. -/
structure Traffic {α : Type} (g : Peer → α) (s t : State) : Prop where
  steady : Steady [.od, .parish] setKey s t
  parish : t.parish.standing = s.parish.standing
  peers : ∀ p, g (t.peer p) = g (s.peer p)

section
variable {α : Type} {g : Peer → α} {r s t : State}

theorem Traffic.refl (g : Peer → α) (s : State) : Traffic g s s := ⟨Steady.refl _ _ s, rfl, fun _ => rfl⟩

theorem Traffic.trans (h1 : Traffic g r s) (h2 : Traffic g s t) : Traffic g r t :=
  ⟨h1.steady.trans h2.steady, h2.parish.trans h1.parish, fun p => (h2.peers p).trans (h1.peers p)⟩

theorem Traffic.ite {u : State} {c : Prop} [Decidable c] (ht : Traffic g s t) (hu : Traffic g s u) :
    Traffic g s (if c then t else u) := by
  split
  · exact ht
  · exact hu

theorem Traffic.foldl {β : Type} {f : State → β → State} {l : List β} (s : State) (hf : ∀ s, ∀ x ∈ l, Traffic g s (f s x)) :
    Traffic g s (l.foldl f s) := by
  induction l generalizing s with
  | nil => exact Traffic.refl g s
  | cons x l ih => exact (hf s x List.mem_cons_self).trans (ih _ fun s y hy => hf s y (List.mem_cons_of_mem x hy))

/-- What the frames to a peer leave of it, they leave of all that does not read them. -/
theorem Traffic.through (h : Traffic Peer.inward s t) (hg : ∀ x, g x.inward = g x) : Traffic g s t :=
  ⟨h.steady, h.parish, fun p => by rw [← hg, ← hg (s.peer p), h.peers p]⟩

theorem Traffic.coarse (h : Traffic Peer.inward s t) : Traffic Peer.standing s t := h.through fun _ => rfl

/-- A field of the parish that traffic leaves. -/
theorem Traffic.field {β : Type} {f : Parish → β} (h : Traffic g s t) (hf : ∀ p, f p.standing = f p) : f t.parish = f s.parish := by
  rw [← hf, ← hf s.parish, h.parish]

/-- A field of the standing of a peer. -/
theorem Traffic.peer {β : Type} {f : Peer → β} (h : Traffic Peer.standing s t) (hf : ∀ x, f x.standing = f x) (p : Nat) :
    f (t.peer p) = f (s.peer p) := by
  rw [← hf, ← hf (s.peer p), h.peers p]

theorem Traffic.modPeer (s : State) (p : Nat) {f : Peer → Peer} (h : ∀ x, g (f x) = g x) : Traffic g s (s.modPeer p f) :=
  ⟨Steady.of_keeps (keeps_parish s _) (by decide) (by decide), rfl, fun _ => vget_vmod_proj _ _ _ h⟩

theorem Traffic.count (g : Peer → α) (s : State) {j : Nat} (n : Nat) (hj : j < 256) : Traffic g s (s.add 0x2810 j n) :=
  ⟨(Steady.add s n (setKey_counter (Or.inr rfl) hj)).mono (by decide), rfl, fun _ => rfl⟩

end

/-! ### Frames out -/

theorem State.lt_of_portsTo {s : State} {t q : Nat} (h : q ∈ s.portsTo t) : q < 2 := List.mem_range.mp (List.mem_filter.mp h).1

theorem State.portsTo_of_portsFor {s : State} {f : MootFrame} {q : Nat} (h : q ∈ s.portsFor f) : q ∈ s.portsTo f.dst := by
  unfold State.portsFor at h
  extract_lets ps at h
  split at h
  · exact h
  · split at h
    · exact List.mem_of_mem_take h
    · exact List.mem_of_getElem? (Option.mem_toList.mp h)

section
variable (s : State)

theorem State.transmit_traffic {α : Type} (g : Peer → α) {q : Nat} (hq : q < 2) (f : MootFrame) : Traffic g s (s.transmit q f) :=
  Traffic.trans (s := { s with parish := { s.parish with sent := (q, f) :: s.parish.sent } })
    ⟨Steady.of_keeps (keeps_parish s _) (by decide) (by decide), rfl, fun _ => rfl⟩
    ((Traffic.count _ _ 1 (by omega)).trans (Traffic.count _ _ _ (by omega)))

theorem State.launch_traffic (f : MootFrame) : Traffic Peer.inward s (s.launch f) := by
  unfold State.launch
  extract_lets f' ports s1
  have h1 : Traffic Peer.inward s s1 := Traffic.modPeer s _ fun _ => rfl
  exact h1.trans (Traffic.foldl s1 fun s q hq => s.transmit_traffic _ (State.lt_of_portsTo (State.portsTo_of_portsFor hq)) f')

theorem State.pump_traffic (dst : Nat) : Traffic Peer.inward s (s.pump dst) := by
  refine Traffic.foldl s fun s u _ => Traffic.trans (Traffic.modPeer s dst ?_) (State.launch_traffic _ _)
  exact fun _ => rfl

theorem State.sendTo_traffic (ty dst step : Nat) (b : List Byte) : Traffic Peer.inward s (s.sendTo ty dst step b) := by
  refine Traffic.trans (Traffic.modPeer s dst ?_) (State.pump_traffic _ dst)
  exact fun _ => rfl

theorem State.sendSeats_traffic (ty step : Nat) (b : List Byte) : Traffic Peer.inward s (s.sendSeats ty step b) :=
  Traffic.ite (Traffic.foldl s fun s t _ => s.sendTo_traffic ty t step b) (Traffic.refl _ s)

theorem State.sendWhole_traffic (ty dst step layer shard replica content : Nat) (b : List Byte) :
    Traffic Peer.inward s (s.sendWhole ty dst step layer shard replica content b) :=
  Traffic.foldl s fun s _ _ => s.sendTo_traffic _ _ _ _

theorem State.takeAck_traffic (t ack map : Nat) : Traffic Peer.inward s (s.takeAck t ack map) := by
  refine Traffic.trans (Traffic.modPeer s t ?_) (State.pump_traffic _ t)
  exact fun _ => rfl

theorem State.oweAck_traffic (t : Nat) : Traffic Peer.standing s (s.oweAck t) := Traffic.modPeer s t fun x => by
  split <;> rfl

theorem State.pauseStep_keeps : Keeps [.parish] s s.pauseStep := by
  unfold State.pauseStep
  split
  · exact keeps_parish s _
  · exact keeps_parish s _
  · exact Keeps.refl _ s

theorem State.pauseStep_peers : s.pauseStep.parish.peers = s.parish.peers := by
  unfold State.pauseStep
  split <;> rfl

theorem State.pauseStep_traffic : Traffic id s s.pauseStep where
  steady := Steady.of_keeps s.pauseStep_keeps (by decide) (by decide)
  parish := by
    unfold State.pauseStep
    split <;> rfl
  peers p := congrArg (vget · p) s.pauseStep_peers

end

/-! ### What traffic leaves to be read -/

/-- An entry as the configuration digest takes it. -/
def State.encEntry (s : State) (i j : Nat) : List Byte := match odRow i j with
  | some r => r.ty.encode (s.get i j)
  | none => []

theorem State.configDigest_eq (s : State) : s.configDigest =
    crc64 ([4, 5, 6, 10, 11, 12, 13].flatMap (s.encEntry 0x2800) ++ (List.range 16).flatMap (fun j => s.encEntry 0x5000 (6 + j))
      ++ s.encEntry (0x4000 + s.nat 0x5000 2) 12 ++ s.encEntry (0x4000 + s.nat 0x5000 2) 13) := rfl

section
variable {s t : State} {l : List Piece} (h : Steady l setKey s t)
include h

theorem Steady.setNat {i j : Nat} (hi : i ≠ 0x2400 ∧ i ≠ 0x2810) (hj : j < 256) : t.nat i j = s.nat i j := h.nat hj (setKey_odKey hi hj)

theorem Steady.inParish : t.inParish = s.inParish := h.flag (by decide) (by decide)

theorem Steady.trayId : t.trayId = s.trayId := h.setNat (by decide) (by decide)

theorem Steady.members : t.members = s.members := by
  simp only [State.members, h.setNat (i := 0x2800) (j := 5) (by decide) (by decide),
    h.setNat (i := 0x2800) (j := 6) (by decide) (by decide)]

/-- The configuration digest reads no counter of the log or of the ports. -/
theorem Steady.configDigest : t.configDigest = s.configDigest := by
  have henc {i j : Nat} (hi : i ≠ 0x2400 ∧ i ≠ 0x2810) (hj : j < 256) : t.encEntry i j = s.encEntry i j := by
    simp only [State.encEntry, h.entries i j hj (setKey_odKey hi hj)]
  rw [t.configDigest_eq, s.configDigest_eq, h.setNat (by decide) (by decide), henc (by omega) (by decide), henc (by omega) (by decide),
    List.flatMap_congr fun j hj => henc (by decide) (by simp at hj; omega),
    List.flatMap_congr fun j hj => henc (by decide) (by simp at hj; omega)]

end

section
variable {s t : State} (h : Traffic Peer.standing s t)
include h

theorem Traffic.keeps : Keeps [.od, .parish] s t := h.steady.keeps

theorem Traffic.learn : t.learn = s.learn := h.keeps .learn (by decide)

theorem Traffic.setNat {i j : Nat} (hi : i ≠ 0x2400 ∧ i ≠ 0x2810) (hj : j < 256) : t.nat i j = s.nat i j := h.steady.setNat hi hj

theorem Traffic.selfHealthy : t.selfHealthy = s.selfHealthy := by
  have htray : t.tray = s.tray := h.keeps .tray (by decide)
  have hpower : t.power = s.power := h.keeps .power (by decide)
  simp only [State.selfHealthy, State.runs, htray, hpower]

theorem Traffic.healthy_peer (p : Nat) : (t.peer p).healthy = (s.peer p).healthy := h.peer (f := Peer.healthy) (fun _ => rfl) p

theorem Traffic.healthy (p : Nat) : t.healthy p = s.healthy p := by
  simp only [State.healthy, h.steady.trayId, h.selfHealthy, h.healthy_peer p]

theorem Traffic.healthySet : t.healthySet = s.healthySet := by
  simp only [State.healthySet, h.steady.members, funext h.healthy]

theorem Traffic.quorum : t.quorum = s.quorum := by simp only [State.quorum, h.steady.members, h.healthySet]

theorem Traffic.seatMap : t.parish.seatMap = s.parish.seatMap := h.field (f := Parish.seatMap) fun _ => rfl

theorem Traffic.seats : t.seats = s.seats := by simp only [State.seats, h.seatMap]

theorem Traffic.ownSeat : t.ownSeat = s.ownSeat := by simp only [State.ownSeat, h.seats, h.steady.trayId]

theorem Traffic.leads : t.leads = s.leads := by
  have hleader : t.parish.leader = s.parish.leader := h.field (f := Parish.leader) fun _ => rfl
  simp only [State.leads, h.steady.inParish, hleader, h.steady.trayId, h.quorum]

theorem Traffic.inStep (n : Nat) : t.inStep n = s.inStep n := by simp only [State.inStep, h.learn]

theorem Traffic.outcomeOf (n : Nat) : t.outcomeOf n = s.outcomeOf n := by
  have happlied : t.parish.applied = s.parish.applied := h.field (f := Parish.applied) fun _ => rfl
  have hstep : t.parish.appliedStep = s.parish.appliedStep := h.field (f := Parish.appliedStep) fun _ => rfl
  have hpeer (p : Nat) : (t.peer p).outcome = (s.peer p).outcome ∧ (t.peer p).outcomeStep = (s.peer p).outcomeStep :=
    ⟨h.peer (f := Peer.outcome) (fun _ => rfl) p, h.peer (f := Peer.outcomeStep) (fun _ => rfl) p⟩
  simp only [State.outcomeOf, happlied, hstep, h.healthySet, h.steady.trayId, hpeer]

theorem Traffic.learnModel : t.learnModel = s.learnModel := by
  have hslot : t.learnSlot = s.learnSlot := h.setNat (by decide) (by decide)
  simp only [State.learnModel, hslot, h.keeps.model (by decide)]

theorem Traffic.layerRec (l : Nat) : t.layerRec l = s.layerRec l := by
  simp only [State.layerRec, State.layerList, State.learnParts, h.learnModel]

end

/-! ### Frames in -/

/-- The tray after the arrival of a frame that R377 and R379 let pass, from a tray whose digest matches: the frame is counted, its
sender heard, and what it acknowledges leaves. -/
def State.arrived (s : State) (h : MootHdr) : State :=
  let r := ((s.bump 0x2810 (3 + 6 * h.port)).modPeer h.src fun p => { p with heard := some s.micros }).refresh h.src
  if h.ackValid then r.takeAck h.src h.ack 0 else r

/-- The tray in which the next frame in sequence is delivered: it has arrived, its acknowledgement is owed, and the one after it is
the next. -/
def State.inTurn (s : State) (h : MootHdr) : State :=
  ((s.arrived h).oweAck h.src).modPeer h.src fun p => { p with nextExpect := (p.nextExpect + 1) % 2 ^ 32, held := [] }

section
variable {s : State} {h : MootHdr}

theorem State.hears.admits (hh : s.hears h) : s.admits h :=
  ⟨hh.1, hh.2.1, hh.2.2.1, hh.2.2.2.1, hh.2.2.2.2.1, hh.2.2.2.2.2.1⟩

theorem State.hearsPlain.admits (hh : s.hearsPlain h) : s.admits h :=
  ⟨hh.1, hh.2.1, hh.2.2.1, hh.2.2.2.1, hh.2.2.2.2.1, hh.2.2.2.2.2.1⟩

theorem State.hears.healthy (hh : s.hears h) : (s.peer h.src).healthy = true := by
  obtain ⟨-, -, -, -, -, -, -, -, -, -, -, hhealthy⟩ := hh
  exact hhealthy

theorem State.hearsPlain.healthy (hh : s.hearsPlain h) : (s.peer h.src).healthy = true := by
  obtain ⟨-, -, -, -, -, -, -, -, hhealthy⟩ := hh
  exact hhealthy

/-- A peer that is healthy becomes so no more. -/
theorem State.refresh_healthy {p : Nat} (hp : (s.peer p).healthy = true) : s.refresh p = s := by simp [State.refresh, hp]

theorem State.peer_modPeer_same (s : State) {p : Nat} (hp : p < 64) (f : Peer → Peer) : (s.modPeer p f).peer p = f (s.peer p) :=
  vget_vmod_same _ _ hp

/-- The arrival of a frame from a healthy peer is traffic. -/
theorem State.arrived_traffic {α : Type} {g : Peer → α} (hg : ∀ x, g x.inward = g x) (hheard : ∀ x m, g { x with heard := m } = g x)
    (ha : s.admits h) (hp : (s.peer h.src).healthy = true) : Traffic g s (s.arrived h) := by
  obtain ⟨-, -, -, hsrc, hport, -⟩ := ha
  unfold State.arrived
  rw [State.refresh_healthy (by rw [State.peer_modPeer_same _ hsrc]; exact hp)]
  have hcount : Traffic g s ((s.bump 0x2810 (3 + 6 * h.port)).modPeer h.src fun p => { p with heard := some s.micros }) :=
    (Traffic.count g s 1 (by omega)).trans (Traffic.modPeer _ _ fun x => hheard x _)
  exact Traffic.ite (hcount.trans ((State.takeAck_traffic _ _ _ _).through hg)) hcount

theorem State.inTurn_traffic (hh : s.hears h) : Traffic Peer.standing s (s.inTurn h) :=
  ((State.arrived_traffic (fun _ => rfl) (fun _ _ => rfl) hh.admits hh.healthy).trans (State.oweAck_traffic _ _)).trans
    (Traffic.modPeer _ _ fun _ => rfl)

/-- What a frame that R377 and R379 let pass does, from a tray whose digest matches: at once where it is unsequenced. -/
theorem State.receive_unsequenced {i : Instr} {act : Instr → State → State} (ha : s.admits h)
    (hi : (s.bump 0x2810 (3 + 6 * h.port)).ignores h.src i = false) (hu : h.unsequenced = true) :
    s.receive h i act = act i (s.arrived h) := by
  obtain ⟨hin, hmember, hother, -, -, hup⟩ := ha
  simp only [State.receive, hin, hmember, hother, hup, hi, hu, State.arrived]
  rfl

/-- The next frame in sequence is delivered. -/
theorem State.receive_inTurn {i : Instr} {act : Instr → State → State} (hh : s.hears h) (hd : frameDigest i = none) :
    s.receive h i act = act i (s.inTurn h) := by
  have hbox : Traffic (fun x => (x.nextExpect, x.held)) s (s.arrived h) :=
    State.arrived_traffic (fun _ => rfl) (fun _ _ => rfl) hh.admits hh.healthy
  obtain ⟨hin, hmember, hother, -, -, hup, hseq, -, hnext, hnone, hdigest, -⟩ := hh
  have hi : (s.bump 0x2810 (3 + 6 * h.port)).ignores h.src i = false := by
    simp only [State.ignores, hd]
    exact congrArg (!·) hdigest
  unfold State.receive
  rw [if_neg (by simp [hin, hmember, hother, hup])]
  extract_lets s1 s2 s3 p d held run s4
  rw [if_neg (by rw [hi]; decide), if_neg (by rw [hseq]; decide)]
  have hd0 : d = 0 := by
    show (h.seq + 2 ^ 32 - ((s.arrived h).peer h.src).nextExpect) % 2 ^ 32 = 0
    have hnext' : ((s.arrived h).peer h.src).nextExpect = h.seq := (congrArg Prod.fst (hbox.peers h.src)).trans hnext
    rw [hnext', Nat.add_sub_cancel_left, Nat.mod_self]
  have hheld : held = [(0, i)] := by
    have hempty : p.held = [] := (congrArg Prod.snd (hbox.peers h.src)).trans hnone
    show (if (lookupKey d p.held).isSome then p.held else insertKey d i p.held) = _
    rw [hempty, hd0]
    rfl
  have hrun : run = [0] := by
    show (List.range held.length).takeWhile (fun n => (lookupKey n held).isSome) = [0]
    rw [hheld]
    rfl
  have hturn : s4 = s.inTurn h := by
    unfold s4
    rw [hrun, hheld]
    rfl
  rw [if_neg (by rw [hd0]; exact Nat.not_le.mpr (Nat.two_pow_pos _)), if_neg (by rw [hd0]; decide), hrun, hheld, hturn]
  rfl

/-! ### What a delivered frame leaves to be done (R382, R388) -/

/-- What keeps the phase and the updates keeps a tray from being ready. -/
def Learn.work (l : Learn) : Nat × List (Nat × Nat × Nat) := (l.phase, l.updates)

theorem State.notReady.of_work {t : State} (hn : s.notReady) (hw : t.learn.work = s.learn.work) : t.notReady := by
  obtain ⟨hphase, hupdates⟩ := Prod.mk.inj hw
  rwa [State.notReady, hphase, hupdates]

/-- Without a complete update no READY goes out. -/
theorem State.readyCheck_notReady (hn : s.notReady) : s.readyCheck = s := by
  unfold State.readyCheck
  rw [if_neg]
  rcases hn with hn | hn <;> simp [hn]

/-- The next frame in sequence does what its type does, where this leaves no update complete; then the step timeout may pause. -/
theorem State.takeFrame_inTurn {i : Instr} {u : State} (hh : s.hears h) (hd : frameDigest i = none)
    (hu : State.deliverMoot i (s.inTurn h) = u) (hn : u.notReady) : s.takeFrame h i = u.pauseStep := by
  rw [State.takeFrame, State.hear, State.receive_inTurn hh hd, hu, State.readyCheck_notReady hn]

/-- An unsequenced frame does so at once. -/
theorem State.takeFrame_plain {i : Instr} {u : State} (ha : s.admits h) (hseq : h.unsequenced = true)
    (hi : (s.bump 0x2810 (3 + 6 * h.port)).ignores h.src i = false)
    (hu : State.deliverMoot i (s.arrived h) = u) (hn : u.notReady) : s.takeFrame h i = u.pauseStep := by
  rw [State.takeFrame, State.hear, State.receive_unsequenced ha hi hseq, hu, State.readyCheck_notReady hn]

end

end Sys2Proof.Machine
end

section
/-! PROOFS. The view of the parish (R373 to R375): what a change of it leaves as it is, and what becomes of a peer that is lost or that
becomes healthy. -/

namespace Sys2Proof.Machine

/-- The parish without what the view of its health gives: the map of seats, the leader, the state, the seat held, and recovery. -/
def Parish.unseated (p : Parish) : Parish :=
  { p with seatMap := Vector.replicate 64 0, leader := 0, state := 0, seat := 0, started := false, recoverFrom := none }

/-- From `s` to `t` the view of the parish has changed, its records and their counters, and nothing else. -/
structure Viewed (s t : State) : Prop where
  steady : Steady viewPieces setKey s t
  parish : t.parish.unseated = s.parish.unseated

section
variable {r s t : State}

theorem Viewed.refl (s : State) : Viewed s s := ⟨Steady.refl _ _ s, rfl⟩

theorem Viewed.trans (h1 : Viewed r s) (h2 : Viewed s t) : Viewed r t := ⟨h1.steady.trans h2.steady, h2.parish.trans h1.parish⟩

theorem Viewed.ite {u : State} {c : Prop} [Decidable c] (ht : Viewed s t) (hu : Viewed s u) : Viewed s (if c then t else u) := by
  split
  · exact ht
  · exact hu

theorem Viewed.modParish (s : State) (f : Parish → Parish) (h : (f s.parish).unseated = s.parish.unseated) :
    Viewed s (s.modParish f) := ⟨Steady.of_keeps (keeps_parish s _) (by decide) (by decide), h⟩

theorem Viewed.raise (s : State) (a b c d : Nat) : Viewed s (s.raise a b c d) :=
  ⟨(s.raise_set a b c d).mono (by decide), congrArg Parish.unseated (s.raise_keeps a b c d .parish (by decide))⟩

/-- A field of the parish that the view leaves. -/
theorem Viewed.field {β : Type} {f : Parish → β} (h : Viewed s t) (hf : ∀ p, f p.unseated = f p) : f t.parish = f s.parish := by
  rw [← hf, ← hf s.parish, h.parish]

theorem Viewed.peer (h : Viewed s t) (p : Nat) : t.peer p = s.peer p := h.field (f := fun x => vget x.peers p) fun _ => rfl

theorem Viewed.learn (h : Viewed s t) : t.learn = s.learn := h.steady.keeps .learn (by decide)

end

theorem State.review_viewed (s : State) : Viewed s s.review := by
  unfold State.review
  split
  · exact Viewed.modParish s (fun p => { p with state := 0, leader := 0xFF, seat := 0xFF }) rfl
  · extract_lets s1 l changed st p s2
    have h1 : Viewed s s1 := ⟨Steady.of_keeps s.seatOwn_keeps (by decide) (by decide), rfl⟩
    have h2 : Viewed s1 s2 := ⟨Steady.of_keeps (keeps_parish s1 _) (by decide) (by decide), rfl⟩
    exact (h1.trans h2).trans (Viewed.ite (Viewed.raise s2 _ _ _ _) (Viewed.refl s2))

/-- What of a peer is left when it is lost. -/
def Peer.gone (x : Peer) : Peer := { x with healthy := false, lost := true, unacked := [], held := [] }

/-- A healthy peer is lost, and the rest is a change of view. -/
theorem State.losePeer_viewed {s : State} {p : Nat} (h : (s.peer p).healthy = true) :
    Viewed (s.modPeer p Peer.gone) (s.losePeer p) := by
  unfold State.losePeer
  extract_lets x s1 s2
  rw [if_pos h]
  have h2 : Viewed s1 s2 := (Viewed.raise s1 _ _ _ _).trans (State.review_viewed _)
  exact h2.trans (Viewed.ite (Viewed.modParish s2 (fun p => { p with recoverFrom := _ }) rfl) (Viewed.refl s2))

theorem State.losePeer_peer {s : State} {p : Nat} (hp : p < 64) (h : (s.peer p).healthy = true) :
    (s.losePeer p).peer p = (s.peer p).gone :=
  ((State.losePeer_viewed h).peer p).trans (State.peer_modPeer_same s hp _)

theorem State.losePeer_keeps (s : State) (p : Nat) : Keeps viewPieces s (s.losePeer p) := by
  by_cases h : (s.peer p).healthy = true
  · exact ((keeps_parish s _).mono (by decide)).trans (State.losePeer_viewed h).steady.keeps
  · rw [State.losePeer_unhealthy (eq_false_of_ne_true h)]
    exact Keeps.refl _ s

/-- What becomes of a peer that becomes healthy: the numbering starts anew. -/
def Peer.fresh (x : Peer) : Peer := { x with healthy := true, lost := false, nextSend := 0, nextExpect := 0, held := [], unacked := [] }

/-- A tray may become healthy: its digest matches and its last reported state allows it. -/
def Peer.fit (x : Peer) : Bool := x.digestOk && decide (3 ≤ x.trayState ∧ x.trayState ≤ 5) && !x.healthy

theorem State.refresh_eq (s : State) (p : Nat) :
    s.refresh p = if (s.peer p).fit then (s.modPeer p Peer.fresh).review else s := rfl

theorem State.refresh_unfit {s : State} {p : Nat} (h : (s.peer p).fit = false) : s.refresh p = s := by
  simp [State.refresh_eq, h]

theorem State.refresh_viewed {s : State} {p : Nat} (h : (s.peer p).fit = true) : Viewed (s.modPeer p Peer.fresh) (s.refresh p) := by
  rw [State.refresh_eq, if_pos h]
  exact State.review_viewed _

theorem State.refresh_steady (s : State) (p : Nat) : Steady viewPieces setKey s (s.refresh p) := by
  cases h : (s.peer p).fit
  · rw [State.refresh_unfit h]
    exact Steady.refl _ _ s
  · exact (Steady.of_keeps (keeps_parish s _) (by decide) (by decide)).trans (State.refresh_viewed h).steady

end Sys2Proof.Machine
end

section
/-! PROOFS. Frames between the trays (R372 to R381): HELLO, heartbeats, acknowledgement and retransmission. -/

namespace Sys2Proof.Machine

/-! ### HELLO and heartbeats out (R372, R378) -/

/-- The ports that are up. -/
def State.upPorts (s : State) : List Nat := (List.range 2).filter s.portUp

theorem State.upPorts_of_links {s t : State} (hm : t.parish.module = s.parish.module) (hl : t.parish.lock = s.parish.lock)
    (hd : t.parish.dup = s.parish.dup) : t.upPorts = s.upPorts := by
  have hport : t.portUp = s.portUp := funext fun q => by simp only [State.portUp, hm, hl, hd]
  rw [State.upPorts, hport, State.upPorts]

theorem Traffic.upPorts {α : Type} {g : Peer → α} {s t : State} (h : Traffic g s t) : t.upPorts = s.upPorts :=
  State.upPorts_of_links (h.field (f := Parish.module) fun _ => rfl) (h.field (f := Parish.lock) fun _ => rfl)
    (h.field (f := Parish.dup) fun _ => rfl)

theorem Viewed.upPorts {s t : State} (h : Viewed s t) : t.upPorts = s.upPorts :=
  State.upPorts_of_links (h.field (f := Parish.module) fun _ => rfl) (h.field (f := Parish.lock) fun _ => rfl)
    (h.field (f := Parish.dup) fun _ => rfl)

theorem Steady.micros {s t : State} (h : Steady viewPieces setKey s t) : t.micros = s.micros := by
  have htime : t.timebase = s.timebase := h.keeps .timebase (by decide)
  rw [State.micros, htime, State.micros]

theorem Steady.others {l : List Piece} {s t : State} (h : Steady l setKey s t) : t.others = s.others := by
  rw [State.others, h.members, h.trayId, State.others]

/-- Each port to which a frame is handed has sent one more. -/
theorem State.transmit_all_sent (s : State) (f : MootFrame) (l : List Nat) :
    (l.foldl (fun s q => s.transmit q f) s).parish.sent.length = s.parish.sent.length + l.length := by
  induction l generalizing s with
  | nil => rfl
  | cons q l ih =>
    have hone : (s.transmit q f).parish.sent.length = s.parish.sent.length + 1 := rfl
    rw [List.foldl_cons, ih, hone, List.length_cons]
    omega

theorem State.sendPlain_traffic {α : Type} (g : Peer → α) (s : State) (ty dst step : Nat) (b : List Byte) :
    Traffic g s (s.sendPlain ty dst step b) :=
  Traffic.foldl s fun s _ hq => s.transmit_traffic g (List.mem_range.mp (List.mem_filter.mp hq).1) _

theorem State.sendPlain_sent (s : State) (ty dst step : Nat) (b : List Byte) :
    (s.sendPlain ty dst step b).parish.sent.length = s.parish.sent.length + s.upPorts.length := State.transmit_all_sent s _ _

/-- What sends one frame on every port that is up for each of a list sends so many in all. -/
theorem State.foldl_sent {β : Type} {f : State → β → State} {l : List β} (s : State)
    (hf : ∀ s x, (f s x).upPorts = s.upPorts ∧ (f s x).parish.sent.length = s.parish.sent.length + s.upPorts.length) :
    (l.foldl f s).parish.sent.length = s.parish.sent.length + l.length * s.upPorts.length := by
  induction l generalizing s with
  | nil => simp
  | cons x l ih =>
    obtain ⟨hports, hsent⟩ := hf s x
    rw [List.foldl_cons, ih, hsent, hports, List.length_cons, Nat.succ_mul]
    omega

/-- A HELLO that is due. -/
theorem helloSend_due {s : State} (hin : s.inParish = true) (hself : s.selfHealthy = true)
    (hdue : s.elapsed 100000 s.parish.helloAt = true) : ∃ t, exec .helloSend s = .next t
      ∧ t.parish.helloAt = some s.micros ∧ t.parish.firstHello = some (s.parish.firstHello.getD s.micros)
      ∧ t.parish.sent.length = s.parish.sent.length + s.others.length * s.upPorts.length ∧ Keeps viewPieces s t := by
  have hexec : exec .helloSend s = execHelloSend s := rfl
  rw [hexec, execHelloSend, hin, hself, hdue]
  extract_lets v u body
  have hv : Viewed s v := s.review_viewed
  have hu : Steady viewPieces setKey s u := hv.steady.trans (Steady.of_keeps (keeps_parish v _) (by decide) (by decide))
  have hsent : u.parish.sent.length = s.parish.sent.length := congrArg List.length (hv.field (f := Parish.sent) fun _ => rfl)
  have hfirst : v.parish.firstHello = s.parish.firstHello := hv.field (f := Parish.firstHello) fun _ => rfl
  have hmicros : v.micros = s.micros := hv.steady.micros
  have hports : u.upPorts = s.upPorts := hv.upPorts
  have hsends : Traffic id u (u.others.foldl (fun s t => s.sendPlain mHello t (s.nat 0x5002 1) body) u) :=
    Traffic.foldl u fun s t _ => s.sendPlain_traffic id mHello t _ body
  refine ⟨_, rfl, (hsends.field (f := Parish.helloAt) fun _ => rfl).trans (congrArg some hmicros),
    (hsends.field (f := Parish.firstHello) fun _ => rfl).trans (by rw [← hfirst, ← hmicros]; rfl), ?_,
    hu.keeps.trans (hsends.steady.keeps.mono (by decide))⟩
  rw [← hsent, ← hports, ← hu.others]
  exact State.foldl_sent u fun s t => ⟨(s.sendPlain_traffic id mHello t _ body).upPorts, s.sendPlain_sent _ _ _ _⟩

/-- The parish with the seat given up, or not, and nothing more to give up. -/
def Parish.vacated (v : Nat) (p : Parish) : Parish := { p with vacant := v, giveUp := false }

/-- A seat given up is a change of view. -/
theorem State.vacate_viewed (s : State) : ∃ v, Viewed (s.modParish (Parish.vacated v)) s.vacate := by
  unfold State.vacate
  extract_lets i s1 s2
  split
  · have h2 : Viewed s1 s2 := s1.review_viewed
    exact ⟨_, h2.trans (Viewed.ite (Viewed.modParish s2 (fun p => { p with recoverFrom := _ }) rfl) (Viewed.refl s2))⟩
  · exact ⟨_, Viewed.refl (s.modParish (Parish.vacated s.parish.vacant))⟩

/-- What holds of a peer and is kept by an update of one peer still holds of it. -/
theorem State.modPeer_keeps_property {P : Peer → Prop} (s : State) {p : Nat} (t : Nat) {f : Peer → Peer} (h : P (s.peer p))
    (hf : ∀ x, P x → P (f x)) : P ((s.modPeer t f).peer p) := by
  by_cases htp : t = p
  · subst htp
    by_cases ht : t < 64
    · rw [State.peer_modPeer_same s ht]
      exact hf _ h
    · have hout : (s.modPeer t f).peer t = s.peer t := by simp [State.peer, State.modPeer, vget, vmod, vset, ht]
      rwa [hout]
  · have hne : (s.modPeer t f).peer p = s.peer p := vget_vmod_ne _ _ htp
    rwa [hne]

/-- The tray when a heartbeat is due: its view is new, and a seat it is to give up between steps is given up. -/
def State.beatTurn (s : State) : State :=
  let u := s.review.modParish fun p => { p with beatAt := some s.micros }
  if u.parish.giveUp && decide (u.learn.phase = 0) then u.vacate else u

/-- A heartbeat to one tray, which acknowledges what that tray has sent. -/
def State.heartbeatTo (s : State) (step : Nat) (body : List Byte) (t : Nat) : State :=
  (s.sendPlain mHeartbeat t step body).modPeer t fun p => { p with ackOwed := false }

theorem heartbeatSend_eq {s : State} (hin : s.inParish = true) (halive : s.alive = true)
    (hdue : s.elapsed s.beat s.parish.beatAt = true) : exec .heartbeatSend s = .next (s.beatTurn.others.foldl
      (fun u t => u.heartbeatTo s.beatTurn.heartbeat.1 s.beatTurn.heartbeat.2 t) s.beatTurn) := by
  have hexec : exec .heartbeatSend s = execHeartbeatSend s := rfl
  rw [hexec, execHeartbeatSend, hin, halive, hdue]
  rfl

theorem State.heartbeatTo_traffic (s : State) (step : Nat) (body : List Byte) (t : Nat) :
    Traffic Peer.inward s (s.heartbeatTo step body t) :=
  (s.sendPlain_traffic Peer.inward mHeartbeat t step body).trans (Traffic.modPeer _ t fun _ => rfl)

/-- A heartbeat to each of a list leaves no acknowledgement owed to any of them. -/
theorem State.heartbeats_ackOwed (step : Nat) (body : List Byte) {l : List Nat} (s : State) (hl : ∀ p ∈ l, p < 64) :
    (∀ p, (s.peer p).ackOwed = false → ((l.foldl (fun s t => s.heartbeatTo step body t) s).peer p).ackOwed = false)
    ∧ ∀ p ∈ l, ((l.foldl (fun s t => s.heartbeatTo step body t) s).peer p).ackOwed = false := by
  have hone (s : State) (t p : Nat) (h : (s.peer p).ackOwed = false) : ((s.heartbeatTo step body t).peer p).ackOwed = false :=
    State.modPeer_keeps_property (P := fun x => x.ackOwed = false) _ t
      (((s.sendPlain_traffic Peer.ackOwed mHeartbeat t step body).peers p).trans h) fun _ _ => rfl
  induction l generalizing s with
  | nil => exact ⟨fun p h => h, fun p hp => absurd hp List.not_mem_nil⟩
  | cons t l ih =>
    obtain ⟨hkept, hdone⟩ := ih (s.heartbeatTo step body t) fun p hp => hl p (List.mem_cons_of_mem t hp)
    refine ⟨fun p h => hkept p (hone s t p h), fun p hp => ?_⟩
    rcases List.mem_cons.mp hp with rfl | hp
    · exact hkept p (congrArg Peer.ackOwed (State.peer_modPeer_same _ (hl p List.mem_cons_self) _))
    · exact hdone p hp

/-- The turn for a heartbeat is a change of view that notes its time, and may give up the seat. -/
theorem State.beatTurn_spec (s : State) : Steady viewPieces setKey s s.beatTurn ∧ s.beatTurn.upPorts = s.upPorts
    ∧ s.beatTurn.parish.sent = s.parish.sent ∧ s.beatTurn.parish.beatAt = some s.micros
    ∧ (s.parish.giveUp = true → s.learn.phase = 0 → s.beatTurn.parish.giveUp = false) := by
  unfold State.beatTurn
  extract_lets u
  have hv : Viewed s s.review := s.review_viewed
  have hu : Steady viewPieces setKey s u := hv.steady.trans (Steady.of_keeps (keeps_parish _ _) (by decide) (by decide))
  have hports : u.upPorts = s.upPorts := hv.upPorts
  have hsent : u.parish.sent = s.parish.sent := hv.field (f := Parish.sent) fun _ => rfl
  have hat : u.parish.beatAt = some s.micros := rfl
  have hgive : u.parish.giveUp = s.parish.giveUp := hv.field (f := Parish.giveUp) fun _ => rfl
  have hphase : u.learn = s.learn := hu.keeps .learn (by decide)
  split
  · obtain ⟨v, hw⟩ := u.vacate_viewed
    refine ⟨hu.trans ((Steady.of_keeps (keeps_parish u _) (by decide) (by decide)).trans hw.steady), hw.upPorts.trans hports,
      (hw.field (f := Parish.sent) fun _ => rfl).trans hsent, (hw.field (f := Parish.beatAt) fun _ => rfl).trans hat,
      fun _ _ => hw.field (f := Parish.giveUp) fun _ => rfl⟩
  · next hno =>
    refine ⟨hu, hports, hsent, hat, fun hg hp => absurd ?_ hno⟩
    simp [hgive, hg, hphase, hp]

/-- A heartbeat that is due. -/
theorem heartbeatSend_due {s : State} (hin : s.inParish = true) (halive : s.alive = true)
    (hdue : s.elapsed s.beat s.parish.beatAt = true) : ∃ t, exec .heartbeatSend s = .next t
      ∧ t.parish.beatAt = some s.micros ∧ (∀ p ∈ s.others, (t.peer p).ackOwed = false)
      ∧ (s.parish.giveUp = true → s.learn.phase = 0 → t.parish.giveUp = false)
      ∧ t.parish.sent.length = s.parish.sent.length + s.others.length * s.upPorts.length ∧ Keeps viewPieces s t := by
  obtain ⟨hw, hports, hsent, hat, hgive⟩ := s.beatTurn_spec
  have hsends : Traffic Peer.inward s.beatTurn (s.beatTurn.others.foldl
      (fun u t => u.heartbeatTo s.beatTurn.heartbeat.1 s.beatTurn.heartbeat.2 t) s.beatTurn) :=
    Traffic.foldl _ fun u t _ => u.heartbeatTo_traffic _ _ t
  have hsmall : ∀ p ∈ s.beatTurn.others, p < 64 := fun p hp =>
    List.mem_range.mp (List.mem_filter.mp (List.mem_filter.mp hp).1).1
  refine ⟨_, heartbeatSend_eq hin halive hdue, (hsends.field (f := Parish.beatAt) fun _ => rfl).trans hat, ?_,
    fun hg hp => (hsends.field (f := Parish.giveUp) fun _ => rfl).trans (hgive hg hp), ?_,
    hw.keeps.trans (hsends.steady.keeps.mono (by decide))⟩
  · rw [← hw.others]
    exact (State.heartbeats_ackOwed _ _ _ hsmall).2
  · rw [← hsent, ← hports, ← hw.others]
    exact State.foldl_sent _ fun u t => ⟨(u.heartbeatTo_traffic _ _ t).upPorts, u.sendPlain_sent _ _ _ _⟩

/-! ### HELLO in (R372, R373) -/

@[simp] theorem State.pauseStep_peer (s : State) (p : Nat) : s.pauseStep.peer p = s.peer p := congrArg (vget · p) s.pauseStep_peers

theorem State.pauseStep_field {β : Type} {f : Parish → β} (s : State) (hf : ∀ p, f p.standing = f p) :
    f s.pauseStep.parish = f s.parish := s.pauseStep_traffic.field hf

theorem State.counted_configDigest (s : State) {q : Nat} (hq : q < 2) : (s.bump 0x2810 (3 + 6 * q)).configDigest = s.configDigest :=
  (Traffic.count id s 1 (by omega)).steady.configDigest

/-- A frame with the digest of this tray is not ignored. -/
theorem State.ignores_matching (s : State) {h : MootHdr} {i : Instr} (hport : h.port < 2) (hd : frameDigest i = some s.configDigest) :
    (s.bump 0x2810 (3 + 6 * h.port)).ignores h.src i = false := by
  simp only [State.ignores, hd, s.counted_configDigest hport]
  exact decide_eq_false fun h => h rfl

/-- A peer whose digest matches reports its tray state. -/
def Peer.reporting (tray : Nat) (x : Peer) : Peer := { x with digestOk := true, trayState := tray }

theorem State.hearPeer_matching {s : State} {digest : Nat} (t tray : Nat) (hd : digest = s.configDigest) :
    s.hearPeer t digest tray = if 3 ≤ tray ∧ tray ≤ 5 then (s.modPeer t (Peer.reporting tray)).refresh t
      else (s.modPeer t (Peer.reporting tray)).losePeer t := by
  rw [State.hearPeer, if_neg (fun h => h hd)]
  rfl

/-- The time of a frame's arrival is noted. -/
theorem State.arrived_heard {s : State} {h : MootHdr} (ha : s.admits h) (hp : (s.peer h.src).healthy = true) :
    ((s.arrived h).peer h.src).heard = some s.micros := by
  obtain ⟨-, -, -, hsrc, -⟩ := ha
  unfold State.arrived
  rw [State.refresh_healthy (by rw [State.peer_modPeer_same _ hsrc]; exact hp)]
  have hnow : (((s.bump 0x2810 (3 + 6 * h.port)).modPeer h.src fun p => { p with heard := some s.micros }).peer h.src).heard
      = some s.micros := congrArg Peer.heard (State.peer_modPeer_same _ hsrc _)
  extract_lets r
  split
  · exact (congrArg Peer.heard ((r.takeAck_traffic h.src h.ack 0).peers h.src)).trans hnow
  · exact hnow

/-- A HELLO of a healthy peer. -/
theorem helloReceive_healthy {s : State} {h : MootHdr} (role tray : Nat) (hh : s.hearsPlain h) (hn : s.notReady) :
    ∃ t, exec (.helloReceive h s.configDigest role tray) s = .next t
      ∧ (t.peer h.src).trayState = tray ∧ (t.peer h.src).healthy = decide (3 ≤ tray ∧ tray ≤ 5)
      ∧ (t.peer h.src).heard = some s.micros ∧ (3 ≤ tray → tray ≤ 5 → Keeps [.od, .parish] s t) ∧ Keeps viewPieces s t := by
  have ha : Traffic Peer.standing s (s.arrived h) :=
    State.arrived_traffic (fun _ => rfl) (fun _ _ => rfl) hh.admits hh.healthy
  have hheard : ((s.arrived h).peer h.src).heard = some s.micros := State.arrived_heard hh.admits hh.healthy
  obtain ⟨-, -, -, hsrc, hport, -, hseq, -, hhealthy⟩ := id hh
  set u := (s.arrived h).modPeer h.src (Peer.reporting tray) with hu
  have hpeer : u.peer h.src = ((s.arrived h).peer h.src).reporting tray := State.peer_modPeer_same _ hsrc _
  have hfit : (u.peer h.src).healthy = true := by
    rw [hpeer]
    exact (ha.peer (f := Peer.healthy) (fun _ => rfl) h.src).trans hhealthy
  have hku : Keeps [.od, .parish] s u := ha.keeps.trans ((keeps_parish _ _).mono (by decide))
  have hact : State.deliverMoot (.helloReceive h s.configDigest role tray) (s.arrived h)
      = if 3 ≤ tray ∧ tray ≤ 5 then u else u.losePeer h.src := by
    have hmatch := State.hearPeer_matching h.src tray ha.steady.configDigest.symm
    rw [← hu, State.refresh_healthy hfit] at hmatch
    exact hmatch
  have hexec {v : State} (hv : State.deliverMoot (.helloReceive h s.configDigest role tray) (s.arrived h) = v)
      (hl : v.learn = s.learn) : exec (.helloReceive h s.configDigest role tray) s = .next v.pauseStep :=
    congrArg Host.Outcome.next (State.takeFrame_plain hh.admits hseq (s.ignores_matching hport rfl) hv
      (hn.of_work (congrArg Learn.work hl)))
  by_cases htray : 3 ≤ tray ∧ tray ≤ 5
  · rw [if_pos htray] at hact
    have hk : Keeps [.od, .parish] s u.pauseStep := hku.trans (u.pauseStep_keeps.mono (by decide))
    refine ⟨_, hexec hact (hku .learn (by decide)), ?_, ?_, ?_, fun _ _ => hk, hk.mono (by decide)⟩
    · rw [State.pauseStep_peer, hpeer]
      rfl
    · rw [State.pauseStep_peer, hfit, decide_eq_true htray]
    · rw [State.pauseStep_peer, hpeer]
      exact hheard
  · rw [if_neg htray] at hact
    have hk : Keeps viewPieces s (u.losePeer h.src) := (hku.mono (by decide)).trans (u.losePeer_keeps _)
    have hgone : (u.losePeer h.src).pauseStep.peer h.src = (u.peer h.src).gone :=
      (State.pauseStep_peer _ _).trans (State.losePeer_peer hsrc hfit)
    refine ⟨_, hexec hact (hk .learn (by decide)), ?_, ?_, ?_, fun h3 h5 => absurd ⟨h3, h5⟩ htray,
      hk.trans ((State.pauseStep_keeps _).mono (by decide))⟩
    · rw [hgone, hpeer]
      rfl
    · rw [hgone, decide_eq_false htray]
      rfl
    · rw [hgone, hpeer]
      exact hheard

/-- A peer that has become healthy, with nothing sent to it since. -/
def Peer.restarted (x : Peer) : Prop := x.healthy = true ∧ x.nextSend = 0 ∧ x.nextExpect = 0 ∧ x.unacked = []

/-- A peer becomes healthy where its digest matches and its tray state allows it. -/
theorem State.refresh_peer {s : State} {p : Nat} (hp : p < 64) :
    (s.refresh p).peer p = if (s.peer p).fit then (s.peer p).fresh else s.peer p := by
  cases h : (s.peer p).fit
  · rw [State.refresh_unfit h]
    rfl
  · exact ((State.refresh_viewed h).peer p).trans (State.peer_modPeer_same s hp _)

/-- Where every frame to a tray has gone out, there is none to send. -/
theorem State.pump_sent {s : State} {p : Nat} (h : ∀ u ∈ (s.peer p).unacked, u.out.isSome = true) : s.pump p = s := by
  have hwaiting : (s.peer p).unacked.filter (fun u => u.out.isNone) = [] :=
    List.filter_eq_nil_iff.mpr fun u hu => by simp [Option.isSome_iff_ne_none.mp (h u hu)]
  unfold State.pump
  extract_lets waiting room order
  have horder : order = [] := by simp [order, waiting, hwaiting]
  rw [horder, List.take_nil, List.foldl_nil]

/-- A frame is acknowledged: it lies below the sequence, or the map names it. -/
def Unacked.covered (ack map : Nat) (u : Unacked) : Bool := u.out.isSome &&
  (let d := (u.frame.seq + 2 ^ 32 - ack) % 2 ^ 32
   decide (2 ^ 31 ≤ d) || (decide (1 ≤ d ∧ d ≤ 32) && bit map (d - 1)))

/-- Where every frame to a tray has gone out, an acknowledgement removes those it covers and sends none. -/
theorem State.takeAck_sent {s : State} {p : Nat} (hp : p < 64) (ack map : Nat) (h : ∀ u ∈ (s.peer p).unacked, u.out.isSome = true) :
    s.takeAck p ack map = s.modPeer p fun x => { x with unacked := x.unacked.filter fun u => !u.covered ack map } := by
  unfold State.takeAck
  extract_lets gone
  refine State.pump_sent fun u hu => ?_
  rw [State.peer_modPeer_same s hp] at hu
  exact h u (List.mem_of_mem_filter hu)

/-- An acknowledgement by a tray to which nothing was sent leaves its numbering as it has begun anew. -/
theorem State.takeAck_restarted {s : State} {p : Nat} (hp : p < 64) (ack map : Nat) (h : (s.peer p).restarted) :
    ((s.takeAck p ack map).peer p).restarted := by
  obtain ⟨hhealthy, hsend, hexpect, hnone⟩ := h
  rw [State.takeAck_sent hp ack map (by simp [hnone]), State.peer_modPeer_same s hp]
  exact ⟨hhealthy, hsend, hexpect, by simp [hnone]⟩

theorem State.arrived_steady (s : State) {h : MootHdr} (hport : h.port < 2) : Steady viewPieces setKey s (s.arrived h) := by
  unfold State.arrived
  extract_lets r
  have hr : Steady viewPieces setKey s r := (((Traffic.count id s 1 (by omega)).steady.mono (by decide)).trans
    (Steady.of_keeps (keeps_parish _ _) (by decide) (by decide))).trans (State.refresh_steady _ _)
  exact Steady.ite (hr.trans ((r.takeAck_traffic h.src h.ack 0).steady.mono (by decide))) hr

/-- A frame of an unhealthy peer makes it healthy, or leaves it unhealthy. -/
theorem State.arrived_unhealthy {s : State} {h : MootHdr} (hsrc : h.src < 64) (hp : (s.peer h.src).healthy = false) :
    ((s.arrived h).peer h.src).restarted ∨ ((s.arrived h).peer h.src).healthy = false := by
  unfold State.arrived
  set v := (s.bump 0x2810 (3 + 6 * h.port)).modPeer h.src fun p => { p with heard := some s.micros } with hv
  extract_lets r
  have hpeer : r.peer h.src = if (v.peer h.src).fit then (v.peer h.src).fresh else v.peer h.src := State.refresh_peer hsrc
  cases hfit : (v.peer h.src).fit
  · have hr : (r.peer h.src).healthy = false := by
      rw [hpeer, hfit]
      exact (congrArg Peer.healthy (State.peer_modPeer_same _ hsrc _)).trans hp
    refine Or.inr ?_
    split
    · exact (congrArg Peer.healthy ((r.takeAck_traffic h.src h.ack 0).peers h.src)).trans hr
    · exact hr
  · have hr : (r.peer h.src).restarted := by
      rw [hpeer, hfit]
      exact ⟨rfl, rfl, rfl, rfl⟩
    refine Or.inl ?_
    split
    · exact State.takeAck_restarted hsrc h.ack 0 hr
    · exact hr

/-- A HELLO with the right digest of a peer that was not healthy. -/
theorem helloReceive_unhealthy {s : State} {h : MootHdr} (role : Nat) {tray : Nat} (ha : s.admits h) (hseq : h.unsequenced = true)
    (hn : s.notReady) (hp : (s.peer h.src).healthy = false) (h3 : 3 ≤ tray) (h5 : tray ≤ 5) :
    ∃ t, exec (.helloReceive h s.configDigest role tray) s = .next t ∧ (t.peer h.src).restarted
      ∧ (t.peer h.src).trayState = tray ∧ Keeps viewPieces s t := by
  obtain ⟨-, -, -, hsrc, hport, -⟩ := id ha
  have hsteady : Steady viewPieces setKey s (s.arrived h) := s.arrived_steady hport
  have hact := State.hearPeer_matching h.src tray hsteady.configDigest.symm
  rw [if_pos ⟨h3, h5⟩] at hact
  set u := (s.arrived h).modPeer h.src (Peer.reporting tray) with hu
  have hupeer : u.peer h.src = ((s.arrived h).peer h.src).reporting tray := State.peer_modPeer_same _ hsrc _
  have hpeer : ((u.refresh h.src).peer h.src).restarted ∧ ((u.refresh h.src).peer h.src).trayState = tray := by
    rw [State.refresh_peer hsrc, hupeer]
    rcases State.arrived_unhealthy hsrc hp with hr | hr
    · rw [if_neg (by simp [Peer.fit, Peer.reporting, hr.1])]
      exact ⟨hr, rfl⟩
    · rw [if_pos (by simp [Peer.fit, Peer.reporting, hr, h3, h5])]
      exact ⟨⟨rfl, rfl, rfl, rfl⟩, rfl⟩
  have hk : Keeps viewPieces s (u.refresh h.src) :=
    (hsteady.keeps.trans ((keeps_parish _ _).mono (by decide))).trans (u.refresh_steady _).keeps
  refine ⟨_, congrArg Host.Outcome.next (State.takeFrame_plain ha hseq (s.ignores_matching hport rfl) hact
    (hn.of_work (congrArg Learn.work (hk .learn (by decide))))), ?_, ?_, hk.trans ((State.pauseStep_keeps _).mono (by decide))⟩
  · rw [State.pauseStep_peer]
    exact hpeer.1
  · rw [State.pauseStep_peer]
    exact hpeer.2

/-- A peer whose digest differs. -/
def Peer.differing (x : Peer) : Peer := { x with digestOk := false, digestRaised := true }

/-- A frame that carries another digest is taken no further. -/
theorem State.receive_ignored {s : State} {h : MootHdr} {i : Instr} {act : Instr → State → State} {d : Nat} (ha : s.admits h)
    (hd : frameDigest i = some d) (hne : d ≠ s.configDigest) :
    s.receive h i act = (s.bump 0x2810 (3 + 6 * h.port)).digestDiffers h.src := by
  obtain ⟨hin, hmember, hother, -, hport, hup⟩ := ha
  have hi : (s.bump 0x2810 (3 + 6 * h.port)).ignores h.src i = true := by
    simp only [State.ignores, hd, s.counted_configDigest hport]
    exact decide_eq_true hne
  unfold State.receive
  rw [if_neg (by simp [hin, hmember, hother, hup])]
  extract_lets s1
  rw [if_pos hi, if_pos (by rw [hd]; rfl)]

/-- The angle of a record reads no counter of the log or of the ports. -/
theorem Steady.stamp {s t : State} (h : Steady [.od, .parish] setKey s t) : t.stamp = s.stamp := by
  have htray : t.tray = s.tray := h.keeps .tray (by decide)
  have halive : t.alive = s.alive := by rw [State.alive, htray, State.alive]
  have hshaft : t.shaft 0 = s.shaft 0 := congrArg (vget · 0) (h.keeps .shafts (by decide))
  simp only [State.stamp, halive, h.setNat (i := 0x2200) (j := 1) (by decide) (by decide), hshaft]

/-- A HELLO with a wrong digest. -/
theorem helloReceive_differing {s : State} {h : MootHdr} {digest : Nat} (role tray : Nat) (ha : s.admits h) (hn : s.notReady)
    (hd : digest ≠ s.configDigest) : ∃ t, exec (.helloReceive h digest role tray) s = .next t
      ∧ (t.peer h.src).digestOk = false ∧ (t.peer h.src).healthy = false ∧ (t.peer h.src).trayState = (s.peer h.src).trayState
      ∧ (t.peer h.src).heard = (s.peer h.src).heard
      ∧ ((s.peer h.src).digestRaised = false → (s.peer h.src).healthy = false →
          s.wrote t ⟨s.stamp, 0x7201, 0, noTenant, 0, h.src⟩)
      ∧ ((s.peer h.src).digestRaised = true → (s.peer h.src).healthy = false → Keeps [.od, .parish] s t) ∧ Keeps viewPieces s t := by
  obtain ⟨-, -, -, hsrc, hport, -⟩ := id ha
  set u := (s.bump 0x2810 (3 + 6 * h.port)).modPeer h.src Peer.differing with hu
  set v := if (s.peer h.src).digestRaised then u else u.raise 0x7201 0 noTenant h.src with hv
  have hrec : s.receive h (.helloReceive h digest role tray) State.deliverMoot = v.losePeer h.src :=
    State.receive_ignored ha rfl hd
  have hsu : Steady [.od, .parish] setKey s u :=
    (Traffic.count id s 1 (by omega)).steady.trans (Steady.of_keeps (keeps_parish _ _) (by decide) (by decide))
  have hku : Keeps [.od, .parish] s u := hsu.keeps
  have huv : Viewed u v := Viewed.ite (Viewed.refl u) (Viewed.raise u _ _ _ _)
  have hk : Keeps viewPieces s (v.losePeer h.src) := ((hku.mono (by decide)).trans huv.steady.keeps).trans (v.losePeer_keeps _)
  have hvpeer : v.peer h.src = (s.peer h.src).differing := (huv.peer h.src).trans (State.peer_modPeer_same _ hsrc _)
  have hexec : exec (.helloReceive h digest role tray) s = .next (v.losePeer h.src).pauseStep := by
    refine congrArg Host.Outcome.next ?_
    rw [State.takeFrame, State.hear, hrec, State.readyCheck_notReady (hn.of_work (congrArg Learn.work (hk .learn (by decide))))]
  have hquiet (hp : (s.peer h.src).healthy = false) : v.losePeer h.src = v :=
    State.losePeer_unhealthy (by rw [hvpeer]; exact hp)
  have hpeer : (v.losePeer h.src).pauseStep.peer h.src
      = if (s.peer h.src).healthy then (s.peer h.src).differing.gone else (s.peer h.src).differing := by
    rw [State.pauseStep_peer]
    split
    · next hp => rw [State.losePeer_peer hsrc (by rw [hvpeer]; exact hp), hvpeer]
    · next hp => rw [hquiet (eq_false_of_ne_true hp), hvpeer]
  refine ⟨_, hexec, ?_, ?_, ?_, ?_, fun hr hp => ?_, fun hr hp => ?_, hk.trans ((State.pauseStep_keeps _).mono (by decide))⟩
  · exact (congrArg Peer.digestOk hpeer).trans (by split <;> rfl)
  · exact (congrArg Peer.healthy hpeer).trans (by
      split
      · rfl
      · next h => exact eq_false_of_ne_true h)
  · exact (congrArg Peer.trayState hpeer).trans (by split <;> rfl)
  · exact (congrArg Peer.heard hpeer).trans (by split <;> rfl)
  · rw [hquiet hp, hv, hr]
    have hwrote : s.wrote (u.raise 0x7201 0 noTenant h.src) ⟨s.stamp, 0x7201, 0, noTenant, 0, h.src⟩ := by
      rw [← hsu.stamp]
      exact State.wrote_post u _
    exact hwrote.after (State.pauseStep_keeps _ .faults (by decide)) (State.pauseStep_keeps _ .boot (by decide))
  · rw [hquiet hp, hv, if_pos hr]
    exact hku.trans ((State.pauseStep_keeps _).mono (by decide))

/-! ### Heartbeats in (R374, R396) -/

/-- A peer that has been heard over a port. -/
def Peer.heardOver (q now : Nat) (x : Peer) : Peer := { x with heardPort := vset x.heardPort q (some now) }

/-- A peer's report of itself. -/
def Peer.told (seat leader phase outcome step ckpt : Nat) (x : Peer) : Peer :=
  { x with seat := seat, leader := leader, phase := phase, outcome := outcome, outcomeStep := step, checkpoint := ckpt }

/-- What a heartbeat of the leader says beside: the parish digest, and the last complete checkpoint. -/
def State.beatLed (s : State) (t ckpt pd : Nat) : State :=
  if t = s.parish.leader then
    let s := if pd = 0 then s else (s.modParish fun p => { p with parishDigest := pd }).setNum 0x2801 8 pd
    if s.learn.checkpoints.any (fun c => decide (c.step = ckpt) && c.whole && !c.complete) then s.ckptComplete ckpt else s
  else s

/-- The seat that a tray reports, after the one it had. -/
def State.beatSeat (s : State) (t had seat : Nat) : State :=
  if seat < 64 then s.newHolder seat t
  else if had < 64 ∧ vget s.parish.seatMap had = t then
    let s := (s.modParish fun p => { p with vacant := putBit p.vacant had true }).review
    if s.leads then s.modParish (fun p => { p with recoverFrom := some (p.recoverFrom.getD s.micros) }) else s
  else s

/-- The tray after the report that a heartbeat makes of its sender. -/
def State.told (s : State) (h : MootHdr) (tray seat leader phase outcome ckpt : Nat) : State :=
  ((s.modPeer h.src (Peer.heardOver h.port s.micros)).modPeer h.src (Peer.reporting tray)).modPeer h.src
    (Peer.told seat leader phase outcome h.step ckpt)

section
variable {s : State} {h : MootHdr} {tray : Nat} (seat leader phase outcome ckpt : Nat)

theorem State.told_peer (s : State) (tray : Nat) (hsrc : h.src < 64) : (s.told h tray seat leader phase outcome ckpt).peer h.src
    = (((s.peer h.src).heardOver h.port s.micros).reporting tray).told seat leader phase outcome h.step ckpt := by
  rw [State.told, State.peer_modPeer_same _ hsrc, State.peer_modPeer_same _ hsrc, State.peer_modPeer_same _ hsrc]

theorem State.told_keeps (s : State) (tray : Nat) : Keeps [.parish] s (s.told h tray seat leader phase outcome ckpt) := keeps_parish s _

theorem State.takeHeartbeat_eq {digest : Nat} (pd : Nat) (s v : State) (h : MootHdr) (tray : Nat)
    (hv : (s.modPeer h.src (Peer.heardOver h.port s.micros)).hearPeer h.src digest tray = v) :
    s.takeHeartbeat h tray seat leader phase outcome ckpt digest pd = if !(v.peer h.src).digestOk then v
      else ((v.modPeer h.src (Peer.told seat leader phase outcome h.step ckpt)).beatSeat h.src (v.peer h.src).seat seat).beatLed
        h.src ckpt pd := by
  subst hv
  rfl

/-- What a heartbeat of a healthy peer does. -/
theorem State.takeHeartbeat_healthy {digest : Nat} (pd : Nat) (hsrc : h.src < 64) (hd : digest = s.configDigest)
    (hp : (s.peer h.src).healthy = true) (h3 : 3 ≤ tray) (h5 : tray ≤ 5) :
    s.takeHeartbeat h tray seat leader phase outcome ckpt digest pd
      = ((s.told h tray seat leader phase outcome ckpt).beatSeat h.src (s.peer h.src).seat seat).beatLed h.src ckpt pd := by
  set u := s.modPeer h.src (Peer.heardOver h.port s.micros) with hu
  set v := u.modPeer h.src (Peer.reporting tray) with hv
  have hvpeer : v.peer h.src = ((s.peer h.src).heardOver h.port s.micros).reporting tray := by
    rw [hv, State.peer_modPeer_same _ hsrc, hu, State.peer_modPeer_same _ hsrc]
  have hheard : u.hearPeer h.src digest tray = v := by
    have hdigest : digest = u.configDigest :=
      hd.trans (Steady.of_keeps (k := [.parish]) (l := [.parish]) (keeps_parish s _) (by decide) (by decide)).configDigest.symm
    rw [State.hearPeer_matching h.src tray hdigest, if_pos ⟨h3, h5⟩]
    exact State.refresh_healthy (by rw [hvpeer]; exact hp)
  rw [State.takeHeartbeat_eq seat leader phase outcome ckpt pd s v h tray hheard, hvpeer]
  exact if_neg Bool.false_ne_true

/-- A tray that reports the seat it has changes nothing in the map. -/
theorem State.beatSeat_same {t had seat : Nat} (hs : (seat = 0xFF ∧ had = 0xFF) ∨ (seat < 64 ∧ vget s.parish.seatMap seat = t)) :
    s.beatSeat t had seat = s := by
  rcases hs with ⟨rfl, rfl⟩ | ⟨hlt, hmap⟩
  · rw [State.beatSeat, if_neg (by decide), if_neg fun hh => absurd hh.1 (by decide)]
  · rw [State.beatSeat, if_pos hlt, State.newHolder, if_pos hmap]

end

/-- A heartbeat of a tray that does not lead says no more. -/
theorem State.beatLed_other {s : State} {t : Nat} (ckpt pd : Nat) (h : t ≠ s.parish.leader) : s.beatLed t ckpt pd = s := if_neg h

theorem State.ckptComplete_keeps (s : State) (step : Nat) : Keeps [.od, .learn] s (s.ckptComplete step) :=
  ((s.modLearn_keeps _).mono (by decide)).trans ((State.setNum_keeps _ _ _ _).mono (by decide))

theorem State.ckptComplete_work (s : State) (step : Nat) : (s.ckptComplete step).learn.work = s.learn.work := rfl

theorem State.beatLed_spec (s : State) (t ckpt pd : Nat) : Keeps [.od, .parish, .learn] s (s.beatLed t ckpt pd)
    ∧ (s.beatLed t ckpt pd).learn.work = s.learn.work ∧ (∀ p, (s.beatLed t ckpt pd).peer p = s.peer p)
    ∧ (s.beatLed t ckpt pd).parish.vacant = s.parish.vacant := by
  unfold State.beatLed
  split
  · extract_lets u
    obtain ⟨hk, hlearn, hpeer, hvacant⟩ : Keeps [.od, .parish, .learn] s u ∧ u.learn = s.learn ∧ (∀ p, u.peer p = s.peer p)
        ∧ u.parish.vacant = s.parish.vacant := by
      unfold u
      split
      · exact ⟨Keeps.refl _ s, rfl, fun _ => rfl, rfl⟩
      · exact ⟨((keeps_parish s _).mono (by decide)).trans ((State.setNum_keeps _ _ _ _).mono (by decide)), rfl, fun _ => rfl, rfl⟩
    split
    · exact ⟨hk.trans ((u.ckptComplete_keeps ckpt).mono (by decide)),
        (u.ckptComplete_work ckpt).trans (congrArg Learn.work hlearn), hpeer, hvacant⟩
    · exact ⟨hk, congrArg Learn.work hlearn, hpeer, hvacant⟩
  · exact ⟨Keeps.refl _ s, rfl, fun _ => rfl, rfl⟩

/-- The parish digest comes from the leader's heartbeat. -/
theorem State.beatLed_digest {s : State} {t pd : Nat} (ckpt : Nat) (h : t = s.parish.leader) (hpd : pd ≠ 0) :
    (s.beatLed t ckpt pd).parish.parishDigest = pd ∧ (s.beatLed t ckpt pd).nat 0x2801 8 = pd := by
  unfold State.beatLed
  rw [if_pos h]
  extract_lets u
  have hu : u = (s.modParish fun p => { p with parishDigest := pd }).setNum 0x2801 8 pd := if_neg hpd
  have hdigest : u.parish.parishDigest = pd := by rw [hu]; rfl
  have hentry : u.nat 0x2801 8 = pd := by rw [hu, State.nat_setNum_same]
  split
  · exact ⟨hdigest, (State.nat_setNum_ne _ _ (by decide)).trans hentry⟩
  · exact ⟨hdigest, hentry⟩

/-- A heartbeat of a healthy peer, which reports the seat it has. -/
theorem heartbeatReceive_healthy {s : State} {h : MootHdr} {tray seat : Nat} (leader phase outcome ckpt pd : Nat) (hh : s.hearsPlain h)
    (hn : s.notReady) (h3 : 3 ≤ tray) (h5 : tray ≤ 5)
    (hseat : (seat = 0xFF ∧ (s.peer h.src).seat = 0xFF) ∨ (seat < 64 ∧ vget s.parish.seatMap seat = h.src)) :
    ∃ t, exec (.heartbeatReceive h tray seat leader phase outcome ckpt s.configDigest pd) s = .next t
      ∧ (t.peer h.src).phase = phase ∧ (t.peer h.src).outcome = outcome ∧ (t.peer h.src).outcomeStep = h.step
      ∧ (t.peer h.src).checkpoint = ckpt ∧ (t.peer h.src).seat = seat ∧ vget (t.peer h.src).heardPort h.port = some s.micros
      ∧ (h.src ≠ s.parish.leader → Keeps [.od, .parish] s t)
      ∧ (h.src = s.parish.leader → pd ≠ 0 → t.parish.parishDigest = pd ∧ t.nat 0x2801 8 = pd) ∧ Keeps [.od, .parish, .learn] s t := by
  have ha : Traffic Peer.standing s (s.arrived h) :=
    State.arrived_traffic (fun _ => rfl) (fun _ _ => rfl) hh.admits hh.healthy
  obtain ⟨-, -, -, hsrc, hport, -, hunseq, -, hhealthy⟩ := id hh
  set u := (s.arrived h).told h tray seat leader phase outcome ckpt with hu
  have hsame : u.beatSeat h.src ((s.arrived h).peer h.src).seat seat = u := State.beatSeat_same (by
    have hmap : u.parish.seatMap = s.parish.seatMap := ha.seatMap
    have hhad : ((s.arrived h).peer h.src).seat = (s.peer h.src).seat := ha.peer (f := Peer.seat) (fun _ => rfl) h.src
    rwa [hmap, hhad])
  have hact : State.deliverMoot (.heartbeatReceive h tray seat leader phase outcome ckpt s.configDigest pd) (s.arrived h)
      = u.beatLed h.src ckpt pd := by
    have hbeat := State.takeHeartbeat_healthy seat leader phase outcome ckpt pd hsrc ha.steady.configDigest.symm
      ((ha.healthy_peer h.src).trans hhealthy) h3 h5
    rw [← hu, hsame] at hbeat
    exact hbeat
  obtain ⟨hk, hwork, hpeer, -⟩ := u.beatLed_spec h.src ckpt pd
  have hku : Keeps [.od, .parish] s u := ha.keeps.trans ((State.told_keeps _ _ _ _ _ _ _).mono (by decide))
  have hleader : u.parish.leader = s.parish.leader := ha.field (f := Parish.leader) fun _ => rfl
  have hall : ∀ p, (u.beatLed h.src ckpt pd).pauseStep.peer p = u.peer p := fun p => (State.pauseStep_peer _ p).trans (hpeer p)
  have htold := (s.arrived h).told_peer seat leader phase outcome ckpt tray hsrc
  rw [← hu] at htold
  have hmicros : (s.arrived h).micros = s.micros := (ha.steady.mono (by decide)).micros
  refine ⟨_, congrArg Host.Outcome.next (State.takeFrame_plain hh.admits hunseq (s.ignores_matching hport rfl) hact
    (hn.of_work (hwork.trans (congrArg Learn.work (hku .learn (by decide)))))), ?_, ?_, ?_, ?_, ?_, ?_, fun hne => ?_, fun hl hpd => ?_,
    ((hku.mono (by decide)).trans hk).trans ((State.pauseStep_keeps _).mono (by decide))⟩
  · rw [hall, htold]; rfl
  · rw [hall, htold]; rfl
  · rw [hall, htold]; rfl
  · rw [hall, htold]; rfl
  · rw [hall, htold]; rfl
  · rw [hall, htold, hmicros]
    exact vget_vset_same _ _ hport
  · rw [State.beatLed_other ckpt pd (by rwa [hleader])]
    exact hku.trans ((State.pauseStep_keeps _).mono (by decide))
  · obtain ⟨hdigest, hentry⟩ := State.beatLed_digest (s := u) (t := h.src) ckpt (by rw [hleader]; exact hl) hpd
    exact ⟨(State.pauseStep_field (f := Parish.parishDigest) _ fun _ => rfl).trans hdigest,
      ((State.pauseStep_traffic _).steady.setNat (by decide) (by decide)).trans hentry⟩

/-- A bit that is put reads as it was put. -/
theorem bit_putBit_true (v n : Nat) : bit (putBit v n true) n = true := by
  unfold putBit bit
  cases h : v.testBit n
  · simp [Nat.add_comm v, Nat.testBit_two_pow_add_eq, h]
  · simp [h]

/-- A heartbeat of a healthy peer that gives up the seat it had. -/
theorem heartbeatReceive_gaveUp {s : State} {h : MootHdr} {tray : Nat} (leader phase outcome ckpt pd : Nat) (hh : s.hearsPlain h)
    (hn : s.notReady) (h3 : 3 ≤ tray) (h5 : tray ≤ 5) (hhad : (s.peer h.src).seat < 64)
    (hmap : vget s.parish.seatMap (s.peer h.src).seat = h.src) :
    ∃ t, exec (.heartbeatReceive h tray 0xFF leader phase outcome ckpt s.configDigest pd) s = .next t
      ∧ bit t.parish.vacant (s.peer h.src).seat = true ∧ Keeps [.boot, .faults, .learn, .mail, .od, .parish] s t := by
  have ha : Traffic Peer.standing s (s.arrived h) :=
    State.arrived_traffic (fun _ => rfl) (fun _ _ => rfl) hh.admits hh.healthy
  obtain ⟨-, -, -, hsrc, hport, -, hunseq, -, hhealthy⟩ := id hh
  set u := (s.arrived h).told h tray 0xFF leader phase outcome ckpt with hu
  set w := u.modParish fun p => { p with vacant := putBit p.vacant (s.peer h.src).seat true } with hw
  have hseat : ((s.arrived h).peer h.src).seat = (s.peer h.src).seat := ha.peer (f := Peer.seat) (fun _ => rfl) h.src
  have hseats : u.parish.seatMap = s.parish.seatMap := ha.seatMap
  set v := u.beatSeat h.src ((s.arrived h).peer h.src).seat 0xFF with hv
  have hview : Viewed w v := by
    rw [hv, hseat, State.beatSeat, if_neg (by decide), if_pos ⟨hhad, by rw [hseats]; exact hmap⟩]
    exact w.review_viewed.trans (Viewed.ite (Viewed.modParish _ (fun p => { p with recoverFrom := _ }) rfl) (Viewed.refl _))
  have hact : State.deliverMoot (.heartbeatReceive h tray 0xFF leader phase outcome ckpt s.configDigest pd) (s.arrived h)
      = v.beatLed h.src ckpt pd :=
    State.takeHeartbeat_healthy 0xFF leader phase outcome ckpt pd hsrc ha.steady.configDigest.symm
      ((ha.healthy_peer h.src).trans hhealthy) h3 h5
  obtain ⟨hk, hwork, -, hvacant⟩ := v.beatLed_spec h.src ckpt pd
  have hkv : Keeps viewPieces s v := (((ha.keeps.trans ((State.told_keeps _ _ _ _ _ _ _).mono (by decide))).trans
    ((keeps_parish u _).mono (by decide))).mono (by decide)).trans hview.steady.keeps
  refine ⟨_, congrArg Host.Outcome.next (State.takeFrame_plain hh.admits hunseq (s.ignores_matching hport rfl) hact
    (hn.of_work (hwork.trans (congrArg Learn.work (hkv .learn (by decide)))))), ?_,
    ((hkv.mono (by decide)).trans (hk.mono (by decide))).trans ((State.pauseStep_keeps _).mono (by decide))⟩
  have hbits : (v.beatLed h.src ckpt pd).pauseStep.parish.vacant = putBit u.parish.vacant (s.peer h.src).seat true :=
    ((State.pauseStep_field (f := Parish.vacant) _ fun _ => rfl).trans hvacant).trans (hview.field (f := Parish.vacant) fun _ => rfl)
  rw [hbits, bit_putBit_true]

/-! ### Acknowledgement and retransmission (R380, R381) -/

/-- Of the frames to a healthy peer, all of which have gone out, its next frame removes some and adds none. -/
theorem State.arrived_unacked {s : State} {h : MootHdr} (ha : s.admits h) (hp : (s.peer h.src).healthy = true)
    (hsent : ∀ u ∈ (s.peer h.src).unacked, u.out.isSome = true) : ((s.arrived h).peer h.src).unacked ⊆ (s.peer h.src).unacked := by
  obtain ⟨-, -, -, hsrc, -⟩ := ha
  unfold State.arrived
  rw [State.refresh_healthy (by rw [State.peer_modPeer_same _ hsrc]; exact hp)]
  extract_lets r
  have hr : (r.peer h.src).unacked = (s.peer h.src).unacked := by
    unfold r
    rw [State.peer_modPeer_same _ hsrc]
    rfl
  split
  · rw [State.takeAck_sent hsrc h.ack 0 (by rwa [hr]), State.peer_modPeer_same _ hsrc]
    exact fun u hu => hr ▸ List.mem_of_mem_filter hu
  · rw [hr]
    exact List.Subset.refl _

/-- A frame that has gone out and that an acknowledgement does not cover. -/
theorem Unacked.not_covered {ack map : Nat} {u : Unacked} (hout : u.out.isSome = true) (h : u.covered ack map = false) :
    (u.frame.seq + 2 ^ 32 - ack) % 2 ^ 32 < 2 ^ 31
      ∧ ∀ i < 32, bit map i = true → (u.frame.seq + 2 ^ 32 - ack) % 2 ^ 32 ≠ i + 1 := by
  unfold Unacked.covered at h
  extract_lets d at h
  rw [hout, Bool.true_and, Bool.or_eq_false_iff, decide_eq_false_iff_not, Nat.not_le] at h
  obtain ⟨hnear, hmap⟩ := h
  refine ⟨hnear, fun i hi hbit he => ?_⟩
  have hd : d = i + 1 := he
  have hrange : decide (1 ≤ d ∧ d ≤ 32) = true := decide_eq_true (by omega)
  have hnamed : bit map (d - 1) = true := by rw [hd, Nat.add_sub_cancel, hbit]
  rw [hrange, hnamed] at hmap
  cases hmap

/-- An ACK of a healthy peer. -/
theorem ackReceive_healthy {s : State} {h : MootHdr} (map : Nat) (hh : s.hearsPlain h) (hn : s.notReady) :
    ∃ t, exec (.ackReceive h map) s = .next t ∧ Keeps [.od, .parish] s t
      ∧ ((∀ u ∈ (s.peer h.src).unacked, u.out.isSome = true) → ∀ u ∈ (t.peer h.src).unacked, u ∈ (s.peer h.src).unacked
        ∧ (u.frame.seq + 2 ^ 32 - h.ack) % 2 ^ 32 < 2 ^ 31
        ∧ ∀ i < 32, bit map i = true → (u.frame.seq + 2 ^ 32 - h.ack) % 2 ^ 32 ≠ i + 1) := by
  have ha : Traffic Peer.standing s (s.arrived h) :=
    State.arrived_traffic (fun _ => rfl) (fun _ _ => rfl) hh.admits hh.healthy
  obtain ⟨-, -, -, hsrc, hport, -, hunseq, hok, hhealthy⟩ := id hh
  have hi : (s.bump 0x2810 (3 + 6 * h.port)).ignores h.src (.ackReceive h map) = false := congrArg (!·) hok
  have hk : Keeps [.od, .parish] s ((s.arrived h).takeAck h.src h.ack map) :=
    ha.keeps.trans ((s.arrived h).takeAck_traffic h.src h.ack map).steady.keeps
  refine ⟨_, congrArg Host.Outcome.next (State.takeFrame_plain hh.admits hunseq hi rfl
    (hn.of_work (congrArg Learn.work (hk .learn (by decide))))), hk.trans ((State.pauseStep_keeps _).mono (by decide)),
    fun hsent u hu => ?_⟩
  have hsub := State.arrived_unacked hh.admits hhealthy hsent
  have hact : State.deliverMoot (.ackReceive h map) (s.arrived h) = (s.arrived h).takeAck h.src h.ack map := rfl
  rw [State.pauseStep_peer, hact, State.takeAck_sent hsrc h.ack map fun u hu => hsent u (hsub hu),
    State.peer_modPeer_same _ hsrc] at hu
  obtain ⟨hin, hleft⟩ := List.mem_filter.mp hu
  exact ⟨hsub hin, Unacked.not_covered (hsent u (hsub hin)) (by simpa using hleft)⟩

/-- A control frame to a tray goes out on the first port that qualifies. -/
theorem State.launch_ack (s : State) {p : Nat} (hp : p < 64) (step map : Nat) :
    ((s.launch ⟨mAck, p, 0, 0, step, 1, leBytes 4 map⟩).peer p).ackOwed = false
    ∧ (s.launch ⟨mAck, p, 0, 0, step, 1, leBytes 4 map⟩).parish.sent.length
      = s.parish.sent.length + (if s.portsTo p = [] then 0 else 1) := by
  unfold State.launch
  extract_lets f ports v
  have hports : ports = (s.portsTo p).take 1 := rfl
  have hsends : Traffic Peer.ackOwed v (ports.foldl (fun s q => s.transmit q f) v) :=
    Traffic.foldl v fun s q hq => s.transmit_traffic _ (State.lt_of_portsTo (List.mem_of_mem_take (hports ▸ hq))) f
  refine ⟨(hsends.peers p).trans (congrArg Peer.ackOwed (State.peer_modPeer_same s hp _)), ?_⟩
  rw [State.transmit_all_sent, hports, List.length_take]
  have hsame : v.parish.sent = s.parish.sent := rfl
  rw [hsame]
  cases s.portsTo p <;> simp

/-- An acknowledgement that has been owed for 20 µs. -/
theorem ackTimer_due {s : State} {p : Nat} (hp : p < 64) (ho : (s.peer p).ackOwed = true) (hdue : (s.peer p).ackFrom + 20 ≤ s.micros) :
    ∃ t, exec (.ackTimer p) s = .next t ∧ (t.peer p).ackOwed = false
      ∧ t.parish.sent.length = s.parish.sent.length + (if s.portsTo p = [] then 0 else 1) ∧ Keeps [.od, .parish] s t := by
  have hexec : exec (.ackTimer p) s = .next (s.launch _) := congrArg Host.Outcome.next (if_pos (by simp [ho, hdue]))
  obtain ⟨howed, hsent⟩ := s.launch_ack hp _ _
  exact ⟨_, hexec, howed, hsent, (s.launch_traffic _).steady.keeps⟩

theorem State.pauseStep_sent (s : State) : s.pauseStep.parish.sent = s.parish.sent := by
  unfold State.pauseStep
  split <;> rfl

/-- A frame sent again. -/
def Unacked.again (q now : Nat) (u x : Unacked) : Unacked :=
  if x = u then { x with resent := x.resent + 1, port := q, out := some now } else x

/-- What a timer of a frame that is out does. -/
theorem mootRetransmitTimer_eq {s : State} {p seq m : Nat} {u : Unacked}
    (hu : (s.peer p).unacked.find? (fun u => decide (u.frame.seq = seq) && u.out.isSome) = some u) (hm : u.out = some m) :
    exec (.mootRetransmitTimer p seq) s = .next (if s.micros < m + 200 then s
      else if 8 ≤ u.resent then ((s.raise 0x6301 (ferryUnit u.port) noTenant p).losePeer p).pauseStep
      else
        let q := if (s.portsTo p).contains (1 - u.port) then 1 - u.port else u.port
        let v := s.modPeer p (fun x => { x with ackOwed := false, unacked := x.unacked.map (Unacked.again q s.micros u) })
        (if (s.portsTo p).isEmpty then v else (v.transmit q (s.withAck { u.frame with flags := Nat.lor u.frame.flags 4 })).bump
          0x2810 (4 + 6 * q)).pauseStep) := by
  have hexec : exec (.mootRetransmitTimer p seq) s = execMootRetransmitTimer p seq s := rfl
  rw [hexec, execMootRetransmitTimer, hu]
  simp only [hm, Option.getD_some]
  rfl

section
variable {s : State} {p seq m : Nat} {u : Unacked}
  (hu : (s.peer p).unacked.find? (fun u => decide (u.frame.seq = seq) && u.out.isSome) = some u) (hm : u.out = some m)
include hu hm

theorem mootRetransmitTimer_early (h : s.micros < m + 200) : exec (.mootRetransmitTimer p seq) s = .next s :=
  (mootRetransmitTimer_eq hu hm).trans (congrArg Host.Outcome.next (if_pos h))

/-- A frame whose 200 µs have passed is sent again. -/
theorem mootRetransmitTimer_again (hp : p < 64) (hdue : m + 200 ≤ s.micros) (hfew : u.resent < 8) :
    ∃ t, exec (.mootRetransmitTimer p seq) s = .next t
      ∧ (t.peer p).unacked = (s.peer p).unacked.map (fun x => if x = u then { x with
          resent := x.resent + 1, port := if (s.portsTo p).contains (1 - u.port) then 1 - u.port else u.port,
          out := some s.micros } else x)
      ∧ t.parish.sent.length = s.parish.sent.length + (if s.portsTo p = [] then 0 else 1) ∧ Keeps [.od, .parish] s t := by
  rw [mootRetransmitTimer_eq hu hm, if_neg (Nat.not_lt.mpr hdue), if_neg (Nat.not_le.mpr hfew)]
  extract_lets q v
  have hv : Keeps [.od, .parish] s v := (keeps_parish s _).mono (by decide)
  have hvpeer : (v.peer p).unacked = (s.peer p).unacked.map (Unacked.again q s.micros u) :=
    congrArg Peer.unacked (State.peer_modPeer_same s hp _)
  refine ⟨_, rfl, ?_, ?_, ?_⟩
  · rw [State.pauseStep_peer]
    split
    · exact hvpeer
    · exact hvpeer
  · rw [State.pauseStep_sent]
    cases hports : s.portsTo p <;> rfl
  · refine Keeps.trans (Keeps.ite hv ?_) ((State.pauseStep_keeps _).mono (by decide))
    exact hv.trans (((v.transmit_keeps _ _).mono (by decide)).trans ((State.bump_keeps _ _ _).mono (by decide)))

/-- A frame sent 8 times without an acknowledgement loses its peer. -/
theorem mootRetransmitTimer_lost (hp : p < 64) (hdue : m + 200 ≤ s.micros) (hmany : 8 ≤ u.resent)
    (hhealthy : (s.peer p).healthy = true) :
    ∃ t, exec (.mootRetransmitTimer p seq) s = .next t
      ∧ (t.peer p).healthy = false ∧ (t.peer p).lost = true ∧ (t.peer p).unacked = [] ∧ Keeps viewPieces s t := by
  rw [mootRetransmitTimer_eq hu hm, if_neg (Nat.not_lt.mpr hdue), if_pos hmany]
  set v := s.raise 0x6301 (ferryUnit u.port) noTenant p
  have hv : Viewed s v := Viewed.raise s _ _ _ _
  have hpeer : (v.losePeer p).pauseStep.peer p = (v.peer p).gone :=
    (State.pauseStep_peer _ p).trans (State.losePeer_peer hp (by rw [hv.peer]; exact hhealthy))
  refine ⟨_, rfl, ?_, ?_, ?_, (hv.steady.keeps.trans (v.losePeer_keeps p)).trans ((State.pauseStep_keeps _).mono (by decide))⟩
  · rw [hpeer]; rfl
  · rw [hpeer]; rfl
  · rw [hpeer]; rfl

end

/-- Settles O52: what HELLO, heartbeats, acknowledgement, retransmission and rejected frames do. -/
theorem mootFrames : Obligations.MootFrames := by
  unfold Obligations.MootFrames
  intro s
  refine ⟨helloSend_due, fun h => ?_, heartbeatSend_due, fun h => ?_, fun h role tray hh hn => helloReceive_healthy role tray hh hn,
    fun h role tray ha hseq hn hp h3 h5 => ?_, fun h digest role tray ha hn hd => helloReceive_differing role tray ha hn hd,
    fun h tray seat leader phase outcome ckpt pd hh hn h3 h5 hs => heartbeatReceive_healthy leader phase outcome ckpt pd hh hn h3 h5 hs,
    fun h tray leader phase outcome ckpt pd hh hn h3 h5 => heartbeatReceive_gaveUp leader phase outcome ckpt pd hh hn h3 h5,
    fun h map hh hn => ackReceive_healthy map hh hn, fun p hp ho hdue => ackTimer_due hp ho hdue, fun p h => ?_,
    fun p seq u m hp hu hm => ⟨mootRetransmitTimer_again hu hm hp, mootRetransmitTimer_lost hu hm hp, mootRetransmitTimer_early hu hm⟩,
    fun q d hup hbad => ?_, fun q d h => ?_⟩
  · exact congrArg Host.Outcome.next (if_neg (by rcases h with h | h | h <;> simp [h]))
  · exact congrArg Host.Outcome.next (if_neg (by simp [h]))
  · obtain ⟨t, hexec, ⟨hhealthy, hsend, hexpect, hnone⟩, htray, hk⟩ := helloReceive_unhealthy role ha hseq hn hp h3 h5
    exact ⟨t, hexec, hhealthy, htray, hsend, hexpect, hnone, hk⟩
  · exact congrArg Host.Outcome.next (if_neg (by
      rcases h with h | h
      · simp [h]
      · simp [Nat.not_le.mpr h]))
  · exact congrArg Host.Outcome.next (if_pos (by simp [hup, hbad]))
  · exact congrArg Host.Outcome.next (if_neg (by rcases h with h | h <;> simp [h]))

end Sys2Proof.Machine
end

section
/-! PROOFS. A step rolled back (R391 to R393, R398): by ROLLBACK, by ABORT at the leader, and by the step timeout. -/

namespace Sys2Proof.Machine

/-! ### The end of a step -/

/-- The entries that name the last step and its outcome. -/
def stepKey (k : Nat) : Bool := decide (k = odKey 0x5002 1 ∨ k = odKey 0x5002 5)

/-- The counters at sub-index 3 of any object, and those of OD 0x302F to 0xFF2F, are other entries. -/
theorem stepKey_bump (i : Nat) : stepKey (odKey i 3) = false := decide_eq_false (by simp only [odKey]; omega)

theorem stepKey_bump_blk (t : Nat) : stepKey (odKey (blk t 0x2F) 5) = false := decide_eq_false (by simp only [odKey, blk]; omega)

theorem State.countCommit_step (s : State) (i : Issue) : Steady [.od] stepKey s (s.countCommit i) :=
  (Steady.bump s (stepKey_bump _)).trans (Steady.bump _ (stepKey_bump_blk _))

theorem State.promote_step (s : State) : Steady [.od, .issues] stepKey s s.promote := by
  rw [State.promote_eq]
  refine Steady.foldl (fun s i => ?_) s
  unfold State.promoteOne
  split
  · exact (Steady.of_keeps (keeps_issues s _) (by decide) (by decide)).trans ((State.countCommit_step _ _).mono (by decide))
  · exact Steady.refl _ _ s

/-- The step leaves its phases. -/
def Learn.ended (l : Learn) : Learn :=
  { l with
    phase := 0, drawn := [], saved := [], offload := [], newResiduals := [], staged := [], folds := [], updates := [], chunks := [],
    withheld := false, decided := none, reductions := [] }

theorem State.endStep_step (s : State) : Steady stepEndPieces stepKey s s.endStep ∧ s.endStep.learn = s.learn.ended
    ∧ s.endStep.parish.peers = s.parish.peers ∧ s.endStep.parish.applied = s.parish.applied := by
  unfold State.endStep
  extract_lets ids s1 s2
  have hout : Keeps [.chips, .issues] s s1 := Keeps.foldl (fun s id => s.removeIssue_keeps id) (Keeps.refl _ s)
  have hlearn : s1.learn = s.learn := hout .learn (by decide)
  have hparish : s1.parish = s.parish := hout .parish (by decide)
  have h1 : Steady stepEndPieces stepKey s s1 := Steady.of_keeps hout (by decide) (by decide)
  have h2 : Steady stepEndPieces stepKey s1 s2 := Steady.of_keeps (keeps_learn s1 _) (by decide) (by decide)
  set s3 := s2.modParish _ with hs3
  have h3 : Steady stepEndPieces stepKey s2 s3 := Steady.of_keeps (keeps_parish s2 _) (by decide) (by decide)
  have hp := s3.promote_step
  refine ⟨((h1.trans h2).trans h3).trans (hp.mono (by decide)), ?_, ?_, ?_⟩
  · rw [hp.keeps .learn (by decide), ← hlearn]
    rfl
  · rw [hp.keeps .parish (by decide), ← hparish]
    rfl
  · rw [hp.keeps .parish (by decide), ← hparish]
    rfl

/-! ### ROLLBACK taken (R392) -/

/-- What a rollback may change. -/
def rollbackPieces : List Piece := [.boot, .chips, .faults, .issues, .learn, .mail, .od, .parish]

/-- A step in progress that is rolled back ends with outcome 4, and no shard has changed. -/
structure RolledBack (s t : State) : Prop where
  phase : t.learn.phase = 0
  outcome : t.nat 0x5002 5 = 4
  step : t.nat 0x5002 1 = s.nat 0x5002 1
  committed : t.learn.committed = s.learn.committed
  residuals : t.learn.residuals = s.learn.residuals
  applied : t.parish.applied = 4
  keeps : Keeps rollbackPieces s t

theorem State.raise_step (s : State) (a b c d : Nat) : Steady [.od, .boot, .mail, .faults] stepKey s (s.raise a b c d) :=
  ⟨s.raise_keeps a b c d, fun i j hj hk => State.post_same s _ i j hj (decide_eq_false fun e => by
    have hkey : stepKey (odKey i j) = false := decide_eq_false (by simp only [odKey, e]; omega)
    rw [hkey] at hk
    cases hk)⟩

/-- What a rollback notes before the step ends. -/
def State.rollbackNoted (s : State) : State := ((s.bump 0x5002 4).setNum 0x5002 5 4).bump 0x2801 11

theorem State.rollbackNoted_keeps (s : State) : Keeps [.od] s s.rollbackNoted :=
  ((s.add_keeps _ _ _).trans (State.setNum_keeps _ _ _ _)).trans (State.add_keeps _ _ _ _)

theorem State.rollbackNoted_outcome (s : State) : s.rollbackNoted.nat 0x5002 5 = 4 := by
  rw [State.rollbackNoted, State.bump, State.nat_add_ne _ (by decide)]
  exact State.nat_setNum_same _ _ _ 4

theorem State.rollbackNoted_step (s : State) : s.rollbackNoted.nat 0x5002 1 = s.nat 0x5002 1 := by
  rw [State.rollbackNoted, State.bump, State.nat_add_ne _ (by decide), State.nat_setNum_ne _ _ (by decide), State.bump,
    State.nat_add_ne _ (by decide)]

/-- The tray when the step that is rolled back ends: outcome 4 is noted, and no shadow is left. -/
def State.rollbackTurn (s : State) : State :=
  (s.rollbackNoted.modParish fun p => { p with applied := 4, appliedStep := s.rollbackNoted.learn.step }).modLearn
    fun l => { l with shadow := [] }

theorem State.applyRollback_eq {s : State} (h : s.learn.phase ≠ 0) :
    s.applyRollback = s.rollbackTurn.endStep.raise 0x7207 0 s.rollbackTurn.learnTenant 0 := if_neg h

theorem State.rollbackTurn_keeps (s : State) : Keeps [.od, .parish, .learn] s s.rollbackTurn :=
  ((s.rollbackNoted_keeps.mono (by decide)).trans ((keeps_parish _ _).mono (by decide))).trans ((keeps_learn _ _).mono (by decide))

theorem State.rollbackTurn_od (s : State) : s.rollbackTurn.od = s.rollbackNoted.od := rfl

theorem State.applyRollback_spec {s : State} (h : s.learn.phase ≠ 0) : RolledBack s s.applyRollback := by
  rw [State.applyRollback_eq h]
  obtain ⟨hend, hlearn, -, happlied⟩ := s.rollbackTurn.endStep_step
  have hraise := s.rollbackTurn.endStep.raise_step 0x7207 0 s.rollbackTurn.learnTenant 0
  set t := s.rollbackTurn.endStep.raise 0x7207 0 s.rollbackTurn.learnTenant 0
  have hsteady : Steady rollbackPieces stepKey s.rollbackTurn t := (hend.mono (by decide)).trans (hraise.mono (by decide))
  have hlast : t.learn = s.rollbackTurn.learn.ended := (hraise.keeps .learn (by decide)).trans hlearn
  have hod := State.nat_of_od s.rollbackTurn_od
  exact {
    phase := congrArg Learn.phase hlast
    outcome := by rw [hsteady.nat (by decide) (by decide), hod, s.rollbackNoted_outcome]
    step := by rw [hsteady.nat (by decide) (by decide), hod, s.rollbackNoted_step]
    committed := (congrArg Learn.committed hlast).trans rfl
    residuals := (congrArg Learn.residuals hlast).trans rfl
    applied := (congrArg Parish.applied (hraise.keeps .parish (by decide))).trans happlied
    keeps := (s.rollbackTurn_keeps.mono (by decide)).trans hsteady.keeps }

/-- A rollback of what `s` has become by frames alone is one of `s`. -/
theorem RolledBack.of_traffic {r s t : State} (ha : Traffic Peer.standing r s) (h : RolledBack s t) : RolledBack r t :=
  ⟨h.phase, h.outcome, h.step.trans (ha.setNat (by decide) (by decide)), h.committed.trans (congrArg Learn.committed ha.learn),
    h.residuals.trans (congrArg Learn.residuals ha.learn), h.applied, (ha.keeps.mono (by decide)).trans h.keeps⟩

theorem RolledBack.paused {s t : State} (h : RolledBack s t) : RolledBack s t.pauseStep := by
  have hp := t.pauseStep_traffic
  have hlearn : t.pauseStep.learn = t.learn := hp.steady.keeps .learn (by decide)
  exact ⟨hlearn ▸ h.phase, (hp.steady.setNat (by decide) (by decide)).trans h.outcome,
    (hp.steady.setNat (by decide) (by decide)).trans h.step, hlearn ▸ h.committed, hlearn ▸ h.residuals,
    (hp.field (f := Parish.applied) fun _ => rfl).trans h.applied, h.keeps.trans (hp.steady.keeps.mono (by decide))⟩

/-- The leader rolls the step in progress back. -/
theorem State.rollbackStep_spec {s : State} (h : s.learn.phase ≠ 0) : RolledBack s s.rollbackStep := by
  have ha := (s.sendSeats_traffic mRollback s.learn.step (leBytes 8 (s.learn.step - 1) ++ seatBytes s.seatList)).coarse
  exact RolledBack.of_traffic ha (State.applyRollback_spec (by rw [ha.learn]; exact h))

theorem State.inStep_iff (s : State) (n : Nat) : s.inStep n = true ↔ s.learn.phase ≠ 0 ∧ s.learn.step = n := by
  simp [State.inStep]

/-- The next frame in sequence that rolls a step back. -/
theorem State.takeFrame_rollsBack {s u : State} {h : MootHdr} {i : Instr} (hh : s.hears h) (hd : frameDigest i = none)
    (hu : State.deliverMoot i (s.inTurn h) = u) (hr : RolledBack (s.inTurn h) u) : RolledBack s (s.takeFrame h i) := by
  rw [State.takeFrame_inTurn hh hd hu (Or.inl (by rw [hr.phase]; decide))]
  exact (RolledBack.of_traffic (State.inTurn_traffic hh) hr).paused

theorem rollbackReceive_inStep {s : State} {h : MootHdr} {target : Nat} (map : List Nat) (hh : s.hears h) (hin : s.inStep h.step = true)
    (htarget : target + 1 = h.step) (hopen : s.outcomeOf h.step ≠ some 1) :
    RolledBack s (s.takeFrame h (.rollbackReceive h target map)) := by
  have ha := State.inTurn_traffic hh
  have hin' : (s.inTurn h).inStep h.step = true := by rw [ha.inStep]; exact hin
  refine State.takeFrame_rollsBack hh rfl ?_ (State.applyRollback_spec ((State.inStep_iff _ _).mp hin').1)
  exact (if_pos htarget).trans (if_pos ⟨hin', by rw [ha.outcomeOf]; exact hopen⟩)

theorem abortReceive_leader {s : State} {h : MootHdr} (code : Nat) (hh : s.hears h) (hl : s.leads = true) (hin : s.inStep h.step = true)
    (hc : s.parish.committedSent = false) : RolledBack s (s.takeFrame h (.abortReceive h code)) := by
  have ha := State.inTurn_traffic hh
  have hin' : (s.inTurn h).inStep h.step = true := by rw [ha.inStep]; exact hin
  have hl' : (s.inTurn h).leads = true := by rw [ha.leads]; exact hl
  have hc' : (s.inTurn h).parish.committedSent = false := (ha.field (f := Parish.committedSent) fun _ => rfl).trans hc
  refine State.takeFrame_rollsBack hh rfl ?_ (State.rollbackStep_spec ((State.inStep_iff _ _).mp hin').1)
  exact if_pos (by simp [hin', hl', hc'])

/-! ### The step timeout (R382, R392, R419) -/

/-- The frames to a peer that were sent again for a step are given up. -/
def State.dropResent (s : State) (n : Nat) : State :=
  (List.range 64).foldl (fun s p => s.modPeer p (fun x => { x with
    unacked := x.unacked.filter (fun u => !decide (0 < u.resent ∧ u.frame.step = n)) })) s

theorem State.dropResent_traffic (s : State) (n : Nat) : Traffic Peer.inward s (s.dropResent n) :=
  Traffic.foldl s fun s p _ => Traffic.modPeer s p fun _ => rfl

theorem stepTimeout_due {s : State} {m : Nat} (ht : s.parish.timerFrom = some m) (hl : s.leads = true) (hp : s.learn.phase ≠ 0)
    (hc : s.parish.committedSent = false) (hdue : s.stepDue m = true) : ∃ t, exec .stepTimeout s = .next t ∧ t.learn.phase = 0
      ∧ t.nat 0x5002 5 = 4 ∧ t.learn.committed = s.learn.committed ∧ Keeps rollbackPieces s t := by
  have hexec : ∃ unit detail, exec .stepTimeout s
      = .next ((s.raise 0x7205 unit s.learnTenant detail).dropResent s.learn.step).rollbackStep := by
    have hout : exec .stepTimeout s = .next s.stepOut := rfl
    rw [hout, State.stepOut, ht]
    simp only [hl, hc, hdue, decide_eq_false hp]
    exact ⟨_, _, rfl⟩
  obtain ⟨unit, detail, hexec⟩ := hexec
  have hraise := s.raise_keeps 0x7205 unit s.learnTenant detail
  set r := s.raise 0x7205 unit s.learnTenant detail
  have hd := (r.dropResent_traffic s.learn.step).coarse
  have hlearn : (r.dropResent s.learn.step).learn = s.learn := hd.learn.trans (hraise .learn (by decide))
  have hroll := State.rollbackStep_spec (s := r.dropResent s.learn.step) (by rw [hlearn]; exact hp)
  exact ⟨_, hexec, hroll.phase, hroll.outcome, hroll.committed.trans (congrArg Learn.committed hlearn),
    ((hraise.mono (by decide)).trans (hd.keeps.mono (by decide))).trans hroll.keeps⟩

/-- The step timeout is due at four times its nominal value, or when its count without pauses has reached the nominal value. -/
theorem State.stepDue_iff (s : State) (m : Nat) : s.stepDue m = true ↔ m + 4000 * s.nat 0x2800 10 ≤ s.micros
    ∨ (s.parish.pauseFrom = none ∧ m + 1000 * s.nat 0x2800 10 + s.parish.paused ≤ s.micros) := by
  have hfour : 4 * (1000 * s.nat 0x2800 10) = 4000 * s.nat 0x2800 10 := by omega
  simp [State.stepDue, hfour]

theorem stepTimeout_early {s : State} {m : Nat} (ht : s.parish.timerFrom = some m) (hdue : s.stepDue m = false) :
    exec .stepTimeout s = .next s := by
  have hout : exec .stepTimeout s = .next s.stepOut := rfl
  rw [hout, State.stepOut, ht]
  simp only [hdue, Bool.not_false, Bool.or_true, if_true]

end Sys2Proof.Machine
end

section
/-! PROOFS. Replay (R401 to R403): how one begins, what its results show, and how it ends. -/

namespace Sys2Proof.Machine

/-! ### Frames that leave a tray with no READY to send -/

/-- The next frame in sequence does what its type does, where this leaves the work of the step as it is. -/
theorem State.takeFrame_steady {s u : State} {h : MootHdr} {i : Instr} (hh : s.hears h) (hn : s.notReady) (hd : frameDigest i = none)
    (hu : State.deliverMoot i (s.inTurn h) = u) (hw : u.learn.work = s.learn.work) : s.takeFrame h i = u.pauseStep :=
  State.takeFrame_inTurn hh hd hu (hn.of_work hw)

theorem State.pauseStep_learn (s : State) : s.pauseStep.learn = s.learn := s.pauseStep_keeps .learn (by decide)

theorem State.pauseStep_nat (s : State) (i j : Nat) : s.pauseStep.nat i j = s.nat i j :=
  State.nat_of_od (s.pauseStep_keeps .od (by decide)) i j

/-- What a delivered frame changes beside the traffic itself. -/
theorem State.hears.keeps {s u : State} {h : MootHdr} {l : List Piece} (hh : s.hears h) (hk : Keeps l (s.inTurn h) u)
    (hl : within [.od, .parish] l = true) : Keeps l s u.pauseStep := by
  have hparish : within [.parish] l = true := by
    simp only [within, List.all_cons, List.all_nil, Bool.and_true, Bool.and_eq_true] at hl ⊢
    exact hl.2
  exact (((State.inTurn_traffic hh).keeps.mono hl).trans hk).trans (u.pauseStep_keeps.mono hparish)

/-! ### A replay begins (R402) -/

theorem State.beginReplay_learn (s : State) (n : Nat) : (s.beginReplay n).learn = { s.learn with replaying := some n } := rfl

theorem State.beginReplay_keeps (s : State) (n : Nat) : Keeps [.learn, .od] s (s.beginReplay n) :=
  ((s.modLearn_keeps _).mono (by decide)).trans ((State.setNum_keeps _ _ _ _).mono (by decide))

theorem State.beginReplay_nat (s : State) (n : Nat) : (s.beginReplay n).nat 0x7000 1 = 1 := State.nat_setNum_same _ _ _ 1

/-- The leader's replay: every other seat is told, and it begins. -/
theorem State.replayDo_spec (s : State) (n : Nat) : (s.replayDo n).learn = { s.learn with replaying := some n }
    ∧ (s.replayDo n).nat 0x7000 1 = 1 ∧ Keeps [.learn, .od, .parish] s (s.replayDo n) := by
  unfold State.replayDo
  extract_lets c u
  have hsend := (u.sendSeats_traffic mReplay n (leBytes 8 n ++ leBytes 8 c ++ [1] ++ List.replicate 15 0)).coarse
  refine ⟨?_, State.beginReplay_nat _ n, ?_⟩
  · rw [State.beginReplay_learn, hsend.learn]
    rfl
  · exact (((keeps_parish s _).mono (by decide)).trans (hsend.keeps.mono (by decide))).trans
      ((State.beginReplay_keeps _ n).mono (by decide))

theorem replayStart_accepted {s : State} {n : Net} {step : Nat}
    (h : s.accepts n 0x7000 2 (leBytes 8 step) (fun s => s.replayDeny step)) :
    ∃ t, exec (.replayStart n step) s = .next t ∧ t.learn.replaying = some step ∧ t.nat 0x7000 1 = 1 ∧ t.answered n
      ∧ t.learn.committed = s.learn.committed ∧ Keeps [.learn, .mail, .od, .parish, .slots] s t := by
  obtain ⟨hlearn, hnat, hk⟩ := (s.asked n).replayDo_spec step
  have hasked : (s.asked n).learn = s.learn := s.asked_keeps n .learn (by decide)
  have hanswered := ((s.asked n).replayDo step).answer_answered n
  have hwrite : s.replayWrite n step = ((s.asked n).replayDo step).answer n .ok := by
    unfold State.replayWrite
    extract_lets t
    have ht : t = ((s.asked n).replayDo step).answer n .ok := State.write_accepted _ h
    have hok : (t.box n).answer = .ok := by rw [ht]; exact hanswered
    rw [if_neg (by rw [hok]; exact fun hh => nomatch hh.1), ht]
  have hlast : (((s.asked n).replayDo step).answer n .ok).learn = { (s.asked n).learn with replaying := some step } := hlearn
  refine ⟨_, congrArg Host.Outcome.next hwrite, ?_, ?_, hanswered, ?_, hk.taken.mono (by decide)⟩
  · rw [hlast]
  · rw [State.nat_of_od (State.answer_od _ _ _), hnat]
  · rw [hlast, hasked]

theorem State.deliver_replay (s : State) (h : MootHdr) (step ckpt kind result : Nat) :
    State.deliverMoot (.replayReceive h step ckpt kind result) s = s.takeReplay h.src step kind result := rfl

/-- REPLAY starts one where the records and the checkpoint are there (R402, R403). -/
theorem replayReceive_start {s : State} {h : MootHdr} {step : Nat} (ckpt result : Nat) (hh : s.hears h) (hn : s.notReady)
    (hbase : (s.replayBase step).isSome = true) (htray : s.tray = .ready) :
    ∃ t, exec (.replayReceive h step ckpt 1 result) s = .next t ∧ t.learn.replaying = some step ∧ t.nat 0x7000 1 = 1
      ∧ Keeps [.learn, .od, .parish] s t := by
  have ha := State.inTurn_traffic hh
  have hbase' : ((s.inTurn h).replayBase step).isSome = true := by rw [State.replayBase, ha.learn]; exact hbase
  have htray' : (s.inTurn h).tray = .ready := (ha.keeps .tray (by decide)).trans htray
  have hact : State.deliverMoot (.replayReceive h step ckpt 1 result) (s.inTurn h) = (s.inTurn h).beginReplay step := by
    rw [State.deliver_replay, State.takeReplay, if_pos rfl, if_pos ⟨hbase', htray'⟩]
  have hwork : ((s.inTurn h).beginReplay step).learn.work = (s.inTurn h).learn.work := rfl
  refine ⟨_, congrArg Host.Outcome.next (State.takeFrame_steady hh hn rfl hact (hwork.trans (congrArg Learn.work ha.learn))), ?_, ?_,
    hh.keeps ((State.beginReplay_keeps _ _).mono (by decide)) (by decide)⟩
  · rw [State.pauseStep_learn]; rfl
  · rw [State.pauseStep_nat, State.beginReplay_nat]

theorem replayReceive_refused {s : State} {h : MootHdr} {step : Nat} (ckpt result : Nat) (hh : s.hears h) (hn : s.notReady)
    (hno : s.replayBase step = none ∨ s.tray ≠ .ready) :
    ∃ t, exec (.replayReceive h step ckpt 1 result) s = .next t ∧ t.nat 0x7000 1 = 4 ∧ Keeps [.od, .parish] s t := by
  have ha := State.inTurn_traffic hh
  have hno' : ¬(((s.inTurn h).replayBase step).isSome ∧ (s.inTurn h).tray = .ready) := by
    have hbase : (s.inTurn h).replayBase step = s.replayBase step := by rw [State.replayBase, ha.learn, State.replayBase]
    have htray : (s.inTurn h).tray = s.tray := ha.keeps .tray (by decide)
    rw [hbase, htray]
    rcases hno with hno | hno <;> simp [hno]
  set u := (s.inTurn h).setNum 0x7000 1 4 with hu
  have hsend := (u.sendTo_traffic mReplay h.src step (leBytes 8 step ++ leBytes 8 0 ++ [2, 4] ++ List.replicate 14 0)).coarse
  have hact : State.deliverMoot (.replayReceive h step ckpt 1 result) (s.inTurn h)
      = u.sendTo mReplay h.src step (leBytes 8 step ++ leBytes 8 0 ++ [2, 4] ++ List.replicate 14 0) := by
    rw [State.deliver_replay, State.takeReplay, if_pos rfl, if_neg hno']
  refine ⟨_, congrArg Host.Outcome.next (State.takeFrame_steady hh hn rfl hact
    (congrArg Learn.work (hsend.learn.trans ha.learn))), ?_,
    hh.keeps (((State.setNum_keeps _ _ _ _).mono (by decide)).trans hsend.keeps) (by decide)⟩
  rw [State.pauseStep_nat, hsend.setNat (by decide) (by decide)]
  exact State.nat_setNum_same _ _ _ 4

/-! ### Results (R403) -/

/-- The result of a tray, noted by the leader. -/
def State.replied (s : State) (tray result : Nat) : State :=
  s.modParish fun p => { p with replies := (tray, result) :: p.replies.filter (fun r => decide (r.1 ≠ tray)) }

/-- A result other than matched is shown at once. -/
theorem State.replayResult_unmatched {s : State} {result : Nat} (tray : Nat) (hstate : s.nat 0x7000 1 = 1)
    (hr : result = 3 ∨ result = 4) : s.replayResult tray result = (s.replied tray result).setNum 0x7000 1 result :=
  (if_neg (not_not.mpr hstate)).trans (if_pos hr)

/-- A tray alone has every result when its own is matched. -/
theorem State.replayResult_alone {s : State} (halone : s.inParish = false) (hstate : s.nat 0x7000 1 = 1) :
    s.replayResult s.trayId 2 = (s.replied s.trayId 2).setNum 0x7000 1 2 := by
  unfold State.replayResult
  extract_lets u want got
  have hwant : want = [s.trayId] := by
    have hin : u.inParish = false := halone
    unfold want
    rw [hin]
    rfl
  have hgot : got s.trayId = 2 := by simp [got, u, State.modParish]
  have hstate' : u.nat 0x7000 1 = 1 := hstate
  rw [if_neg (not_not.mpr hstate'), if_neg (by decide), hwant, if_pos (by simp [hgot])]
  rfl

theorem replayReceive_result {s : State} {h : MootHdr} (step ckpt : Nat) {result : Nat} (hh : s.hears h) (hn : s.notReady)
    (hr : result = 3 ∨ result = 4) (hstate : s.nat 0x7000 1 = 1) :
    ∃ t, exec (.replayReceive h step ckpt 2 result) s = .next t ∧ t.nat 0x7000 1 = result ∧ Keeps [.od, .parish] s t := by
  have ha := State.inTurn_traffic hh
  have hstate' : (s.inTurn h).nat 0x7000 1 = 1 := (ha.setNat (by decide) (by decide)).trans hstate
  have hact : State.deliverMoot (.replayReceive h step ckpt 2 result) (s.inTurn h)
      = ((s.inTurn h).replied h.src result).setNum 0x7000 1 result := by
    rw [State.deliver_replay, State.takeReplay, if_neg (by decide), if_pos rfl, State.replayResult_unmatched h.src hstate' hr]
  have hnoted : ((s.inTurn h).replied h.src result).learn.work = (s.inTurn h).learn.work := rfl
  have hwork : (((s.inTurn h).replied h.src result).setNum 0x7000 1 result).learn.work = (s.inTurn h).learn.work := hnoted
  refine ⟨_, congrArg Host.Outcome.next (State.takeFrame_steady hh hn rfl hact (hwork.trans (congrArg Learn.work ha.learn))), ?_,
    hh.keeps (((keeps_parish _ _).mono (by decide)).trans ((State.setNum_keeps _ _ _ _).mono (by decide))) (by decide)⟩
  rw [State.pauseStep_nat]
  exact State.nat_setNum_same _ _ _ result

/-! ### The end of a replay on this tray -/

/-- The output that a replay traced, where one was asked for. -/
def State.traced (s : State) : State := if s.nat 0x7001 4 = 0 then s else (s.setBytes 0x7002 0 s.traceData).draw.2

/-- The first difference that a replay found. -/
def State.differed (s : State) (step tray chip desc : Nat) : State :=
  ((s.setNum 0x7000 3 step).setNum 0x7000 4 (tray + 2 ^ 8 * chip + 2 ^ 16 * desc : Nat)).raise 0x720C
    (if chip < 16 then chipUnit chip else 0) s.learnTenant 0

/-- The result of a replay of step `n`, shown here or sent to the leader. -/
def State.replayTell (s : State) (n result : Nat) : State :=
  if s.leads then s.replayResult s.trayId result
  else (s.setNum 0x7000 1 result).sendTo mReplay s.parish.leader n
    (leBytes 8 n ++ leBytes 8 0 ++ leBytes 1 2 ++ leBytes 1 result ++ List.replicate 14 0)

theorem replayComplete_matched {s : State} {n : Nat} (h : s.learn.replaying = some n) :
    exec (.replayComplete none) s = .next ((s.modLearn fun l => { l with replaying := none }).traced.replayTell n 2) := by
  have hexec : exec (.replayComplete none) s = .next (s.replayEnd none) := rfl
  rw [hexec, State.replayEnd, h]
  rfl

theorem replayComplete_different {s : State} {n : Nat} (step tray chip desc : Nat) (h : s.learn.replaying = some n) :
    exec (.replayComplete (some (step, tray, chip, desc))) s
      = .next (((s.modLearn fun l => { l with replaying := none }).traced.differed step tray chip desc).replayTell n 3) := by
  have hexec : exec (.replayComplete (some (step, tray, chip, desc))) s = .next (s.replayEnd (some (step, tray, chip, desc))) := rfl
  rw [hexec, State.replayEnd, h]
  rfl

/-- The entries of the parish's configuration, and the state of a replay. -/
def replayKey (k : Nat) : Bool := decide (k / 256 = 0x2800 ∨ k = odKey 0x7000 1)

/-- What the end of a replay leaves where its result is told. -/
structure Retold (l : List Piece) (s t : State) : Prop where
  steady : Steady l replayKey s t
  parish : t.parish = s.parish
  learn : t.learn = s.learn
  running : t.tray = s.tray ∧ t.power = s.power

theorem Retold.trans {l : List Piece} {r s t : State} (h1 : Retold l r s) (h2 : Retold l s t) : Retold l r t :=
  ⟨h1.steady.trans h2.steady, h2.parish.trans h1.parish, h2.learn.trans h1.learn,
    h2.running.1.trans h1.running.1, h2.running.2.trans h1.running.2⟩

theorem Retold.mono {k l : List Piece} {s t : State} (h : Retold k s t) (hs : within k l = true) : Retold l s t :=
  ⟨h.steady.mono hs, h.parish, h.learn, h.running⟩

theorem Retold.nat {l : List Piece} {s t : State} (h : Retold l s t) {j : Nat} (hj : j < 256) : t.nat 0x2800 j = s.nat 0x2800 j :=
  h.steady.nat hj (decide_eq_true (Or.inl (by simp only [odKey]; omega)))

theorem Retold.inParish {l : List Piece} {s t : State} (h : Retold l s t) : t.inParish = s.inParish :=
  h.steady.flag (by decide) (by decide)

/-- The role of leader does not hang on what a replay shows. -/
theorem Retold.leads {l : List Piece} {s t : State} (h : Retold l s t) : t.leads = s.leads := by
  have hmembers : t.members = s.members := by simp only [State.members, h.nat (j := 5) (by decide), h.nat (j := 6) (by decide)]
  have htray : t.trayId = s.trayId := h.nat (by decide)
  have hself : t.selfHealthy = s.selfHealthy := by simp only [State.selfHealthy, State.runs, h.running.1, h.running.2]
  have hpeer (p : Nat) : t.peer p = s.peer p := congrArg (fun x : Parish => vget x.peers p) h.parish
  have hhealthy (p : Nat) : t.healthy p = s.healthy p := by simp only [State.healthy, htray, hself, hpeer]
  have hset : t.healthySet = s.healthySet := by simp only [State.healthySet, hmembers, funext hhealthy]
  have hquorum : t.quorum = s.quorum := by simp only [State.quorum, hmembers, hset]
  simp only [State.leads, h.inParish, h.parish, htray, hquorum]

theorem State.traced_retold (s : State) : Retold [.od, .draws] s s.traced := by
  unfold State.traced
  split
  · exact ⟨Steady.refl _ _ s, rfl, rfl, rfl, rfl⟩
  · exact ⟨((Steady.set s (.bytes _) (by decide)).mono (by decide)).trans (Steady.of_keeps (keeps_draws _ _) (by decide) (by decide)),
      rfl, rfl, rfl, rfl⟩

theorem setKey_of_replayKey {k : Nat} (h : replayKey k = true) : setKey k = true := by
  have hkey : k / 256 = 0x2800 ∨ k = odKey 0x7000 1 := of_decide_eq_true h
  simp only [odKey] at hkey
  exact decide_eq_true (by omega)

/-- A record leaves what a result is told by. -/
theorem State.raise_retold (s : State) (a b c d : Nat) : Retold [.od, .boot, .mail, .faults] s (s.raise a b c d) :=
  ⟨(s.raise_set a b c d).weaken setKey_of_replayKey, s.raise_keeps a b c d .parish (by decide),
    s.raise_keeps a b c d .learn (by decide), s.raise_keeps a b c d .tray (by decide), s.raise_keeps a b c d .power (by decide)⟩

theorem State.setNum_retold (s : State) {i j : Nat} (v : Int) (h : replayKey (odKey i j) = false) : Retold [.od] s (s.setNum i j v) :=
  ⟨Steady.setNum s v h, rfl, rfl, rfl, rfl⟩

/-- What the first difference shows (Table 11.9), and what it leaves. -/
theorem State.differed_spec (s : State) (step tray chip desc : Nat) :
    Retold [.boot, .faults, .mail, .od] s (s.differed step tray chip desc)
    ∧ (s.differed step tray chip desc).nat 0x7000 3 = step
    ∧ (s.differed step tray chip desc).nat 0x7000 4 = tray + 2 ^ 8 * chip + 2 ^ 16 * desc := by
  unfold State.differed
  set v := s.setNum 0x7000 3 step with hv
  set u := v.setNum 0x7000 4 (tray + 2 ^ 8 * chip + 2 ^ 16 * desc : Nat) with hu
  have hraise := u.raise_set 0x720C (if chip < 16 then chipUnit chip else 0) s.learnTenant 0
  have hsv : Retold [.od] s v := s.setNum_retold _ (by decide)
  have hvu : Retold [.od] v u := v.setNum_retold _ (by decide)
  refine ⟨((hsv.trans hvu).mono (by decide)).trans ((u.raise_retold _ _ _ _).mono (by decide)), ?_, ?_⟩
  · rw [hraise.setNat (by decide) (by decide), hu, State.nat_setNum_ne _ _ (by decide), hv, State.nat_setNum_same]
  · rw [hraise.setNat (by decide) (by decide), hu, State.nat_setNum_same]

/-- A result told: shown at once by a tray alone or by one that does not lead. -/
theorem State.replayTell_spec {s : State} (n : Nat) {result : Nat} (hr : result = 2 ∨ result = 3)
    (h : (s.inParish = false ∧ s.nat 0x7000 1 = 1) ∨ s.leads = false) :
    (s.replayTell n result).learn = s.learn ∧ (s.replayTell n result).nat 0x7000 1 = result
    ∧ (∀ j < 256, j ≠ 1 → (s.replayTell n result).nat 0x7000 j = s.nat 0x7000 j)
    ∧ Keeps [.od, .parish] s (s.replayTell n result) := by
  have hother (u : State) (j : Nat) (hj : j < 256) (hne : j ≠ 1) : (u.setNum 0x7000 1 result).nat 0x7000 j = u.nat 0x7000 j :=
    State.nat_setNum_ne _ _ (odKey_ne (by decide) hj (Or.inr hne))
  rcases h with ⟨halone, hstate⟩ | hl
  · have hshown : s.replayTell n result = (s.replied s.trayId result).setNum 0x7000 1 result := by
      have hl : s.leads = true := by simp [State.leads, halone]
      rw [State.replayTell, if_pos hl]
      rcases hr with rfl | rfl
      · exact State.replayResult_alone halone hstate
      · exact State.replayResult_unmatched s.trayId hstate (Or.inl rfl)
    rw [hshown]
    exact ⟨rfl, State.nat_setNum_same _ _ _ _, hother _,
      ((keeps_parish s _).mono (by decide)).trans ((State.setNum_keeps _ _ _ _).mono (by decide))⟩
  · rw [State.replayTell, if_neg (by simp [hl])]
    set u := s.setNum 0x7000 1 result with hu
    have hsend := (u.sendTo_traffic mReplay s.parish.leader n
      (leBytes 8 n ++ leBytes 8 0 ++ leBytes 1 2 ++ leBytes 1 result ++ List.replicate 14 0)).coarse
    refine ⟨hsend.learn, ?_, fun j hj hne => ?_, ((State.setNum_keeps _ _ _ _).mono (by decide)).trans hsend.keeps⟩
    · rw [hsend.setNat (by decide) (by decide), hu, State.nat_setNum_same]
    · rw [hsend.setNat (by decide) hj]
      exact hother s j hj hne

section
variable {s : State} {n : Nat} (hn : s.learn.replaying = some n) (h : (s.inParish = false ∧ s.nat 0x7000 1 = 1) ∨ s.leads = false)
include hn h

/-- A replay that ends without a difference. -/
theorem replayComplete_shows2 : ∃ t, exec (.replayComplete none) s = .next t ∧ t.learn.replaying = none ∧ t.nat 0x7000 1 = 2
    ∧ Keeps [.od, .parish, .learn, .draws] s t := by
  set u := s.modLearn fun l => { l with replaying := none } with hu
  have ht : Retold [.od, .draws] u u.traced := u.traced_retold
  have hk : Keeps [.learn] s u := s.modLearn_keeps _
  have htold : (u.traced.inParish = false ∧ u.traced.nat 0x7000 1 = 1) ∨ u.traced.leads = false := by
    rw [ht.inParish, ht.leads, ht.steady.nat (by decide) (by decide)]
    exact h
  obtain ⟨hlearn, hnat, -, hkeeps⟩ := State.replayTell_spec n (Or.inl rfl) htold
  refine ⟨_, replayComplete_matched hn, ?_, hnat,
    ((hk.mono (by decide)).trans (ht.steady.keeps.mono (by decide))).trans (hkeeps.mono (by decide))⟩
  rw [hlearn, ht.learn, hu]
  rfl

/-- A replay that ends with a first difference. -/
theorem replayComplete_shows3 (step tray chip desc : Nat) :
    ∃ t, exec (.replayComplete (some (step, tray, chip, desc))) s = .next t ∧ t.learn.replaying = none ∧ t.nat 0x7000 1 = 3
      ∧ t.nat 0x7000 3 = step ∧ t.nat 0x7000 4 = tray + 2 ^ 8 * chip + 2 ^ 16 * desc
      ∧ Keeps [.boot, .draws, .faults, .learn, .mail, .od, .parish] s t := by
  set u := s.modLearn fun l => { l with replaying := none } with hu
  obtain ⟨hdiffer, hstep, hplace⟩ := u.traced.differed_spec step tray chip desc
  set v := u.traced.differed step tray chip desc
  have hv : Retold [.boot, .draws, .faults, .learn, .mail, .od] u v :=
    (u.traced_retold.mono (by decide)).trans (hdiffer.mono (by decide))
  have hk : Keeps [.learn] s u := s.modLearn_keeps _
  have htold : (v.inParish = false ∧ v.nat 0x7000 1 = 1) ∨ v.leads = false := by
    rw [hv.inParish, hv.leads, hv.steady.nat (by decide) (by decide)]
    exact h
  obtain ⟨hlearn, hnat, hrest, hkeeps⟩ := State.replayTell_spec n (Or.inr rfl) htold
  refine ⟨_, replayComplete_different step tray chip desc hn, ?_, hnat, (hrest 3 (by decide) (by decide)).trans hstep,
    (hrest 4 (by decide) (by decide)).trans hplace,
    ((hk.mono (by decide)).trans (hv.steady.keeps.mono (by decide))).trans (hkeeps.mono (by decide))⟩
  rw [hlearn, hv.learn, hu]
  rfl

end

end Sys2Proof.Machine
end

section
/-! PROOFS. Checkpoints (R399, R400): a shard that reaches a journal, and CKPT_DONE at the leader. -/

namespace Sys2Proof.Machine

/-! ### Chunks (Table 11.3) -/

/-- A chunk stored changes the chunks alone. -/
theorem State.storeChunk_fst (s : State) (ty : Nat) (p : MootPre) (data : List Byte) :
    ∃ c, (s.storeChunk ty p data).1 = s.modLearn fun l => { l with chunks := c } := by
  unfold State.storeChunk
  extract_lets same mine rest
  split
  · exact ⟨rest, rfl⟩
  · exact ⟨mine ++ rest, rfl⟩

/-- Whether a whole has arrived hangs on the chunks held. -/
theorem State.storeChunk_snd {s t : State} (h : t.learn.chunks = s.learn.chunks) (ty : Nat) (p : MootPre) (data : List Byte) :
    (t.storeChunk ty p data).2 = (s.storeChunk ty p data).2 := by
  unfold State.storeChunk
  extract_lets same mine rest mine' rest'
  have hmine : mine = mine' := by simp only [mine, mine', h]
  rw [hmine]
  split <;> rfl

/-! ### What a journal leaves (R399) -/

/-- Learning without its journal. -/
def Learn.unjournaled (l : Learn) : Learn := { l with checkpoints := [], writingRecord := false }

/-- What a checkpoint is known by, and its shards. -/
def Checkpoint.held (c : Checkpoint) : Nat × List Shard := (c.step, c.shards)

/-- From `s` to `t` the journal alone has changed, and what is sent of it. -/
structure Journaled (s t : State) : Prop where
  keeps : Keeps [.learn, .od, .parish] s t
  learn : t.learn.unjournaled = s.learn.unjournaled

section
variable {r s t : State}

theorem Journaled.refl (s : State) : Journaled s s := ⟨Keeps.refl _ s, rfl⟩

theorem Journaled.trans (h1 : Journaled r s) (h2 : Journaled s t) : Journaled r t := ⟨h1.keeps.trans h2.keeps, h2.learn.trans h1.learn⟩

theorem Journaled.of_traffic (h : Traffic Peer.inward s t) : Journaled s t :=
  ⟨h.steady.keeps.mono (by decide), congrArg Learn.unjournaled h.coarse.learn⟩

theorem Journaled.modLearn (s : State) {f : Learn → Learn} (h : (f s.learn).unjournaled = s.learn.unjournaled) :
    Journaled s (s.modLearn f) := ⟨(s.modLearn_keeps f).mono (by decide), h⟩

/-- A field of learning outside the journal. -/
theorem Journaled.field {β : Type} {f : Learn → β} (h : Journaled s t) (hf : ∀ l, f l.unjournaled = f l) : f t.learn = f s.learn := by
  rw [← hf, ← hf s.learn, h.learn]

end

theorem State.ckptComplete_journaled (s : State) (n : Nat) : Journaled s (s.ckptComplete n) :=
  ⟨(s.ckptComplete_keeps n).mono (by decide), rfl⟩

/-- Marks on checkpoints leave what they are known by and their shards. -/
theorem held_map {l : List Checkpoint} {f : Checkpoint → Checkpoint} (h : ∀ c, (f c).held = c.held) :
    (l.map f).map Checkpoint.held = l.map Checkpoint.held := by simp [h]

theorem State.ckptComplete_held (s : State) (n : Nat) :
    (s.ckptComplete n).learn.checkpoints.map Checkpoint.held = s.learn.checkpoints.map Checkpoint.held :=
  held_map fun c => by split <;> rfl

theorem State.ckptDone_journaled (s : State) (t n : Nat) : Journaled s (s.ckptDone t n)
    ∧ (s.ckptDone t n).learn.checkpoints.map Checkpoint.held = s.learn.checkpoints.map Checkpoint.held := by
  unfold State.ckptDone
  extract_lets u want
  have hu : Journaled s u := ⟨(keeps_parish s _).mono (by decide), rfl⟩
  split
  · exact ⟨(hu.trans (u.ckptComplete_journaled n)).trans ⟨(keeps_parish _ _).mono (by decide), rfl⟩, u.ckptComplete_held n⟩
  · exact ⟨hu, rfl⟩

/-- A report that a journal is whole leaves the shards it holds. -/
theorem State.ckptReport_journaled (s : State) (n : Nat) : Journaled s (s.ckptReport n)
    ∧ (s.ckptReport n).learn.checkpoints.map Checkpoint.held = s.learn.checkpoints.map Checkpoint.held := by
  unfold State.ckptReport
  split
  · exact ⟨Journaled.refl s, rfl⟩
  · split
    · exact ⟨Journaled.refl s, rfl⟩
    · extract_lets u
      have hu : Journaled s u := Journaled.modLearn s rfl
      have hheld : u.learn.checkpoints.map Checkpoint.held = s.learn.checkpoints.map Checkpoint.held :=
        held_map fun c => by split <;> rfl
      split
      · obtain ⟨hdone, hsame⟩ := u.ckptDone_journaled u.trayId n
        exact ⟨hu.trans hdone, hsame.trans hheld⟩
      · have hsend := u.sendTo_traffic mCkptDone u.parish.leader n []
        exact ⟨hu.trans (Journaled.of_traffic hsend),
          (congrArg (fun l => l.checkpoints.map Checkpoint.held) hsend.coarse.learn).trans hheld⟩

/-- The checkpoints of a journal, with a shard put into that of step `n`. -/
theorem State.ckptShard_held (s : State) (n : Nat) (x : Shard) : Journaled s (s.ckptShard n x)
    ∧ (s.ckptShard n x).learn.checkpoints.map Checkpoint.held
      = s.learn.checkpoints.map fun c => (c.step, if c.step = n then putShard c.shards x else c.shards) := by
  obtain ⟨hreport, hheld⟩ := State.ckptReport_journaled (s.modLearn fun l => { l with
    checkpoints := l.checkpoints.map (fun c => if c.step = n then { c with shards := putShard c.shards x } else c) }) n
  refine ⟨(Journaled.modLearn s rfl).trans hreport, hheld.trans ?_⟩
  simp only [State.modLearn, List.map_map]
  refine List.map_congr_left fun c _ => ?_
  by_cases hc : c.step = n <;> simp [Checkpoint.held, hc]

theorem State.ckptShard_steps (s : State) (n : Nat) (x : Shard) :
    (s.ckptShard n x).learn.checkpoints.map Checkpoint.step = s.learn.checkpoints.map Checkpoint.step := by
  have h := congrArg (List.map Prod.fst) (s.ckptShard_held n x).2
  rw [List.map_map, List.map_map] at h
  exact h

/-- The journal has a checkpoint of step `n` once it is opened. -/
theorem State.openCkpt_spec (s : State) (n : Nat) : Journaled s (s.openCkpt n)
    ∧ n ∈ (s.openCkpt n).learn.checkpoints.map Checkpoint.step := by
  unfold State.openCkpt
  split
  · next h =>
    obtain ⟨c, hc, hstep⟩ := List.any_eq_true.mp h
    exact ⟨Journaled.refl s, List.mem_map.mpr ⟨c, hc, of_decide_eq_true hstep⟩⟩
  · extract_lets c done keep others
    exact ⟨Journaled.modLearn s rfl, List.mem_map.mpr ⟨c, List.mem_append_right _ List.mem_cons_self, rfl⟩⟩

theorem State.foldl_ckptShard (s : State) (n : Nat) (l : List Shard) : Journaled s (l.foldl (fun s x => s.ckptShard n x) s)
    ∧ (l.foldl (fun s x => s.ckptShard n x) s).learn.checkpoints.map Checkpoint.step = s.learn.checkpoints.map Checkpoint.step := by
  induction l generalizing s with
  | nil => exact ⟨Journaled.refl s, rfl⟩
  | cons x l ih =>
    obtain ⟨hj, hsteps⟩ := ih (s.ckptShard n x)
    exact ⟨(s.ckptShard_held n x).1.trans hj, hsteps.trans (s.ckptShard_steps n x)⟩

/-- A checkpoint taken is in the journal. -/
theorem State.takeCkpt_spec (s : State) (n : Nat) : Journaled s (s.takeCkpt n)
    ∧ n ∈ (s.takeCkpt n).learn.checkpoints.map Checkpoint.step := by
  unfold State.takeCkpt
  extract_lets u v mine w
  obtain ⟨hu, hopen⟩ := s.openCkpt_spec n
  have hv : Journaled u v := Journaled.modLearn u rfl
  have hvsteps : v.learn.checkpoints.map Checkpoint.step = u.learn.checkpoints.map Checkpoint.step := by
    simp only [v, State.modLearn, List.map_map]
    refine List.map_congr_left fun c _ => ?_
    by_cases hc : c.step = n <;> simp [hc]
  have hsend : Traffic Peer.inward v w := Traffic.foldl v fun s x _ =>
    Traffic.ite (Traffic.foldl s fun s t _ => s.sendWhole_traffic _ _ _ _ _ _ _ _) (Traffic.refl _ s)
  obtain ⟨hfold, hsteps⟩ := w.foldl_ckptShard n mine
  refine ⟨((hu.trans hv).trans (Journaled.of_traffic hsend)).trans hfold, ?_⟩
  rw [hsteps, hsend.coarse.learn, hvsteps]
  exact hopen

/-- The journal open for a shard of step `n`: taken here too where the leader has ordered it. -/
def State.ckptOpened (s : State) (src n : Nat) : State :=
  if decide (src = s.parish.leader ∧ n = s.nat 0x5002 1 ∧ s.learn.phase = 0)
    && !s.learn.checkpoints.any (fun c => decide (c.step = n)) then s.takeCkpt n else s.openCkpt n

theorem State.ckptOpened_spec (s : State) (src n : Nat) : Journaled s (s.ckptOpened src n)
    ∧ n ∈ (s.ckptOpened src n).learn.checkpoints.map Checkpoint.step := by
  unfold State.ckptOpened
  split
  · exact s.takeCkpt_spec n
  · exact s.openCkpt_spec n

/-- A whole shard of a checkpoint goes into the journal. -/
theorem State.takeCkptShard_whole {s : State} {p : MootPre} {data b : List Byte} (src n : Nat)
    (h : (s.storeChunk mCkpt p data).2 = some b) : ∃ c, s.takeCkptShard src n p data
      = ((s.ckptOpened src n).modLearn fun l => { l with chunks := c }).ckptShard n
        ⟨p.layer, p.shard, 0xFF, 0, (shardVals b).1, (shardVals b).2⟩ := by
  obtain ⟨hopened, -⟩ := s.ckptOpened_spec src n
  have hwhole : ((s.ckptOpened src n).storeChunk mCkpt p data).2 = some b :=
    (State.storeChunk_snd (hopened.field (f := Learn.chunks) fun _ => rfl) mCkpt p data).trans h
  obtain ⟨c, hc⟩ := (s.ckptOpened src n).storeChunk_fst mCkpt p data
  have hpair : (s.ckptOpened src n).storeChunk mCkpt p data = ((s.ckptOpened src n).modLearn fun l => { l with chunks := c }, some b) :=
    Prod.ext hc hwhole
  refine ⟨c, ?_⟩
  have htake : s.takeCkptShard src n p data = match (s.ckptOpened src n).storeChunk mCkpt p data with
    | (s, w) => match w with
      | none => s
      | some b => s.ckptShard n ⟨p.layer, p.shard, 0xFF, 0, (shardVals b).1, (shardVals b).2⟩ := rfl
  rw [htake, hpair]

/-- A shard that has been put into a list is found there. -/
theorem findShard_putShard (l : List Shard) (x : Shard) : findShard (putShard l x) x.layer x.shard x.role = some x :=
  List.find?_cons_of_pos (by simp)

theorem ckptReceive_whole {s : State} {h : MootHdr} {p : MootPre} {data b : List Byte} (hh : s.hears h) (hn : s.notReady)
    (hb : (s.storeChunk mCkpt p data).2 = some b) : ∃ t, exec (.ckptReceive h p data) s = .next t
      ∧ (∃ c ∈ t.learn.checkpoints, c.step = h.step
          ∧ (findShard c.shards p.layer p.shard 0).map (fun x => (x.lat, x.mom)) = some (shardVals b))
      ∧ t.learn.committed = s.learn.committed ∧ Keeps [.learn, .od, .parish] s t := by
  have ha := State.inTurn_traffic hh
  have hb' : ((s.inTurn h).storeChunk mCkpt p data).2 = some b :=
    (State.storeChunk_snd (congrArg Learn.chunks ha.learn) mCkpt p data).trans hb
  obtain ⟨hopened, hmem⟩ := (s.inTurn h).ckptOpened_spec h.src h.step
  obtain ⟨k, hact⟩ := State.takeCkptShard_whole h.src h.step hb'
  set v := ((s.inTurn h).ckptOpened h.src h.step).modLearn fun l => { l with chunks := k } with hv
  set x : Shard := ⟨p.layer, p.shard, 0xFF, 0, (shardVals b).1, (shardVals b).2⟩ with hx
  obtain ⟨hshard, hheld⟩ := v.ckptShard_held h.step x
  have hfield {β : Type} {f : Learn → β} (hf : ∀ l, f l.unjournaled = f l) (hfc : ∀ (l : Learn) c, f { l with chunks := c } = f l) :
      f (v.ckptShard h.step x).learn = f s.learn := by
    rw [hshard.field hf, ← ha.learn, ← hopened.field hf]
    exact hfc _ k
  have hk : Keeps [.learn, .od, .parish] (s.inTurn h) (v.ckptShard h.step x) :=
    (hopened.keeps.trans ((State.modLearn_keeps _ _).mono (by decide))).trans hshard.keeps
  have hwork : (v.ckptShard h.step x).learn.work = s.learn.work := hfield (f := Learn.work) (fun _ => rfl) fun _ _ => rfl
  refine ⟨_, congrArg Host.Outcome.next (State.takeFrame_steady hh hn rfl hact hwork), ?_, ?_, hh.keeps hk (by decide)⟩
  · rw [State.pauseStep_learn]
    obtain ⟨c, hc, hstep⟩ := List.mem_map.mp hmem
    have hput : (h.step, putShard c.shards x) ∈ (v.ckptShard h.step x).learn.checkpoints.map Checkpoint.held := by
      rw [hheld]
      exact List.mem_map.mpr ⟨c, hc, by rw [if_pos hstep, hstep]⟩
    obtain ⟨d, hd, hdheld⟩ := List.mem_map.mp hput
    obtain ⟨hdstep, hdshards⟩ := Prod.mk.inj hdheld
    refine ⟨d, hd, hdstep, ?_⟩
    have hfound : findShard d.shards p.layer p.shard 0 = some x := by
      rw [hdshards]
      exact findShard_putShard c.shards x
    rw [hfound]
    rfl
  · rw [State.pauseStep_learn]
    exact hfield (f := Learn.committed) (fun _ => rfl) fun _ _ => rfl

/-! ### CKPT_DONE (R400) -/

/-- A tray that has the checkpoint is noted by the leader. -/
def State.ckptNoted (s : State) (tray : Nat) : State :=
  s.modParish fun p => { p with ckptDones := tray :: p.ckptDones.filter (· != tray) }

theorem State.ckptDone_eq (s : State) (tray n : Nat) (hin : s.inParish = true) (hl : s.leads = true) : s.ckptDone tray n
    = if (s.seats.map Prod.snd).all (fun t => (tray :: s.parish.ckptDones.filter (· != tray)).contains t)
      then ((s.ckptNoted tray).ckptComplete n).modParish fun p => { p with ckptDones := [] } else s.ckptNoted tray := by
  unfold State.ckptDone
  extract_lets u want
  have hwant : want = s.seats.map Prod.snd := by
    have hin' : u.inParish = true := hin
    unfold want
    rw [hin']
    rfl
  have hl' : u.leads = true := hl
  rw [hl', hwant, Bool.true_and]
  rfl

/-- A tray is in a list with another put in front where it is that one, or was in the list. -/
theorem contains_cons_filter (l : List Nat) (a t : Nat) :
    (a :: l.filter (· != a)).contains t = true ↔ t = a ∨ l.contains t = true := by
  simp only [List.contains_eq_mem, decide_eq_true_eq, List.mem_cons, List.mem_filter, bne_iff_ne]
  tauto

section
variable {s : State} {h : MootHdr} (hh : s.hears h) (hl : s.leads = true)
include hh hl

/-- CKPT_DONE at the leader. -/
theorem State.deliver_ckptDone : State.deliverMoot (.ckptDoneReceive h) (s.inTurn h)
    = if (s.seats.map Prod.snd).all (fun t => (h.src :: s.parish.ckptDones.filter (· != h.src)).contains t)
      then (((s.inTurn h).ckptNoted h.src).ckptComplete h.step).modParish fun p => { p with ckptDones := [] }
      else (s.inTurn h).ckptNoted h.src := by
  have ha := State.inTurn_traffic hh
  have hin : (s.inTurn h).inParish = true := ha.steady.inParish.trans hh.1
  have hl' : (s.inTurn h).leads = true := ha.leads.trans hl
  have hdones : (s.inTurn h).parish.ckptDones = s.parish.ckptDones := ha.field (f := Parish.ckptDones) fun _ => rfl
  have hact : State.deliverMoot (.ckptDoneReceive h) (s.inTurn h) = (s.inTurn h).ckptDone h.src h.step := if_pos hl'
  rw [hact, State.ckptDone_eq _ _ _ hin hl', ha.seats, hdones]

theorem ckptDoneReceive_all (hn : s.notReady) (hall : ∀ p ∈ s.seats, p.2 = h.src ∨ s.parish.ckptDones.contains p.2 = true) :
    ∃ t, exec (.ckptDoneReceive h) s = .next t ∧ t.nat 0x2801 6 = h.step ∧ t.learn.writingRecord = true ∧ t.parish.ckptDones = []
      ∧ (∀ c ∈ t.learn.checkpoints, c.step = h.step → c.complete = true) ∧ Keeps [.od, .parish, .learn] s t := by
  have ha := State.inTurn_traffic hh
  have hact := State.deliver_ckptDone hh hl
  rw [if_pos (by
    simp only [List.all_map, List.all_eq_true, Function.comp]
    exact fun p hp => (contains_cons_filter _ _ _).mpr (hall p hp))] at hact
  set v := (s.inTurn h).ckptNoted h.src
  have hwork : (v.ckptComplete h.step).learn.work = s.learn.work :=
    (v.ckptComplete_work h.step).trans (congrArg Learn.work ha.learn)
  refine ⟨_, congrArg Host.Outcome.next (State.takeFrame_steady hh hn rfl hact hwork), ?_, ?_, ?_, ?_, ?_⟩
  · rw [State.pauseStep_nat]
    exact State.nat_setNum_same _ _ _ h.step
  · rw [State.pauseStep_learn]
    rfl
  · exact State.pauseStep_field (f := Parish.ckptDones) _ fun _ => rfl
  · rw [State.pauseStep_learn]
    intro c hc hstep
    obtain ⟨d, -, rfl⟩ := List.mem_map.mp hc
    split
    · rfl
    · next hne =>
      rw [if_neg hne] at hstep
      exact absurd hstep hne
  · refine hh.keeps ?_ (by decide)
    exact (((keeps_parish _ _).mono (by decide)).trans ((State.ckptComplete_keeps v h.step).mono (by decide))).trans
      ((keeps_parish _ _).mono (by decide))

theorem ckptDoneReceive_some (hn : s.notReady) (hleft : ∃ p ∈ s.seats, p.2 ≠ h.src ∧ s.parish.ckptDones.contains p.2 = false) :
    ∃ t, exec (.ckptDoneReceive h) s = .next t ∧ t.parish.ckptDones = h.src :: s.parish.ckptDones.filter (· != h.src)
      ∧ Keeps [.od, .parish] s t := by
  have ha := State.inTurn_traffic hh
  have hact := State.deliver_ckptDone hh hl
  obtain ⟨p, hp, hne, hmissing⟩ := hleft
  rw [if_neg (by
    intro hall
    simp only [List.all_map, List.all_eq_true, Function.comp] at hall
    rcases (contains_cons_filter _ _ _).mp (hall p hp) with he | hc
    · exact hne he
    · rw [hmissing] at hc
      cases hc)] at hact
  refine ⟨_, congrArg Host.Outcome.next (State.takeFrame_steady hh hn rfl hact (congrArg Learn.work ha.learn)), ?_,
    hh.keeps ((keeps_parish _ _).mono (by decide)) (by decide)⟩
  have hdones : (s.inTurn h).parish.ckptDones = s.parish.ckptDones := ha.field (f := Parish.ckptDones) fun _ => rfl
  rw [← hdones]
  exact State.pauseStep_field (f := Parish.ckptDones) _ fun _ => rfl

end

end Sys2Proof.Machine
end

section
/-! PROOFS. Restoring (R394 to R397): rows and shards that reach the tray that has taken a seat, and ADOPT. -/

namespace Sys2Proof.Machine

/-! ### The learnable layers of the model, whatever its images hold -/

/-- The learnable parts of the model in the learnable slot. -/
def State.layout (s : State) : Option (List LearnPart) := s.learnModel.map fun m => m.variant.learn

theorem State.learnParts_eq (s : State) : s.learnParts = s.layout.getD [] := by
  unfold State.learnParts State.layout
  cases s.learnModel <;> rfl

theorem State.layerRec_of_layout {s t : State} (h : t.layout = s.layout) (l : Nat) : t.layerRec l = s.layerRec l := by
  simp only [State.layerRec, State.layerList, State.learnParts_eq, h]

theorem State.layout_of {s t : State} (hod : t.od = s.od) (hm : ∀ n, (t.model n).map (fun m => m.variant.learn)
    = (s.model n).map (fun m => m.variant.learn)) : t.layout = s.layout := by
  have hslot : t.learnSlot = s.learnSlot := State.nat_of_od hod _ _
  rw [State.layout, State.learnModel, hslot, hm]
  rfl

theorem State.writeImage_layout (s : State) (c slot part : Nat) (side : Bool) (w : List (Nat × Byte)) :
    (s.writeImage c slot part side w).layout = s.layout := by
  unfold State.writeImage
  induction w generalizing s with
  | nil => rfl
  | cons x w ih =>
    rw [List.foldl_cons, ih]
    split
    · rfl
    · refine State.layout_of rfl fun n => ?_
      refine vget_vmod_proj (p := fun (x : Slot) => x.model.map fun m => m.variant.learn) s.slots slot n ?_
      intro x
      cases x.model <;> simp

theorem State.switchRows_layout (s : State) (c : Nat) : (s.switchRows c).layout = s.layout := by
  unfold State.switchRows
  split <;> rfl

/-! ### Rows (R364, R395) -/

/-- Learning without the rows received. -/
def Learn.rowless (l : Learn) : Learn := { l with rowsIn := [] }

theorem Learn.rowless_work (l : Learn) : l.rowless.work = l.work := rfl

theorem State.switchRows_rowless (s : State) (c : Nat) : (s.switchRows c).learn.rowless = s.learn.rowless := by
  unfold State.switchRows
  split <;> rfl

theorem State.switchRows_rowsIn (s : State) {c : Nat} {x : Nat × Nat × Nat} (hx : x.1 ≠ c) (h : x ∈ s.learn.rowsIn) :
    x ∈ (s.switchRows c).learn.rowsIn := by
  unfold State.switchRows
  split
  · exact List.mem_filter.mpr ⟨h, decide_eq_true hx⟩
  · exact h

/-- Rows that land on a chip. -/
theorem State.landRows_cases (s : State) (r : ShardRows) : s.landRows r = s.switchRows r.chip
      ∧ (s.layerRec r.layer = none ∨ s.layout = none)
    ∨ ∃ q side w, s.landRows r =
      ((s.switchRows r.chip).writeImage r.chip (s.switchRows r.chip).learnSlot q side w).modLearn fun l => { l with
        rowsIn := (r.chip, r.layer, r.shard) :: l.rowsIn.filter (fun x => decide (x ≠ (r.chip, r.layer, r.shard))) } := by
  unfold State.landRows
  extract_lets u
  have hlayout : u.layout = s.layout := s.switchRows_layout r.chip
  have hrec : u.layerRec r.layer = s.layerRec r.layer := State.layerRec_of_layout hlayout _
  split
  · exact Or.inr ⟨_, _, _, rfl⟩
  · next hno =>
    refine Or.inl ⟨rfl, ?_⟩
    cases hl : u.layerRec r.layer with
    | none => exact Or.inl (hrec ▸ hl)
    | some x => cases hm : u.learnModel with
      | none => exact Or.inr (by rw [← hlayout, State.layout, hm]; rfl)
      | some m => exact absurd hm (hno _ _ _ hl)

theorem State.landRows_layout (s : State) (r : ShardRows) : (s.landRows r).layout = s.layout := by
  rcases s.landRows_cases r with ⟨h, -⟩ | ⟨q, side, w, h⟩
  · rw [h, s.switchRows_layout]
  · rw [h]
    exact (State.writeImage_layout _ _ _ _ _ _).trans (s.switchRows_layout _)

theorem State.landRows_rowless (s : State) (r : ShardRows) : (s.landRows r).learn.rowless = s.learn.rowless := by
  rcases s.landRows_cases r with ⟨h, -⟩ | ⟨q, side, w, h⟩
  · rw [h, s.switchRows_rowless]
  · rw [h]
    have hlearn := State.writeImage_keeps (s.switchRows r.chip) r.chip (s.switchRows r.chip).learnSlot q side w .learn (by decide)
    exact (congrArg Learn.rowless hlearn).trans (s.switchRows_rowless _)

/-- Rows that land are noted, and those noted of other chips stay so. -/
theorem State.landRows_rowsIn {s : State} {r : ShardRows} (hrec : s.layerRec r.layer ≠ none) (hm : s.layout ≠ none) {c : Nat}
    (hc : c = r.chip ∨ (c, r.layer, r.shard) ∈ s.learn.rowsIn) : (c, r.layer, r.shard) ∈ (s.landRows r).learn.rowsIn := by
  rcases s.landRows_cases r with ⟨-, hno⟩ | ⟨q, side, w, h⟩
  · rcases hno with hno | hno
    · exact absurd hno hrec
    · exact absurd hno hm
  · rw [h]
    by_cases he : c = r.chip
    · exact List.mem_cons.mpr (Or.inl (by rw [he]))
    · have hin := s.switchRows_rowsIn (c := r.chip) (x := (c, r.layer, r.shard)) he (hc.resolve_left he)
      have hlearn := State.writeImage_keeps (s.switchRows r.chip) r.chip (s.switchRows r.chip).learnSlot q side w .learn (by decide)
      refine List.mem_cons_of_mem _ (List.mem_filter.mpr ⟨?_, ?_⟩)
      · rw [hlearn]
        exact hin
      · exact decide_eq_true fun heq => he (congrArg Prod.fst heq)

/-- The rows of a shard, landed on each of a list of chips, are noted for every one. -/
theorem State.landAll (s : State) {layer shard : Nat} (b : List Byte) (hrec : s.layerRec layer ≠ none) (hm : s.layout ≠ none)
    (l : List Nat) : let t := l.foldl (fun s c => s.landRows ⟨c, layer, shard, b⟩) s
    t.learn.rowless = s.learn.rowless ∧ Keeps [.chips, .learn, .slots] s t
    ∧ ∀ c, c ∈ l ∨ (c, layer, shard) ∈ s.learn.rowsIn → (c, layer, shard) ∈ t.learn.rowsIn := by
  induction l generalizing s with
  | nil => exact ⟨rfl, Keeps.refl _ s, fun c hc => hc.resolve_left List.not_mem_nil⟩
  | cons x l ih =>
    have hlayout := s.landRows_layout ⟨x, layer, shard, b⟩
    obtain ⟨hsame, hk, hin⟩ := ih (s.landRows ⟨x, layer, shard, b⟩) (by rwa [State.layerRec_of_layout hlayout]) (by rwa [hlayout])
    refine ⟨hsame.trans (s.landRows_rowless _), (s.landRows_keeps _).trans hk, fun c hc => hin c ?_⟩
    rcases hc with hc | hc
    · rcases List.mem_cons.mp hc with rfl | hc
      · exact Or.inr (State.landRows_rowsIn (r := ⟨c, layer, shard, b⟩) hrec hm (Or.inl rfl))
      · exact Or.inl hc
    · exact Or.inr (State.landRows_rowsIn (r := ⟨x, layer, shard, b⟩) hrec hm (Or.inr hc))

/-- The rows of a shard that are whole land on every chip of their layer. -/
theorem State.takeRows_whole {s : State} {ty : Nat} {p : MootPre} {data b : List Byte} {q : Nat} {r : LayerRec}
    (hb : (s.storeChunk ty p data).2 = some b) (hrec : s.layerRec p.layer = some (q, r)) (hm : s.layout ≠ none) :
    (s.takeRows ty p data).learn.work = s.learn.work ∧ Keeps [.chips, .learn, .slots] s (s.takeRows ty p data)
    ∧ ∀ c ∈ s.holders q, (c, p.layer, p.shard) ∈ (s.takeRows ty p data).learn.rowsIn := by
  obtain ⟨k, hk⟩ := s.storeChunk_fst ty p data
  set v := s.modLearn fun l => { l with chunks := k } with hv
  have hpair : s.storeChunk ty p data = (v, some b) := Prod.ext hk hb
  have hlayout : v.layout = s.layout := rfl
  have hrec' : v.layerRec p.layer = some (q, r) := (State.layerRec_of_layout hlayout _).trans hrec
  have htake : s.takeRows ty p data = (s.holders q).foldl (fun s c => s.landRows ⟨c, p.layer, p.shard, b⟩) v := by
    unfold State.takeRows
    rw [hpair]
    simp only [hrec']
    rfl
  obtain ⟨hsame, hkeeps, hin⟩ := v.landAll (shard := p.shard) b (by rw [hrec']; exact nofun) (by rwa [hlayout]) (s.holders q)
  rw [htake]
  have hwork : v.learn.work = s.learn.work := rfl
  exact ⟨by rw [← Learn.rowless_work, hsame, Learn.rowless_work, hwork],
    ((s.modLearn_keeps _).mono (by decide)).trans hkeeps, fun c hc => hin c (Or.inl hc)⟩

theorem State.takeRows_part {s : State} {ty : Nat} {p : MootPre} {data : List Byte} (hb : (s.storeChunk ty p data).2 = none) :
    ∃ k, s.takeRows ty p data = s.modLearn fun l => { l with chunks := k } := by
  obtain ⟨k, hk⟩ := s.storeChunk_fst ty p data
  have hpair : s.storeChunk ty p data = (s.modLearn fun l => { l with chunks := k }, none) := Prod.ext hk hb
  refine ⟨k, ?_⟩
  unfold State.takeRows
  rw [hpair]

section
variable {s : State} {h : MootHdr} {i : Instr} {p : MootPre} {data : List Byte} (hh : s.hears h) (hn : s.notReady)
include hh hn

/-- Rows that have come whole with a frame. -/
theorem State.takeFrame_rows {ty q : Nat} {b : List Byte} {r : LayerRec} {m : Model} (hd : frameDigest i = none)
    (hact : State.deliverMoot i (s.inTurn h) = (s.inTurn h).takeRows ty p data) (hb : (s.storeChunk ty p data).2 = some b)
    (hrec : s.layerRec p.layer = some (q, r)) (hm : s.learnModel = some m) :
    (∀ c ∈ s.holders q, (c, p.layer, p.shard) ∈ (s.takeFrame h i).learn.rowsIn)
    ∧ Keeps [.od, .parish, .learn, .chips, .slots] s (s.takeFrame h i) := by
  have ha := State.inTurn_traffic hh
  have hb' := (State.storeChunk_snd (congrArg Learn.chunks ha.learn) ty p data).trans hb
  have hholders : (s.inTurn h).holders q = s.holders q := by
    simp only [State.holders, State.copyChip, ha.learn]
  obtain ⟨hwork, hk, hin⟩ := State.takeRows_whole hb' ((ha.layerRec p.layer).trans hrec) (by
    rw [State.layout, ha.learnModel, hm]
    exact nofun)
  rw [State.takeFrame_steady hh hn hd hact (hwork.trans (congrArg Learn.work ha.learn)), State.pauseStep_learn, ← hholders]
  exact ⟨hin, hh.keeps (hk.mono (by decide)) (by decide)⟩

theorem rowsReceive_part (hb : (s.storeChunk mRows p data).2 = none) : ∃ t, exec (.rowsReceive h p data) s = .next t
    ∧ t.learn.rowsIn = s.learn.rowsIn ∧ Keeps [.od, .parish, .learn] s t := by
  have ha := State.inTurn_traffic hh
  obtain ⟨k, hact⟩ := State.takeRows_part ((State.storeChunk_snd (congrArg Learn.chunks ha.learn) mRows p data).trans hb)
  have hwork : ((s.inTurn h).modLearn fun l => { l with chunks := k }).learn.work = (s.inTurn h).learn.work := rfl
  refine ⟨_, congrArg Host.Outcome.next (State.takeFrame_steady hh hn rfl hact (hwork.trans (congrArg Learn.work ha.learn))), ?_,
    hh.keeps ((State.modLearn_keeps _ _).mono (by decide)) (by decide)⟩
  rw [State.pauseStep_learn, ← ha.learn]
  rfl

end

/-! ### Shards (R394) -/

/-- A whole shard for the seat that this tray has taken. -/
theorem State.takeRestore_shard {s : State} {p : MootPre} {data b : List Byte} (n : Nat)
    (hb : (s.storeChunk mRestore p data).2 = some b)
    (hc : p.content ≠ 1) : (findShard (s.takeRestore n p data).learn.committed p.layer p.shard 0).map (fun x => (x.lat, x.mom))
      = some (shardVals b) ∧ (s.takeRestore n p data).nat 0x5002 1 = n ∧ (s.takeRestore n p data).learn.work = s.learn.work
    ∧ Keeps [.boot, .faults, .learn, .mail, .od] s (s.takeRestore n p data) := by
  obtain ⟨k, hk⟩ := s.storeChunk_fst mRestore p data
  have hpair : s.storeChunk mRestore p data = (s.modLearn fun l => { l with chunks := k }, some b) := Prod.ext hk hb
  unfold State.takeRestore
  rw [if_neg hc, hpair]
  dsimp only
  set c := (s.modLearn fun l => { l with chunks := k }).shardChip p.layer p.shard 0
  set v := (s.modLearn fun l => { l with chunks := k }).modLearn fun l => { l with
    committed := putShard l.committed ⟨p.layer, p.shard, c, 0, (shardVals b).1, (shardVals b).2⟩,
    restoring := l.restoring.filter (fun x => decide (x ≠ (p.layer, p.shard))) } with hv
  set w := (v.setNum 0x5002 1 n).raise 0x7208 (chipUnit (c % 16)) v.learnTenant 0
  have hvk : Keeps [.learn] s v := (s.modLearn_keeps _).trans (State.modLearn_keeps _ _)
  have hraise := (v.setNum 0x5002 1 n).raise_set 0x7208 (chipUnit (c % 16)) v.learnTenant 0
  have hwk : Keeps [.boot, .faults, .learn, .mail, .od] s w :=
    ((hvk.mono (by decide)).trans ((State.setNum_keeps _ _ _ _).mono (by decide))).trans (hraise.keeps.mono (by decide))
  have hwlearn : w.learn = v.learn := hraise.keeps .learn (by decide)
  have hwnat : w.nat 0x5002 1 = n := (hraise.setNat (by decide) (by decide)).trans (State.nat_setNum_same _ _ _ _)
  have hshard : (findShard v.learn.committed p.layer p.shard 0).map (fun x => (x.lat, x.mom)) = some (shardVals b) :=
    congrArg (Option.map fun x : Shard => (x.lat, x.mom))
      (findShard_putShard s.learn.committed ⟨p.layer, p.shard, c, 0, (shardVals b).1, (shardVals b).2⟩)
  have hwork : v.learn.work = s.learn.work := rfl
  split
  · set x := w.modLearn fun l => { l with restarted := true } with hx
    have hcommitted : x.learn.committed = v.learn.committed := by rw [← hwlearn]; rfl
    have hxwork : x.learn.work = v.learn.work := by rw [← hwlearn]; rfl
    have hxnat : x.nat 0x5002 1 = n := (State.nat_of_od rfl _ _).trans hwnat
    have hlast := x.raise_set 0x720A 0 w.learnTenant 0
    have hlearn : (x.raise 0x720A 0 w.learnTenant 0).learn = x.learn := hlast.keeps .learn (by decide)
    refine ⟨?_, (hlast.setNat (by decide) (by decide)).trans hxnat, ?_,
      (hwk.trans ((w.modLearn_keeps _).mono (by decide))).trans (hlast.keeps.mono (by decide))⟩
    · rw [hlearn, hcommitted]
      exact hshard
    · rw [hlearn, hxwork]
      exact hwork
  · exact ⟨hwlearn ▸ hshard, hwnat, hwlearn ▸ hwork, hwk⟩

theorem restoreReceive_shard {s : State} {h : MootHdr} {p : MootPre} {data b : List Byte} (hh : s.hears h) (hn : s.notReady)
    (hb : (s.storeChunk mRestore p data).2 = some b) (hc : p.content ≠ 1) : ∃ t, exec (.restoreReceive h p data) s = .next t
      ∧ (findShard t.learn.committed p.layer p.shard 0).map (fun x => (x.lat, x.mom)) = some (shardVals b)
      ∧ t.nat 0x5002 1 = h.step ∧ Keeps [.boot, .chips, .faults, .learn, .mail, .od, .parish, .slots] s t := by
  have ha := State.inTurn_traffic hh
  have hb' := (State.storeChunk_snd (congrArg Learn.chunks ha.learn) mRestore p data).trans hb
  obtain ⟨hshard, hnat, hwork, hk⟩ := (s.inTurn h).takeRestore_shard h.step hb' hc
  refine ⟨_, congrArg Host.Outcome.next (State.takeFrame_steady hh hn rfl rfl (hwork.trans (congrArg Learn.work ha.learn))), ?_, ?_,
    hh.keeps (hk.mono (by decide)) (by decide)⟩
  · rw [State.pauseStep_learn]
    exact hshard
  · rw [State.pauseStep_nat]
    exact hnat

/-! ### Learning on a tray that has taken a seat (R396) -/

theorem State.placeCopy_work {s t : State} {m : Model} (h : s.placeCopy m = some t) : t.learn.work = s.learn.work := by
  unfold State.placeCopy at h
  split at h
  · cases h
  · extract_lets lay s1 at h
    cases h
    have h1 : Keeps [.chips] s s1 := Keeps.foldl (fun s q => by
      unfold lay
      split
      · exact Keeps.refl _ s
      · exact keeps_chips s _) (Keeps.refl _ s)
    rw [State.trimPools_keeps _ .learn (by decide), ← h1 .learn (by decide)]
    rfl

theorem State.placeCopies_work {s t : State} {m : Model} {n : Nat} (h : s.placeCopies m n = some t) : t.learn.work = s.learn.work := by
  induction n generalizing t with
  | zero =>
    cases h
    rfl
  | succ n ih =>
    obtain ⟨r, hr, ht⟩ := Option.bind_eq_some_iff.mp h
    exact (State.placeCopy_work ht).trans (ih hr)

/-- A plan for learning leaves the work of the step. -/
theorem State.learnPlan_work {s t : State} (h : s.learnPlan = .ok t) : t.learn.work = s.learn.work := by
  unfold State.learnPlan at h
  split at h
  · cases h
  · split at h
    · cases h
    · split at h
      · cases h
      · split at h
        · cases h
        · next r hcopies =>
          extract_lets r1 at h
          have h0 : r.learn.work = s.learn.work := State.placeCopies_work hcopies
          have h1 : r1.learn.work = s.learn.work := h0
          split at h
          · cases h
          · next u hlaid =>
            extract_lets need commit at h
            have h2 : u.learn.work = s.learn.work := (congrArg Learn.work (State.layWindows_keeps hlaid .learn (by decide))).trans h1
            split at h
            · cases h
            · split at h
              · cases h
              · cases h
                split
                · rfl
                · exact h2

/-- What leaves the work of the step leaves it however often it is done. -/
theorem State.foldl_work {β : Type} {f : State → β → State} (hf : ∀ s x, (f s x).learn.work = s.learn.work) (l : List β) (s : State) :
    (l.foldl f s).learn.work = s.learn.work := by
  induction l generalizing s with
  | nil => rfl
  | cons x l ih => exact (ih (f s x)).trans (hf s x)

theorem State.landRows_work (s : State) (r : ShardRows) : (s.landRows r).learn.work = s.learn.work := by
  rw [← Learn.rowless_work, s.landRows_rowless, Learn.rowless_work]

theorem State.formAll_work (s : State) (lat : LayerRec → List Nat) : (s.formAll lat).learn.work = s.learn.work := by
  unfold State.formAll forEach
  refine State.foldl_work (fun s x => ?_) _ s
  refine State.foldl_work (fun s j => ?_) _ s
  exact State.foldl_work (fun s h => s.landRows_work _) _ s

theorem State.takeShards_work (s : State) (lat mom : LayerRec → List Nat) : (s.takeShards lat mom).learn.work = s.learn.work := rfl

theorem State.setNum_work (s : State) (i j : Nat) (v : Int) : (s.setNum i j v).learn.work = s.learn.work := rfl

theorem State.restarted_work (s : State) : (s.modLearn fun l => { l with restarted := true }).learn.work = s.learn.work := rfl

theorem State.loadCkpt_work (s : State) (c : Checkpoint) : (s.loadCkpt c).learn.work = s.learn.work := by
  unfold State.loadCkpt
  extract_lets s1 whole same s2 s3 s4 s5
  rw [State.formAll_work]
  have h1 : s1.learn.work = s.learn.work := rfl
  have h2 : s2.learn.work = s1.learn.work := rfl
  have h3 : s3.learn.work = s2.learn.work := rfl
  have h4 : s4.learn.work = s3.learn.work := by unfold s4; rw [State.setNum_work, State.setNum_work, State.setNum_work]
  have h5 : s5.learn.work = s4.learn.work := by
    unfold s5
    split
    · rfl
    · rw [State.raise_keeps _ _ _ _ _ .learn (by decide), State.restarted_work]
  rw [h5, h4, h3, h2, h1]

theorem State.beginLearning_work (s : State) (q : Nat) : (s.beginLearning q).learn.work = s.learn.work := by
  unfold State.beginLearning
  split
  · rfl
  · extract_lets id s1 s2
    have h1 : s1.learn.work = s.learn.work := by
      unfold s1
      split <;> rfl
    have h2 : s2.learn.work = s1.learn.work := by
      unfold s2
      split <;> rfl
    split
    · exact h1
    · split
      · split
        · rw [State.loadCkpt_work, h1]
        · rw [State.setNum_work, State.setNum_work, State.takeShards_work, h1]
      · split
        · rw [State.takeShards_work, h2, h1]
        · rw [h2, h1]

/-- The copies of a tray that has taken a seat are placed: neither the parish nor the work of the step changes. -/
theorem State.joinSeat_spec (s : State) : Keeps latentPieces s s.joinSeat ∧ s.joinSeat.learn.work = s.learn.work := by
  unfold State.joinSeat
  split
  · split
    · next t hplan =>
      have hk := State.learnPlan_keeps hplan
      have ht : { t with parish := s.parish } = t := by rw [← hk .parish (by decide)]
      rw [ht]
      exact ⟨(hk.mono (by decide)).trans (t.beginLearning_sameFirmware _).keeps,
        (t.beginLearning_work _).trans (State.learnPlan_work hplan)⟩
    · exact ⟨Keeps.refl _ s, rfl⟩
  · exact ⟨Keeps.refl _ s, rfl⟩

/-! ### ADOPT (R396) -/

/-- A bit that is taken away reads as such. -/
theorem bit_putBit_false (v n : Nat) : bit (putBit v n false) n = false := by
  unfold putBit bit
  cases h : v.testBit n
  · simp [h]
  · have hsplit : 2 ^ n + (v - 2 ^ n) = v := Nat.add_sub_cancel' (Nat.ge_two_pow_of_testBit h)
    have hflip : (2 ^ n + (v - 2 ^ n)).testBit n = !(v - 2 ^ n).testBit n := Nat.testBit_two_pow_add_eq _ _
    rw [hsplit, h] at hflip
    simpa using hflip.symm

/-- A seat that is held stays with its holder when trays take their own seats (R374). -/
theorem State.seatOwn_held {s : State} {i : Nat} (h : vget s.parish.seatMap i ≠ 0xFF) :
    vget s.seatOwn.parish.seatMap i = vget s.parish.seatMap i := by
  refine List.foldlRecOn (motive := fun m : Vector Nat 64 => vget m i = vget s.parish.seatMap i) _ _ rfl fun m hm j _ => ?_
  split
  · next hopen =>
    by_cases hij : j = i
    · subst hij
      exact absurd (hm ▸ hopen.1) h
    · rw [vget_vset_ne _ _ hij, hm]
  · exact hm

theorem State.review_held {s : State} {i : Nat} (h : vget s.parish.seatMap i ≠ 0xFF) :
    vget s.review.parish.seatMap i = vget s.parish.seatMap i := by
  unfold State.review
  split
  · rfl
  · extract_lets s1 l changed st p s2
    have h2 : vget s2.parish.seatMap i = vget s.parish.seatMap i := State.seatOwn_held h
    split
    · rw [s2.raise_keeps _ _ _ _ .parish (by decide)]
      exact h2
    · exact h2

theorem State.takeAdopt_spec {s : State} {seat : Nat} (hid : s.trayId < 64) (hown : s.ownSeat = 0xFF) (hseat : seat < 64) :
    vget (s.takeAdopt seat).parish.seatMap seat = s.trayId ∧ bit (s.takeAdopt seat).parish.vacant seat = false
    ∧ (s.takeAdopt seat).learn.committed = [] ∧ (s.takeAdopt seat).learn.residuals = []
    ∧ (s.takeAdopt seat).learn.work = s.learn.work ∧ Keeps stepPieces s (s.takeAdopt seat) := by
  unfold State.takeAdopt
  rw [if_neg (by rw [hown]; decide)]
  extract_lets u v
  obtain ⟨hk, hwork⟩ := (s.seatTo seat s.trayId).joinSeat_spec
  have hparish : v.parish = (s.seatTo seat s.trayId).parish := hk .parish (by decide)
  have hmap : vget v.parish.seatMap seat = s.trayId := by
    rw [hparish]
    exact vget_vset_same _ _ hseat
  have hview := v.review_viewed
  refine ⟨(State.review_held (by rw [hmap]; omega)).trans hmap, ?_, ?_, ?_, ?_, ?_⟩
  · have hvacant : v.review.parish.vacant = putBit s.parish.vacant seat false :=
      (hview.field (f := Parish.vacant) fun _ => rfl).trans (congrArg Parish.vacant hparish)
    rw [hvacant, bit_putBit_false]
  · rw [hview.learn]; rfl
  · rw [hview.learn]; rfl
  · rw [hview.learn]
    exact hwork
  · exact ((((keeps_parish s _).mono (by decide)).trans (hk.mono (by decide))).trans ((u.modLearn_keeps _).mono (by decide))).trans
      (hview.steady.keeps.mono (by decide))

theorem adoptReceive_free {s : State} {h : MootHdr} {seat : Nat} (hh : s.hears h) (hid : s.trayId < 64) (hn : s.notReady)
    (hown : s.ownSeat = 0xFF) (hseat : seat < 64) :
    ∃ t, exec (.adoptReceive h seat) s = .next t ∧ vget t.parish.seatMap seat = s.trayId ∧ bit t.parish.vacant seat = false
      ∧ t.learn.committed = [] ∧ t.learn.residuals = [] ∧ Keeps stepPieces s t := by
  have ha := State.inTurn_traffic hh
  have htray : (s.inTurn h).trayId = s.trayId := ha.steady.trayId
  obtain ⟨hmap, hvacant, hcommitted, hresiduals, hwork, hk⟩ :=
    State.takeAdopt_spec (by rwa [htray]) (by rw [ha.ownSeat]; exact hown) hseat
  refine ⟨_, congrArg Host.Outcome.next (State.takeFrame_steady hh hn rfl rfl (hwork.trans (congrArg Learn.work ha.learn))),
    ?_, ?_, ?_, ?_, hh.keeps hk (by decide)⟩
  · rw [← htray, ← hmap]
    exact State.pauseStep_field (f := fun p => vget p.seatMap seat) _ fun _ => rfl
  · rw [← hvacant]
    exact State.pauseStep_field (f := fun p => bit p.vacant seat) _ fun _ => rfl
  · rw [State.pauseStep_learn]
    exact hcommitted
  · rw [State.pauseStep_learn]
    exact hresiduals

/-! ### The statement -/

/-- Settles O50: rollback, abort, the step timeout, restoring, checkpoints and replay. -/
theorem stepsRolledBack : Obligations.StepsRolledBack := by
  unfold Obligations.StepsRolledBack
  intro s
  refine ⟨fun h target map hh hin ht ho => ?_, fun h code hh hl hin hc => ?_, fun m ht hl hp hc hdue => ?_, fun m ht hfour hone => ?_,
    fun h seat hh hid hn ho hs => adoptReceive_free hh hid hn ho hs,
    fun h p data q r m b hh hn hrec hm => ⟨fun hb => ?_, fun hb hc => ?_⟩,
    fun h p data hh hn hb => rowsReceive_part hh hn hb, fun h p data b hh hn hb hc => restoreReceive_shard hh hn hb hc,
    fun h p data b hh hn hb => ckptReceive_whole hh hn hb, fun h hh hn hl hall => ckptDoneReceive_all hh hl hn hall,
    fun h hh hn hl hleft => ckptDoneReceive_some hh hl hn hleft, fun hw => congrArg Host.Outcome.next (if_pos hw),
    fun hw => congrArg Host.Outcome.next (if_neg (by simp [hw])), fun n step ha => replayStart_accepted ha,
    fun h step ckpt result hh hn hb ht => replayReceive_start ckpt result hh hn hb ht,
    fun h step ckpt result hh hn hno => replayReceive_refused ckpt result hh hn hno,
    fun h step ckpt result hh hn hr hs => replayReceive_result step ckpt hh hn hr hs,
    fun n hn hs => ⟨replayComplete_shows2 hn hs, replayComplete_shows3 hn hs⟩, fun diff hn => ?_⟩
  · have hr := rollbackReceive_inStep map hh hin ht ho
    exact ⟨_, rfl, hr.phase, hr.outcome, hr.step, hr.committed, hr.residuals, hr.applied, hr.keeps.mono (by decide)⟩
  · have hr := abortReceive_leader code hh hl hin hc
    exact ⟨_, rfl, hr.phase, hr.outcome, hr.committed, hr.keeps.mono (by decide)⟩
  · exact stepTimeout_due ht hl hp hc ((s.stepDue_iff m).mpr hdue)
  · refine stepTimeout_early ht (Bool.eq_false_iff.mpr fun hdue => ?_)
    rcases (s.stepDue_iff m).mp hdue with hdue | ⟨hnone, hdue⟩
    · omega
    · rcases hone with hone | hone
      · exact hone hnone
      · omega
  · obtain ⟨hin, hk⟩ := State.takeFrame_rows (i := .rowsReceive h p data) hh hn rfl rfl hb hrec hm
    exact ⟨_, rfl, hin, hk⟩
  · obtain ⟨hin, hk⟩ := State.takeFrame_rows (i := .restoreReceive h p data) hh hn rfl (if_pos hc) hb hrec hm
    exact ⟨_, rfl, hin, hk⟩
  · have hexec : exec (.replayComplete diff) s = .next (s.replayEnd diff) := rfl
    rw [hexec, State.replayEnd, hn]

end Sys2Proof.Machine
end

section
/-! PROOFS. COMMIT of a learning step (R390) where a counter of a squashed issue stands at OD 0x5002:05: the statement on the frames
of a learning step fails in its clause on COMMIT. -/

namespace Sys2Proof.Machine

/-! ### The order of a commit -/

/-- What a commit notes before its stall time is shown. -/
def State.commitNoted (s : State) (n digest : Nat) : State :=
  let s := s.recordStep 1 digest
  let s := s.modLearn fun l => { l with
    committed := l.shadow.foldl putShard l.committed,
    shadow := l.committed,
    residuals := l.newResiduals ++ l.residuals.filter (fun r =>
      !l.newResiduals.any (fun x => decide (x.chip = r.chip ∧ x.layer = r.layer))) }
  let s := s.scaleAfter true
  let s := ((s.setNum 0x5002 1 n).bump 0x5002 2).setNum 0x5002 5 1
  let s := match s.learn.decided with
    | some d => s.setNum 0x5002 6 d.norm
    | none => s
  let s := s.setNum 0x5002 8 (s.micros - s.learn.startedAt : Nat)
  let s := s.modParish fun p => { p with applied := 1, appliedStep := n }
  let s := (s.bump (blk s.learnTenant (0x20 + s.nat 0x5000 3)) 4).bump (blk s.learnTenant 0x2F) 1
  s.gather n

/-- Issues of the jobs chained to the learning job (R260). -/
def State.chainLearned (s : State) : State :=
  s.chained s.learnTenant (s.nat 0x5000 3) s.learn.fireK s.learn.fireAngle s.learn.fireFlags s.learn.fireShaft

theorem State.applyCommit_eq {s : State} {n : Nat} (digest : Nat) (hphase : s.learn.phase ≠ 0) (hstep : s.learn.step = n)
    (hopen : ¬(s.parish.appliedStep = n ∧ s.parish.applied ≠ 0)) :
    s.applyCommit n digest = (((s.commitNoted n digest).showStall.endStep).checkpoint n).chainLearned :=
  if_neg (by
    rintro (h | h | h)
    · exact hphase h
    · exact h hstep
    · exact hopen h)

theorem State.chainLearned_learn (s : State) : s.chainLearned.learn = s.learn := by
  have hk : Keeps triggerPieces s s.chainLearned := by
    refine Keeps.foldl (fun s p => ?_) (Keeps.refl _ s)
    dsimp only
    exact Keeps.ite (s.trigger_steady _ _).keeps (Keeps.refl _ s)
  exact hk .learn (by decide)

theorem State.deliver_commit (s : State) (h : MootHdr) : State.deliverMoot (.commitReceive h) s
    = if s.inStep h.step then s.applyCommit h.step (s.trayDigest h.step) else s := rfl

theorem State.checkpoint_work (s : State) (n : Nat) : (s.checkpoint n).learn.work = s.learn.work := by
  unfold State.checkpoint
  split
  · rfl
  · exact (s.takeCkpt_spec n).1.field (f := Learn.work) fun _ => rfl

/-- COMMIT of a step that this tray has not applied. -/
theorem commitReceive_noted {s m : State} {h : MootHdr} (hh : s.hears h) (hin : s.inStep h.step = true)
    (hopen : ¬((s.inTurn h).parish.appliedStep = h.step ∧ (s.inTurn h).parish.applied ≠ 0))
    (hm : (s.inTurn h).commitNoted h.step ((s.inTurn h).trayDigest h.step) = m) :
    exec (.commitReceive h) s = .next ((m.showStall.endStep).checkpoint h.step).chainLearned.pauseStep := by
  have ha := State.inTurn_traffic hh
  have hin' : (s.inTurn h).inStep h.step = true := (ha.inStep _).trans hin
  obtain ⟨hphase, hstep⟩ := (State.inStep_iff _ _).mp hin'
  have hact : State.deliverMoot (.commitReceive h) (s.inTurn h) = ((m.showStall.endStep).checkpoint h.step).chainLearned := by
    rw [State.deliver_commit, if_pos hin', State.applyCommit_eq _ hphase hstep hopen, hm]
  refine congrArg Host.Outcome.next (State.takeFrame_inTurn hh rfl hact (Or.inl ?_))
  have hwork := (m.showStall.endStep).checkpoint_work h.step
  have hphase0 : ((m.showStall.endStep).checkpoint h.step).learn.phase = 0 :=
    (congrArg Prod.fst hwork).trans (congrArg Learn.phase (State.endStep_step _).2.1)
  rw [State.chainLearned_learn, hphase0]
  decide

/-- The end of a step in which no issue is a micro-batch, or waits for a slot, keeps the entries and the issues. -/
theorem State.endStep_idle {s : State} (h : ∀ i ∈ s.issues, i.micro = none ∧ i.waitsSlot = false) :
    Keeps [.learn, .parish] s s.endStep := by
  have hids : s.issues.filter (fun i => i.micro.isSome) = [] :=
    List.filter_eq_nil_iff.mpr fun i hi => by simp [(h i hi).1]
  have hpromote (l : List Issue) (hl : ∀ i ∈ l, i.waitsSlot = false) (s : State) : l.foldl State.promoteOne s = s := by
    induction l with
    | nil => rfl
    | cons i l ih =>
      have hone : s.promoteOne i = s := by
        unfold State.promoteOne
        rw [if_neg (by simp [hl i List.mem_cons_self])]
      rw [List.foldl_cons, hone]
      exact ih fun i hi => hl i (List.mem_cons_of_mem _ hi)
  unfold State.endStep
  rw [hids]
  extract_lets ids s1 s2
  have h2 : Keeps [.learn, .parish] s s2 := (keeps_learn s _).mono (by decide)
  set s3 := s2.modParish _
  have h3 : s3.promote = s3 := hpromote s.issues (fun i hi => (h i hi).2) s3
  rw [h3]
  exact h2.trans ((keeps_parish s2 _).mono (by decide))

/-- The stall time of a step is one entry, of a value that is free. -/
theorem State.showStall_eq (s : State) : ∃ v : Int, s.showStall = s.draw.2.setNum 0x2420 6 v := ⟨_, rfl⟩

/-! ### Enabled jobs -/

/-- An entry enables a job only at sub-index 1 of a job's object. -/
def jobEnabled (e : Nat × OdVal) : Option (Nat × Nat) :=
  if e.1 % 256 = 1 ∧ 0x3000 ≤ e.1 / 256 ∧ e.1 / 256 < 0x4000 ∧ 0x20 ≤ e.1 / 256 % 256 ∧ e.1 / 256 % 256 ≤ 0x2E ∧ e.2 ≠ .num 0 then
    some ((e.1 / 256 - 0x3000) / 0x100, e.1 / 256 % 256 - 0x20) else none

theorem State.enabledJobs_eq (s : State) : s.enabledJobs = s.od.filterMap jobEnabled := rfl

theorem jobEnabled_other {k : Nat} (hk : k % 256 ≠ 1) (v : OdVal) : jobEnabled (k, v) = none := if_neg fun h => hk h.1

theorem filterMap_insertKey {k : Nat} (hk : k % 256 ≠ 1) (v : OdVal) (l : OdStore) :
    List.filterMap jobEnabled (insertKey k v l) = List.filterMap jobEnabled l := by
  induction l with
  | nil => simp [insertKey, jobEnabled_other hk]
  | cons e l ih =>
    obtain ⟨j, y⟩ := e
    unfold insertKey
    split
    · rw [List.filterMap_cons_none (jobEnabled_other hk v)]
    · split
      · next he =>
        subst he
        rw [List.filterMap_cons_none (jobEnabled_other hk v), List.filterMap_cons_none (jobEnabled_other hk y)]
      · simp only [List.filterMap_cons, ih]

theorem filterMap_eraseKey {k : Nat} (hk : k % 256 ≠ 1) (l : OdStore) :
    List.filterMap jobEnabled (eraseKey k l) = List.filterMap jobEnabled l := by
  induction l with
  | nil => rfl
  | cons e l ih =>
    obtain ⟨j, y⟩ := e
    unfold eraseKey
    split
    · next he =>
      subst he
      rw [ih, List.filterMap_cons_none (jobEnabled_other hk y)]
    · simp only [List.filterMap_cons, ih]

/-- An entry at another sub-index enables no job, and disables none. -/
theorem State.enabledJobs_set (s : State) {i j : Nat} (v : OdVal) (hj : j < 256) (h : j ≠ 1) :
    (s.set i j v).enabledJobs = s.enabledJobs := by
  have hk : odKey i j % 256 ≠ 1 := by simp only [odKey]; omega
  have hset : (s.set i j v).od = s.od.set i j v := rfl
  rw [State.enabledJobs_eq, State.enabledJobs_eq, hset, OdStore.set]
  split
  · exact filterMap_eraseKey hk _
  · exact filterMap_insertKey hk v _

/-- A step with nothing in the chips ends with nothing changed but its stall time, its phases and what the parish knows of it. -/
theorem State.stepEnded_spec {s : State} {n : Nat} (h : ∀ i ∈ s.issues, i.micro = none ∧ i.waitsSlot = false)
    (hn : n % max 1 (s.nat 0x2800 12) ≠ 0) : Keeps [.od, .draws, .learn, .parish] s ((s.showStall.endStep).checkpoint n)
    ∧ ((s.showStall.endStep).checkpoint n).enabledJobs = s.enabledJobs
    ∧ ∀ i j, odKey i j ≠ odKey 0x2420 6 → ((s.showStall.endStep).checkpoint n).get i j = s.get i j := by
  obtain ⟨v, hv⟩ := s.showStall_eq
  set u := s.draw.2.setNum 0x2420 6 v with hu
  have hend : Keeps [.learn, .parish] u u.endStep := State.endStep_idle h
  have hod : u.endStep.od = u.od := hend .od (by decide)
  have hget (i j : Nat) (hij : odKey i j ≠ odKey 0x2420 6) : u.endStep.get i j = s.get i j := by
    have hset : u.endStep.get i j = u.get i j := by rw [State.get, hod, State.get]
    exact hset.trans (State.get_set_ne _ _ hij)
  have hcheckpoint : u.endStep.checkpoint n = u.endStep := by
    have hevery : u.endStep.nat 0x2800 12 = s.nat 0x2800 12 := by
      rw [State.nat, State.num, hget _ _ (by decide), State.nat, State.num]
    rw [State.checkpoint, if_pos (by rwa [hevery])]
  rw [hv, hcheckpoint]
  refine ⟨?_, ?_, hget⟩
  · exact (((keeps_draws s _).mono (by decide)).trans ((State.setNum_keeps _ _ _ _).mono (by decide))).trans (hend.mono (by decide))
  · have hsame : u.endStep.enabledJobs = u.enabledJobs := by rw [State.enabledJobs_eq, hod, State.enabledJobs_eq]
    exact hsame.trans (State.enabledJobs_set _ _ (by decide) (by decide))

/-! ### A tray whose counters meet -/

/-- A trigger, in the queue of tenant 15, of a job that no tenant has: of number 4322. -/
def farTrigger : Trigger := ⟨4322, 0, 0, 0, 0, none, 0, 0, false⟩

/-- A speculative issue of that job, which expects the trigger. -/
def farIssue : Issue :=
  { id := 0, tenant := 15, job := 4322, slot := 0, entry := 0, kind := 0, index := 0, st := .speculative, ranAhead := false,
    waitsSlot := false, order := 0, epoch := 0, traj := ⟨0, 0, 0, 0, 1, 0, 1⟩, k := 0, angle := 0, flags := 0, shaft := 0,
    frame := none, frameFlags := 0, gated := false, parts := [], arrived := [], saturated := 0, satFlag := false, frameData := [],
    stripsIn := [], finished := false, rows := [], micro := none, out := [] }

/-- A model with no partition. -/
def emptyModel : Model :=
  { bundle := [], learnable := true, placed := [],
    variant := { number := 0, p := 0, chain := false, kvBytes := 0, vocab := 0, batch := 1, stopToken := 0, handOffs := [], learn := [],
                 parts := [], entries := [] } }

/-- The entries of a tray of the parish of trays 0, 1 and 2, tray 1 itself, where tenant 15 learns with job 0, job 1 is chained to it,
and a full queue drops its oldest trigger. -/
def metEntries : List (Nat × Nat × Int) :=
  [(0x2800, 1, 1), (0x2800, 2, 1), (0x2800, 5, 7), (0x5000, 1, 15), (0x4000, 1, 15), (0x3F00, 2, 1), (0x3F21, 1, 1), (0x3F50, 1, 1)]

/-- That tray in phase 3 of step 1, with eight of those triggers in the queue and that issue to be decided. -/
def metState : State :=
  { ((metEntries.foldl (fun s e => s.setNum e.1 e.2.1 e.2.2) State.reset).setBytes 0x3F21 2
      (leBytes 4 0x300 ++ List.replicate 28 0)).modSlot 0 (fun x => { x with model := some emptyModel }) with
    tray := .learning, timebase := 1000000000000, learn := { phase := 3, step := 1 }, issues := [farIssue], nextIssue := 1
    pend := Vector.replicate 16 { queue := List.replicate 8 farTrigger, decimating := true }
    parish := {
      leader := 2, module := Vector.replicate 2 true, lock := Vector.replicate 2 true,
      peers := Vector.replicate 64 { healthy := true, digestOk := true, trayState := 3 } } }

/-- The header of a COMMIT of step 1 by tray 2. -/
def commitHdr : MootHdr := ⟨0, 2, 0, 0, 1, false, false, false⟩

theorem metState_hears : metState.hears commitHdr ∧ metState.inStep commitHdr.step = true ∧ metState.unapplied := by
  unfold State.hears State.unapplied
  decide +kernel

/-- The tray as COMMIT finds it, with all noted but the stall time. -/
def metNoted : State := (metState.inTurn commitHdr).commitNoted 1 ((metState.inTurn commitHdr).trayDigest 1)

/-! ### The job is chained, and the queue drops its oldest trigger (R260, R271, R286) -/

/-- The outcome of the last step counted up, as the counter of squashed issues that stands at the same entry. -/
theorem State.bump_outcome {s : State} (h : s.nat 0x5002 5 = 1) : (s.bump 0x5002 5).nat 0x5002 5 = 2 := by
  have hrow : (odRow 0x5002 5).map (fun r => r.ty.bits) = some 8 := by decide
  unfold State.bump State.add
  cases hr : odRow 0x5002 5 with
  | none => rw [hr] at hrow; cases hrow
  | some r =>
    rw [hr] at hrow
    have hb : r.ty.bits = 8 := Option.some.inj hrow
    simp only [hb, h, State.nat_setNum_same]
    rfl

theorem State.squash_far {s : State} (hissues : s.issues = [farIssue]) (h : s.nat 0x5002 5 = 1) : (s.squash 0).nat 0x5002 5 = 2 := by
  have hfind : s.issue 0 = some farIssue := by rw [State.issue, hissues]; rfl
  have hremove : (s.removeIssue 0).nat 0x5002 5 = 1 :=
    (State.nat_of_od (s.removeIssue_keeps 0 .od (by decide)) _ _).trans h
  have hjob : blk farIssue.tenant (0x20 + farIssue.job) = 0x5002 := by decide
  unfold State.squash
  rw [hfind]
  have hparts : farIssue.parts = [] := rfl
  simp only [hjob, hparts, List.foldl_nil]
  set u := (s.removeIssue 0).bump 0x5002 5
  have hu : u.nat 0x5002 5 = 2 := State.bump_outcome hremove
  have hblk : blk farIssue.tenant 0x2F = 0x3F2F := by decide
  rw [hblk]
  exact (State.nat_add_ne _ (by decide)).trans (((keeps_jobs u _).nat (by decide) _ _).trans hu)

theorem State.squashIf_far {s : State} {p : Issue → Bool} (hissues : s.issues = [farIssue]) (hp : p farIssue = true)
    (h : s.nat 0x5002 5 = 1) : (s.squashIf p).nat 0x5002 5 = 2 := by
  have hall : s.issues.filter (fun i => decide (i.st ≠ .committed) && p i) = [farIssue] := by
    rw [hissues, List.filter_cons_of_pos (by rw [hp]; rfl), List.filter_nil]
  rw [State.squashIf, hall]
  exact State.squash_far hissues h

/-- Where no issue satisfies it, none is squashed. -/
theorem State.squashIf_none {s : State} {p : Issue → Bool} (h : ∀ i ∈ s.issues, p i = false) : s.squashIf p = s := by
  have hnone : s.issues.filter (fun i => decide (i.st ≠ .committed) && p i) = [] :=
    List.filter_eq_nil_iff.mpr fun i hi => by simp [h i hi]
  rw [State.squashIf, hnone, List.foldl_nil]

theorem State.dropTrigger_far {s : State} (hissues : s.issues = [farIssue]) (h : s.nat 0x5002 5 = 1) :
    (s.dropTrigger 15 farTrigger 0x9101).nat 0x5002 5 = 2 := by
  unfold State.dropTrigger
  extract_lets n s1 s2 s3 s4 s5
  have h1 : s1.nat 0x5002 5 = 1 := ((keeps_jobs s _).nat (by decide) _ _).trans h
  have h2 : s2.nat 0x5002 5 = 1 := by
    unfold s2
    rw [State.bump, State.nat_add_ne _ (by decide), State.bump, State.nat_add_ne _ (by decide), h1]
  have h3 : s3.nat 0x5002 5 = 1 := by
    unfold s3
    rw [if_pos rfl, State.bump, State.nat_add_ne _ (by decide), h2]
  have hraise := s3.raise_set 0x9101 (s3.sourceUnit 15 farTrigger.job 16) 15 (farTrigger.job + 16 * n)
  have h4 : s4.nat 0x5002 5 = 1 := (hraise.setNat (by decide) (by decide)).trans h3
  have hk2 : Keeps [.od, .jobs] s s2 := ((keeps_jobs s _).mono (by decide)).trans
    (((s1.bump_keeps _ _).trans (State.bump_keeps _ _ _)).mono (by decide))
  have hk3 : Keeps [.od, .jobs] s2 s3 := Keeps.ite ((s2.bump_keeps _ _).mono (by decide)) (Keeps.refl _ s2)
  have hs3 : s3.issues = [farIssue] := (hk3 .issues (by decide)).trans ((hk2 .issues (by decide)).trans hissues)
  have hs4 : s4.issues = [farIssue] := (hraise.keeps .issues (by decide)).trans hs3
  have hs5 : s5.nat 0x5002 5 = 2 := State.squashIf_far hs4 rfl h4
  have hfree : s5.release farTrigger.frame 15 farTrigger.job = s5 := rfl
  rw [hfree, hs5]

/-- A trigger that finds the queue full drops the oldest one. -/
theorem State.enqueueTrigger_far {s : State} (tr : Trigger) (hissues : s.issues = [farIssue])
    (hqueue : (s.pendOf 15).queue = List.replicate 8 farTrigger) (hpolicy : s.nat (blk 15 0x50) 1 = 1) (h : s.nat 0x5002 5 = 1) :
    (s.enqueueTrigger 15 tr).nat 0x5002 5 = 2 := by
  unfold State.enqueueTrigger
  extract_lets p put full policy dropOldest count keep s1
  have hfull : full = true := by
    unfold full p
    rw [hqueue]
    rfl
  have hpol : policy = 1 := hpolicy
  have hdrop : dropOldest s =
      (s.modPend 15 (fun p => { p with queue := List.replicate 7 farTrigger })).dropTrigger 15 farTrigger 0x9101 := by
    unfold dropOldest
    rw [hqueue]
    rfl
  have hother : (decide (policy = 2) && (p.decimating || full)) = false := by
    rw [hpol]
    rfl
  rw [if_neg (by rw [hother]; exact Bool.false_ne_true), if_neg (by rw [hfull]; decide), if_pos hpol, hdrop]
  exact State.dropTrigger_far hissues h

theorem State.trigger_far {s : State} {tr : Trigger} (hjob : tr.job = 1) (hissues : s.issues = [farIssue])
    (hpend : s.pendOf 15 = { queue := List.replicate 8 farTrigger, decimating := true }) (hpolicy : s.nat (blk 15 0x50) 1 = 1)
    (hon : s.jobOn 15 1 = true) (h : s.nat 0x5002 5 = 1) : (s.trigger 15 tr).nat 0x5002 5 = 2 := by
  unfold State.trigger
  extract_lets tr' u back mine v
  have htr : tr'.job = 1 := hjob
  have hu : Keeps [.nextIssue, .jobs, .chips] s u :=
    ((keeps_nextIssue s _).mono (by decide)).trans ((State.fallDue_keeps _ _ _ _).mono (by decide))
  have hmine : mine farIssue = false := by
    have hne : ¬(farIssue.tenant = 15 ∧ farIssue.job = tr'.job) := by
      rw [htr]
      decide
    show (decide _ && _) = false
    rw [decide_eq_false hne, Bool.false_and]
  have huissues : u.issues = [farIssue] := (hu .issues (by decide)).trans hissues
  have hv : v = u := State.squashIf_none fun i hi => by
    rw [huissues, List.mem_singleton] at hi
    rw [hi, hmine, Bool.false_and]
  have hnone : u.issues.find? (fun i => mine i && decide (i.k = tr'.k)) = none := by
    rw [huissues, List.find?_cons_of_neg (by rw [hmine, Bool.false_and]; exact Bool.false_ne_true), List.find?_nil]
  have huon : u.jobOn 15 1 = true := (hu.flag (by decide) _ _).trans hon
  have hupend : u.pendOf 15 = { queue := List.replicate 8 farTrigger, decimating := true } := (hu.pendOf (by decide) 15).trans hpend
  rw [hv, hnone]
  dsimp only
  rw [htr, huon, if_neg (by decide), if_pos (by rw [hupend]; rfl)]
  exact State.enqueueTrigger_far tr' huissues (by rw [hupend]) ((hu.nat (by decide) _ _).trans hpolicy)
    ((hu.nat (by decide) _ _).trans h)

/-- What makes job 1 of tenant 15, chained to job 0, drop a trigger of job 4322. -/
structure State.Met (s : State) : Prop where
  issues : s.issues = [farIssue]
  pend : s.pendOf 15 = { queue := List.replicate 8 farTrigger, decimating := true }
  runs : s.runs = true
  jobs : s.enabledJobs = [(15, 1)]
  on : s.flag (blk 15 0x21) 1 = true
  desc : s.bytes (blk 15 0x21) 2 = leBytes 4 0x300 ++ List.replicate 28 0
  policy : s.nat (blk 15 0x50) 1 = 1
  tenant : s.nat (blk 15 0) 2 = 1
  owner : s.nat 0x4000 1 = 15
  model : (s.slot 0).model = some emptyModel
  placed : (s.slot 0).unplaced = false
  learner : s.nat 0x5000 1 = 15
  learnJob : s.nat 0x5000 3 = 0
  outcome : s.nat 0x5002 5 = 1

section
variable {s : State} (h : s.Met)
include h

theorem State.Met.jobDesc : s.jobDesc 15 1 = ⟨leBytes 4 0x300 ++ List.replicate 28 0⟩ := congrArg JobDesc.mk h.desc

theorem State.Met.jobModel : s.jobModel 15 1 = some emptyModel := by
  have hslot : (s.jobDesc 15 1).slot = 0 := by rw [h.jobDesc]; decide
  unfold State.jobModel
  extract_lets d
  have hd : d.slot = 0 := hslot
  have howner : s.nat (0x4000 + d.slot) 1 = 15 := by rw [hd]; exact h.owner
  rw [if_pos ⟨howner, by rw [hd, h.placed]; rfl⟩, hd]
  exact h.model

theorem State.Met.listens : s.listens 15 1 = true := by
  have hon : s.jobOn 15 1 = true := h.on
  have hten : s.tenantState 15 = 1 := h.tenant
  have hungated : (s.jobDesc 15 1).gated = false := by rw [h.jobDesc]; decide
  have hawake : s.isWakeJob 15 1 = false := by
    unfold State.isWakeJob
    rw [h.jobModel]
    rfl
  simp [State.listens, h.runs, hon, hten, hungated, hawake, h.jobModel]

/-- The chain squashes the issue and counts it where the outcome of the step stands. -/
theorem State.Met.chained : s.chainLearned.nat 0x5002 5 = 2 := by
  have hjobs : s.enabledJobs.filter (fun (u, j) =>
      decide (u = 15 ∧ (s.jobDesc u j).kind = 3 ∧ (s.jobDesc u j).index = 0)) = [(15, 1)] := by
    rw [h.jobs, List.filter_cons_of_pos (by dsimp only; rw [h.jobDesc]; decide), List.filter_nil]
  have hlearner : s.learnTenant = 15 := h.learner
  rw [State.chainLearned, hlearner, h.learnJob, State.chained, hjobs, List.foldl_cons, List.foldl_nil]
  dsimp only
  rw [if_pos h.listens]
  exact State.trigger_far rfl h.issues h.pend h.policy h.on h.outcome

/-- The end of the step leaves all that. -/
theorem State.Met.stepEnded {n : Nat} (hn : n % max 1 (s.nat 0x2800 12) ≠ 0) : ((s.showStall.endStep).checkpoint n).Met := by
  obtain ⟨hk, hjobs, hget⟩ := State.stepEnded_spec (s := s) (n := n) (fun i hi => by
    rw [h.issues, List.mem_singleton] at hi
    subst hi
    exact ⟨rfl, rfl⟩) hn
  set t := (s.showStall.endStep).checkpoint n
  have hnum (i j : Nat) (hij : odKey i j ≠ odKey 0x2420 6) : t.num i j = s.num i j := by rw [State.num, hget i j hij, State.num]
  have hnat (i j : Nat) (hij : odKey i j ≠ odKey 0x2420 6) : t.nat i j = s.nat i j := by rw [State.nat, hnum i j hij, State.nat]
  have hslots : t.slot 0 = s.slot 0 := congrArg (vget · 0) (hk .slots (by decide))
  have hruns : t.runs = s.runs := by
    have htray : t.tray = s.tray := hk .tray (by decide)
    have hpower : t.power = s.power := hk .power (by decide)
    simp only [State.runs, htray, hpower]
  exact {
    issues := (hk .issues (by decide)).trans h.issues
    pend := (hk.pendOf (by decide) 15).trans h.pend
    runs := hruns.trans h.runs
    jobs := hjobs.trans h.jobs
    on := by rw [State.flag, hnum _ _ (by decide)]; exact h.on
    desc := by rw [State.bytes, hget _ _ (by decide)]; exact h.desc
    policy := (hnat _ _ (by decide)).trans h.policy
    tenant := (hnat _ _ (by decide)).trans h.tenant
    owner := (hnat _ _ (by decide)).trans h.owner
    model := by rw [hslots, h.model]
    placed := by rw [hslots, h.placed]
    learner := (hnat _ _ (by decide)).trans h.learner
    learnJob := (hnat _ _ (by decide)).trans h.learnJob
    outcome := (hnat _ _ (by decide)).trans h.outcome }

end

/-- The tray of the counterexample has it all when COMMIT has been noted. -/
theorem metNoted_met : metNoted.Met := by
  have hrun : metNoted.issues = [farIssue] ∧ metNoted.pendOf 15 = { queue := List.replicate 8 farTrigger, decimating := true }
      ∧ metNoted.runs = true := by decide +kernel
  have hjob : metNoted.enabledJobs = [(15, 1)] ∧ metNoted.flag (blk 15 0x21) 1 = true
      ∧ metNoted.bytes (blk 15 0x21) 2 = leBytes 4 0x300 ++ List.replicate 28 0 ∧ metNoted.nat (blk 15 0x50) 1 = 1
      ∧ metNoted.nat (blk 15 0) 2 = 1 := by decide +kernel
  have hslot : metNoted.nat 0x4000 1 = 15 ∧ (metNoted.slot 0).model = some emptyModel ∧ (metNoted.slot 0).unplaced = false := by
    decide +kernel
  have hlearn : metNoted.nat 0x5000 1 = 15 ∧ metNoted.nat 0x5000 3 = 0 ∧ metNoted.nat 0x5002 5 = 1 := by decide +kernel
  obtain ⟨hissues, hpend, hruns⟩ := hrun
  obtain ⟨hjobs, hon, hdesc, hpolicy, htenant⟩ := hjob
  obtain ⟨howner, hmodel, hplaced⟩ := hslot
  obtain ⟨hlearner, hlearnJob, houtcome⟩ := hlearn
  exact ⟨hissues, hpend, hruns, hjobs, hon, hdesc, hpolicy, htenant, howner, hmodel, hplaced, hlearner, hlearnJob, houtcome⟩

/-- A checkpoint is not due after step 1. -/
theorem metNoted_interval : 1 % max 1 (metNoted.nat 0x2800 12) ≠ 0 := by decide +kernel

theorem metState_open : ¬((metState.inTurn commitHdr).parish.appliedStep = 1 ∧ (metState.inTurn commitHdr).parish.applied ≠ 0) := by
  decide +kernel

/-- Refutes O49: a commit is not over when it has set OD 0x5002:05 to 1. A job chained to the learning job is triggered after that, and
where the queue of its tenant is full and its oldest trigger names a job of number 4322, the squash of that job's issue is counted
at what is OD 0x5002:05 as well. The clause on COMMIT asks for 1 there, and the tray ends with 2. -/
theorem not_learningFrames : ¬ Obligations.LearningFrames := by
  unfold Obligations.LearningFrames
  intro hall
  obtain ⟨hh, hin, hunapplied⟩ := metState_hears
  obtain ⟨-, -, -, -, -, -, -, -, -, -, -, -, -, -, -, hclause, -⟩ := hall metState
  obtain ⟨t, hexec, -, -, houtcome, -⟩ := hclause commitHdr hh hin hunapplied
  have hours := commitReceive_noted hh hin metState_open rfl
  have ht : t = ((metNoted.showStall.endStep).checkpoint 1).chainLearned.pauseStep :=
    Host.Outcome.next.inj (hexec.symm.trans hours)
  rw [ht, State.pauseStep_nat, (metNoted_met.stepEnded metNoted_interval).chained] at houtcome
  cases houtcome

end Sys2Proof.Machine
end
